-- ==== Sys2Proof/Word.lean ====
section
/-! DEFINITION. The word types of the Basby's management space, data and commands (00_scope R1, R3). -/

namespace Sys2Proof

/-- One byte (R1: byte 0 of a multi-byte field holds its bits [7:0]). -/
abbrev Byte := BitVec 8

/-- An S-core register, a camp address, or a 64-bit register (R3, R36, R54). -/
abbrev Word := BitVec 64

/-- A 32-bit word: an S-core instruction, a vector element, a 32-bit register. -/
abbrev Half := BitVec 32

/-- A 32-byte engine command, byte 0 in bits [7:0] (R37, R95). -/
abbrev Cmd := BitVec 256

/-- A 14-bit logical tent ID: pitch[13:12], row[11:6], logical column[5:0] (R29). -/
abbrev TentId := BitVec 14

/-- An S-core number of a tent, 0 to 3 (R28). -/
abbrev CoreNo := BitVec 2

end Sys2Proof
end

