-- ==== Sys2Proof/Syntax.lean ====
section
/-! DEFINITION. The commands of the Basby: one constructor per row of spec/opcode_table.json, with the
operand types they carry. A row of an agent inside the module (an S-core, an array, an engine) names the
agent: what it does next stands in State (its instruction store, its queue). A row from outside the
module, or a finding of its physical layer, carries what arrives. -/

namespace Sys2Proof

/-- Who makes an access (Table 2.7, Table 18.8, R291, R262, R276). -/
inductive Master where
  /-- S-core n of a tent. -/
  | score (t : TentId) (n : CoreNo)
  /-- The tent mover of a tent. -/
  | mover (t : TentId)
  /-- An array port of a tent. -/
  | arrayPort (t : TentId) (a : BitVec 3)
  /-- The Forage engine of a tent. -/
  | forage (t : TentId)
  /-- The vector engine or the selector of a tent. -/
  | vector (t : TentId)
  /-- The pack engine serving a tent. -/
  | pack (t : TentId)
  /-- Ring channel ch of die d (Table 2.10 numbers). -/
  | ring (d : BitVec 3) (ch : BitVec 4)
  /-- The PCIe host (R291). -/
  | host
  /-- The debug port (R407). -/
  | debug
  /-- Lantern A (false) or B (true). -/
  | lantern (b : Bool)
  /-- Another device of the camp, over Trail. -/
  | device (id : BitVec 10)
  deriving DecidableEq, Repr

/-- A register write's writer: its name and the world bit it carries (R6, R43). -/
structure Writer where
  /-- The writer. -/
  who : Master
  /-- True: the access carries the secure world. -/
  secure : Bool
  deriving DecidableEq, Repr

/-- A write access to the address space of the local device (R54, R55). -/
structure WAccess where
  /-- The writer. -/
  by_ : Writer
  /-- The camp address. -/
  addr : Word
  /-- The bytes, lowest address first. -/
  data : List Byte
  deriving DecidableEq, Repr

/-- A read access to the address space of the local device. -/
structure RAccess where
  /-- The reader. -/
  by_ : Writer
  /-- The camp address. -/
  addr : Word
  /-- The bytes read. -/
  len : Nat
  deriving DecidableEq, Repr

/-- An access of either kind (R41, R48, R291). -/
inductive Access where
  | write (a : WAccess)
  | read (a : RAccess)
  deriving DecidableEq, Repr

/-- What the code of a scratchpad word or a register element shows when it is next read (R42, R152): the physical
finding. -/
inductive EccFind where
  /-- No error. -/
  | clean
  /-- A correctable error. -/
  | single
  /-- An uncorrectable error. -/
  | double
  deriving DecidableEq, Repr

/-- A die-to-die frame (01 R15, R16): the destination address of its flit, whether a mesh or a stream flit, the flit. -/
structure DieFrame where
  addr : Word
  mesh : Bool
  flit : List Byte
  deriving DecidableEq, Repr

/-- What the sensors give the Compass (19 R443): the sections of Table 19.9 that no register holds. -/
structure Sensed where
  dieTemp : List Byte
  memTemp : List Byte
  energy : List Byte
  margins : List Byte
  regulators : List Byte
  deriving DecidableEq, Repr

/-- What strikes a granule of memory (R217, R222, R223, R227). -/
inductive Upset where
  /-- So many symbols are wrong; `again`: the same symbols are wrong when the granule is read once more. -/
  | wrong (symbols : Nat) (again : Bool)
  /-- The device's on-die ECC has corrected an error, and reports it with the next read. -/
  | onDie
  deriving DecidableEq, Repr

/-- What a write meets at memory: the sources that ask for its port with it (R381), the errors that have struck. -/
structure Met where
  rivals : List (BitVec 4) := []
  find : List (Nat × Upset) := []
  deriving DecidableEq, Repr

/-- A lane of a module of a die-to-die pair (R17). -/
structure UcieLane where
  m : BitVec 5
  lane : BitVec 6
  deriving DecidableEq, Repr

/-- A router (R30): its tent by physical number, 65 to a row; its network, 0 mesh, 1 and 2 the stream planes. -/
structure Router where
  tent : BitVec 15
  net : BitVec 2
  deriving DecidableEq, Repr

/-- A read or a write of bytes at an offset the row gives (R41, R290). -/
inductive PadOp where
  | read (len : Nat)
  | write (data : List Byte)
  deriving DecidableEq, Repr

/-- A mover: a tent mover or a ring channel of a memory-side or I/O die (R255). -/
inductive MoverId where
  | tent (t : TentId)
  | ring (d : BitVec 3) (ch : BitVec 4)
  deriving DecidableEq, Repr

/-- A sideband frame as it arrives (R284): TYPE, SEQ, payload of LEN bytes, and whether its CRC-16 holds. -/
structure SbFrame where
  typ : BitVec 8
  len : BitVec 8
  seq : BitVec 8
  payload : List Byte
  crcOk : Bool
  deriving DecidableEq, Repr

/-- A routing packet that arrives at a tent of this device (R203): the tent it is for, the sending device,
the tag of its acknowledgement, the world it carries, and the routing packet's bytes. -/
structure RoutePkt where
  t : TentId
  src : BitVec 10
  tid : BitVec 16
  secure : Bool
  body : List Byte
  deriving DecidableEq, Repr

/-- What a recalibration retrains (Table 19.4). -/
inductive Recal where
  /-- HBM3E pseudo-channel 0 to 383. -/
  | hbm (ch : BitVec 9)
  /-- LPDDR5X channel 0 to 95. -/
  | lpddr (ch : BitVec 7)
  /-- UCIe module of a die pair. -/
  | ucie (pair : BitVec 4) (m : BitVec 5)
  /-- Trail link 0 to 47. -/
  | trail (l : BitVec 6)
  deriving DecidableEq, Repr
/-- The commands: one constructor per row of spec/opcode_table.json. -/
inductive Instr where
  /-- REGISTER_WRITE (R4). A write to a register that has no row of its own takes effect by its access type, with RWL locks and world checks applied. -/
  | registerWrite (a : WAccess)
  /-- D2D_FRAME_RECEIVE (R16). A die-to-die frame arrives and is checked by CRC; a bad frame and those after it are discarded and replayed. -/
  | d2dFrameReceive (pair : BitVec 4) (dir : Bool) (num : Nat) (f : DieFrame) (crcOk : Bool)
  /-- UCIE_LANE_PARITY_FAIL (R17). Runtime parity testing finds a failing lane, and the module is taken out of the hash and retrained. -/
  | ucieLaneParityFail (pair : BitVec 4) (l : UcieLane)
  /-- UCIE_RETRAIN_DONE (R17). A module's retraining ends, and it returns to the hash if it trained clean or stays out after three failures. -/
  | ucieRetrainDone (pair : BitVec 4) (m : BitVec 5) (clean : Bool)
  /-- LINK_UP_TIMEOUT (R24). A Trail port that the topology names finds no partner within the link-up timeout, is logged as CORRECTED, and the camp runs without it. -/
  | linkUpTimeout (port : BitVec 5)
  /-- SHUTDOWN_TEMPERATURE (R27). A die passes its shutdown temperature, and the Basby raises a DEVICE error and removes power from the logic. -/
  | shutdownTemperature (part : BitVec 6)
  /-- ARRANGE_WRITE (R34). A write of TNT_CONFIG.ARRANGE is checked, then either makes a change pending, replaces the pending target, or withdraws it. -/
  | arrangeWrite (t : TentId) (w : Writer) (v : Half)
  /-- ARRANGE_TAKE_EFFECT (R34). Once the used queues are empty and the arrays are idle, a pending arrangement is re-checked and comes into force, and every entry is cleared. -/
  | arrangeTakeEffect (t : TentId)
  /-- ADD (R36). The S-core ADD instruction writes s(a) + s(b) to d. -/
  | add (t : TentId) (n : CoreNo)
  /-- SUB (R36). The S-core SUB instruction writes s(a) - s(b) to d. -/
  | sub (t : TentId) (n : CoreNo)
  /-- AND (R36). The S-core AND instruction writes the bitwise AND of s(a) and s(b) to d. -/
  | and (t : TentId) (n : CoreNo)
  /-- OR (R36). The S-core OR instruction writes the bitwise OR of s(a) and s(b) to d. -/
  | or (t : TentId) (n : CoreNo)
  /-- XOR (R36). The S-core XOR instruction writes the bitwise XOR of s(a) and s(b) to d. -/
  | xor (t : TentId) (n : CoreNo)
  /-- SLL (R36). The S-core SLL instruction shifts s(a) left by s(b) mod 64. -/
  | sll (t : TentId) (n : CoreNo)
  /-- SRL (R36). The S-core SRL instruction shifts s(a) right logically by s(b) mod 64. -/
  | srl (t : TentId) (n : CoreNo)
  /-- SRA (R36). The S-core SRA instruction shifts s(a) right arithmetically by s(b) mod 64. -/
  | sra (t : TentId) (n : CoreNo)
  /-- SLT (R36). The S-core SLT instruction writes 1 when s(a) < s(b) signed, and 0 otherwise. -/
  | slt (t : TentId) (n : CoreNo)
  /-- SLTU (R36). The S-core SLTU instruction writes 1 when s(a) < s(b) unsigned, and 0 otherwise. -/
  | sltu (t : TentId) (n : CoreNo)
  /-- ADDI (R36). The S-core ADDI instruction adds the sign-extended imm16 to s(a). -/
  | addi (t : TentId) (n : CoreNo)
  /-- ANDI (R36). The S-core ANDI instruction ANDs s(a) with the zero-extended imm16. -/
  | andi (t : TentId) (n : CoreNo)
  /-- ORI (R36). The S-core ORI instruction ORs s(a) with the zero-extended imm16. -/
  | ori (t : TentId) (n : CoreNo)
  /-- XORI (R36). The S-core XORI instruction XORs s(a) with the zero-extended imm16. -/
  | xori (t : TentId) (n : CoreNo)
  /-- SLLI (R36). The S-core SLLI instruction shifts s(a) left by imm16[5:0]. -/
  | slli (t : TentId) (n : CoreNo)
  /-- SRLI (R36). The S-core SRLI instruction shifts s(a) right logically by imm16[5:0]. -/
  | srli (t : TentId) (n : CoreNo)
  /-- SRAI (R36). The S-core SRAI instruction shifts s(a) right arithmetically by imm16[5:0]. -/
  | srai (t : TentId) (n : CoreNo)
  /-- LIH (R36). The S-core LIH instruction shifts d left by 16 and ORs in the zero-extended imm16. -/
  | lih (t : TentId) (n : CoreNo)
  /-- MUL (R36). The S-core MUL instruction writes the low 64 bits of the product. -/
  | mul (t : TentId) (n : CoreNo)
  /-- MULH (R36). The S-core MULH instruction writes the high 64 bits of the signed product. -/
  | mulh (t : TentId) (n : CoreNo)
  /-- MULHU (R36). The S-core MULHU instruction writes the high 64 bits of the unsigned product. -/
  | mulhu (t : TentId) (n : CoreNo)
  /-- BEQ (R36). The S-core BEQ instruction branches when s(d) equals s(a). -/
  | beq (t : TentId) (n : CoreNo)
  /-- BNE (R36). The S-core BNE instruction branches when s(d) differs from s(a). -/
  | bne (t : TentId) (n : CoreNo)
  /-- BLT (R36). The S-core BLT instruction branches when s(d) < s(a) signed. -/
  | blt (t : TentId) (n : CoreNo)
  /-- BGE (R36). The S-core BGE instruction branches when s(d) ≥ s(a) signed. -/
  | bge (t : TentId) (n : CoreNo)
  /-- BLTU (R36). The S-core BLTU instruction branches when s(d) < s(a) unsigned. -/
  | bltu (t : TentId) (n : CoreNo)
  /-- BGEU (R36). The S-core BGEU instruction branches when s(d) ≥ s(a) unsigned. -/
  | bgeu (t : TentId) (n : CoreNo)
  /-- JAL (R36). The S-core JAL instruction links to d and jumps by imm16 from its own index. -/
  | jal (t : TentId) (n : CoreNo)
  /-- JR (R36). The S-core JR instruction links to d and jumps to the index in s(a). -/
  | jr (t : TentId) (n : CoreNo)
  /-- LD1 (R38). The S-core LD1 instruction loads one zero-extended byte from s(a) + imm16. -/
  | ld1 (t : TentId) (n : CoreNo)
  /-- LD2 (R38). The S-core LD2 instruction loads two zero-extended bytes from s(a) + imm16. -/
  | ld2 (t : TentId) (n : CoreNo)
  /-- LD4 (R38). The S-core LD4 instruction loads four zero-extended bytes from s(a) + imm16. -/
  | ld4 (t : TentId) (n : CoreNo)
  /-- LD8 (R38). The S-core LD8 instruction loads eight bytes from s(a) + imm16. -/
  | ld8 (t : TentId) (n : CoreNo)
  /-- ST1 (R38). The S-core ST1 instruction stores one byte of s(d) to s(a) + imm16, posted when non-local. -/
  | st1 (t : TentId) (n : CoreNo)
  /-- ST2 (R38). The S-core ST2 instruction stores two bytes of s(d) to s(a) + imm16. -/
  | st2 (t : TentId) (n : CoreNo)
  /-- ST4 (R38). The S-core ST4 instruction stores four bytes of s(d) to s(a) + imm16. -/
  | st4 (t : TentId) (n : CoreNo)
  /-- ST8 (R38). The S-core ST8 instruction stores eight bytes of s(d) to s(a) + imm16. -/
  | st8 (t : TentId) (n : CoreNo)
  /-- QPUSH (R37). The S-core QPUSH instruction pushes 32 bytes to queue q, is checked by the queue, and stalls while the queue is full. -/
  | qpush (t : TentId) (n : CoreNo)
  /-- QUEUE_PUSH_ACCEPT (R37). A stalled push is accepted atomically once its queue has a free entry, or once a pending arrangement change ends. -/
  | queuePushAccept (t : TentId) (n : CoreNo)
  /-- QFREE (R36). The S-core QFREE instruction writes the free entries of queue q to d. -/
  | qfree (t : TentId) (n : CoreNo)
  /-- PSIG (R363). The S-core PSIG instruction signals its tent's peg p by s(a)[31:0]. -/
  | psig (t : TentId) (n : CoreNo)
  /-- PWAIT (R364). The S-core PWAIT instruction places a wait for s(a) on peg p, in order behind older waits. -/
  | pwait (t : TentId) (n : CoreNo)
  /-- CSRR (R36). The S-core CSRR instruction reads one identity item into d. -/
  | csrr (t : TentId) (n : CoreNo)
  /-- FENCE (R38). The S-core FENCE instruction waits until all earlier stores are complete and all earlier pushes are accepted. -/
  | fence (t : TentId) (n : CoreNo)
  /-- FENCE_DONE (R38). A waiting FENCE ends once its earlier stores and pushes have completed. -/
  | fenceDone (t : TentId) (n : CoreNo)
  /-- HALT (R465). The S-core HALT instruction stops the core, sets DONE and raises a Lantern event when EVT is set. -/
  | halt (t : TentId) (n : CoreNo)
  /-- LOAD_DATA_RETURN (R38). The data of a non-local load returns and is written to the destination register, or the load faults if it is uncorrectable. -/
  | loadDataReturn (t : TentId) (n : CoreNo)
  /-- RUN_START (R465). A write of RUN = 1 starts a stopped S-core at TNT_SCORE_PC_n, or cancels a pending stop. -/
  | runStart (t : TentId) (n : CoreNo) (w : Writer)
  /-- RUN_STOP (R465). A write of RUN = 0 stops the S-core in the next tent cycle and withdraws any waiting instruction. -/
  | runStop (t : TentId) (n : CoreNo) (w : Writer)
  /-- INSTR_STORE_WRITE (R40). A write to an S-core instruction store is accepted only while RUN reads 0 and from its world; otherwise it is discarded and logged. -/
  | instrStoreWrite (t : TentId) (n : CoreNo) (w : Writer) (off : BitVec 14) (data : List Byte)
  /-- SCRATCHPAD_ACCESS (R41). A requester's access of up to 256 bytes is split into word accesses, each granted by its bank's watch-table arbiter. -/
  | scratchpadAccess (t : TentId) (req : BitVec 4) (secure : Bool) (off : BitVec 17) (op : PadOp) (rivals : List (BitVec 4)) (find : List (BitVec 5 × EccFind))
  /-- MESH_PORT_ACCESS (R48). A short access from outside the tent arrives on the mesh and is served through the mesh port with the world it carries. -/
  | meshPortAccess (t : TentId) (a : Access) (find : List (BitVec 17 × EccFind))
  /-- SEG_WORLD_WRITE (R44). A write of TNT_SEG_WORLD raises segments at once and starts clears for lowered segments, holding their accesses. -/
  | segWorldWrite (t : TentId) (w : Writer) (v : Half)
  /-- SEGMENT_CLEAR_DONE (R44). A lowered segment's clear completes, its new world is applied, and the next lowered segment's clear starts. -/
  | segmentClearDone (t : TentId)
  /-- GBANK_WRITE (R45). A write of GB_SEGS applies at once without a BW array, or waits with GB_PENDING set. -/
  | gbankWrite (t : TentId) (w : Writer) (v : Half)
  /-- GBANK_TAKE_EFFECT (R45). A pending GB_SEGS change takes effect once the BW array's queue is empty and the array is idle. -/
  | gbankTakeEffect (t : TentId)
  /-- TRANSPARENT_TEST_ROW (R46). The background test saves a row to the shadow, runs March C- on it, and writes it back. -/
  | transparentTestRow (t : TentId) (fail : Option (BitVec 4))
  /-- PASS (R96). The array PASS command streams COUNT vectors past a stationary tile into accumulator entries. -/
  | pass (t : TentId) (a : BitVec 3)
  /-- DRAIN (R97). The array DRAIN command converts entries once and writes them to the scratchpad. -/
  | drain (t : TentId) (a : BitVec 3)
  /-- PRELOAD (R98). The array PRELOAD command adds, or with ZERO loads, raw forms into accumulator entries. -/
  | preload (t : TentId) (a : BitVec 3)
  /-- ARRAY_CLEAR (R99). The array CLEAR command sets its entries to empty and discards their block partials. -/
  | arrayClear (t : TentId) (a : BitVec 3)
  /-- ARRAY_WAIT (R99). The array WAIT command holds the queue until wait(N) on its peg succeeds. -/
  | arrayWait (t : TentId) (a : BitVec 3)
  /-- ARRAY_NOP (R99). The array NOP command completes when every earlier command of the queue has completed. -/
  | arrayNop (t : TentId) (a : BitVec 3)
  /-- ARRAY_COMMAND_COMPLETE (R102). An array command completes and signals its peg once if SIG is set. -/
  | arrayCommandComplete (t : TentId) (a : BitVec 3) (k : Nat)
  /-- GATHER (R116). The Forage GATHER command writes C slices from the A slices named by X. -/
  | gather (t : TentId)
  /-- SCATTER (R117). The Forage SCATTER command writes the slices of C named by X from A slices. -/
  | scatter (t : TentId)
  /-- SCATTER_ADD (R118). A SCATTER with C.ACCUM set sorts each chunk by index and adds runs of equal index into C. -/
  | scatterAdd (t : TentId)
  /-- MERGE (R120). The Forage MERGE command writes the union of A and B positions. -/
  | merge (t : TentId)
  /-- INTERSECT (R121). The Forage INTERSECT command writes the positions held by both A and B. -/
  | intersect (t : TentId)
  /-- CONVERT (R123). The Forage CONVERT command rewrites A in the sparse form of C, optionally pruning and listing positions. -/
  | convert (t : TentId)
  /-- SPPROD (R125). The Forage SPPROD command sums matched products of two sparse operands per output. -/
  | spprod (t : TentId)
  /-- FEED (R126). The Forage FEED command gathers through the tent mover's layout stage into an array layout. -/
  | feed (t : TentId)
  /-- FORAGE_NOP (R113). The Forage NOP command completes when every earlier command has completed. -/
  | forageNop (t : TentId)
  /-- FORAGE_WAIT (R113). The Forage WAIT command holds queue 6 until wait(N) on its peg succeeds. -/
  | forageWait (t : TentId)
  /-- FORAGE_COMMAND_COMPLETE (R113). A Forage command completes when its last write is granted or acknowledged, and signals its peg. -/
  | forageCommandComplete (t : TentId)
  /-- SCOUT_NOP (R135). The selector NOP command does nothing and completes. -/
  | scoutNop (t : TentId)
  /-- SELECT (R137). The selector SELECT command chooses neurons per token and writes the lists L, the union U and optional masks. -/
  | select (t : TentId)
  /-- AUDIT (R143). The selector AUDIT command compares truth sets with predictions and adds to TRUTH, MISS and EXTRA. -/
  | audit (t : TentId)
  /-- STEP (R142). The selector STEP command clears a slot's counters and DENSE bit and computes the audit offset. -/
  | step (t : TentId)
  /-- SCOUT_COMMAND_COMPLETE (R135). A selector command completes, signals its peg, and lets the waiting command run. -/
  | scoutCommandComplete (t : TentId)
  /-- VEC_LOAD (R157). The vector LOAD command widens tensor elements or bits into a register group. -/
  | vecLoad (t : TentId)
  /-- VEC_STORE (R158). The vector STORE command narrows a register group into a tensor, choosing MX scales or BI exponents. -/
  | vecStore (t : TentId) (find : List (BitVec 13 × EccFind))
  /-- RECIPE (R163). The vector RECIPE command runs a recipe slot's steps on every element of the groups. -/
  | recipe (t : TentId) (find : List (BitVec 13 × EccFind))
  /-- VEC_REDUCE (R166). The vector REDUCE command reduces rows or columns by a fixed tree. -/
  | vecReduce (t : TentId) (find : List (BitVec 13 × EccFind))
  /-- VEC_WAIT (R153). The vector WAIT command holds queue 7 until wait(N) on its peg succeeds. -/
  | vecWait (t : TentId)
  /-- VEC_NOP (R153). The vector NOP command completes with every earlier command. -/
  | vecNop (t : TentId)
  /-- VEC_COMMAND_COMPLETE (R154). A vector command completes, signals its peg, and frees its pipe for the commands held behind it. -/
  | vecCommandComplete (t : TentId) (k : Nat)
  /-- PUSH (R180). The pack PUSH command writes a frame of one or two parts to the top of the tent's stack. -/
  | push (t : TentId)
  /-- POP (R181). The pack POP command checks the top frame's header, writes its parts to the scratchpad and removes it. -/
  | pop (t : TentId)
  /-- DROP (R180). The pack DROP command checks and removes the top frame without moving data. -/
  | drop (t : TentId)
  /-- PACK_NOP (R179). The pack NOP command completes when every earlier command has completed. -/
  | packNop (t : TentId)
  /-- PACK_WAIT (R179). The pack WAIT command holds queue 9 until wait(N) on its peg succeeds. -/
  | packWait (t : TentId)
  /-- PACK_COMMAND_COMPLETE (R180). A pack command completes and signals its peg, and the next command issues. -/
  | packCommandComplete (t : TentId)
  /-- PACK_SPILL (R182). The pack engine moves the lowest HBM frame to the LPDDR part until the HBM part is at or below HIGH. -/
  | packSpill (t : TentId)
  /-- PACK_REFILL (R182). The pack engine moves the top LPDDR frame back to the HBM part until LOW is reached or the LPDDR part is empty. -/
  | packRefill (t : TentId)
  /-- PACK_GEN_CLEAR (R183). On a GEN change the pack engine discards unissued commands, signals their pegs, and empties every stack of the job. -/
  | packGenClear
  /-- PACK_CONFIG_WRITE (R194). A write to PCK_CTL, PCK_SHARE or a pack base is refused with CFG_ERR while frames are held or when the configuration is invalid. -/
  | packConfigWrite (die : BitVec 2) (w : Writer) (off : BitVec 8) (v : Word)
  /-- ROUTE (R197). The ROUTE command forms each token's choice list, admits choices against quotas, and writes the choice table and counts. -/
  | route (t : TentId)
  /-- DISPATCH (R202). The DISPATCH command opens a combine group and sends each delivered choice's piece to its expert slot. -/
  | dispatch (t : TentId)
  /-- ANSWER (R205). The ANSWER command returns the output row of each filled slot to its RETURN address and clears the bitmap. -/
  | answer (t : TentId)
  /-- DISPATCH_PACKET_ARRIVE (R204). An arriving dispatch packet is checked and written to its slot record, setting the slot's bit. -/
  | dispatchPacketArrive (p : RoutePkt)
  /-- ANSWER_ARRIVE (R206). An arriving answer is checked in order and written to its combine sub-slot, raising ARRIVED. -/
  | answerArrive (p : RoutePkt)
  /-- EXPERT_GEN_CLEAR (R209). On a GEN change the expert unit discards unissued routing commands, closes every combine group and clears every bitmap. -/
  | expertGenClear
  /-- MEMORY_READ (R224). A memory read is decoded to its stack or channel, checked against the region table, and returned with one status. -/
  | memoryRead (a : RAccess) (rivals : List (BitVec 4)) (find : List (Nat × Upset))
  /-- MEMORY_WRITE (R225). A memory write is applied granule by granule, with partial writes reading the granule first. -/
  | memoryWrite (a : WAccess) (met : Met)
  /-- MEMORY_ACCUMULATE (R230). An ACCUM write adds INT32, FP32 or raw forms into memory as an atomic read-modify-write of each granule. -/
  | memoryAccumulate (a : WAccess) (fmt : BitVec 4) (met : Met)
  /-- MEMORY_RESPONSE (R278). A memory or remote response reaches its requester, which acts on any status other than OK. -/
  | memoryResponse (who : Master) (status : BitVec 3)
  /-- ROW_REPAIR_DONE (R227). A live row repair ends: the save buffer is written back, the row is released, and the repair is listed. -/
  | rowRepairDone (ctl : BitVec 4)
  /-- BANK_COPY_DONE (R228). A bank copy completes and the map switches to the spare bank. -/
  | bankCopyDone (ctl : BitVec 4)
  /-- SCRUB (R226). A controller's background scrub reads its tier once every SCRUB_H hours and corrects what it finds. -/
  | scrub (ctl : BitVec 4) (find : List (Nat × Upset)) (reports : List Nat)
  /-- CLEAR_GO (R233). A write of GO to MSD_CLEAR_CTL starts, queues, completes at once, or refuses a fast clear. -/
  | clearGo (w : Writer)
  /-- CLEAR_DONE (R233). A fast clear completes, is counted, and any waiting clear starts. -/
  | clearDone
  /-- REGION_WRITE (R239). A region-table write is applied by all four dies, at once when raising, or after clearing the part that stops being secure. -/
  | regionWrite (w : Writer) (n : BitVec 6) (which : BitVec 2) (v : Word)
  /-- REGION_LOWER_DONE (R239). The clear before a region stops being secure ends on all four dies, and the new entry comes into force. -/
  | regionLowerDone (n : BitVec 6)
  /-- MOVE (R257). The mover MOVE command copies every element of a source view to a destination view, changing layout or form on the way. -/
  | move (m : MoverId)
  /-- FILL (R467). The mover FILL command writes every element of its view with VALUE. -/
  | fill (m : MoverId)
  /-- MOVER_NOP (R256). The tent mover NOP command completes after every earlier command. -/
  | moverNop (m : MoverId)
  /-- MOVER_WAIT (R256). The tent mover WAIT command holds queue 8 until wait(N) on its peg succeeds. -/
  | moverWait (t : TentId)
  /-- MOVER_COMMAND_COMPLETE (R258). A mover command completes when its last write is granted or acknowledged, and signals its peg. -/
  | moverCommandComplete (m : MoverId) (k : Nat)
  /-- TENT_ACCUM_WRITE (R248). An ACCUM write arriving at a tent's scratchpad is added by the destination tent mover as a read-modify-write per word. -/
  | tentAccumWrite (a : WAccess) (fmt : BitVec 4)
  /-- RING_DOORBELL (R262). A write of MOV_RING_TAIL tells a ring channel that entries up to that value are ready. -/
  | ringDoorbell (d : BitVec 3) (ch : BitVec 4) (w : Writer) (v : Half)
  /-- RING_CTL_WRITE (R262). A write to a ring channel's BASE or CTL enables or disables it, and is discarded while EN is 1. -/
  | ringCtlWrite (d : BitVec 3) (ch : BitVec 4) (w : Writer) (base : Bool) (v : Word)
  /-- PLOT_MOVING_REREAD (R253). A mover waiting on a MOVING plot entry rereads it every 1 µs. -/
  | plotMovingReread (m : MoverId) (k : Nat)
  /-- PLOT_BUSY_TIMEOUT (R253). A plot entry still MOVING after PLOT_WAIT µs faults the command with PLOT_BUSY. -/
  | plotBusyTimeout (m : MoverId) (k : Nat)
  /-- GROUP_RECEIVE (R268). A Trail link receives a group and its head, accepts good DATA groups in order, and uses the head's ACK and credits. -/
  | groupReceive (l : BitVec 6) (errs : List Nat) (head : List Byte) (slots : List (List Byte))
  /-- RETRAIN (R270). A write of TRL_CTL_k.RETRAIN retrains the port's links. -/
  | retrain (port : BitVec 5) (w : Writer)
  /-- RETRAIN_DONE (R270). A link retrain ends, and stored groups are replayed, or after three failures the link goes down. -/
  | retrainDone (l : BitVec 6) (ok : Bool)
  /-- TRAIL_LANE_FAIL (R266). A failing lane is removed at the next retrain and the link runs on fewer lanes. -/
  | trailLaneFail (l : BitVec 6)
  /-- PACKET_TRANSIT (R279). A packet for another device is forwarded cut-through on the link its route entry selects, or is a ROUTE violation. -/
  | packetTransit (l : BitVec 6) (pkt : List Byte)
  /-- QREL (R288). A write of QREL ends a port's quarantine, retrains its links and sends RELEASE. -/
  | qrel (port : BitVec 5) (w : Writer)
  /-- TRAIL_WRITE (R277). A WRITE packet for this device writes its payload at DEST and returns a COMPL if ACK_REQ is set. -/
  | trailWrite (l : BitVec 6) (pkt : List Byte)
  /-- TRAIL_READ (R278). A READ packet reads AUX bytes at DEST and returns them as RDATA to the address in ARG. -/
  | trailRead (l : BitVec 6) (pkt : List Byte)
  /-- RDATA (R278). An RDATA packet writes a read answer at DEST with its status. -/
  | rdata (l : BitVec 6) (pkt : List Byte)
  /-- COMPL (R283). A COMPL packet completes a write with ACK_REQ, or is counted by a multicast root. -/
  | compl (l : BitVec 6) (pkt : List Byte)
  /-- MCAST (R282). An MCAST packet is copied to each branch in LINKS and written locally when LOCAL is set. -/
  | mcast (l : BitVec 6) (pkt : List Byte)
  /-- NAK (R287). A received NAK is logged against its JOB and faults the engine still waiting on the access. -/
  | nak (l : BitVec 6) (pkt : List Byte)
  /-- MC_BRANCH_ABANDON (R282). A multicast branch whose head packet has waited MC_TO µs discards the rest of the transfer on that branch. -/
  | mcBranchAbandon (l : BitVec 6)
  /-- MC_COMPL_TIMEOUT (R283). The root writes the multicast completion record after COMPL_TO µs if not every target has completed. -/
  | mcComplTimeout (tid : BitVec 16)
  /-- PRESENCE (R285). A sideband PRESENCE frame updates the partner's state. -/
  | presence (port : BitVec 5) (f : SbFrame)
  /-- PARTNER_ABSENT (R285). No PRESENCE for 50 ms makes the partner absent and clears PRESENT. -/
  | partnerAbsent (port : BitVec 5)
  /-- WAKE (R431). A sideband WAKE frame asks the device to leave the bivouac. -/
  | wake (port : BitVec 5) (f : SbFrame)
  /-- VIOLATION (R288). A sideband VIOLATION frame tells the neighbour's Lantern of a quarantine. -/
  | violation (port : BitVec 5) (f : SbFrame)
  /-- SB_RELEASE (R288). A sideband RELEASE frame reports that a quarantine has ended. -/
  | sbRelease (port : BitVec 5) (f : SbFrame)
  /-- TRAIN (R284). A sideband TRAIN frame asks the partner to retrain a link. -/
  | train (port : BitVec 5) (f : SbFrame)
  /-- RECOVER_RSP (R438). A sideband RECOVER_RSP frame carries a fragment of a recovery answer back to the sender. -/
  | recoverRsp (port : BitVec 5) (f : SbFrame)
  /-- HOST_BAR_ACCESS (R291). A host access through BAR0 or BAR4 is served locally or relayed over Trail with MGMT set. -/
  | hostBarAccess (bar : BitVec 3) (off : BitVec 36) (op : PadOp)
  /-- DOORBELL (R290). A host write of 1 to a mailbox DOORBELL raises a Quartermaster event after earlier host writes are acknowledged. -/
  | doorbell (m : BitVec 8)
  /-- RELAY_TIMEOUT (R293). A relayed host read unanswered within TIMEOUT µs completes with Completer Abort. -/
  | relayTimeout (tid : BitVec 16)
  /-- FUNCTION_LEVEL_RESET (R294). A Function Level Reset clears the host-port state and waits for relayed accesses, leaving the camp untouched. -/
  | functionLevelReset
  /-- PERST_N_DEASSERT (R460). The host port trains once PERST_N is deasserted. -/
  | perstNDeassert
  /-- PCIE_CONFIG_REQUEST (R460). A configuration request is completed with Request Retry Status until the device is autonomous. -/
  | pcieConfigRequest
  /-- JOB_WRITE (R298). A write of RDX_IDENT.JOB sets the job in force with EPOCH and GEN 0, unless one of its contexts is open. -/
  | jobWrite (w : Writer) (job : BitVec 12)
  /-- CANCEL (R298). A write of RDX_IDENT.CANCEL advances GEN, which reaches every block within 200 ns. -/
  | cancel (w : Writer)
  /-- CONTEXT_CANCEL (R318). On a GEN change every open context of the job stops, discards its packets, writes a CANCELLED record and closes. -/
  | contextCancel
  /-- RESHARD (R319). A write of RDX_IDENT.RESHARD starts a re-shard and waits for the job's contexts to close. -/
  | reshard (w : Writer)
  /-- RESHARD_COMPLETE (R319). Once the job's contexts have closed, EPOCH advances, RESHARDING clears and held packets are rechecked. -/
  | reshardComplete
  /-- RESHARD_DRAIN_TIMEOUT (R319). After DRAIN_TO ms the contexts still open close with STATUS RESHARD and the step is CONTAINED. -/
  | reshardDrainTimeout
  /-- GO (R304). A write of GO opens a reduction context, or continues it from AGREED. -/
  | go (c : BitVec 6) (w : Writer)
  /-- REDUCE_PACKET (R315). An arriving REDUCE packet is checked against JOB, GEN, EPOCH, context and step, and then added or written. -/
  | reducePacket (l : BitVec 6) (pkt : List Byte)
  /-- OPEN_WAIT_TIMEOUT (R315). A REDUCE packet still waiting after OPEN_WAIT ms is discarded and counted. -/
  | openWaitTimeout (k : Nat)
  /-- PROGRESS_TIMEOUT (R320). A context with no packet accepted or sent for PROG_TO ms faults with TIMEOUT. -/
  | progressTimeout (c : BitVec 6)
  /-- SUBMIT (R356). A SUBMIT message hands a manifest to the Quartermaster, which accepts or refuses it. -/
  | submit (m : BitVec 7)
  /-- HOST_CANCEL (R361). A host CANCEL message ends a queued or running job and sends DONE with status CANCELLED. -/
  | hostCancel (m : BitVec 7)
  /-- QUERY (R356). A QUERY message returns STATUS for one job or the whole queue. -/
  | query (m : BitVec 7)
  /-- LOADED (R361). A LOADED message tells the Quartermaster that the input is in place, and the job's steps run. -/
  | loaded (m : BitVec 7)
  /-- HOST_RELEASE (R361). A RELEASE message frees the job's devices for the next job's strike. -/
  | hostRelease (m : BitVec 7)
  /-- HOLD (R356). A HOLD message stops or resumes the starting of jobs. -/
  | hold (m : BitVec 7)
  /-- JOB_START (R361). The Quartermaster places the head job on free workers, strikes them, checks the base, copies the image and sends PLACED. -/
  | jobStart
  /-- STRIKE_COMPLETE (R414). The strike's clears finish, RDX_IDENT.JOB is written 0 and the strike record is written. -/
  | strikeComplete
  /-- JOB_COMPLETE (R361). After the last step the Quartermaster writes the attestation reports and sends DONE. -/
  | jobComplete (job : BitVec 12) (nonfinite : Bool)
  /-- DEADLINE_EXPIRY (R361). A job past its deadline is cancelled and DONE is sent with status DEADLINE. -/
  | deadlineExpiry (job : BitVec 12)
  /-- CONTAINED_REPLAY (R441). On a CONTAINED error the Quartermaster cancels and replays the step or restores the last checkpoint, up to replay_limit. -/
  | containedReplay (job : BitVec 12)
  /-- DEVICE_LOSS (R354). A lost device is replaced: the job is cancelled, a reserve is woken and struck, and the job restores from checkpoint. -/
  | deviceLoss (dev : BitVec 10)
  /-- PEG_SIG (R363). A 4-byte write to a peg target signals the peg by the value written. -/
  | pegSig (w : Writer) (addr : Word) (v : Half)
  /-- PEG_SET (R371). A write to PEG_SET or PEG_IO_SET sets a peg's count from the secure world or the debug port, and is logged. -/
  | pegSet (w : Writer) (addr : Word) (v : Half)
  /-- PEG_WAIT_GRANT (R364). A peg grants pending waits in order as the count allows, subtracting n and releasing each waiter two cycles later. -/
  | pegWaitGrant (t : TentId) (p : BitVec 6)
  /-- PEG_IO_WAIT_ARM (R369). A write of n to PEG_IO_WAIT arms one Lantern wait on an I/O die peg. -/
  | pegIoWaitArm (iod : Bool) (p : BitVec 10) (w : Writer) (v : Half)
  /-- PEG_WAIT_EVENT (R371). A wait pending longer than WAIT_EVT µs raises one Lantern event without releasing the waiter. -/
  | pegWaitEvent (t : TentId) (p : BitVec 6)
  /-- PEG_PACKET (R370). A PEG packet is checked for job, GEN and target, and then signals its peg. -/
  | pegPacket (l : BitVec 6) (pkt : List Byte)
  /-- GYL_ARRIVE (R373). An S-core store to GYL_ARRIVE records an arrival, held until its earlier stores and pushes are complete. -/
  | gylArrive (t : TentId) (w : Writer) (g : BitVec 4) (v : Half)
  /-- GUYLINE_ARRIVAL_SEND (R373). The tent port sends a held arrival to the row counter, or keeps it PENDING, or discards it. -/
  | guylineArrivalSend (t : TentId) (g : BitVec 4)
  /-- GUYLINE_COUNTER_ARRIVAL (R374). A row, pitch or device counter takes an arrival and, at its target, passes one upward or releases. -/
  | guylineCounterArrival (k : Nat)
  /-- GUYLINE_UP (R374). A PEG packet to GYL_UP counts a child device's arrival at the parent. -/
  | guylineUp (g : BitVec 4) (src : BitVec 10) (gen : BitVec 8)
  /-- GUYLINE_DOWN (R374). A PEG packet to GYL_DOWN releases the guyline on the device and sends DOWN to its children. -/
  | guylineDown (g : BitVec 4) (src : BitVec 10) (gen : BitVec 8)
  /-- GUYLINE_RELEASE (R374). A release reaching a member tent signals RPEG, clears ARRIVED and sends any PENDING arrival. -/
  | guylineRelease (t : TentId) (g : BitVec 4)
  /-- GUYLINE_FORCED_RELEASE (R376). On a GEN change every guyline of the job is zeroed, held RPEGs are signalled once and FORCED is set. -/
  | guylineForcedRelease
  /-- GYL_FORCE (R377). A write of GYL_FORCE bit g releases guyline g at the device and sets FORCED. -/
  | gylForce (w : Writer) (v : Half)
  /-- GYL_COUNT_WRITE (R377). A secure or debug write of a guyline counter sets COUNT and is logged. -/
  | gylCountWrite (w : Writer) (addr : Word) (v : Half)
  /-- GYL_MASK_WRITE (R372). A write to a guyline mask or GYL_CAMP is discarded and logged while any counter of the guyline is not zero. -/
  | gylMaskWrite (w : Writer) (addr : Word) (v : Word)
  /-- WCH_COMMIT (R382). A write of COMMIT arms the shadow watch table to become active at slot 0. -/
  | wchCommit (w : Writer) (base : Word)
  /-- WCH_COMMIT_APPLY (R382). At the next grant made at slot 0 the shadow table becomes active and COMMIT_PEND clears. -/
  | wchCommitApply (base : Word)
  /-- WCH_MODE_WRITE (R382). A write of MODE switches NORMAL or SERVICE at the next grant, and SERVICE reloads every quota. -/
  | wchModeWrite (w : Writer) (base : Word) (v : Half)
  /-- WCH_REQ_WRITE (R380). A write to WCH_REQ that would make the sum of QUOTA reach WINDOW is refused with CFG_ERR. -/
  | wchReqWrite (w : Writer) (base : Word) (r : BitVec 5) (v : Half)
  /-- QUOTA_WINDOW_RELOAD (R380). In SERVICE mode every quota reloads at the start of each window of WINDOW grants. -/
  | quotaWindowReload (base : Word)
  /-- EVENT_GRANT (R383). The event path grants an event, gives it the next EVSEQ, and writes its record to the ring. -/
  | eventGrant
  /-- PLL_LOCK_LOSS (R387). A PLL that loses lock sets LOST, with a DEVICE error or a domain-specific action. -/
  | pllLockLoss (die : BitVec 3) (pll : BitVec 2)
  /-- REFCLK_LOSS (R388). On REFCLK failure ACLK falls back to its ring oscillator, TIME_FREE is set and IOD1 follows IOD0's time. -/
  | refclkLoss
  /-- REFCLK_RETURN (R388). When REFCLK returns, ACLK relocks without a step in global time. -/
  | refclkReturn
  /-- DROOP_TRIP (R389). A tent's droop detector trips and its generator stretches the following cycles by up to 15 %. -/
  | droopTrip (t : TentId)
  /-- STRETCH_LIMIT (R389). After 64 stretched cycles the stretch returns to the reference, or continues and is counted as a long droop. -/
  | stretchLimit (t : TentId) (droop : Bool)
  /-- COLD_RESET (R403). PWR_GOOD asserted resets the whole module and runs the boot sequence. -/
  | coldReset
  /-- LIFECYCLE (R409). A signed LIFECYCLE command wipes canisters, clears secure data, burns the new state and resets WARM. -/
  | lifecycle
  /-- DEBUG (R407). A signed DEBUG command unlocks the debug port until the next COLD reset. -/
  | debug
  /-- KSVN (R405). A signed KSVN command burns the fused minimum kit security version up to the kit in force. -/
  | ksvn
  /-- CERT (R410). A signed CERT command installs the vendor certificate of the identity key. -/
  | cert
  /-- KIT_SLOT_SWAP (R434). A signed SLOT command verifies a kit image and writes it to the named slot of both flashes. -/
  | kitSlotSwap
  /-- BLK_WORLD_WRITE (R406). A write of TNT_BLK_WORLD marks a world change pending for each changed block. -/
  | blkWorldWrite (t : TentId) (w : Writer) (v : Half)
  /-- BLK_WORLD_APPLY (R406). When a block is idle its state is cleared and its new world applied. -/
  | blkWorldApply (t : TentId) (blk : BitVec 3)
  /-- TAMPER (R413). On tamper the canisters are wiped, secure data is cleared, TAMPERED is set and a DEVICE error is raised. -/
  | tamper
  /-- HEARTBEAT (R436). A HEARTBEAT message is answered by the active Lantern, or carries the Quartermaster journal to the standby basecamp. -/
  | heartbeat (src : BitVec 10) (body : List Byte)
  /-- TIME_SYNC (R421). Every 100 ms a Lantern sends TIME_SYNC to the basecamp to measure its camp-time offset. -/
  | timeSync (src : BitVec 10) (body : List Byte)
  /-- TIME_REPLY (R421). A TIME_REPLY sets a new camp-time offset, applied as a slew. -/
  | timeReply (src : BitVec 10) (body : List Byte)
  /-- EVENT_FWD (R420). An EVENT_FWD message carries an event record between Lanterns. -/
  | eventFwd (src : BitVec 10) (body : List Byte)
  /-- CMD (R420). A signed management CMD is accepted and acted on only under a named identity key and a rising SEQ. -/
  | cmd (src : BitVec 10) (body : List Byte)
  /-- CMD_RSP (R420). A CMD_RSP message returns the answer to a management command. -/
  | cmdRsp (src : BitVec 10) (body : List Byte)
  /-- RST_N_ASSERT (R425). RST_N falling puts both memory tiers in self-refresh within 1 µs and holds the module in WARM reset. -/
  | rstNAssert
  /-- RST_N_RELEASE (R424). RST_N rising runs the WARM boot, keeping memory and the always-on logic. -/
  | rstNRelease
  /-- LAN_RESET_WARM (R424). A write of LAN_RESET.WARM starts a WARM reset. -/
  | lanResetWarm (w : Writer)
  /-- SOFT_RESET (R428). A write of LAN_RESET.SOFT stops every engine at once and clears tents, engines, stacks and contexts. -/
  | softReset (w : Writer)
  /-- TENT_RESET (R424). A write of LAN_RESET.TENT resets one tent within 2 µs. -/
  | tentReset (w : Writer) (t : TentId)
  /-- PORT_RESET (R424). A write of LAN_RESET.PORT resets one port's link layer, replay buffer and credits and retrains it. -/
  | portReset (port : BitVec 5) (w : Writer)
  /-- TENT_EVACUATION (R435). An evacuation quiesces the row, copies the tent to the row spare, writes the row map and releases the row. -/
  | tentEvacuation (t : TentId)
  /-- EVAC_QUIESCE_TIMEOUT (R435). A row not quiet 200 µs after quiesce began is released, and the evacuation is deferred to the next strike. -/
  | evacQuiesceTimeout
  /-- BIV_ENTER (R430). Entry to the bivouac stops work, puts memory in self-refresh and removes power from the dies, or is refused. -/
  | bivEnter (w : Writer)
  /-- BIV_WAKE (R431). A write of LAN_SVC.BIV_WAKE starts the wake from the bivouac. -/
  | bivWake (w : Writer)
  /-- WAKE_N (R431). WAKE_N held low for 1 µs wakes the module from the bivouac, and is ignored otherwise. -/
  | wakeN
  /-- BIVOUAC_WAKE_DONE (R431). The wake steps end within 30 ms, state is reapplied, and BIV reads 0. -/
  | bivouacWakeDone
  /-- HANDOVER (R434). A write of LAN_SVC.HANDOVER hands the active role to the standby Lantern. -/
  | handover (w : Writer) (lanB : Bool)
  /-- RECALIBRATION (R434). A temperature change or low eye margin retrains one channel, module or link in the recalibration slots. -/
  | recalibration (part : Recal)
  /-- WATCHDOG_FIRST (R436). A Lantern core's first watchdog expires and interrupts its core. -/
  | watchdogFirst (lanB : Bool) (core : BitVec 2)
  /-- WATCHDOG_SECOND (R436). A core's second watchdog expires, resets the core and counts as the loss of its Lantern. -/
  | watchdogSecond (lanB : Bool) (core : BitVec 2)
  /-- HEARTBEAT_LOSS (R436). Ten unanswered heartbeats declare the active Lantern lost. -/
  | heartbeatLoss
  /-- RECOVER (R438). RECOVER frames are reassembled into a recovery command and its signature and nonce are checked. -/
  | recover (port : BitVec 5) (f : SbFrame)
  /-- RECOVER_STATUS (R438). The STATUS recovery action answers with both Lanterns' status, recent error records and a new nonce. -/
  | recoverStatus (port : BitVec 5)
  /-- RESET_LANTERN_A (R438). The RESET_LANTERN_A recovery action resets Lantern A. -/
  | resetLanternA (port : BitVec 5)
  /-- RESET_LANTERN_B (R438). The RESET_LANTERN_B recovery action resets Lantern B. -/
  | resetLanternB (port : BitVec 5)
  /-- RECOVER_WARM (R438). The WARM recovery action starts a WARM reset of the device. -/
  | recoverWarm (port : BitVec 5)
  /-- RECOVER_WAKE (R438). The WAKE recovery action wakes the device from the bivouac. -/
  | recoverWake (port : BitVec 5)
  /-- RECOVER_LOST (R438). The LOST recovery action stops all job work as a DEVICE error does. -/
  | recoverLost (port : BitVec 5)
  /-- RECOVER_KIT (R439). The KIT recovery action starts loading a kit into one Lantern's flash slot through its mask ROM. -/
  | recoverKit (port : BitVec 5)
  /-- KIT_LOAD_FRAME (R439). Each following RECOVER frame writes 240 image bytes, and the last one has the slot checked and applied. -/
  | kitLoadFrame (port : BitVec 5) (f : SbFrame)
  /-- KIT_LOAD_TIMEOUT (R439). A sender silent for 1 s during a kit load ends the load, and the slot is invalid. -/
  | kitLoadTimeout
  /-- STANDBY_BASECAMP_TAKEOVER (R440). After missed basecamp heartbeats and a confirming STATUS, the standby basecamp takes over the Quartermaster and the host path. -/
  | standbyBasecampTakeover
  /-- COMPASS_REPORT (R443). Every REPORT_US µs the Compass gathers measurements, updates totals, and writes a report. -/
  | compassReport (x : Sensed)
  /-- TEMP_WARN (R433). A die passing temp_warn raises one CORRECTED event per crossing and drives ALERT_N low. -/
  | tempWarn (part : BitVec 6) (above : Bool)
  /-- CLOCK_GATE (R433). An engine, mover or S-core idle for GATE_IDLE cycles gates its clock. -/
  | clockGate (t : TentId) (blk : BitVec 4)
  /-- MEMORY_POWER_DOWN (R433). A memory channel idle for PD_IDLE cycles enters power-down. -/
  | memoryPowerDown (ch : BitVec 9)
  /-- LANE_IDLE_HALF (R433). A link carrying only IDLE groups for LANE_IDLE µs drops to half its lanes. -/
  | laneIdleHalf (l : BitVec 6)
  /-- SMBUS_BLOCK_READ (R443). An SMBus block read of command 0x10 + n returns page n of the latest Compass report. -/
  | smbusBlockRead (n : BitVec 8)
  /-- ALERT_CLEAR (R456). An SMBus Send Byte of command 0x01 releases ALERT_N. -/
  | alertClear
  /-- POWER_DOWN (R461). PWR_GOOD deasserted removes power from every die within 5 ms. -/
  | powerDown
  /-- INPUT_UNDERVOLTAGE (R462). An input below the stop level powers the module down as if PWR_GOOD had fallen. -/
  | inputUndervoltage
  /-- PRESENCE_SEND (R284). Every 10 ms each powered end sends a PRESENCE frame on its sideband, in the bivouac too. -/
  | presenceSend (port : BitVec 5)
  /-- HEARTBEAT_SEND (R436). The standby Lantern sends HEARTBEAT to the active Lantern every 100 µs, and the basecamp sends HEARTBEAT with journal entries to the standby basecamp every 10 ms. -/
  | heartbeatSend
  /-- MAILBOX_LEN_WRITE (R356). A host write of 0 to the LEN of a device-to-host mailbox lets the Quartermaster write the next waiting message and send its vector. -/
  | mailboxLenWrite (m : BitVec 7)
  /-- PERST_N_ASSERT (R23). PERST_N asserted holds the PCIe host port in reset, during boot or later, and leaves the rest of the module untouched. -/
  | perstNAssert
  /-- PCIE_HOT_RESET (R289). A PCIe hot reset from the host resets the host port only. -/
  | pcieHotReset
  /-- STRETCH_HOLDOFF_END (R389). After 64 cycles at the reference period following a stretch, HOLDOFF clears and the generator may stretch again. -/
  | stretchHoldoffEnd (t : TentId)
  /-- LANTERN_RECOVERY_TIMEOUT (R437). When no rung-2 recovery action brings up a Lantern within 10 s, the device is declared lost. -/
  | lanternRecoveryTimeout
  /-- LOST_LANTERN_RETURN (R437). A Lantern that was reset after a takeover finishes restarting and becomes the standby if its kit measurement matches the active one's. -/
  | lostLanternReturn
  /-- ROUTER_FAILURE (R30). A failing mesh or stream router of a tent raises a DEVICE error, and traffic is not rerouted round it. -/
  | routerFailure (r : Router)
  deriving DecidableEq, Repr

end Sys2Proof
end

