-- ==== Sys2Proof/Decode.lean ====
section
/-! DEFINITION. Words of the opcode table. spec/opcode_table.json gives none of its rows bits: its commands arrive as
events, register accesses and bytes, never as one word, so no word spells a command. The one instruction word of the
module is the S-core's (R36); its fields are cut in Machine/SCore.lean, where the core fetches it. -/

namespace Sys2Proof

/-- The command a word of the opcode table spells: none, since no row gives bits. -/
def decodeTableWord (_nbits _w : Nat) : Option Instr := none

end Sys2Proof
end

