-- ==== Sys2Proof/Config.lean ====
section
/-! DEFINITION. What the spec leaves open: constants without a body. Nothing in Lean can evaluate one,
so a statement about a free value holds for every value. Each is named in the assumption log. -/

namespace Sys2Proof

/-- A job of the Quartermaster (R356 to R361): the host's name, its JOB number (0 while queued), its
mailbox, its SEQ, the manifest bytes, the image bytes, its state (0 queued, 1 placed, 2 running, 3 done; 4
placed and not yet told), its devices by position, its step, the replays of that step, the camp time of its
start, the base digest found, whether it waits for a reserve (R355). -/
structure Job where
  ref : Nat := 0
  num : Nat := 0
  mbox : Nat := 0
  seq : Nat := 0
  manifest : List Byte := []
  image : List Byte := []
  state : Nat := 0
  devices : List Nat := []
  step : Nat := 0
  replays : Nat := 0
  start : Nat := 0
  baseFound : Nat := 0
  needsReserve : Bool := false
  /-- The step report's counts (R330, R441): tiles held and CORRECTED events. -/
  held : Nat := 0
  corrected : Nat := 0
  deriving DecidableEq, Repr, Inhabited

/-- What a signed management CMD asks of the device that receives it: the acts that the spec says the
Quartermaster makes on the devices of a job. -/
inductive MgmtAct where
  /-- Nothing the device knows. -/
  | none
  /-- Strike (R414). -/
  | strike
  /-- Start a job as the device of one position: regions, base check, image, presets, tally keys (R361, R415,
  R422). -/
  | start (j : Job) (pos : Nat) (k1 k2 : Word)
  /-- Write CANCEL (R298, R354). -/
  | cancel
  /-- Relocate the image and re-shard (R354). -/
  | reshard (j : Job) (pos : Nat)
  /-- Restore the checkpoint of the job's step: from a home slot, or from the buddy slot of the device that held
  the lost device's copy (R354, R441). -/
  | restore (j : Job) (buddy : Option Nat)
  /-- Begin the job's step as the device of one position, whose buddy is named: group table, UPD_STEP, and the
  checkpoint that is due (R326, R351, R353). -/
  | beginStep (j : Job) (pos buddy : Nat)
  /-- Before the replay of a step: raise the exponents of the blocks listed with SOURCE 1 (R313). -/
  | raiseMarked (j : Job)
  /-- The host released the job's results: its stash slots are cleared (R352). -/
  | release (job : Nat)
  /-- Send the attestation report of the job (R9, R417). -/
  | report (j : Job)
  /-- Enter the bivouac (R429). -/
  | bivouac
  /-- Send WAKE to a Trail partner (R431, R354). -/
  | wakePartner (dev : Nat)
  /-- Send a recovery command to a Trail partner (R437). -/
  | recoverPartner (dev : Nat) (command : List Byte)
  deriving DecidableEq, Repr, Inhabited

/-- The kit settings that name registers (R240, R263, Table 12.13, R384, R396, Table 19.10). -/
inductive KitKey where
  | fclkMhz
  /-- memory_interleave as G in bytes, memory_scope (1: die), scrub_hours, memory_repair (0: off). -/
  | memInterleave | memScope | scrubHours | memRepair
  | plotWait
  /-- trail_split of a port, trail_credits of a VC. -/
  | trailSplit (port : Nat) | trailCredits (vc : Nat)
  | violLimit | violWindow | replayLimit | mcastTimeout | completionTimeout | relayTimeout
  | watchLimit | serviceWindow
  | gateIdle | memPowerdownIdle | laneIdle | tempWarn | recalDelta | watchdogMs | compassPeriod
  deriving DecidableEq, Repr

end Sys2Proof

namespace Sys2Proof.Config

/-- A fresh open value, applied to a counter of State that the step advances: the contents of a
destination the spec calls undefined, the data of an uncorrectable granule (R100, R104, R129, R170, R224). -/
opaque freeByte : Nat → Byte

/-- Whether a read beside an unfinished write sees the old 16-byte word (R103, R130), by draw. -/
opaque oldWord : Nat → Bool

/-- Steps that a command's freezes, late images, bubbles and stalls cost (R90, R106, R109), by draw: timing decides
them. -/
opaque stallSteps : Nat → Nat

/-- Whether an error in more symbols than the code is sure to detect goes by undetected, or is miscorrected (R222,
R223), by draw. -/
opaque escapes : Nat → Bool

/-- A fresh open 64-bit value: the TRNG's draw (R410, R422), a nonce word (R438). -/
opaque freeWord : Nat → Word

/-- The lag of a tent's copy of global time behind the count on IOD0, before it is bounded (R395). -/
opaque timeLag : Nat → Nat

/-- The FCLK cycle count of a tent at a global time: the spec gives CSRR item 3 no zero point and no
rule for the droops between (R36, R390). -/
opaque fclkCount : Nat → Nat → Word

/-- The 64-bit keyed hash of seed, JOB, address input and index input (R73): the spec gives its inputs
and its width, not its function. -/
opaque keyedHash : Word → Nat → Word → Nat → Word

/-- The choice of a function step among the FP32 values within one ulp of the exact value (R160):
by operation code and operand. -/
opaque funcChoice : Nat → Half → Nat

/-- SHAKE256 with 512 bits of output (R402, R410): named by the spec, given by an outside standard. -/
opaque shake512 : List Byte → BitVec 512

/-- SHAKE256 with 256 bits of output (R338, R357). -/
opaque shake256 : List Byte → BitVec 256

/-- Falcon-1024 verification of a signature block over a digest under a public key (R402, R410). -/
opaque falconVerify : List Byte → BitVec 512 → List Byte → Bool

/-- The 2,048-byte signature block made with the identity key over a digest (R417), by fresh draw. -/
opaque falconSign : Nat → BitVec 512 → List Byte

/-- The Falcon-1024 public key a Lantern draws at the transition into PROVISIONED (R412). -/
opaque drawKey : Nat → List Byte

/-- The keyed digest of the frozen base (R361): the spec names it and gives no key and no function. -/
opaque baseDigest : List (Nat × Byte) → BitVec 256

/-- The tables that a TOPOLOGY (6) or REGIONS (8) section holds, as device-local register address and value: the
spec says which registers each section is applied to and gives no encoding of the section (R401). -/
opaque kitTables : Nat → List Byte → List (Nat × Word)

/-- A setting that a kit section holds; none where the kit leaves it at its default. The spec names the settings, their
units and defaults and gives no encoding (R240, R263, R295, R384, R396, R444). -/
opaque kitSetting : List Byte → KitKey → Option Nat

/-- The arrangement preset that a PRESETS section names (Table 2.4): 1 triplet, 2 wide, 3 trio-f, 0 none. -/
opaque kitArrangement : List Byte → Nat

/-- The watch tables that an ARBITER section holds beside Table 16.5 (R384): instance base, slot, slot word. -/
opaque kitWatchTable : List Byte → List (Nat × Nat × Nat)

/-- The device ID and camp role a TOPOLOGY section holds (R401): ID, and 0 member, 1 basecamp,
2 standby basecamp. -/
opaque kitDevice : List Byte → Nat × Nat

/-- The device IDs of the basecamp and of the standby basecamp that a TOPOLOGY section names (R401). -/
opaque kitBasecamps : List Byte → Nat × Nat

/-- The device IDs of the camp topology that a TOPOLOGY section holds (R56, R401). -/
opaque kitDevices : List Byte → List Nat

/-- The workers, in the order of the kit topology (R353), and the reserves. -/
opaque kitPool : List Byte → List Nat × List Nat

/-- The identity key digests of the basecamp and the standby basecamp in TOPOLOGY (R401, R420). -/
opaque kitIdentities : List Byte → List (BitVec 512)

/-- The identity public key of a digest (R420): messages carry no key, so a receiver holds it. -/
opaque identityKey : BitVec 512 → List Byte

/-- The Trail ports a TOPOLOGY section names (R24). -/
opaque kitPorts : List Byte → List Nat

/-- The hash of a 256-byte granule of destination addresses, which picks among the working modules of a pair (R15). -/
opaque ucieHash : Nat → Nat
/-- The replay-rate threshold of a UCIe module (R17): a kit setting, whose window is not given. -/
opaque kitReplayRate : List Byte → Nat
/-- The settings of a kit that write no register: replay_limit, stash_gib in GiB (R352, R444). -/
opaque kitReplayLimit : List Byte → Nat
/-- stash_gib of the kit (R352). -/
opaque kitStashGib : List Byte → Nat
/-- The frozen base region of the kit's REGIONS section, in MiB: base and end (R415). -/
opaque kitBaseRegion : List Byte → Nat × Nat

/-- PCK_HBM_BASE and PCK_LP_BASE of the kitwright's memory plan (R192). -/
opaque packBases : List Byte → Nat × Nat

/-- The device sets a job image was compiled for (R360): the image's encoding is not given. -/
opaque imageSets : List Byte → List (List Nat)
/-- The offsets of the image's 64-bit camp addresses (R360). -/
opaque imageRelocs : List Byte → List Nat
/-- Where a checkpoint's contents lie on a device by the image's plan, as device-local base and bytes (R351): master
weights, m, r and c or the Jorgar moments, the AGREE arrays, the position in the input data. -/
opaque imageState : List Byte → List (Nat × Nat)
/-- The table entries the image's binding makes of the groups of a manifest (R338): the group's place in
update_groups, FRL and FCL. -/
opaque imageEntries : List Byte → List (Nat × Nat × Nat)
/-- Whether the image's mapping records all seven conditions of R79 (R80). -/
opaque imageStrict : List Byte → Bool
/-- The digest of the update_groups value an image was compiled against (R338). -/
opaque imageGroups : List Byte → BitVec 256
/-- The memory and tent contents a relocated image places on a device: device-local address and byte
(R361 step 3). -/
opaque imagePlacement : List Byte → List (Nat × Byte)
/-- The directory of an image at an EPOCH, which the Quartermaster writes when the EPOCH changes (R210). -/
opaque imageEntriesAt : List Byte → Nat → List (Nat × Byte)
/-- The register writes of the image at job start: guyline masks, GYL_CAMP_g, child lists (R384),
multicast entries (R295). -/
opaque imageWrites : List Byte → List (Nat × Word)

/-- The post-package repairs an HBM3E or LPDDR5X bank has (R228, R229): not given. -/
opaque pprPerBank : Nat
/-- The bank and row of a location within a pseudo-channel or channel (R218: "a fixed rule"). -/
opaque bankOf : Nat → Nat
/-- The row of a location within a pseudo-channel or channel (R218). -/
opaque rowOf : Nat → Nat

/-- Whether the topology gives a running job a route through the device and no other (R429), by draw. -/
opaque soleRoute : Nat → Bool

/-- The act a CMD's body asks for, and a body that asks for an act (R420): no encoding is given. -/
opaque cmdAct : List Byte → MgmtAct
/-- The body of a CMD. -/
opaque cmdBytes : MgmtAct → List Byte
/-- The journal a HEARTBEAT carries (R440): queued and running jobs; no encoding is given. -/
opaque journalOf : List Byte → List Job × List Job
/-- The body of such a HEARTBEAT. -/
opaque journalBytes : List Job → List Job → List Byte

/-- The S-core firmware a SCOREFW section places in the instruction stores (R401): device-local address and
byte. -/
opaque kitFirmware : List Byte → List (Nat × Byte)
/-- The device-local base of the stash region (R352). -/
opaque kitStashBase : List Byte → Nat
/-- The selector slots an image's program uses (R147), and the directory base its plan gives (R214). -/
opaque imageSlots : List Byte → List Nat
/-- MOV_XDIR_BASE of an image's plan (R214). -/
opaque imageDirectory : List Byte → Nat
/-- UPD_GTAB of an image (R326, R337): the device-local address of the group table. -/
opaque imageGtab : List Byte → Nat
/-- cos of a binary64 and a power of binary64 values, as bits (R326): binary64 names no accuracy for them. -/
opaque cos64 : Nat → Nat
/-- A binary64 raised to a binary64. -/
opaque pow64 : Nat → Nat → Nat
/-- The working and Scout copies that a restore rebuilds from the master weights of a checkpoint's bytes (R351): the
places are the image's. -/
opaque rebuiltCopies : List Byte → List Byte → List (Nat × Byte)
/-- The running job whose step ends at a tick, by draw; 0 for none. -/
opaque stepEnds : Nat → Nat
/-- Whether the update sweep of the step in progress has begun (R441), by draw. -/
opaque sweepBegun : Nat → Bool
/-- The base digest another device reports (R361), by draw. -/
opaque remoteDigest : Nat → BitVec 256
/-- The attestation report another device returns, by draw. -/
opaque remoteReport : Nat → List Byte
/-- The step report's camp address (R356), and where reports are written on the basecamp, by draw. -/
opaque reportPlace : Nat → Nat
/-- The step a restore of a job goes back to as the other devices' slots stand (R354), by draw. -/
opaque remoteStep : Nat → Nat

/-- Whether tininess is detected before rounding (true) or after (false): IEEE 754-2019 leaves it open and
R76 says only "tiny and inexact". -/
opaque tinyBefore : Bool

/-- Whether the destination of a compressed Trail packet is dense (R280); the header does not say. -/
opaque compDense (dest : Nat) : Bool

/-- TX1, TX2, RX1, RX2 (by index) of a member of a context at another device (R317), by draw. -/
opaque remoteTally (draw k : Nat) : Nat

/-- Whether another member of a context logged a replay, retrain, fallen or quarantined link, or a reserve took over,
while it ran (R317), by draw. -/
opaque remoteTrouble (draw : Nat) : Bool

/-- Where an image's plan has the tile record of a step (R330): camp-local address, and words. -/
opaque imageTiles (image : List Byte) : Nat × Nat

/-- Tiles held in a step by a job on other devices (R330), by draw. -/
opaque remoteHeld (draw : Nat) : Nat

/-- Identification bytes of the PCI configuration space (vendor, device, subsystem, revision), by offset. -/
opaque pciId (o : Nat) : Nat

/-- The MSI-X vector that the Quartermaster has assigned to a job's events (R294), counted from 128; none where it
assigned none. -/
opaque jobVector (job : Nat) : Option Nat

end Sys2Proof.Config
end

