-- ==== Sys2Proof/Machine/Store.lean ====
section
/-! DEFINITION. Sparse data by key: a list of (key, value) pairs in one canonical form (keys strictly
rising, no value equal to what an unlisted key reads as), and bit fields of a word. Memory, the register
space and the per-tent state are held in this form. -/

namespace Sys2Proof.Machine

/-- The value at key k: the listed one, or the default of k. -/
def look {α : Type} (dflt : Nat → α) : List (Nat × α) → Nat → α
  | [], k => dflt k
  | (a, v) :: m, k => if a = k then v else look dflt m k

/-- Insert before the first larger key. -/
def insertAt {α : Type} (k : Nat) (v : α) : List (Nat × α) → List (Nat × α)
  | [] => [(k, v)]
  | (a, w) :: m => if k < a then (k, v) :: (a, w) :: m else (a, w) :: insertAt k v m

/-- Drop every entry of key k. -/
def dropAt {α : Type} (k : Nat) (m : List (Nat × α)) : List (Nat × α) :=
  m.filter (fun p => p.1 != k)

/-- The list with k holding v: the default of k is never listed. -/
def put {α : Type} [DecidableEq α] (dflt : Nat → α) (m : List (Nat × α)) (k : Nat) (v : α) :
    List (Nat × α) :=
  if v = dflt k then dropAt k m else insertAt k v (dropAt k m)

/-- The list with every key of [lo, hi) at its default. -/
def wipe {α : Type} (m : List (Nat × α)) (lo hi : Nat) : List (Nat × α) :=
  m.filter (fun p => !(decide (lo ≤ p.1) && decide (p.1 < hi)))

/-- Keys strictly rising and all above the bound. -/
def risingFrom {α : Type} : Nat → List (Nat × α) → Bool
  | _, [] => true
  | b, (a, _) :: m => decide (b ≤ a) && risingFrom (a + 1) m

/-- The canonical form: keys strictly rising, no entry at its default. -/
def canonical {α : Type} [DecidableEq α] (dflt : Nat → α) (m : List (Nat × α)) : Bool :=
  risingFrom 0 m && m.all (fun p => decide (p.2 ≠ dflt p.1))

/-- Put the values at consecutive keys. -/
def putAll {α : Type} [DecidableEq α] (dflt : Nat → α) (m : List (Nat × α)) :
    Nat → List α → List (Nat × α)
  | _, [] => m
  | k, v :: vs => putAll dflt (put dflt m k v) (k + 1) vs

/-- The values of n consecutive keys. -/
def lookAll {α : Type} (dflt : Nat → α) (m : List (Nat × α)) (k : Nat) : Nat → List α
  | 0 => []
  | n + 1 => look dflt m k :: lookAll dflt m (k + 1) n

/-- Bits [lsb + width - 1 : lsb] of a number. -/
def field (x lsb width : Nat) : Nat := x / 2 ^ lsb % 2 ^ width

/-- One bit of a number. -/
def bitAt (x i : Nat) : Bool := field x i 1 == 1

/-- 1 or 0. -/
def b2n (b : Bool) : Nat := if b then 1 else 0

/-- Replace bits [lsb + width - 1 : lsb] of a number by v. -/
def withField (x lsb width v : Nat) : Nat :=
  x - field x lsb width * 2 ^ lsb + v % 2 ^ width * 2 ^ lsb

/-- The little-endian number of a byte list (R1). -/
def leNat : List Byte → Nat
  | [] => 0
  | b :: bs => b.toNat + 256 * leNat bs

/-- The n little-endian bytes of a number (R1). -/
def leBytes : Nat → Nat → List Byte
  | 0, _ => []
  | n + 1, x => BitVec.ofNat 8 x :: leBytes n (x / 256)

/-- n bytes of a list from offset o; bytes beyond the list read zero. -/
def slice (bs : List Byte) (o n : Nat) : List Byte :=
  ((bs.drop o) ++ List.replicate n 0#8).take n

/-- The number in n bytes from offset o of a byte list. -/
def leAt (bs : List Byte) (o n : Nat) : Nat := leNat (slice bs o n)

/-- Signed value of a number held in w bits. -/
def signed (w x : Nat) : Int :=
  if x % 2 ^ w < 2 ^ (w - 1) then Int.ofNat (x % 2 ^ w) else Int.ofNat (x % 2 ^ w) - Int.ofNat (2 ^ w)

/-- A signed value in w bits, two's complement, wrapping. -/
def unsigned (w : Nat) (x : Int) : Nat := (x % Int.ofNat (2 ^ w)).toNat

/-- Replace the element at an index of a list (no effect beyond its end). -/
def setNth {α : Type} (xs : List α) (i : Nat) (x : α) : List α := xs.set i x

end Sys2Proof.Machine
end

