-- ==== Sys2Proof/Machine/Flags.lean ====
section
/-! DEFINITION. The engine flags (R76, Table 3.8): a mask of eight bits that lanes gather and that a
command ORs into its engine's sticky flags register when it completes. -/

namespace Sys2Proof.Machine

/-- INVALID: IEEE invalid operation; NaN created. -/
def fInvalid : Nat := 1
/-- DIVZERO: IEEE division by zero. -/
def fDivzero : Nat := 2
/-- OVERFLOW: IEEE overflow, or a saturation under R70, R72 or R74. -/
def fOverflow : Nat := 4
/-- UNDERFLOW: tiny and inexact. -/
def fUnderflow : Nat := 8
/-- INEXACT: a rounding changed a value. -/
def fInexact : Nat := 16
/-- INDEX_RANGE: an index was out of range. -/
def fIndexRange : Nat := 32
/-- FORMAT: a format violation was counted rather than faulted. -/
def fFormat : Nat := 64
/-- RESOLUTION: an MX contribution was truncated (R66). -/
def fResolution : Nat := 128

/-- The flag when the condition holds. -/
def flagIf (b : Bool) (f : Nat) : Nat := if b then f else 0

/-- OR of flag masks. -/
def orFlags (a b : Nat) : Nat := a ||| b

/-- OR of a list of flag masks. -/
def orAll (fs : List Nat) : Nat := fs.foldl orFlags 0

end Sys2Proof.Machine
end

