-- ==== Sys2Proof/Machine/Arith.lean ====
section
/-! DEFINITION. Number formats, exact values, rounding and the accumulators of 03_arithmetic (R57 to
R75). A finite value is a sign, a magnitude and a power of two; every product and sum is formed exactly
and narrowed once. -/

namespace Sys2Proof.Machine

/-- A value of a number format: a finite value (-1)^neg × mag × 2^e, an infinity, a NaN with its sign. -/
inductive Num where
  | fin (neg : Bool) (mag : Nat) (e : Int)
  | inf (neg : Bool)
  | nan (neg : Bool)
  deriving DecidableEq, Repr

/-- The specials of a floating-point encoding (Table 3.1). -/
inductive FKind where
  /-- Top exponent holds infinities and NaNs. -/
  | ieee
  /-- Only S.1111.111 is special: NaN. -/
  | e4m3
  /-- No specials (E2M1). -/
  | plain
  deriving DecidableEq, Repr

/-- A floating-point encoding: exponent bits, mantissa bits, bias, specials. -/
structure FFmt where
  eb : Nat
  mb : Nat
  bias : Nat
  kind : FKind
  deriving DecidableEq, Repr

/-- binary32. -/
def fp32 : FFmt := ⟨8, 23, 127, .ieee⟩
/-- BF16: the upper half of binary32. -/
def bf16 : FFmt := ⟨8, 7, 127, .ieee⟩
/-- binary16. -/
def fp16 : FFmt := ⟨5, 10, 15, .ieee⟩
/-- E4M3. -/
def e4m3 : FFmt := ⟨4, 3, 7, .e4m3⟩
/-- E5M2. -/
def e5m2 : FFmt := ⟨5, 2, 15, .ieee⟩
/-- E2M1, the element of MXFP4. -/
def e2m1 : FFmt := ⟨2, 1, 1, .plain⟩

/-- Exponent of the format's smallest ulp. -/
def FFmt.emin (f : FFmt) : Int := 1 - (f.bias : Int) - (f.mb : Int)

/-- Largest exponent field of a finite value, and its largest mantissa there. -/
def FFmt.top (f : FFmt) : Nat × Nat :=
  match f.kind with
  | .ieee => (2 ^ f.eb - 2, 2 ^ f.mb - 1)
  | .e4m3 => (2 ^ f.eb - 1, 2 ^ f.mb - 2)
  | .plain => (2 ^ f.eb - 1, 2 ^ f.mb - 1)

/-- Bits of the largest finite value with a sign. -/
def FFmt.maxBits (f : FFmt) (neg : Bool) : Nat :=
  b2n neg * 2 ^ (f.eb + f.mb) + f.top.1 * 2 ^ f.mb + f.top.2

/-- Bits of an infinity (formats of kind ieee). -/
def FFmt.infBits (f : FFmt) (neg : Bool) : Nat :=
  b2n neg * 2 ^ (f.eb + f.mb) + (2 ^ f.eb - 1) * 2 ^ f.mb

/-- Bits of the format's NaN with a sign: 0x7F or 0xFF in E4M3 and E5M2 (R74); the quiet NaN of an IEEE
format otherwise. -/
def FFmt.nanBits (f : FFmt) (neg : Bool) : Nat :=
  b2n neg * 2 ^ (f.eb + f.mb) + (2 ^ f.eb - 1) * 2 ^ f.mb +
    (if f.eb + f.mb = 7 then 2 ^ f.mb - 1 else 2 ^ (f.mb - 1))

/-- The value of an encoding. -/
def FFmt.decode (f : FFmt) (x : Nat) : Num :=
  let neg := bitAt x (f.eb + f.mb)
  let ex := field x f.mb f.eb
  let mt := field x 0 f.mb
  let special := match f.kind with
    | .ieee => ex == 2 ^ f.eb - 1
    | .e4m3 => (ex == 2 ^ f.eb - 1) && (mt == 2 ^ f.mb - 1)
    | .plain => false
  if special then (if f.kind = .ieee ∧ mt = 0 then .inf neg else .nan neg)
  else if ex = 0 then .fin neg mt f.emin
  else .fin neg (2 ^ f.mb + mt) (f.emin + (ex : Int) - 1)

/-- Length in bits of a number. -/
def bitLen (n : Nat) : Nat := if n = 0 then 0 else Nat.log2 n + 1

/-- Rounding modes (Table 3.7), in the order of Table 7.2: 0 RNE, 1 RTZ, 2 RDN, 3 RUP, 4 SR. -/
inductive Rnd where
  | rne | rtz | rdn | rup | sr
  deriving DecidableEq, Repr

/-- Round magnitude/2^s to an integer in a mode; sr is the 16-bit stochastic value (R73). -/
def roundShift (r : Rnd) (sr : Nat) (neg : Bool) (mag s : Nat) : Nat :=
  let hi := mag / 2 ^ s
  let lo := mag % 2 ^ s
  match r with
  | .rne =>
    if 2 * lo > 2 ^ s then hi + 1
    else if 2 * lo = 2 ^ s then (if hi % 2 = 1 then hi + 1 else hi)
    else hi
  | .rtz => hi
  | .rdn => if neg ∧ lo ≠ 0 then hi + 1 else hi
  | .rup => if ¬ neg ∧ lo ≠ 0 then hi + 1 else hi
  | .sr => (mag * 2 ^ 16 + (sr % 2 ^ 16) * 2 ^ s) / 2 ^ (s + 16)

/-- Round mag × 2^e to p bits of precision and no ulp below 2^emin: the magnitude, its ulp exponent, and
whether the value changed. -/
def roundPrec (r : Rnd) (sr : Nat) (p : Nat) (emin : Int) (neg : Bool) (mag : Nat) (e : Int) :
    Nat × Int × Bool :=
  let q := max (e + (bitLen mag : Int) - (p : Int)) emin
  if q ≤ e then (mag * 2 ^ (e - q).toNat, q, false)
  else
    let s := (q - e).toNat
    (roundShift r sr neg mag s, q, mag % 2 ^ s ≠ 0)

/-- Encode a rounded magnitude of at most p bits (or exactly 2^p) at ulp exponent q. -/
def FFmt.encode (f : FFmt) (neg : Bool) (mag : Nat) (q : Int) : Nat :=
  let sgn := b2n neg * 2 ^ (f.eb + f.mb)
  if mag = 0 then sgn
  else
    let ex := (q - f.emin).toNat
    if mag < 2 ^ f.mb then sgn + mag
    else if mag < 2 ^ (f.mb + 1) then sgn + (ex + 1) * 2 ^ f.mb + (mag - 2 ^ f.mb)
    else sgn + (ex + 2) * 2 ^ f.mb + (mag / 2 - 2 ^ f.mb)

/-- A rounded magnitude lies beyond the largest finite value (R74's test). -/
def FFmt.beyond (f : FFmt) (mag : Nat) (q : Int) : Bool :=
  let tm := 2 ^ f.mb + f.top.2
  let te := f.emin + (f.top.1 : Int) - 1
  if te ≤ q then decide (mag * 2 ^ (q - te).toNat > tm)
  else decide (mag > tm * 2 ^ (te - q).toNat)

/-- Whether overflow goes to infinity in an IEEE format: by rounding direction; SR truncates. -/
def overToInf (r : Rnd) (neg : Bool) : Bool :=
  match r with
  | .rne => true
  | .rtz => false
  | .rdn => neg
  | .rup => !neg
  | .sr => false

/-- Tiny: below the smallest normal, before rounding when `pre`, else after it. -/
def FFmt.tiny (f : FFmt) (pre : Bool) (r : Rnd) (sr : Nat) (neg : Bool) (mag : Nat) (e : Int) : Bool :=
  let lim := f.emin + (f.mb : Int)
  let before := decide (e + (bitLen mag : Int) - 1 < lim)
  let x := roundPrec r sr (f.mb + 1) (e + (bitLen mag : Int) - (f.mb : Int) - 1) neg mag e
  let after := decide (x.2.1 + (bitLen x.1 : Int) - 1 < lim)
  before && (pre || after)

/-- Narrowing to a floating-point format (R68, R74): the bits and the flags. FP8 formats saturate; an
IEEE format wider than 8 bits overflows as IEEE in the rounding mode; E5M2 with INF becomes infinite. `pre`
says where tininess is detected. DESIGN CHOICE: INEXACT stands beside every OVERFLOW, as IEEE 754-2019 has it. -/
def FFmt.narrowWith (f : FFmt) (pre : Bool) (r : Rnd) (sr : Nat) (infBit : Bool) : Num → Nat × Nat
  | .nan neg => (f.nanBits neg, 0)
  | .inf neg =>
    if f.kind = .ieee then (f.infBits neg, 0) else (f.nanBits neg, fInvalid)
  | .fin neg mag e =>
    let x := roundPrec r sr (f.mb + 1) f.emin neg mag e
    if f.beyond x.1 x.2.1 then
      let toInf := if f.eb + f.mb = 7 then f.kind == .ieee && infBit
        else f.kind == .ieee && overToInf r neg
      (if toInf then f.infBits neg else f.maxBits neg, fOverflow ||| fInexact)
    else
      (f.encode neg x.1 x.2.1,
        if x.2.2 then fInexact ||| flagIf (f.tiny pre r sr neg mag e) fUnderflow else 0)

/-- Narrowing where the spec does not say when tininess is detected. -/
def FFmt.narrow (f : FFmt) (r : Rnd) (sr : Nat) (infBit : Bool) (x : Num) : Nat × Nat :=
  f.narrowWith Config.tinyBefore r sr infBit x

/-- Signed integer value of mag with a sign. -/
def sgnInt (neg : Bool) (mag : Nat) : Int := if neg then -(mag : Int) else (mag : Int)

/-- An integer times a power of two as a value. -/
def ofInt (m : Int) (e : Int) : Num := .fin (decide (m < 0)) m.natAbs e

/-- Scale by a power of two. -/
def Num.scale (x : Num) (k : Int) : Num :=
  match x with
  | .fin s m e => .fin s m (e + k)
  | y => y

/-- Product, exact; an infinity times zero is an invalid operation (R67). -/
def Num.mul : Num → Num → Num × Nat
  | .nan s, _ => (.nan s, 0)
  | _, .nan s => (.nan s, 0)
  | .inf s, .inf t => (.inf (s ^^ t), 0)
  | .inf s, .fin t m _ => if m = 0 then (.nan false, fInvalid) else (.inf (s ^^ t), 0)
  | .fin s m _, .inf t => if m = 0 then (.nan false, fInvalid) else (.inf (s ^^ t), 0)
  | .fin s m e, .fin t n k => (.fin (s ^^ t) (m * n) (e + k), 0)

/-- Sum, exact. An exact zero from unlike signs is +0, or -0 when rounding toward -inf (IEEE 754-2019). -/
def Num.add (r : Rnd) : Num → Num → Num × Nat
  | .nan s, _ => (.nan s, 0)
  | _, .nan s => (.nan s, 0)
  | .inf s, .inf t => if s = t then (.inf s, 0) else (.nan false, fInvalid)
  | .inf s, _ => (.inf s, 0)
  | _, .inf t => (.inf t, 0)
  | .fin s m e, .fin t n k =>
    let q := min e k
    let a := sgnInt s (m * 2 ^ (e - q).toNat)
    let b := sgnInt t (n * 2 ^ (k - q).toNat)
    if a + b = 0 then
      (.fin (if m = 0 ∧ n = 0 ∧ s = t then s else decide (r = .rdn)) 0 q, 0)
    else (ofInt (a + b) q, 0)

/-- Negate. -/
def Num.neg : Num → Num
  | .fin s m e => .fin (!s) m e
  | .inf s => .inf (!s)
  | .nan s => .nan (!s)

/-- Sign bit. -/
def Num.isNeg : Num → Bool
  | .fin s _ _ => s
  | .inf s => s
  | .nan s => s

/-- A zero. -/
def Num.isZero : Num → Bool
  | .fin _ 0 _ => true
  | _ => false

/-- NaN. -/
def Num.isNaN : Num → Bool
  | .nan _ => true
  | _ => false

/-- Finite. -/
def Num.isFin : Num → Bool
  | .fin .. => true
  | _ => false

/-- Strict order of two values that are not NaN; zeros of either sign are equal. -/
def Num.lt : Num → Num → Bool
  | .nan _, _ => false
  | _, .nan _ => false
  | .inf s, .inf t => s && !t
  | .inf s, _ => s
  | _, .inf t => !t
  | .fin s m e, .fin t n k =>
    let q := min e k
    decide (sgnInt s (m * 2 ^ (e - q).toNat) < sgnInt t (n * 2 ^ (k - q).toNat))

/-- Element format codes (Table 3.1): bits of an element. -/
def fmtBits : Nat → Nat
  | 0 => 32 | 1 => 16 | 2 => 16 | 3 => 8 | 4 => 8 | 5 => 8 | 6 => 8 | 7 => 4
  | 8 => 8 | 9 => 32 | 10 => 32 | 11 => 16 | 12 => 32 | 13 => 128 | _ => 0

/-- MX formats. -/
def isMx (f : Nat) : Bool := f == 5 || f == 6 || f == 7
/-- Block-integer formats. -/
def isBi (f : Nat) : Bool := f == 10 || f == 11
/-- Elements of a block of a block-scaled format; 0 for the others (R59). -/
def blockLen (f : Nat) : Nat := if isMx f then 32 else if isBi f then 64 else 0

/-- The floating-point encoding of a format's elements. -/
def elemFmt : Nat → FFmt
  | 1 => bf16 | 2 => fp16 | 3 => e4m3 | 4 => e5m2 | 5 => e4m3 | 6 => e5m2 | 7 => e2m1 | _ => fp32

/-- The value of an element's bits, before any block scale. -/
def elemNum (f bits : Nat) : Num :=
  if f = 8 then ofInt (signed 8 bits) 0
  else if f = 9 ∨ f = 10 ∨ f = 12 then ofInt (signed 32 bits) 0
  else if f = 11 then ofInt (signed 16 bits) 0
  else (elemFmt f).decode bits

/-- The value of an element with its block's scale or exponent byte (Table 3.1, Table 3.2). -/
def elemScaled (f bits sc : Nat) : Num :=
  if isMx f then (if sc = 255 then .nan false else (elemNum f bits).scale ((sc : Int) - 127))
  else if f = 10 then (if sc = 255 then .nan false else (elemNum f bits).scale ((sc : Int) - 150))
  else if f = 11 then (if sc = 255 then .nan false else (elemNum f bits).scale ((sc : Int) - 138))
  else elemNum f bits

/-- floor(m × 2^k). -/
def floorScale (m : Int) (k : Int) : Int :=
  if 0 ≤ k then m * (2 : Int) ^ k.toNat else m / (2 : Int) ^ (-k).toNat

/-- Conversion of one element to a block integer with exponent E (R74). -/
structure BiOut where
  /-- The container. -/
  m : Int
  flags : Nat
  /-- A mantissa saturated: the block is marked. -/
  mark : Bool
  /-- The element makes the block non-finite. -/
  nonfinite : Bool
  deriving DecidableEq, Repr

/-- Mantissa bits of a block-integer format: 24 or 12. -/
def biBits (f : Nat) : Nat := if f = 10 then 24 else 12
/-- The power-of-two offset of a block-integer format: M × 2^(E - off). -/
def biOff (f : Nat) : Int := if f = 10 then 150 else 138

/-- Narrow to BI24 (0xA) or BI12 (0xB) with a given exponent other than 0xFF (R74). DESIGN CHOICE: INEXACT stands
beside OVERFLOW. -/
def narrowBi (f : Nat) (ex : Nat) (r : Rnd) (sr : Nat) : Num → BiOut
  | .nan _ => ⟨0, 0, false, true⟩
  | .inf _ => ⟨0, fInvalid, false, true⟩
  | .fin neg mag e =>
    let k := e - ((ex : Int) - biOff f)
    let mi : Nat := if 0 ≤ k then mag * 2 ^ k.toNat else roundShift r sr neg mag (-k).toNat
    let changed := decide (k < 0) && decide (mag % 2 ^ (-k).toNat ≠ 0)
    let v := sgnInt neg mi
    let hi : Int := 2 ^ (biBits f - 1) - 1
    let lo : Int := -(2 ^ (biBits f - 1))
    if v > hi then ⟨hi, fOverflow ||| fInexact, true, false⟩
    else if v < lo then ⟨lo, fOverflow ||| fInexact, true, false⟩
    else ⟨v, flagIf changed fInexact, false, false⟩

/-- floor(log2 of a finite non-zero magnitude). -/
def Num.ilog2 : Num → Int
  | .fin _ m e => e + (bitLen m : Int) - 1
  | _ => 0

/-! ### The exact column accumulator (R64 to R70) -/

/-- One lane of an accumulator entry: I, W, S, RES and the MX block partial. In an FP32 entry (KIND 1) the
value lies in bits [31:0] of I. -/
structure Lane where
  i : Int := 0
  w : Int := 0
  s : Nat := 0
  res : Bool := false
  part : Int := 0
  deriving DecidableEq, Repr

/-- 2^95 and 2^96, the range of I. -/
def two96 : Int := 2 ^ 96

/-- W at either limit: the accumulator is saturated (R70). -/
def Lane.saturated (l : Lane) : Bool := l.w == 32767 || l.w == -32768

/-- The exact integer held: I + W × 2^96. -/
def Lane.total (l : Lane) : Int := l.i + l.w * two96

/-- I and W of an exact integer: the sum of R64 and its saturation of R70. -/
def Lane.setTotal (l : Lane) (t : Int) : Lane × Nat :=
  let w := (t + 2 ^ 95) / two96
  if w ≥ 32767 then ({ l with i := 0, w := 32767 }, fOverflow)
  else if w ≤ -32768 then ({ l with i := 0, w := -32768 }, fOverflow)
  else ({ l with i := t - w * two96, w := w }, 0)

/-- Add an integer contribution; a saturated accumulator does not change (R70). -/
def Lane.addInt (l : Lane) (c : Int) : Lane × Nat :=
  if l.saturated then (l, 0) else l.setTotal (l.total + c)

/-- The special states combined (R67): unlike infinities give NaN. -/
def joinS (a b : Nat) : Nat := if a = 0 then b else if b = 0 then a else if a = b then a else 3

/-- INVALID when infinities of both signs meet. -/
def joinSFlags (a b : Nat) : Nat := flagIf ((a == 1 && b == 2) || (a == 2 && b == 1)) fInvalid

/-- The special state of a product: 0 when it is finite. -/
def specialOf : Num → Nat
  | .fin .. => 0
  | .inf neg => if neg then 2 else 1
  | .nan _ => 3

/-- The kinds of special value a product is: bit 0 +inf, bit 1 -inf, bit 2 NaN. -/
def kindsOf : Num → Nat
  | .fin .. => 0
  | .inf neg => if neg then 2 else 1
  | .nan _ => 4

/-- S of the kinds that have occurred: one infinity alone keeps its sign (R67). -/
def sOfKinds (k : Nat) : Nat := if k = 0 ∨ k = 1 ∨ k = 2 then k else 3

/-- The kinds S stands for. -/
def kindsOfS (s : Nat) : Nat := if s = 3 then 4 else s

/-- INVALID where infinities of both signs are among the kinds, whatever else is (R67). -/
def kindsFlags (k : Nat) : Nat := flagIf (k % 4 == 3) fInvalid

/-- Special values of some kinds enter a lane, in whatever order they occurred (R67). -/
def Lane.specials (l : Lane) (k : Nat) : Lane × Nat :=
  if k = 0 then (l, 0)
  else ({ l with s := sOfKinds (kindsOfS l.s ||| k) }, kindsFlags (kindsOfS l.s ||| k))

/-- Set S by a special value. -/
def Lane.special (l : Lane) (s : Nat) : Lane × Nat :=
  ({ l with s := joinS l.s s }, joinSFlags l.s s)

/-- The integer m × 2^e × 2^48 of an exact product. -/
def atWeight48 (neg : Bool) (mag : Nat) (e : Int) : Int := floorScale (sgnInt neg mag) (e + 48)

/-- FP32 bits of a value, rounded to nearest even. -/
def toFp32 (x : Num) : Nat × Nat := fp32.narrow .rne 0 false x

/-- FP32 sum rounded to nearest even, on bits. -/
def addFp32 (a b : Nat) : Nat × Nat :=
  let s := (fp32.decode a).add .rne (fp32.decode b)
  let r := toFp32 s.1
  (r.1, s.2 ||| r.2)

/-! ### The raw form (R69, Table 3.6) -/

/-- A raw form as a 128-bit number: the lane's I, W, S, RES with KIND. -/
def rawOf (kind : Nat) (l : Lane) : Nat :=
  (if kind = 1 then unsigned 32 l.i else unsigned 96 l.i) +
    (if kind = 1 then 0 else unsigned 16 l.w * 2 ^ 96) + l.s * 2 ^ 112 + b2n l.res * 2 ^ 114 +
    kind * 2 ^ 115

/-- The lane of a raw form; a saturated one holds I at zero, whatever its bits (R70). -/
def laneOfRaw (x : Nat) : Lane :=
  if field x 115 1 = 1 then { i := field x 0 32, w := 0, s := field x 112 2, res := bitAt x 114 }
  else
    let l : Lane := { i := signed 96 x, w := signed 16 (field x 96 16), s := field x 112 2, res := bitAt x 114 }
    if l.saturated then { l with i := 0 } else l

/-- A raw form with a reserved bit set (R69). -/
def rawBad (x : Nat) : Bool := field x 116 12 != 0

/-- KIND of a raw form. -/
def rawKind (x : Nat) : Nat := field x 115 1

/-- Sum of two lanes of one KIND (R69, R70): exact integers, or FP32 in KIND 1. DESIGN CHOICE where a saturated form
is involved: RES is the OR of both, and two of opposite sign leave W of the first beside S = 3. -/
def addLane (kind : Nat) (a b : Lane) : Lane × Nat :=
  if kind = 1 then
    let r := addFp32 (unsigned 32 a.i) (unsigned 32 b.i)
    ({ a with i := (r.1 : Int), s := joinS a.s b.s, res := a.res || b.res }, r.2 ||| joinSFlags a.s b.s)
  else
    let s := joinS a.s b.s
    let fl := joinSFlags a.s b.s
    let res := a.res || b.res
    if a.saturated && b.saturated then
      if a.w = b.w then ({ a with i := 0, s := s, res := res }, fl)
      else ({ a with i := 0, s := 3, res := res }, fl ||| fInvalid)
    else if a.saturated then ({ a with i := 0, s := s, res := res }, fl)
    else if b.saturated then ({ a with i := 0, w := b.w, s := s, res := res }, fl)
    else
      let r := { a with s := s, res := res }.setTotal (a.total + b.total)
      (r.1, r.2 ||| fl)

/-- Sum of two raw forms; none when their KINDs differ or a reserved bit is set (R69, R230). -/
def addRaw (a b : Nat) : Option (Nat × Nat) :=
  if rawBad a || rawBad b then none
  else if a = 0 then some (b, 0)
  else if b = 0 then some (a, 0)
  else if rawKind a != rawKind b then none
  else
    let r := addLane (rawKind a) (laneOfRaw a) (laneOfRaw b)
    some (rawOf (rawKind a) r.1, r.2)

/-- Conversion of a lane on output to FP32 or BF16 (R68): rounded once to nearest even; a saturated column
with S = 0 gives the largest finite value with the sign of W (R70). -/
def drainFp (f : FFmt) (kind : Nat) (sref : Int) (l : Lane) : Nat × Nat :=
  if l.s = 1 then (f.infBits false, 0)
  else if l.s = 2 then (f.infBits true, 0)
  else if l.s = 3 then (f.nanBits false, 0)
  else if kind = 1 then
    (if f.mb = 23 then (unsigned 32 l.i, 0) else f.narrow .rne 0 false (fp32.decode (unsigned 32 l.i)))
  else if l.saturated then (f.maxBits (decide (l.w < 0)), 0)
  else f.narrow .rne 0 false (ofInt l.total (sref - 48))

/-- The value of a lane for a BI24 drain; a saturated column stands beyond every container (R68, R70). -/
def drainNum (kind : Nat) (sref : Int) (l : Lane) : Num :=
  if l.s = 1 then .inf false
  else if l.s = 2 then .inf true
  else if l.s = 3 then .nan false
  else if kind = 1 then fp32.decode (unsigned 32 l.i)
  else ofInt l.total (sref - 48)

/-! ### The Forage accumulator (R72) -/

/-- A Forage lane: a 64-bit accumulator at 2^-32, its saturate flag, the kinds of special product it has met, which
give its special state. -/
structure FLane where
  a : Int := 0
  sat : Bool := false
  kinds : Nat := 0
  deriving DecidableEq, Repr

/-- Add one matched product in position order: a sum beyond the range, and a product beyond 2^31 by itself,
saturate to the nearer limit, which stays. -/
def FLane.addProd (l : FLane) (x y : Num) : FLane × Nat :=
  let p := x.mul y
  match p.1 with
  | .fin neg mag e =>
    if l.sat then (l, p.2)
    else
      let x := floorScale (sgnInt neg mag) (e + 32)
      let v := if x > 2 ^ 63 ∨ x < -(2 ^ 63) then x else l.a + x
      if v > 2 ^ 63 - 1 then ({ l with a := 2 ^ 63 - 1, sat := true }, p.2 ||| fOverflow)
      else if v < -(2 ^ 63) then ({ l with a := -(2 ^ 63), sat := true }, p.2 ||| fOverflow)
      else ({ l with a := v }, p.2)
  | q =>
    let k := l.kinds ||| kindsOf q
    ({ l with kinds := k }, p.2 ||| kindsFlags k)

/-- The value a Forage lane drains (R72). -/
def FLane.value (l : FLane) : Num :=
  match sOfKinds l.kinds with
  | 0 => ofInt l.a (-32)
  | 1 => .inf false
  | 2 => .inf true
  | _ => .nan false

/-- Integer square root by bits, from the top: the fuel is the number of bits of the root. -/
def isqrtGo (n : Nat) : Nat → Nat → Nat
  | 0, r => r
  | k + 1, r =>
    let c := r + 2 ^ k
    isqrtGo n k (if c * c ≤ n then c else r)

/-- Integer square root. -/
def isqrt (n : Nat) : Nat := isqrtGo n (bitLen n / 2 + 1) 0

end Sys2Proof.Machine
end

