-- ==== Sys2Proof/Machine/RegMap.lean ====
section
/-! DEFINITION. The register map: where every register of the device lies, its width, its world and the
access type and reset value of each of its fields, as the register tables of the chapters give them
(R3, R4, Table 2.10). -/

namespace Sys2Proof.Machine

/-- Register access types (Table 0.3). -/
inductive Acc where
  | rw | ro | wo | w1c | w1s | rwl
  deriving DecidableEq, Repr

/-- A field: its low bit, its width, its access type, its reset value. -/
structure Field where
  lsb : Nat
  width : Nat
  acc : Acc
  reset : Nat
  deriving DecidableEq, Repr

/-- The world of a register (R6, R466, R169, R371). -/
inductive RWorld where
  /-- Non-secure: every requester reaches it. -/
  | free
  /-- Secure world. -/
  | secure
  /-- The world of the S-core of its index (R466). -/
  | score
  /-- The world of the vector engine (R169). -/
  | vector
  /-- Secure world, or the debug port in whatever world it acts (R371, R377, CLK_DBG). -/
  | secureOrDebug
  deriving DecidableEq, Repr

/-- One row of a register table: n1 registers every s1 bytes, each of n2 registers every s2 bytes,
of `bytes` bytes each. -/
structure RegRow where
  off : Nat
  n1 : Nat
  s1 : Nat
  n2 : Nat
  s2 : Nat
  bytes : Nat
  world : RWorld
  fields : List Field
  deriving DecidableEq, Repr

/-- TNT registers (02_tents_and_cores, 18 TNT_BLK_WORLD). -/
def rowsTnt : List RegRow := [
  -- TNT_CONFIG
  ⟨0x0000, 1, 4, 1, 4, 4, .free, [⟨0, 3, .rw, 0⟩, ⟨4, 3, .ro, 3⟩, ⟨7, 1, .ro, 0⟩, ⟨8, 1, .w1c, 0⟩]⟩,
  -- TNT_ARRAY_MAP_0
  ⟨0x0004, 1, 4, 1, 4, 4, .free, [⟨0, 4, .rw, 7⟩, ⟨4, 4, .rw, 7⟩, ⟨8, 4, .rw, 7⟩, ⟨12, 4, .rw, 7⟩, ⟨16, 4, .rw, 7⟩, ⟨20, 4, .rw, 7⟩, ⟨24, 4, .rw, 7⟩, ⟨28, 4, .rw, 7⟩]⟩,
  -- TNT_ARRAY_MAP_1
  ⟨0x0008, 1, 4, 1, 4, 4, .free, [⟨0, 4, .rw, 7⟩, ⟨4, 4, .rw, 7⟩, ⟨8, 4, .rw, 7⟩, ⟨12, 4, .rw, 7⟩]⟩,
  -- TNT_ARRAY_ROLE
  ⟨0x000C, 1, 4, 1, 4, 4, .free, [⟨0, 12, .rw, 0⟩]⟩,
  -- TNT_SEG_WORLD
  ⟨0x0010, 1, 4, 1, 4, 4, .secure, [⟨0, 12, .rw, 0⟩, ⟨12, 1, .ro, 0⟩]⟩,
  -- TNT_GBANK
  ⟨0x0014, 1, 4, 1, 4, 4, .free, [⟨0, 3, .rw, 0⟩, ⟨3, 1, .ro, 0⟩]⟩,
  -- TNT_BLK_WORLD
  ⟨0x0018, 1, 4, 1, 4, 4, .secure, [⟨0, 8, .rw, 0⟩, ⟨8, 1, .ro, 0⟩]⟩,
  -- TNT_SCORE_CTL_n
  ⟨0x0020, 4, 4, 1, 4, 4, .score, [⟨0, 1, .rw, 0⟩, ⟨1, 1, .w1c, 0⟩, ⟨2, 1, .w1c, 0⟩, ⟨3, 1, .rw, 0⟩]⟩,
  -- TNT_SCORE_PC_n
  ⟨0x0040, 4, 8, 1, 8, 8, .score, [⟨0, 64, .rw, 0⟩]⟩,
  -- TNT_TEST_CTL
  ⟨0x0100, 1, 4, 1, 4, 4, .secure, [⟨0, 1, .rwl, 1⟩, ⟨1, 8, .ro, 0⟩, ⟨9, 1, .ro, 0⟩, ⟨10, 2, .ro, 2⟩]⟩,
  -- TNT_TEST_FAIL
  ⟨0x0108, 1, 8, 1, 8, 8, .secure, [⟨0, 64, .ro, 0⟩]⟩]

/-- ARY registers of arrays 0 to 5 (R106). -/
def rowsAry : List RegRow := [
  -- ARY_STATUS_n
  ⟨0x10_0000, 6, 0x100, 1, 4, 4, .free, [⟨0, 9, .ro, 0⟩]⟩,
  -- ARY_FLAGS_n
  ⟨0x10_0004, 6, 0x100, 1, 4, 4, .free, [⟨0, 1, .w1c, 0⟩, ⟨1, 1, .w1c, 0⟩, ⟨2, 1, .w1c, 0⟩, ⟨3, 1, .w1c, 0⟩, ⟨4, 1, .w1c, 0⟩, ⟨5, 1, .w1c, 0⟩, ⟨6, 1, .w1c, 0⟩, ⟨7, 1, .w1c, 0⟩]⟩,
  -- ARY_ERR_n
  ⟨0x10_0008, 6, 0x100, 1, 4, 4, .free, [⟨0, 8, .ro, 0⟩, ⟨8, 4, .ro, 0⟩, ⟨16, 16, .ro, 0⟩]⟩,
  -- ARY_ERR_OFF_n
  ⟨0x10_000C, 6, 0x100, 1, 4, 4, .free, [⟨0, 23, .ro, 0⟩]⟩,
  -- ARY_PASSES_n
  ⟨0x10_0010, 6, 0x100, 1, 8, 8, .free, [⟨0, 64, .ro, 0⟩]⟩,
  -- ARY_STALLS_n
  ⟨0x10_0018, 6, 0x100, 1, 8, 8, .free, [⟨0, 64, .ro, 0⟩]⟩]

/-- FOR registers (R131). -/
def rowsFor : List RegRow := [
  -- FOR_STATUS
  ⟨0x20_0000, 1, 4, 1, 4, 4, .free, [⟨0, 12, .ro, 0⟩]⟩,
  -- FOR_FLAGS
  ⟨0x20_0004, 1, 4, 1, 4, 4, .free, [⟨0, 1, .w1c, 0⟩, ⟨1, 1, .w1c, 0⟩, ⟨2, 1, .w1c, 0⟩, ⟨3, 1, .w1c, 0⟩, ⟨4, 1, .w1c, 0⟩, ⟨5, 1, .w1c, 0⟩, ⟨6, 1, .w1c, 0⟩, ⟨7, 1, .w1c, 0⟩]⟩,
  -- FOR_ERR
  ⟨0x20_0008, 1, 4, 1, 4, 4, .free, [⟨0, 8, .ro, 0⟩, ⟨8, 4, .ro, 0⟩, ⟨16, 16, .ro, 0⟩]⟩,
  -- FOR_CTL
  ⟨0x20_000C, 1, 4, 1, 4, 4, .free, [⟨0, 1, .rw, 1⟩, ⟨1, 1, .rw, 0⟩]⟩,
  -- FOR_ERR_POS
  ⟨0x20_0010, 1, 8, 1, 8, 8, .free, [⟨0, 64, .ro, 0⟩]⟩,
  -- FOR_CMDS .. FOR_STALLS
  ⟨0x20_0020, 8, 8, 1, 8, 8, .free, [⟨0, 64, .ro, 0⟩]⟩]

/-- VEC registers and recipe slots (R159, R169). -/
def rowsVec : List RegRow := [
  -- VEC_STATUS
  ⟨0x30_0000, 1, 4, 1, 4, 4, .vector, [⟨0, 16, .ro, 0⟩]⟩,
  -- VEC_FLAGS
  ⟨0x30_0004, 1, 4, 1, 4, 4, .vector, [⟨0, 1, .w1c, 0⟩, ⟨1, 1, .w1c, 0⟩, ⟨2, 1, .w1c, 0⟩, ⟨3, 1, .w1c, 0⟩, ⟨4, 1, .w1c, 0⟩, ⟨5, 1, .w1c, 0⟩, ⟨6, 1, .w1c, 0⟩, ⟨7, 1, .w1c, 0⟩]⟩,
  -- VEC_ERR
  ⟨0x30_0008, 1, 4, 1, 4, 4, .vector, [⟨0, 8, .ro, 0⟩, ⟨8, 4, .ro, 0⟩, ⟨16, 16, .ro, 0⟩]⟩,
  -- VEC_ERR_POS
  ⟨0x30_0010, 1, 8, 1, 8, 8, .vector, [⟨0, 64, .ro, 0⟩]⟩,
  -- VEC_SEED
  ⟨0x30_0018, 1, 8, 1, 8, 8, .vector, [⟨0, 64, .rw, 0⟩]⟩,
  -- VEC_CMDS, VEC_STALLS, VEC_CORR
  ⟨0x30_0020, 3, 8, 1, 8, 8, .vector, [⟨0, 64, .ro, 0⟩]⟩,
  -- VEC_RCP_n words
  ⟨0x30_1000, 640, 4, 1, 4, 4, .vector, [⟨0, 32, .rw, 0⟩]⟩]

/-- PEG and tent GYL registers (R371, R377). -/
def rowsPeg : List RegRow := [
  -- PEG_SIG_p
  ⟨0x40_0000, 64, 0x10, 1, 4, 4, .free, [⟨0, 32, .wo, 0⟩]⟩,
  -- PEG_CNT_p
  ⟨0x40_0004, 64, 0x10, 1, 4, 4, .free, [⟨0, 32, .ro, 0⟩]⟩,
  -- PEG_SET_p
  ⟨0x40_0008, 64, 0x10, 1, 4, 4, .secureOrDebug, [⟨0, 32, .wo, 0⟩]⟩,
  -- GYL_ARRIVE_g
  ⟨0x40_0400, 16, 4, 1, 4, 4, .free, [⟨0, 6, .wo, 0⟩]⟩,
  -- GYL_TENT_STAT
  ⟨0x40_0440, 1, 4, 1, 4, 4, .free, [⟨0, 16, .ro, 0⟩, ⟨16, 16, .w1c, 0⟩]⟩,
  -- GYL_TENT_PEND
  ⟨0x40_0444, 1, 4, 1, 4, 4, .free, [⟨0, 16, .ro, 0⟩]⟩,
  -- PEG_SAT
  ⟨0x40_0448, 1, 8, 1, 8, 8, .free, [⟨0, 64, .w1c, 0⟩]⟩,
  -- PEG_CTL
  ⟨0x40_0450, 1, 4, 1, 4, 4, .free, [⟨0, 16, .rw, 0⟩]⟩]

/-- SCT registers (R148). -/
def rowsSct : List RegRow := [
  -- SCT_STATUS
  ⟨0x60_0000, 1, 4, 1, 4, 4, .free, [⟨0, 4, .ro, 0⟩]⟩,
  -- SCT_ERR
  ⟨0x60_0008, 1, 4, 1, 4, 4, .free, [⟨0, 8, .ro, 0⟩, ⟨8, 4, .ro, 0⟩, ⟨16, 16, .ro, 0⟩]⟩,
  -- SCT_SEED
  ⟨0x60_0010, 1, 8, 1, 8, 8, .free, [⟨0, 64, .rw, 0⟩]⟩,
  -- SCT_CMD
  ⟨0x60_0040, 4, 8, 1, 8, 8, .free, [⟨0, 64, .wo, 0⟩]⟩,
  -- SCT_LAYER_CTL_n
  ⟨0x60_0100, 64, 0x20, 1, 4, 4, .free, [⟨0, 4, .rw, 15⟩, ⟨4, 2, .rw, 0⟩, ⟨6, 16, .rw, 0⟩, ⟨22, 10, .rw, 0⟩]⟩,
  -- SCT_LAYER_STAT_n
  ⟨0x60_0104, 64, 0x20, 1, 4, 4, .free, [⟨0, 29, .ro, 0⟩]⟩,
  -- SCT_TRUTH_n, SCT_MISS_n, SCT_EXTRA_n
  ⟨0x60_0108, 64, 0x20, 3, 8, 8, .free, [⟨0, 64, .ro, 0⟩]⟩,
  -- SCT_NAN, SCT_CLIPPED, SCT_TRIPS
  ⟨0x60_0900, 3, 8, 1, 8, 8, .free, [⟨0, 64, .ro, 0⟩]⟩]

/-- Tent mover and routing registers (R215, R261). -/
def rowsMov : List RegRow := [
  -- MOV_STATUS
  ⟨0x70_0000, 1, 4, 1, 4, 4, .free, [⟨0, 13, .ro, 0⟩]⟩,
  -- MOV_CTL
  ⟨0x70_0004, 1, 4, 1, 4, 4, .free, [⟨0, 10, .rw, 100⟩]⟩,
  -- MOV_ERR
  ⟨0x70_0008, 1, 4, 1, 4, 4, .free, [⟨0, 8, .ro, 0⟩, ⟨8, 4, .ro, 0⟩, ⟨16, 16, .ro, 0⟩]⟩,
  -- MOV_ERR_ADDR
  ⟨0x70_0010, 1, 8, 1, 8, 8, .free, [⟨0, 64, .ro, 0⟩]⟩,
  -- MOV_CMDS .. MOV_PREV_READS
  ⟨0x70_0020, 5, 8, 1, 8, 8, .free, [⟨0, 64, .ro, 0⟩]⟩,
  -- MOV_XDIR_BASE
  ⟨0x70_0800, 1, 8, 1, 8, 8, .free, [⟨0, 64, .rw, 0⟩]⟩,
  -- MOV_XSTATUS
  ⟨0x70_0808, 1, 4, 1, 4, 4, .free, [⟨0, 11, .ro, 0⟩]⟩,
  -- MOV_XERR
  ⟨0x70_080C, 1, 4, 1, 4, 4, .free, [⟨0, 8, .ro, 0⟩, ⟨8, 4, .ro, 0⟩, ⟨16, 16, .ro, 0⟩]⟩,
  -- MOV_XGRP_n
  ⟨0x70_0840, 8, 8, 1, 8, 8, .free, [⟨0, 64, .ro, 0⟩]⟩,
  -- MOV_XDELIV .. MOV_XEPOCH
  ⟨0x70_0880, 7, 8, 1, 8, 8, .free, [⟨0, 64, .ro, 0⟩]⟩]

/-- Tent clock registers (R396). -/
def rowsClkTent : List RegRow := [
  -- CLK_TENT_STAT
  ⟨0x80_0000, 1, 4, 1, 4, 4, .free, [⟨0, 1, .ro, 0⟩, ⟨1, 1, .ro, 0⟩]⟩,
  -- CLK_STRETCH_CYC, CLK_STRETCH_EVT, CLK_LONG_DROOP
  ⟨0x80_0008, 3, 8, 1, 8, 8, .free, [⟨0, 64, .ro, 0⟩]⟩]

/-- Windows 0 and 1 of a compute die: row maps, guyline counters (R29, R377). -/
def rowsCd : List RegRow := [
  -- TNT_ROW_MAP_n
  ⟨0x1000, 128, 4, 1, 4, 4, .secure, [⟨0, 6, .ro, 0⟩, ⟨6, 1, .ro, 0⟩, ⟨7, 1, .ro, 0⟩]⟩,
  -- GYL_ROW_MASK_g_i
  ⟨0x100_0000, 2048, 8, 1, 8, 8, .secure, [⟨0, 64, .rw, 0⟩]⟩,
  -- GYL_ROW_CNT_g_i
  ⟨0x100_4000, 2048, 4, 1, 4, 4, .secureOrDebug, [⟨0, 7, .rw, 0⟩]⟩,
  -- GYL_PITCH_CNT_g_h
  ⟨0x100_6000, 32, 4, 1, 4, 4, .secureOrDebug, [⟨0, 7, .rw, 0⟩, ⟨8, 7, .ro, 0⟩]⟩]

/-- Windows 0 to 6 and 8 of a memory-side die: MSD, region table, HBC, LPC, rings, pack (R193, R241, R262). -/
def rowsMsd : List RegRow := [
  -- MSD_CTL
  ⟨0x0000, 1, 4, 1, 4, 4, .secure, [⟨0, 2, .rwl, 2⟩, ⟨2, 1, .rwl, 0⟩, ⟨3, 2, .rwl, 2⟩, ⟨5, 1, .rwl, 0⟩]⟩,
  -- MSD_CLEAR_BASE, MSD_CLEAR_END
  ⟨0x0100, 2, 8, 1, 8, 8, .free, [⟨0, 64, .rw, 0⟩]⟩,
  -- MSD_CLEAR_CTL
  ⟨0x0110, 1, 4, 1, 4, 4, .free, [⟨0, 1, .w1s, 0⟩, ⟨1, 1, .ro, 0⟩, ⟨2, 1, .ro, 0⟩, ⟨3, 1, .w1c, 0⟩]⟩,
  -- MSD_ERR
  ⟨0x0200, 1, 4, 1, 4, 4, .free, [⟨0, 24, .ro, 0⟩]⟩,
  -- MSD_ERR_ADDR
  ⟨0x0208, 1, 8, 1, 8, 8, .free, [⟨0, 64, .ro, 0⟩]⟩,
  -- MSD_ACC_WRITES .. MSD_CLEARS
  ⟨0x0300, 7, 8, 1, 8, 8, .free, [⟨0, 64, .ro, 0⟩]⟩,
  -- MSD_RGN_BASE_n, MSD_RGN_END_n
  ⟨0x100_0000, 64, 0x20, 2, 8, 8, .secure, [⟨20, 28, .rw, 0⟩]⟩,
  -- MSD_RGN_CTL_n
  ⟨0x100_0010, 64, 0x20, 1, 4, 4, .secure, [⟨0, 1, .rw, 0⟩, ⟨1, 1, .rw, 0⟩, ⟨2, 1, .rw, 0⟩, ⟨3, 1, .ro, 0⟩]⟩,
  -- HBC_MAINT
  ⟨0x200_0000, 3, 0x100_0000, 1, 4, 4, .secure, [⟨0, 8, .rw, 24⟩, ⟨8, 1, .rw, 1⟩, ⟨9, 1, .ro, 0⟩, ⟨10, 1, .ro, 0⟩]⟩,
  -- HBC CORR .. BANKS
  ⟨0x200_0100, 3, 0x100_0000, 5, 8, 8, .free, [⟨0, 64, .ro, 0⟩]⟩,
  -- LPC_MAINT
  ⟨0x500_0000, 1, 4, 1, 4, 4, .secure, [⟨0, 8, .rw, 24⟩, ⟨8, 1, .rw, 1⟩, ⟨9, 1, .ro, 0⟩, ⟨10, 1, .ro, 0⟩]⟩,
  -- LPC CORR .. BANKS
  ⟨0x500_0100, 5, 8, 1, 8, 8, .free, [⟨0, 64, .ro, 0⟩]⟩]

/-- Ring channels of a memory-side die, window 6 (R262). -/
def rowsRingMsd : List RegRow := [
  -- MOV_RING_BASE_n
  ⟨0x600_0000, 16, 0x100, 1, 8, 8, .secure, [⟨0, 64, .rw, 0⟩]⟩,
  -- MOV_RING_CTL_n
  ⟨0x600_0008, 16, 0x100, 1, 4, 4, .secure, [⟨0, 1, .rw, 0⟩, ⟨1, 4, .rw, 4⟩, ⟨5, 1, .rw, 0⟩, ⟨6, 12, .rw, 0⟩, ⟨18, 1, .ro, 0⟩, ⟨19, 8, .ro, 0⟩]⟩,
  -- MOV_RING_HEAD_n
  ⟨0x600_000C, 16, 0x100, 1, 4, 4, .free, [⟨0, 32, .ro, 0⟩]⟩,
  -- MOV_RING_TAIL_n
  ⟨0x600_0010, 16, 0x100, 1, 4, 4, .free, [⟨0, 32, .rw, 0⟩]⟩]

/-- The pack registers of a memory-side die, window 8 (R193). -/
def rowsPck : List RegRow := [
  -- PCK_CTL
  ⟨0x800_0000, 1, 4, 1, 4, 4, .secure, [⟨0, 1, .rw, 0⟩, ⟨1, 4, .rw, 12⟩, ⟨5, 4, .rw, 4⟩, ⟨9, 1, .w1c, 0⟩]⟩,
  -- PCK_SHARE
  ⟨0x800_0004, 1, 4, 1, 4, 4, .secure, [⟨0, 8, .rw, 0⟩, ⟨8, 8, .rw, 0⟩]⟩,
  -- PCK_HBM_BASE, PCK_LP_BASE
  ⟨0x800_0008, 2, 8, 1, 8, 8, .secure, [⟨0, 64, .rw, 0⟩]⟩,
  -- PCK_STATUS
  ⟨0x800_0018, 1, 4, 1, 4, 4, .free, [⟨0, 3, .ro, 0⟩]⟩,
  -- PCK_ERR
  ⟨0x800_0020, 1, 4, 1, 4, 4, .free, [⟨0, 8, .ro, 0⟩, ⟨8, 4, .ro, 0⟩, ⟨16, 16, .ro, 0⟩]⟩,
  -- PCK_ERR_TENT
  ⟨0x800_0024, 1, 4, 1, 4, 4, .free, [⟨0, 14, .ro, 0⟩]⟩,
  -- PCK_ERR_EXP_0..2, PCK_ERR_FND_0..2
  ⟨0x800_0030, 6, 8, 1, 8, 8, .free, [⟨0, 64, .ro, 0⟩]⟩,
  -- PCK_PUSHES .. PCK_WAITS
  ⟨0x800_0080, 8, 8, 1, 8, 8, .free, [⟨0, 64, .ro, 0⟩]⟩,
  -- PCK_FRAMES_n
  ⟨0x801_0000, 4096, 8, 1, 4, 4, .free, [⟨0, 32, .ro, 0⟩]⟩,
  -- PCK_BYTES_n
  ⟨0x801_0004, 4096, 8, 1, 4, 4, .free, [⟨0, 32, .ro, 0⟩]⟩]

/-- Windows 0 to 12 of an I/O die: Trail ports and the shared Trail registers (R296). -/
def rowsTrl : List RegRow := [
  -- TRL_CTL_k
  ⟨0x0000, 12, 0x100_0000, 1, 4, 4, .secure, [⟨0, 1, .rw, 0⟩, ⟨1, 1, .rwl, 0⟩, ⟨2, 1, .w1s, 0⟩, ⟨3, 1, .w1s, 0⟩]⟩,
  -- TRL_STATUS_k_h
  ⟨0x0010, 12, 0x100_0000, 2, 4, 4, .free, [⟨0, 24, .ro, 0⟩]⟩,
  -- TRL_CRED
  ⟨0x0020, 12, 0x100_0000, 2, 16, 8, .secure, [⟨0, 14, .rwl, 256⟩, ⟨16, 14, .rwl, 2560⟩, ⟨32, 14, .rwl, 2048⟩, ⟨48, 14, .rwl, 1536⟩]⟩,
  -- TRL_CRED
  ⟨0x0028, 12, 0x100_0000, 2, 16, 8, .secure, [⟨0, 14, .rwl, 2048⟩, ⟨16, 14, .rwl, 1792⟩, ⟨32, 14, .rwl, 1536⟩, ⟨48, 14, .rwl, 512⟩]⟩,
  -- TRL per-link counters, half 0
  ⟨0x0100, 12, 0x100_0000, 11, 8, 8, .free, [⟨0, 64, .ro, 0⟩]⟩,
  -- TRL per-link counters, half 1
  ⟨0x0180, 12, 0x100_0000, 11, 8, 8, .free, [⟨0, 64, .ro, 0⟩]⟩,
  -- TRL_VIOL_CTL
  ⟨0xC00_0000, 1, 4, 1, 4, 4, .secure, [⟨0, 8, .rw, 16⟩, ⟨8, 10, .rw, 100⟩, ⟨18, 8, .rw, 64⟩]⟩,
  -- TRL_MCAST_CTL
  ⟨0xC00_0004, 1, 4, 1, 4, 4, .secure, [⟨0, 16, .rw, 200⟩, ⟨16, 16, .rw, 1000⟩]⟩,
  -- TRL_VLOG_HEAD
  ⟨0xC00_0008, 1, 4, 1, 4, 4, .free, [⟨0, 6, .ro, 0⟩]⟩,
  -- TRL_ROUTE_n
  ⟨0xC01_0000, 1024, 4, 1, 4, 4, .secure, [⟨0, 6, .rw, 0⟩, ⟨6, 6, .rw, 0⟩, ⟨12, 6, .rw, 0⟩, ⟨18, 6, .rw, 0⟩, ⟨24, 2, .rw, 0⟩, ⟨26, 1, .rw, 0⟩]⟩,
  -- TRL_MGRP_n
  ⟨0xC02_0000, 256, 8, 1, 8, 8, .secure, [⟨0, 48, .rw, 0⟩, ⟨48, 1, .rw, 0⟩, ⟨49, 10, .rw, 0⟩, ⟨59, 1, .rw, 0⟩]⟩,
  -- TRL_MC_CHAN_n
  ⟨0xC03_0000, 16, 16, 1, 4, 4, .secure, [⟨0, 1, .rw, 0⟩, ⟨1, 8, .rw, 0⟩]⟩,
  -- TRL_MC_REC_n
  ⟨0xC03_0008, 16, 16, 1, 8, 8, .secure, [⟨0, 64, .rw, 0⟩]⟩,
  -- TRL_VLOG_n
  ⟨0xC04_0000, 256, 8, 1, 8, 8, .free, [⟨0, 64, .ro, 0⟩]⟩]

/-- Window 14 of an I/O die: the reduction adders (R322). -/
def rowsRdx : List RegRow := [
  -- RDX_IDENT
  ⟨0xE00_0000, 1, 4, 1, 4, 4, .secure, [⟨0, 12, .rw, 0⟩, ⟨12, 4, .ro, 0⟩, ⟨16, 8, .ro, 0⟩, ⟨24, 1, .w1s, 0⟩, ⟨25, 1, .w1s, 0⟩, ⟨26, 1, .ro, 0⟩]⟩,
  -- RDX_CTL
  ⟨0xE00_0004, 1, 4, 1, 4, 4, .secure, [⟨0, 8, .rw, 20⟩, ⟨8, 8, .rw, 100⟩, ⟨16, 8, .rw, 50⟩]⟩,
  -- RDX_ERR
  ⟨0xE00_0010, 1, 4, 1, 4, 4, .free, [⟨0, 26, .ro, 0⟩]⟩,
  -- RDX_ERR_ADDR
  ⟨0xE00_0018, 1, 8, 1, 8, 8, .free, [⟨0, 64, .ro, 0⟩]⟩,
  -- RDX_TALLY_K1, RDX_TALLY_K2
  ⟨0xE00_0020, 2, 8, 1, 8, 8, .secure, [⟨0, 64, .rw, 0⟩]⟩,
  -- RDX_PKTS .. RDX_REPITCH
  ⟨0xE00_0100, 8, 8, 1, 8, 8, .free, [⟨0, 64, .ro, 0⟩]⟩,
  -- RDX_CTX_CTL_n
  ⟨0xE01_0000, 32, 0x100, 1, 4, 4, .free, [⟨0, 1, .w1s, 0⟩, ⟨1, 1, .rw, 0⟩, ⟨2, 2, .rw, 0⟩, ⟨4, 2, .rw, 0⟩, ⟨6, 1, .rw, 0⟩, ⟨7, 1, .rw, 0⟩, ⟨8, 1, .rw, 0⟩, ⟨9, 5, .rw, 0⟩, ⟨14, 4, .rw, 0⟩, ⟨18, 4, .rw, 0⟩, ⟨22, 3, .ro, 0⟩]⟩,
  -- RDX_CTX_ID_n
  ⟨0xE01_0004, 32, 0x100, 1, 4, 4, .free, [⟨0, 12, .rw, 0⟩, ⟨12, 4, .ro, 0⟩, ⟨16, 8, .ro, 0⟩]⟩,
  -- RDX_CTX_SIZE_n
  ⟨0xE01_0008, 32, 0x100, 1, 4, 4, .free, [⟨0, 11, .rw, 0⟩]⟩,
  -- RDX_CTX_STEP_n
  ⟨0xE01_000C, 32, 0x100, 1, 4, 4, .free, [⟨0, 32, .rw, 0⟩]⟩,
  -- RDX_CTX_CDESC_n .. OVL_n
  ⟨0xE01_0010, 32, 0x100, 6, 8, 8, .free, [⟨0, 64, .rw, 0⟩]⟩,
  -- RDX_CTX_OVLMAX_n
  ⟨0xE01_0040, 32, 0x100, 1, 4, 4, .free, [⟨0, 32, .rw, 0⟩]⟩,
  -- RDX_CTX_REC_n .. AGREEPEG_n
  ⟨0xE01_0048, 32, 0x100, 3, 8, 8, .free, [⟨0, 64, .rw, 0⟩]⟩,
  -- RDX_FENCE_n
  ⟨0xE01_0060, 32, 0x100, 1, 4, 4, .free, [⟨0, 32, .ro, 0⟩]⟩]

/-- Window 15 of IOD0: the update registers (R339). -/
def rowsUpd : List RegRow := [
  -- UPD_GTAB
  ⟨0xF00_0000, 1, 8, 1, 8, 8, .free, [⟨0, 48, .rw, 0⟩]⟩,
  -- UPD_STEP
  ⟨0xF00_0008, 1, 4, 1, 4, 4, .free, [⟨0, 32, .rw, 0⟩]⟩]

/-- Ring channels of an I/O die, window 16 (R262). -/
def rowsRingIod : List RegRow := [
  -- MOV_RING_BASE_n
  ⟨0x1000_0000, 16, 0x100, 1, 8, 8, .secure, [⟨0, 64, .rw, 0⟩]⟩,
  -- MOV_RING_CTL_n
  ⟨0x1000_0008, 16, 0x100, 1, 4, 4, .secure, [⟨0, 1, .rw, 0⟩, ⟨1, 4, .rw, 4⟩, ⟨5, 1, .rw, 0⟩, ⟨6, 12, .rw, 0⟩, ⟨18, 1, .ro, 0⟩, ⟨19, 8, .ro, 0⟩]⟩,
  -- MOV_RING_HEAD_n
  ⟨0x1000_000C, 16, 0x100, 1, 4, 4, .free, [⟨0, 32, .ro, 0⟩]⟩,
  -- MOV_RING_TAIL_n
  ⟨0x1000_0010, 16, 0x100, 1, 4, 4, .free, [⟨0, 32, .rw, 0⟩]⟩]

/-- Window 17 of an I/O die: its pegs (R371). -/
def rowsPegIo : List RegRow := [
  -- PEG_IO_SIG_n
  ⟨0x1100_0000, 1024, 0x10, 1, 4, 4, .free, [⟨0, 32, .wo, 0⟩]⟩,
  -- PEG_IO_CNT_n
  ⟨0x1100_0004, 1024, 0x10, 1, 4, 4, .free, [⟨0, 32, .ro, 0⟩]⟩,
  -- PEG_IO_SET_n
  ⟨0x1100_0008, 1024, 0x10, 1, 4, 4, .secureOrDebug, [⟨0, 32, .wo, 0⟩]⟩,
  -- PEG_IO_WAIT_n
  ⟨0x1100_000C, 1024, 0x10, 1, 4, 4, .secure, [⟨0, 32, .wo, 0⟩]⟩,
  -- PEG_IO_SAT
  ⟨0x1100_4000, 16, 8, 1, 8, 8, .free, [⟨0, 64, .w1c, 0⟩]⟩,
  -- PEG_FOREIGN, PEG_STALE, PEG_BAD
  ⟨0x1100_4100, 3, 8, 1, 8, 8, .free, [⟨0, 64, .ro, 0⟩]⟩]

/-- Window 18 of IOD0: the device guyline registers (R377). -/
def rowsGylDev : List RegRow := [
  -- GYL_CAMP_g
  ⟨0x1200_0000, 16, 0x100, 1, 4, 4, .secure, [⟨0, 10, .rw, 0⟩, ⟨10, 1, .rw, 0⟩, ⟨11, 5, .rw, 0⟩, ⟨16, 1, .ro, 0⟩]⟩,
  -- GYL_DEV_CNT_g
  ⟨0x1200_0004, 16, 0x100, 1, 4, 4, .secureOrDebug, [⟨0, 5, .rw, 0⟩, ⟨8, 5, .ro, 0⟩]⟩,
  -- GYL_CHILD_g_k
  ⟨0x1200_0010, 16, 0x100, 24, 4, 4, .secure, [⟨0, 10, .rw, 0⟩]⟩,
  -- GYL_UP_g, GYL_DOWN_g
  ⟨0x1200_0080, 16, 0x100, 2, 4, 4, .free, [⟨0, 32, .wo, 0⟩]⟩,
  -- GYL_FORCE
  ⟨0x1200_1000, 1, 4, 1, 4, 4, .secureOrDebug, [⟨0, 16, .w1s, 0⟩]⟩]

/-- Window 20 of IOD0: the PCI registers (R296). -/
def rowsPci : List RegRow := [
  -- PCI_STATUS
  ⟨0x1400_0000, 1, 4, 1, 4, 4, .free, [⟨0, 10, .ro, 0⟩]⟩,
  -- PCI_WIN_BASE, PCI_REGWIN_SEL
  ⟨0x1400_0008, 2, 8, 1, 8, 8, .free, [⟨0, 64, .rw, 0⟩]⟩,
  -- PCI_RELAY_CTL
  ⟨0x1400_0018, 1, 4, 1, 4, 4, .secure, [⟨0, 16, .rw, 1000⟩]⟩,
  -- PCI_RELAY_TIMEOUTS, PCI_REFUSED
  ⟨0x1400_0020, 2, 8, 1, 8, 8, .free, [⟨0, 64, .ro, 0⟩]⟩]

/-- Window 21 of every die: clocks (R396). -/
def rowsClk : List RegRow := [
  -- CLK_CTL
  ⟨0x1500_0000, 1, 4, 1, 4, 4, .secure, [⟨0, 4, .rwl, 15⟩]⟩,
  -- CLK_LOCK
  ⟨0x1500_0004, 1, 4, 1, 4, 4, .free, [⟨0, 4, .ro, 0⟩, ⟨4, 4, .w1c, 0⟩, ⟨8, 1, .ro, 0⟩]⟩,
  -- CLK_MERGED, CLK_TIME
  ⟨0x1500_0008, 2, 8, 1, 8, 8, .free, [⟨0, 64, .ro, 0⟩]⟩]

/-- Window 21 of IOD0: the debug clock (R396). -/
def rowsClkDbg : List RegRow := [
  -- CLK_DBG
  ⟨0x1500_0018, 1, 4, 1, 4, 4, .secureOrDebug, [⟨0, 2, .rw, 3⟩]⟩]

/-- Windows 22 and 23 of an I/O die: Lantern and security (R423, R444). -/
def rowsLan : List RegRow := [
  -- LAN_STATUS
  ⟨0x1600_0000, 1, 4, 1, 4, 4, .free, [⟨0, 7, .ro, 0⟩]⟩,
  -- LAN_CMD_ADDR
  ⟨0x1600_0008, 1, 8, 1, 8, 8, .free, [⟨0, 64, .wo, 0⟩]⟩,
  -- LAN_CMD_STATUS
  ⟨0x1600_0010, 1, 4, 1, 4, 4, .free, [⟨0, 4, .ro, 0⟩]⟩,
  -- LAN_NONCE_n
  ⟨0x1600_0020, 4, 8, 1, 8, 8, .free, [⟨0, 64, .ro, 0⟩]⟩,
  -- LAN_CAMP_OFF, LAN_CAMP_TIME, LAN_EV_DROPPED
  ⟨0x1600_0040, 3, 8, 1, 8, 8, .free, [⟨0, 64, .ro, 0⟩]⟩,
  -- LAN_RESET
  ⟨0x1600_0100, 1, 4, 1, 4, 4, .secure, [⟨0, 1, .w1s, 0⟩, ⟨1, 1, .w1s, 0⟩, ⟨2, 1, .w1s, 0⟩, ⟨3, 1, .w1s, 0⟩, ⟨4, 1, .w1s, 0⟩, ⟨5, 14, .rw, 0⟩, ⟨19, 5, .rw, 0⟩]⟩,
  -- LAN_SVC
  ⟨0x1600_0104, 1, 4, 1, 4, 4, .secure, [⟨0, 1, .w1s, 0⟩, ⟨1, 1, .w1s, 0⟩, ⟨2, 1, .ro, 0⟩, ⟨3, 1, .w1c, 0⟩, ⟨4, 1, .w1s, 0⟩, ⟨5, 1, .ro, 0⟩, ⟨8, 8, .rwl, 50⟩]⟩,
  -- SEC_LIFECYCLE
  ⟨0x1700_0000, 1, 4, 1, 4, 4, .free, [⟨0, 12, .ro, 0⟩]⟩,
  -- SEC_STRIKE_CNT, SEC_UID
  ⟨0x1700_0008, 2, 8, 1, 8, 8, .free, [⟨0, 64, .ro, 0⟩]⟩]

/-- Window 24 of every die: Compass control (R444). -/
def rowsCmp : List RegRow := [
  -- CMP_PWR_CTL
  ⟨0x1800_0000, 1, 4, 1, 4, 4, .secure, [⟨0, 8, .rw, 64⟩, ⟨8, 10, .rw, 256⟩, ⟨18, 10, .rw, 100⟩]⟩,
  -- CMP_TEMP_CTL
  ⟨0x1800_0004, 1, 4, 1, 4, 4, .secure, [⟨0, 8, .rw, 95⟩, ⟨8, 8, .rw, 10⟩]⟩]

/-- Window 24 of IOD0: Compass reports and totals (R444, R445). -/
def rowsCmp0 : List RegRow := [
  -- CMP_REPORT_CTL
  ⟨0x1800_0008, 1, 4, 1, 4, 4, .free, [⟨0, 16, .rw, 1000⟩]⟩,
  -- CMP_REPORT_BASE
  ⟨0x1800_0010, 1, 8, 1, 8, 8, .free, [⟨0, 64, .rw, 0⟩]⟩,
  -- CMP_STRETCH_CYC_TOTAL
  ⟨0x1800_0020, 1, 8, 1, 8, 8, .free, [⟨0, 64, .ro, 0⟩]⟩,
  -- CMP_TENT_TOTAL_n
  ⟨0x1810_0000, 16640, 32, 3, 8, 8, .free, [⟨0, 64, .ro, 0⟩]⟩]

/-- Window 25 of an I/O die: the error ring (R445). -/
def rowsErr : List RegRow := [
  -- ERR_HEAD
  ⟨0x1900_0000, 1, 4, 1, 4, 4, .free, [⟨0, 11, .ro, 0⟩]⟩,
  -- ERR_CORRECTED, ERR_CONTAINED, ERR_DEVICE
  ⟨0x1900_0008, 3, 8, 1, 8, 8, .free, [⟨0, 64, .ro, 0⟩]⟩,
  -- ERR_REC_n
  ⟨0x1901_0000, 8192, 8, 1, 8, 8, .free, [⟨0, 64, .ro, 0⟩]⟩]

/-- The registers of one watch-table instance, from its base (R382). -/
def rowsWch : List RegRow := [
  -- WCH_CTL
  ⟨0x000, 1, 4, 1, 4, 4, .secure, [⟨0, 1, .rw, 1⟩, ⟨1, 1, .w1s, 0⟩, ⟨2, 1, .ro, 0⟩, ⟨3, 1, .w1c, 0⟩, ⟨4, 16, .rw, 4095⟩]⟩,
  -- WCH_SLOT_n
  ⟨0x100, 64, 4, 1, 4, 4, .secure, [⟨0, 5, .rw, 0⟩, ⟨5, 1, .rw, 1⟩]⟩,
  -- WCH_REQ_r
  ⟨0x200, 32, 4, 1, 4, 4, .secure, [⟨0, 8, .rw, 16⟩, ⟨8, 1, .rw, 0⟩, ⟨9, 16, .rw, 0⟩]⟩,
  -- WCH_GRANTS, WCH_FORCED, WCH_MASKED
  ⟨0x300, 3, 8, 1, 8, 8, .free, [⟨0, 64, .ro, 0⟩]⟩]

/-- Base of the tent windows (Table 2.10). -/
def tentBase : Nat := 0xE000_0000_0000
/-- Base of the tent register windows. -/
def tentRegBase : Nat := 0xF000_0000_0000
/-- Base of the spare-tent register windows: the spare of row r stands as tent 16384 + r. -/
def spareRegBase : Nat := 0xF040_0000_0000
/-- Base of the die block regions. -/
def dieBase : Nat := 0xF100_0000_0000
/-- Base of Lantern space. -/
def lanternBase : Nat := 0xFF00_0000_0000
/-- End of HBM3E. -/
def hbmEnd : Nat := 0x0120_0000_0000
/-- Base and end of LPDDR5X. -/
def lpBase : Nat := 0x1000_0000_0000
/-- End of LPDDR5X. -/
def lpEnd : Nat := 0x1300_0000_0000

/-- Address of an offset in a tent's scratchpad and vector window. -/
def tentMem (t o : Nat) : Nat := tentBase + t * 0x2_0000 + o
/-- Address of an offset in a tent's register window. -/
def tentReg (t o : Nat) : Nat := tentRegBase + t * 0x100_0000 + o
/-- Address of an offset in a die's block region. -/
def dieReg (d o : Nat) : Nat := dieBase + d * 0x1_0000_0000 + o

/-- What lies at a device-local address (Table 2.10, Table 18.2). -/
inductive Region where
  | hbm
  | lpddr
  /-- Scratchpad offset of a tent. -/
  | scratch (t o : Nat)
  /-- Byte offset in the vector register file of a tent. -/
  | vreg (t o : Nat)
  /-- Offset in a tent's register window. -/
  | tentR (t o : Nat)
  /-- Instruction store n of a tent, byte offset. -/
  | istore (t n o : Nat)
  /-- Offset in a die's block region. -/
  | dieR (d o : Nat)
  /-- SRAM of Lantern A (0) or B (1). -/
  | lanSram (l o : Nat)
  /-- Canister of Lantern A or B. -/
  | canister (l : Nat)
  /-- Control-register area of Lantern A or B, whose contents the spec does not give. -/
  | lanCtl (l o : Nat)
  /-- Outside every range of Table 2.10 (R56). -/
  | none
  deriving DecidableEq, Repr

/-- Classify a device-local address (Table 2.10). -/
def regionOf (a : Nat) : Region :=
  if a < hbmEnd then .hbm
  else if lpBase ≤ a ∧ a < lpEnd then .lpddr
  else if tentBase ≤ a ∧ a < tentBase + 0x8000_0000 then
    let t := (a - tentBase) / 0x2_0000
    let o := (a - tentBase) % 0x2_0000
    if o < 0x1_8000 then .scratch t o else .vreg t (o - 0x1_8000)
  else if tentRegBase ≤ a ∧ a < spareRegBase + 0x1_0000_0000 then
    let t := (a - tentRegBase) / 0x100_0000
    let o := (a - tentRegBase) % 0x100_0000
    if 0x1_0000 ≤ o ∧ o < 0x2_0000 then .istore t ((o - 0x1_0000) / 0x4000) ((o - 0x1_0000) % 0x4000)
    else .tentR t o
  else if dieBase ≤ a ∧ a < dieBase + 0x8_0000_0000 then
    .dieR ((a - dieBase) / 0x1_0000_0000) ((a - dieBase) % 0x1_0000_0000)
  else if lanternBase ≤ a ∧ a < 0x1_0000_0000_0000 then
    let l := (a - lanternBase) / 0x1_0000_0000
    let o := (a - lanternBase) % 0x1_0000_0000
    if 1 < l then .none
    else if o < 0x20_0000 then .lanSram l o
    else if o < 0x28_0000 then .canister l
    else if 0x100_0000 ≤ o ∧ o < 0x200_0000 then .lanCtl l o
    else .none
  else .none

/-- Find the register of a table that holds byte offset o: its own offset, its index along the first
stride, and its row. -/
def findRow : List RegRow → Nat → Option (Nat × Nat × RegRow)
  | [], _ => none
  | r :: rs, o =>
    if r.off ≤ o ∧ (o - r.off) / r.s1 < r.n1 ∧ (o - r.off) % r.s1 / r.s2 < r.n2 ∧
        (o - r.off) % r.s1 % r.s2 < r.bytes then
      some (r.off + (o - r.off) / r.s1 * r.s1 + (o - r.off) % r.s1 / r.s2 * r.s2, (o - r.off) / r.s1, r)
    else findRow rs o

/-- The tables of a tent's register window, by 1 MiB sub-window. -/
def tentRows (o : Nat) : List RegRow :=
  match o / 0x10_0000 with
  | 0 => rowsTnt
  | 1 => rowsAry
  | 2 => rowsFor
  | 3 => rowsVec
  | 4 => rowsPeg
  | 6 => rowsSct
  | 7 => rowsMov
  | 8 => rowsClkTent
  | _ => []

/-- The tables of a die's block region, by 16 MiB window: 0, 1 the compute dies, 2 to 5 the memory-side
dies, 6 and 7 the I/O dies. -/
def dieRows (d o : Nat) : List RegRow :=
  let w := o / 0x100_0000
  if w = 21 then (if d = 6 then rowsClk ++ rowsClkDbg else rowsClk)
  else if w = 24 then (if d = 6 then rowsCmp ++ rowsCmp0 else rowsCmp)
  else if d < 2 then (if w < 2 then rowsCd else [])
  else if d < 6 then
    (if w < 6 then rowsMsd else if w = 6 then rowsRingMsd else if w = 8 then rowsPck else [])
  else if w < 13 then rowsTrl
  else if w = 14 then rowsRdx
  else if w = 15 ∧ d = 6 then rowsUpd
  else if w = 16 then rowsRingIod
  else if w = 17 then rowsPegIo
  else if w = 18 ∧ d = 6 then rowsGylDev
  else if w = 20 ∧ d = 6 then rowsPci
  else if w = 22 ∨ w = 23 then rowsLan
  else if w = 25 then rowsErr
  else []

/-- Number of pairs of Table 1.2 that leave a die: CD two MSD and two IOD; MSD one CD and one IOD; IOD
two CD, two MSD and the bridge. -/
def pairsOf (d : Nat) : Nat := if d < 2 then 4 else if d < 6 then 2 else 5

/-- The base of the watch-table instance whose registers hold an address, when one lies there
(Table 16.4). -/
def wchBaseOf (a : Nat) : Option Nat :=
  match regionOf a with
  | .tentR t o =>
    if 0x50_0000 ≤ o ∧ o < 0x51_0000 then some (tentReg t (o / 0x1000 * 0x1000)) else none
  | .dieR d o =>
    let w := o / 0x100_0000
    let i := o % 0x100_0000 / 0x1000
    let home := if d < 2 then 2 else if d < 6 then 7 else 19
    if w = home ∧
        ((512 ≤ i ∧ i < 512 + pairsOf d) ∨
          (d < 2 ∧ i < 390) ∨ (2 ≤ d ∧ d < 6 ∧ i < 121) ∨ (6 ≤ d ∧ i < 49)) then
      some (dieReg d (o / 0x1000 * 0x1000))
    else none
  | _ => none

/-- Shared registers have one copy: those of the four memory-side dies (R239) are held at MSD0, those of
the two I/O dies kept alike (R296, R423) at IOD0. -/
def homeOf (a : Nat) : Nat :=
  match regionOf a with
  | .dieR d o =>
    let w := o / 0x100_0000
    if 2 ≤ d ∧ d < 6 ∧ (w = 1 ∨ (w = 0 ∧ o < 0x200)) then dieReg 2 o
    else if d = 7 ∧ ((w = 12 ∧ (o < 0xC00_0004 ∨ (0xC01_0000 ≤ o ∧ o < 0xC03_0000))) ∨ w = 23 ∨ w = 25) then
      dieReg 6 o
    else a
  | _ => a

/-- Where a register lies: its address (the home copy), its index, its row. -/
structure RegAt where
  addr : Nat
  index : Nat
  row : RegRow
  deriving DecidableEq, Repr

/-- The register that holds the byte at a device-local address. -/
def regAt (a : Nat) : Option RegAt :=
  match wchBaseOf a with
  | some b => (findRow rowsWch (a - b)).map fun (o, i, r) => ⟨b + o, i, r⟩
  | none =>
    match regionOf (homeOf a) with
    | .tentR t o => (findRow (tentRows o) o).map fun (o', i, r) => ⟨tentReg t o', i, r⟩
    | .dieR d o =>
      if d = 7 ∧ 0xE00_0000 ≤ o ∧ o < 0xE00_0004 then none
      else (findRow (dieRows d o) o).map fun (o', i, r) => ⟨dieReg d o', i, r⟩
    | _ => none

/-- The reset value that a row's fields spell. -/
def rowReset : List Field → Nat
  | [] => 0
  | f :: fs => f.reset * 2 ^ f.lsb + rowReset fs

/-- The reset value of the register at an address; CLK_CTL reads 0 on dies that are not compute dies, and
a fuse-held row map takes the part's own value (R29, R396). -/
def regReset (a : Nat) : Word :=
  match regAt a with
  | some r =>
    match regionOf a with
    | .dieR d o => if 2 ≤ d ∧ o = 0x1500_0000 then 0 else BitVec.ofNat 64 (rowReset r.row.fields)
    | _ => BitVec.ofNat 64 (rowReset r.row.fields)
  | none => 0

/-- The bits of the fields of the given kinds. -/
def fieldBits (fs : List Field) (is : Acc → Bool) : Nat :=
  (fs.map fun f => if is f.acc then (2 ^ f.width - 1) * 2 ^ f.lsb else 0).sum

end Sys2Proof.Machine
end

