-- ==== Sys2Proof/Machine/State.lean ====
section
/-! DEFINITION. The state of one Basby module: what the spec names, as plain data. Memory, registers and
the per-tent state are lists of (key, value) pairs in the canonical form of Machine/Store.lean; a key that
is not listed holds its default (for memory zero, for a register its reset value, for a tent the state
after reset). -/

namespace Sys2Proof.Machine

/-- Why the machine stops: no command of this block does. Every row of the table ends in a next state. -/
inductive Fault where
  deriving DecidableEq, Repr

/-- Why a command has no meaning. -/
inductive Refusal where
  /-- Raised by the dispatcher for a row of the table that has no meaning yet. Safe: the model stops. -/
  | notModelled (mnemonic : String)
  deriving DecidableEq, Repr

/-- The answer to a load or a read request (Table 10.4; 5 is a decode fault, R56). -/
structure Answer where
  status : Nat
  data : List Byte
  deriving DecidableEq, Repr

/-- What an S-core waits for (R36, R38, R364, R465). -/
inductive CoreWait where
  | none
  /-- PWAIT n on peg p, not granted. -/
  | pwait (p n : Nat)
  /-- QPUSH of a command to queue q, not accepted. -/
  | push (q : Nat) (c : Cmd)
  /-- FENCE, earlier stores not complete. -/
  | fence
  /-- A load of `size` bytes at a camp address into register rd; its answer, once it is back. -/
  | load (rd size : Nat) (addr : Word) (ans : Option Answer)
  deriving DecidableEq, Repr

/-- One S-core (R36, R465). Its RUN, DONE, FAULT and EVT bits and TNT_SCORE_PC_n are registers. -/
structure Core where
  running : Bool := false
  stopPending : Bool := false
  pc : Nat := 0
  regs : List (Nat × Word) := []
  wait : CoreWait := .none
  deriving DecidableEq, Repr

/-- A write to another device that the work of a command makes: where, what, whether it adds (and in what
format), its world. -/
structure OutW where
  addr : Nat
  data : List Byte
  accum : Option Nat
  secure : Bool
  deriving DecidableEq, Repr

/-- A command issued to a queue or ring and not complete: the command, the flags its work raised (R76), the
descriptors it copied at issue, the answers to its remote reads and the plot entries it has read (camp address,
bytes), the remote read outstanding (tag, camp address, length), the remote writes not yet acknowledged (tags),
whether its work has been done, and whether it waits on a MOVING plot entry (R253). -/
structure Issued where
  cmd : Cmd
  flags : Nat := 0
  descs : List Byte := []
  stage : List (Nat × List Byte) := []
  want : Option (Nat × Nat × Nat) := none
  acks : List Nat := []
  done : Bool := true
  moving : Bool := false
  /-- The camp address of the entry it found MOVING. -/
  movingAt : Nat := 0
  /-- Writes to other devices that wait for room among those outstanding (R111). -/
  outs : List OutW := []
  /-- FOR_CTL when it issued (R131). -/
  ctl : Nat := 0
  /-- What the 16-byte scratchpad words it has written held before, by address, until it completes (R103). -/
  olds : List (Nat × List Byte) := []
  deriving DecidableEq, Repr

/-- A stationary image in an array's tile buffer (R88), or the fault its read met: cause and offset. -/
structure Tile where
  bytes : List Byte
  fault : Option (Nat × Nat) := none
  deriving DecidableEq, Repr

/-- One command queue (Table 2.6): the entries not issued, the commands issued and not complete, a WAIT
pending at its head, its fault stop. -/
structure Queue where
  entries : List Cmd := []
  flight : List Issued := []
  waiting : Bool := false
  stopped : Bool := false
  /-- The tile buffer of an array: the images of the next PASSes, in order (R88). -/
  tiles : List Tile := []
  deriving DecidableEq, Repr

/-- A wait pending on a tent peg: the peg, the waiter (0 to 3 S-cores, 4 + q queue q) and n (R364). -/
structure PegWait where
  peg : Nat
  waiter : Nat
  n : Nat
  /-- Its WAIT_EVT event has been raised (R371). -/
  told : Bool := false
  deriving DecidableEq, Repr

/-- A guyline arrival held at the tent's port: guyline, S-core, RPEG, and the bound below which the posted
stores it waits for are numbered (R373). -/
structure HeldArrival where
  g : Nat
  core : Nat
  rpeg : Nat
  bound : Nat
  deriving DecidableEq, Repr

/-- One accumulator entry of an array: its tag (EMPTY, KIND, SREF, LANES) and its lanes (R83). -/
structure Entry where
  empty : Bool := true
  kind : Nat := 0
  sref : Int := 0
  lanes : List Lane := []
  deriving DecidableEq, Repr

/-- The selector of a tent (R135, R142, R144, R148): the words written to its command window, the running
and the waiting command, its stop, whether the last SELECT found DENSE, and per slot LAYER_ID, STEPNO and
whether it tripped this step. -/
structure Selector where
  window : List (Nat × Word) := []
  running : Option Cmd := none
  issued : Bool := false
  waiting : Option Cmd := none
  stopped : Bool := false
  denseTaken : Bool := false
  layerId : List (Nat × Nat) := []
  stepNo : List (Nat × Nat) := []
  tripped : List Nat := []
  deriving DecidableEq, Repr

/-- One frame of a pack stack (R177, R178): the offset of its bytes in its part, its size, its part. -/
structure Frame where
  off : Nat
  size : Nat
  spilled : Bool
  deriving DecidableEq, Repr

/-- An index a repeat filter holds (R110): the slice, elements then scale bytes, when it is of at most 64 bytes, and
the list position where the G-core first wrote it. -/
structure Repeat where
  idx : Nat
  slice : List Nat
  pos : Nat
  deriving DecidableEq, Repr

/-- The pack stack of a tent, bottom first (R176), its stop, and whether a spill or a refill has started
(R182). -/
structure Stack where
  frames : List Frame := []
  stopped : Bool := false
  spilling : Bool := false
  refilling : Bool := false
  deriving DecidableEq, Repr

/-- What a combine group keeps beside MOV_XGRP_n (R202, R206): the answer region and its shape. -/
structure Combine where
  off : Nat := 0
  nt : Nat := 0
  k : Nat := 0
  pb : Nat := 0
  tbase : Nat := 0
  deriving DecidableEq, Repr

/-- What one tent holds beside its registers and memories. The default is the tent after a reset. -/
structure Tent where
  /-- S-cores by number. -/
  cores : List (Nat × Core) := []
  /-- Queues 0 to 9. -/
  queues : List (Nat × Queue) := []
  /-- Target of a pending arrangement (R34). -/
  pendArr : Option Nat := none
  /-- The EXPERT columns and roles as sampled when the arrangement took effect (R34). -/
  expert : List Nat := []
  /-- Target of a pending GB_SEGS (R45). -/
  pendGb : Option Nat := none
  /-- Segments whose lowering clear is running (first) or waiting (R44). -/
  segClear : List Nat := []
  /-- Target of a pending world change, bits [7:0] of TNT_BLK_WORLD (R406). -/
  pendBlk : Option Nat := none
  /-- Rows mapped to spares, as (bank, row) (R47). -/
  remaps : List (Nat × Nat) := []
  /-- The failing row served from the shadow until the evacuation completes (R47). -/
  shadowRow : Option Nat := none
  /-- Accumulator entries, array × 64 + entry (R83). -/
  accs : List (Nat × Entry) := []
  /-- Arrays whose entries a run fault left undefined (R104). -/
  accUndef : List Nat := []
  /-- Repeat filters of the G-cores, newest first (R110). -/
  filters : List (Nat × List Repeat) := []
  /-- The selector. -/
  sel : Selector := {}
  /-- The pack stack (R176). -/
  stack : Stack := {}
  /-- The expert unit has stopped (R213). -/
  xstopped : Bool := false
  /-- Open combine groups 0 to 7. -/
  groups : List (Nat × Combine) := []
  /-- Waits pending on the tent's pegs, oldest first (R364). -/
  pegWaits : List PegWait := []
  /-- Guyline arrivals held at the port (R373). -/
  held : List HeldArrival := []
  /-- RPEG of each guyline whose ARRIVED is set. -/
  rpeg : List (Nat × Nat) := []
  /-- RPEG kept for the next round where PENDING is set. -/
  rpegNext : List (Nat × Nat) := []
  /-- Cycles of the running stretch (R389). -/
  stretch : Nat := 0
  /-- Blocks whose clock is gated (R433): 0 to 3 S-cores, 4 + q the engine of queue q. -/
  gated : List Nat := []
  deriving DecidableEq, Repr

/-- A posted store of an S-core on its way (R38): its number, its S-core, its target and bytes. -/
structure Store where
  seq : Nat
  t : Nat
  core : Nat
  secure : Bool
  addr : Word
  data : List Byte
  /-- The instruction index of the store, for its fault (R39). -/
  pc : Nat := 0
  /-- Trail tag, when it left for another device. -/
  tid : Option Nat := none
  deriving DecidableEq, Repr

/-- Who waits for the answer to a Trail transaction (R278, R283). -/
inductive Owner where
  | core (t n : Nat)
  | queue (t q : Nat)
  | ring (d ch : Nat)
  | host
  | ctx (c : Nat)
  | pack (t : Nat)
  /-- The Quartermaster's stash copies and restores. -/
  | stash
  deriving DecidableEq, Repr

/-- An event raised at its source and not granted (R383, Table 18.14). -/
structure Event where
  src : Nat
  cls : Nat
  code : Nat
  unit : Nat
  ident : Nat
  gen : Nat
  time : Word
  /-- The 32 DETAIL bytes as a little-endian number. -/
  detail : Nat
  deriving DecidableEq, Repr

/-- One watch-table instance beside its registers (R378 to R382): the active slots and requester rows where
a commit has changed them, the shadow, the mode where a write has set it, the pointer,
the wait counters, the quotas left, the parked requester, the position in the window. -/
structure Watch where
  slots : List (Nat × Nat) := []
  reqs : List (Nat × Nat) := []
  /-- The shadow table, where a write has changed it. -/
  shSlots : List (Nat × Nat) := []
  shReqs : List (Nat × Nat) := []
  /-- WINDOW where a write has set it. -/
  window : Option Nat := none
  service : Option Bool := none
  pointer : Nat := 0
  waits : List (Nat × Nat) := []
  quota : List (Nat × Nat) := []
  parked : Option Nat := none
  winPos : Nat := 0
  deriving DecidableEq, Repr

/-- A guyline message between counters and tents (R373, R374). -/
inductive GylMsg where
  /-- An arrival of a tent on its way to its row counter. -/
  | toRow (g t : Nat)
  /-- An arrival of a row counter (64 × pitch + row) on its way to its pitch counter. -/
  | toPitch (g r : Nat)
  /-- An arrival of a pitch counter on its way to the device counter. -/
  | toDev (g p : Nat)
  /-- A release on its way to a member tent, and whether GYL_FORCE made it. -/
  | release (g t : Nat) (forced : Bool)
  deriving DecidableEq, Repr

/-- A clear of memory, running or waiting (R233), and the region entry the strike clears with it (R414). -/
structure Clear where
  lo : Nat
  hi : Nat
  rgn : Option Nat := none
  deriving DecidableEq, Repr

/-- The module's power. -/
inductive Power where
  /-- No power on the dies (before PWR_GOOD, after power-down). -/
  | off
  /-- Held in WARM reset by RST_N. -/
  | held
  /-- Running. -/
  | on
  /-- The bivouac (R429). -/
  | bivouac
  /-- Waking from the bivouac (R431). -/
  | waking
  /-- Power removed from the logic by the shutdown temperature (R27). -/
  | logicOff
  deriving DecidableEq, Repr

/-- The role of a Lantern (LAN_STATUS.ROLE). -/
inductive LanRole where
  | booting | active | standby | neither
  deriving DecidableEq, Repr

/-- One Lantern (R397 to R412, R436). -/
structure Lantern where
  role : LanRole := .booting
  kitOk : Bool := false
  slotB : Bool := false
  /-- The kit applied, as the Lantern keeps it in SRAM (R430). -/
  kit : List Byte := []
  /-- Slots marked invalid until the next COLD reset (R404). -/
  badA : Bool := false
  badB : Bool := false
  /-- The Lantern is lost: its cores do not run (R436). -/
  lost : Bool := false
  /-- Cores whose first watchdog has expired (R436). -/
  barked : List Nat := []
  /-- The unwrapped identity key lies in the canister (R412). -/
  keyHeld : Bool := false
  /-- Last SEQ accepted from each sender, in the canister (R420). -/
  lastSeq : List (Nat × Nat) := []
  /-- The signed command copied into the canister and not yet checked: BUSY (R410). -/
  busy : Option (List Byte) := none
  result : Nat := 0
  nonce : List Word := [0, 0, 0, 0]
  /-- Heartbeats unanswered (R436). -/
  missed : Nat := 0
  deriving DecidableEq, Repr

/-- One UCIe module of a die pair (R16 to R18): out of the hash, retraining, failed trainings in a row, out
until COLD, the next frame expected in each direction, and the replays counted. -/
structure Module where
  out : Bool := false
  training : Bool := false
  fails : Nat := 0
  dead : Bool := false
  next : List Nat := [0, 0]
  /-- The frames in the replay buffers that a receiver has discarded: direction, number, frame; at most 64 of each
  direction, oldest first. A frame that was taken needs no replay, so it is not listed. -/
  buf : List (Bool × Nat × DieFrame) := []
  /-- Lanes found failing, to be repaired at the next training; lanes repaired onto redundant ones. -/
  failing : List Nat := []
  repaired : List Nat := []
  replays : Nat := 0
  /-- Replays since the module was last trained. -/
  recent : Nat := 0
  deriving DecidableEq, Repr

/-- A pair whose hash changes (R18): the frames of modules that left it, to be sent again on the others, and the modules
of the hash that new flits still go by. -/
structure Rehash where
  owed : List (Bool × DieFrame) := []
  before : List Nat := []
  deriving DecidableEq, Repr

/-- A flit in a slot: its VC, its EOP tag, its 64 bytes (R267). -/
structure Flit where
  vc : Nat
  eop : Bool
  data : List Byte
  deriving DecidableEq, Repr

/-- A DATA group sent and not acknowledged: its GSEQ, its flits, the packets they belong to by the number the link
gave each as its first flit left, with their headers. -/
structure SentGroup where
  seq : Nat
  flits : List Flit
  hdrs : List (Nat × List Byte)
  deriving DecidableEq, Repr

/-- A group as it left for the partner: the head flit and slots 1 to 19 (R267). -/
structure WireGroup where
  head : List Byte
  slots : List (List Byte)
  deriving DecidableEq, Repr

/-- A DATA group received and held until the next head has arrived (R268). -/
structure HeldGroup where
  seq : Nat
  good : Bool
  flits : List Flit
  crc : Nat
  deriving DecidableEq, Repr

/-- One Trail link (R264 to R276, R282, R288). STATE, LANES, PEER and PRESENT lie in TRL_STATUS_k_h. -/
structure Link where
  rxSeq : Nat := 0
  held : Option HeldGroup := none
  refusing : Bool := false
  refused : Nat := 0
  resyncOut : Nat := 0
  txSeq : Nat := 0
  stored : List SentGroup := []
  /-- The groups of a running replay still to be sent, and the ACK of the NAK head that began it (R269). -/
  resend : List SentGroup := []
  lastNak : Option Nat := none
  /-- The last group sent, and the CRC-32C of its slots, which the next head carries as PCRC. -/
  wire : Option WireGroup := none
  pcrc : Nat := 0
  /-- The number of the next packet that starts to leave, and of the half-sent packet of each VC. -/
  pktNext : Nat := 0
  pktOf : List (Nat × Nat) := []
  credits : List Nat := []
  /-- The flits of each VC's allocation, where TRL_CRED_LO or HI has been written (R271). -/
  alloc : Option (List Nat) := none
  credSeen : List Nat := [0, 0, 0, 0, 0, 0, 0, 0]
  freed : List Nat := [0, 0, 0, 0, 0, 0, 0, 0]
  rxUsed : List Nat := [0, 0, 0, 0, 0, 0, 0, 0]
  /-- Bytes of the packet being received on each VC, and whether it is to be dropped, with its NAK reason. -/
  part : List (Nat × List Byte) := []
  bad : List (Nat × Nat) := []
  /-- Packets queued for the link, VC and bytes, oldest first, and the flits of each VC's head already sent. -/
  queue : List (Nat × List Byte) := []
  sent : List (Nat × Nat) := []
  /-- Packets accepted and not yet acted on, oldest first. -/
  inbox : List (List Byte) := []
  /-- NAKs that this device answers itself with, oldest first: they never lay in the receive buffer. -/
  own : List (List Byte) := []
  /-- The branch buffer: multicast packets copied for this link, oldest first (R282). -/
  branch : List (List Byte) := []
  /-- Multicast transfers abandoned on this branch, as SRC × 65536 + TID. -/
  abandoned : List Nat := []
  /-- Global times of the counted violations (R288) and of the replays (R270). -/
  viols : List Nat := []
  replayAt : List Nat := []
  failed : Nat := 0
  /-- Lanes removed, and lanes found failing that leave at the next retrain (R266). -/
  lanesOut : Nat := 0
  lanesBad : Nat := 0
  /-- The link runs on half its lanes for want of traffic (R433). -/
  idleHalf : Bool := false
  deriving DecidableEq, Repr

/-- One Trail port's sideband (R284, R285): the next SEQ, the frames sent, what PRESENCE told of the
partner's role and Lanterns. -/
structure Port where
  seq : Nat := 0
  out : List SbFrame := []
  peerRole : Nat := 0
  peerLans : Nat := 0
  /-- The lanes the partner's last TRAIN asked for. -/
  asked : Nat := 0
  /-- Frames passed to the active Lantern (R285), oldest first. -/
  passed : List SbFrame := []
  deriving DecidableEq, Repr

/-- A host write or read relayed over Trail and not answered (R292, R293). -/
structure Relay where
  tid : Nat
  write : Bool
  addr : Word
  len : Nat
  deriving DecidableEq, Repr

/-- What the host port sends to the host: an MSI-X vector, a read completion (status 0 success, 1
Unsupported Request, 2 Completer Abort) or a configuration completion. -/
inductive HostOut where
  | vector (v : Nat)
  | completion (status : Nat) (data : List Byte)
  | configRetry
  | configDone (data : List Byte)
  deriving DecidableEq, Repr

/-- A host operation held until every earlier relayed host write is acknowledged, or behind one that is (R292):
an access of a BAR, a doorbell of a mailbox. -/
inductive HeldHost where
  | access (bar off : Nat) (op : PadOp)
  | doorbell (m : Nat)
  deriving DecidableEq, Repr

/-- The PCIe host port beside its registers (R289 to R294, R460): held in reset, BAR2 and MSI-X bytes,
relayed accesses, held operations, a Function Level Reset waiting, what went to the host. -/
structure HostPort where
  perst : Bool := true
  /-- Configuration requests of the host that are not completed, oldest first: offset and operation (R289). -/
  asked : List (Nat × PadOp) := []
  /-- The bytes of the configuration space that the host has written or errors have set (R289). -/
  cfg : List (Nat × Byte) := []
  mail : List (Nat × Byte) := []
  msix : List (Nat × Byte) := []
  pba : List (Nat × Byte) := []
  relays : List Relay := []
  held : List HeldHost := []
  flr : Bool := false
  out : List HostOut := []
  deriving DecidableEq, Repr

/-- A multicast transfer at its root (R281, R283): its tag, ring channel, group, targets expected, the
devices that completed, and whether its last packet has been sent. -/
structure Mcast where
  tid : Nat
  die : Nat
  ch : Nat
  group : Nat
  expect : Nat
  ok : List Nat
  bad : List Nat
  lastSent : Bool
  deriving DecidableEq, Repr

/-- A multicast packet not yet copied to every branch (R282): the link whose ingress buffer holds it, none at the
root, and the branches still to take it. -/
structure McWait where
  ingress : Option Nat
  pkt : List Byte
  left : List Nat
  deriving DecidableEq, Repr

/-- A kit load through the recovery responder (R439). -/
structure KitLoad where
  lanB : Bool
  slotB : Bool
  length : Nat
  got : List Byte := []
  /-- The port the sender's frames come through. -/
  port : Nat
  deriving DecidableEq, Repr

/-- The recovery responder of the always-on logic (R438, R439): the fragments received from each port, its
nonce, a kit load in progress, answers sent are sideband frames of the port. -/
structure Responder where
  frags : List (Nat × List Byte) := []
  /-- The command accepted from a port and not carried out. -/
  ready : Option (Nat × List Byte) := none
  nonce : List Word := [0, 0, 0, 0]
  load : Option KitLoad := none
  deriving DecidableEq, Repr


/-- A block in a reduction (R308 to R310): its elements, the positions it holds, its OVF and NF marks. -/
structure Blk where
  els : List Int := []
  mask : Nat := 0
  ovf : Bool := false
  nf : Bool := false
  deriving DecidableEq, Repr

/-- What a reduction context holds beside its registers (R304 to R314): its world; the member list, own
position, block count and format taken at GO, and where its tensors lie (device-local base and exponent
array of contribution and result, and DIM[0]); the sums in progress, by block of the round; what has
arrived; what is done; the flagged, non-finite and raised blocks; the blocks of the re-pitch round and the
first entry of the overflow list they took; NEXT; the fence; the tally and the packets accepted. -/
structure Ctx where
  secure : Bool := false
  members : List Nat := []
  pos : Nat := 0
  nblk : Nat := 0
  bi12 : Bool := false
  dim : Nat := 0
  cBase : Nat := 0
  cExp : Nat := 0
  rBase : Nat := 0
  rExp : Nat := 0
  /-- EXPMAX bytes so far. -/
  emax : List (Nat × Nat) := []
  /-- Sums so far. -/
  sums : List (Nat × Blk) := []
  /-- Contributions summed, and children heard. -/
  counts : List (Nat × Nat) := []
  heard : List (Nat × Nat) := []
  /-- Blocks received: phase × 2^48 + position × 2^32 + block. -/
  got : List Nat := []
  /-- Blocks of the round whose result is in place here. -/
  done : List Nat := []
  ovf : List Nat := []
  nf : List Nat := []
  raised : List Nat := []
  phi : List Nat := []
  ovlBase : Nat := 0
  next : List (Nat × Nat) := []
  fenced : Bool := false
  tally : List Nat := [0, 0, 0, 0]
  pkts : Nat := 0
  /-- What had befallen this device's links as the context opened (R317). -/
  marks : Nat := 0
  deriving DecidableEq, Repr

/-- What the Quartermaster reads of a context that has completed here (R317): its job, step, algorithm, members, own
position and tally, and whether a replay, retrain, fallen or quarantined link was met meanwhile. -/
structure TallyRec where
  job : Nat
  step : Nat
  ring : Bool
  members : Nat
  pos : Nat
  tally : List Nat
  suspect : Bool
  deriving DecidableEq, Repr

/-- The Quartermaster (R352 to R361): queue, running jobs, the last JOB number given, HOLD, the messages
waiting per mailbox, the EVENTs dropped per mailbox, lost devices. -/
structure Quarter where
  queue : List Job := []
  running : List Job := []
  lastNum : Nat := 0
  hold : Bool := false
  waiting : List (Nat × List Byte) := []
  dropped : List (Nat × Nat) := []
  lost : List Nat := []
  refusals : List (Nat × Nat) := []
  /-- Mailboxes whose doorbell has rung and whose message has not been read. -/
  rung : List Nat := []
  /-- Completed contexts whose tallies are still to be compared, oldest first. -/
  tallies : List TallyRec := []
  /-- Workers left out until their base is reloaded (R359). -/
  badBase : List Nat := []
  deriving DecidableEq, Repr

/-- A checkpoint being read back from a buddy's slot (R354): its job, the buddy's device ID, whether its header has been
found, the READs not answered (tag, and slot or offset), the pieces received, by offset. -/
structure Pull where
  job : Job
  buddy : Nat
  found : Bool := false
  wants : List (Nat × Nat) := []
  got : List (Nat × List Byte) := []
  deriving DecidableEq, Repr

/-- A setting a preset lists (R7): a field of a register, its value, and whether an expert-level write has reached the
field since (R418). -/
structure Setting where
  addr : Nat
  lsb : Nat
  width : Nat
  val : Nat
  hand : Bool := false
  deriving DecidableEq, Repr

/-- A place in a tier: the memory-side die 0 to 3, its controller (0 to 2 HBCs, 3 the LPC), the
pseudo-channel of the stack or the channel of the device, the location in it. -/
structure MemLoc where
  msd : Nat
  ctl : Nat
  ch : Nat
  loc : Nat
  deriving DecidableEq, Repr

/-- A repair the Lantern's list holds (R227, R228, R435). -/
inductive Repair where
  /-- A row, by a place in it. -/
  | row (x : MemLoc)
  /-- A bank of an HBM3E pseudo-channel, by a place in it. -/
  | bank (x : MemLoc)
  /-- A row map: 64 × pitch + row, logical column. -/
  | tent (r col : Nat)
  deriving DecidableEq, Repr

/-- Fuses, identical in both Lanterns (Table 18.3). KEK_SEED is read only by the crypto engine. -/
structure Fuses where
  uid : Word := 0
  kekSeed : BitVec 256 := 0
  vroot : BitVec 512 := 0
  owners : List (BitVec 512) := []
  revoked : List Nat := []
  /-- Life-cycle codes in the order written; the last is in force. -/
  lcLog : List Nat := []
  /-- Burned bits of the KSVN thermometer. -/
  ksvn : Nat := 0
  deriving DecidableEq, Repr

/-- The persistent area of the flashes, copied to both (R400), and the kit slots of each Lantern. -/
structure Flash where
  /-- Slot images: Lantern A slot A, A slot B, Lantern B slot A, B slot B; empty when none. -/
  slots : List (List Byte) := [[], [], [], []]
  /-- The public identity key, present with the wrapped private key (R412). -/
  pubKey : List Byte := []
  wrapped : Bool := false
  cert : List Byte := []
  repairs : List Repair := []
  strikes : Nat := 0
  /-- The life-cycle and tamper log: codes, 0x80 + code for a transition, 0xFF for a tamper. -/
  log : List Nat := []
  /-- The Lantern log, as causes. -/
  lanLog : List Nat := []
  /-- The role change of a standby basecamp's takeover (R440). -/
  roleChanged : Bool := false
  deriving DecidableEq, Repr

/-- What no reset clears: fuses and flash (Table 19.2). -/
structure Perm where
  fuses : Fuses := {}
  flash : Flash := {}
  deriving DecidableEq, Repr

/-- Everything else of the module. -/
structure Dev where
  /-- Memory, by device-local address: HBM3E, LPDDR5X, scratchpads, vector registers, instruction stores,
  Lantern SRAM. An unlisted byte is zero. -/
  mem : List Host.Cell := []
  /-- Units (64-byte granules, 16-byte words, vector elements) that read as uncorrectable, by address. -/
  bad : List Nat := []
  /-- Errors in units that have not been read since they struck, by address, oldest first. -/
  flips : List (Nat × Upset) := []
  /-- Registers, by device-local address of their home copy; an unlisted one holds its reset value. -/
  regs : List (Nat × Word) := []
  /-- Tents by logical tent ID. -/
  tents : List (Nat × Tent) := []
  /-- Global time on IOD0, in ACLK cycles (R395). -/
  time : Word := 0
  /-- Counter from which free values are drawn (the model's own). -/
  fresh : Nat := 0
  /-- The last global time each S-core read (R395), by tent × 4 + S-core. -/
  lastRead : List (Nat × Nat) := []
  /-- Posted stores on their way, oldest first, and the next store number. -/
  stores : List Store := []
  nextStore : Nat := 0
  /-- The response to the last memory request, with its requester (R224). -/
  response : Option (Master × Answer) := none
  /-- Trail transactions of this device that wait for an answer, the camp address each names, and the next tag. -/
  tids : List (Nat × Owner) := []
  tidAt : List (Nat × Nat) := []
  nextTid : Nat := 0
  /-- Ring channels: commands in flight, by die × 16 + channel. -/
  rings : List (Nat × Queue) := []
  /-- Events raised and not granted (R383). -/
  events : List Event := []
  /-- Entries a block's log has taken, by block of its kind and cause: the count an error record carries
  (R442), keyed (unit × 256 + B) × 256 + cause. -/
  errCounts : List (Nat × Nat) := []
  /-- EVSEQ of the last event granted. -/
  evSeq : Nat := 0
  /-- The active Lantern's event ring (R419), oldest first: 64-byte records as numbers that have not gone on to
  the Quartermaster. -/
  evRing : List Nat := []
  /-- Pulses raised and not acknowledged, by source (R392). -/
  pulses : List Nat := []
  /-- Watch tables by the base address of their registers. -/
  watch : List (Nat × Watch) := []
  /-- MODE the Lantern last wrote in every instance (R384): true SERVICE. -/
  watchService : Bool := true
  /-- The Lantern has written every instance from the kit settings (R384): Table 16.5, changed by a table set of the
  kit (instance base, slot, word), watch_limit and WINDOW. -/
  watchKit : Bool := false
  watchTable : List (Nat × Nat × Nat) := []
  watchLimit : Nat := 16
  watchWindow : Nat := 4095
  /-- Guyline messages on their way. -/
  gyl : List GylMsg := []
  /-- Armed Lantern waits on I/O die pegs, by die × 1024 + peg (R369). -/
  armed : List (Nat × Nat) := []
  /-- Clears: running and waiting (R233). -/
  clearRun : Option Clear := none
  clearWait : Option Clear := none
  /-- Region entries being lowered: index, new BASE, END, CTL (R239). -/
  lowering : List (Nat × Nat × Nat × Nat) := []
  /-- Rows served from save buffers, and banks being copied, each by a place in it (R227, R228). -/
  rowSaves : List MemLoc := []
  bankCopies : List MemLoc := []
  /-- Post-package repairs used, by die × 4 + controller and physical bank; spare banks used, by die × 4 + controller and
  pseudo-channel. -/
  pprUsed : List (Nat × Nat) := []
  sparesUsed : List (Nat × Nat) := []
  /-- Banks whose map has switched to a spare (R228): die × 4 + controller, bank, physical bank; newest first. -/
  bankMap : List (Nat × Nat × Nat) := []
  /-- Channels in power-down (R433). -/
  memDown : List Nat := []
  /-- The memories are in self-refresh. -/
  selfRefresh : Bool := false
  /-- The pack engines: a GEN change being applied (R183). -/
  packGenClr : Bool := false
  /-- The expert units of these tents owe a GEN clear (R209). -/
  expertGenClr : Bool := false
  /-- Guylines owe a forced release (R376), contexts a cancel (R318). -/
  gylGenClr : Bool := false
  /-- Reduction contexts 0 to 63, packets waiting (R315), GOs held by a re-shard (R319). -/
  ctxs : List (Nat × Ctx) := []
  waitPkts : List (List Byte) := []
  heldGo : List Nat := []
  /-- UCIe modules by pair × 32 + module. -/
  ucie : List (Nat × Module) := []
  /-- The pairs in the middle of a change of hash (R18). -/
  rehash : List (Nat × Rehash) := []
  /-- Failed routers (R30): physical tent (65 to a row), network: 0 mesh, 1 and 2 the stream planes A and B. -/
  routersOut : List (Nat × Nat) := []
  /-- Trail links 0 to 47, ports 0 to 23. -/
  links : List (Nat × Link) := []
  ports : List (Nat × Port) := []
  mcasts : List Mcast := []
  /-- Multicast transfers being received with a write that failed: SRC × 65536 + TID, status (R283). -/
  mcIn : List (Nat × Nat) := []
  mcWaits : List McWait := []
  /-- The host port. -/
  host : HostPort := {}
  /-- This device's ID and role (0 member, 1 basecamp, 2 standby basecamp), and the camp's device IDs. -/
  devId : Nat := 0
  role : Nat := 0
  camp : List Nat := []
  /-- The device IDs of the basecamp and the standby basecamp. -/
  baseId : Nat := 0
  standbyId : Nat := 0
  /-- Power and pins: RST_N, PWR_GOOD, ALERT_N, and whether REFCLK runs. -/
  power : Power := .off
  rstN : Bool := true
  pwrGood : Bool := false
  alertN : Bool := true
  refclk : Bool := true
  /-- The kit is applied: RWL fields are locked (R4) and the device is autonomous (R403). -/
  kitApplied : Bool := false
  tampered : Bool := false
  debugOpen : Bool := false
  /-- A DEVICE error has stopped the engines; new work is refused (R441). -/
  halted : Bool := false
  /-- The two Lanterns, A first. -/
  lanA : Lantern := {}
  lanB : Lantern := {}
  /-- Management: the SEQ of this device's messages, the camp-time offset being slewed to. -/
  mgmtSeq : Nat := 0
  campTarget : Int := 0
  /-- The Quartermaster's state, where it runs. -/
  qm : Quarter := {}
  /-- A strike in progress: the JOB struck (R414); the region entries whose clear has not started. -/
  striking : Option Nat := none
  strikeRgn : List Nat := []
  /-- Entries the strike in progress clears, and whether tamper was found during it. -/
  strikeCount : Nat := 0
  /-- The strike record (R417): strike counter, regions cleared, TAMPERED at the strike. -/
  strikeRec : List Nat := [0, 0, 0]
  /-- The job that runs on this device, as its Lantern keeps it: what its report needs (R417). -/
  jobHere : Option Job := none
  /-- Camp time at its start, its manifest's and image's digests are taken from it (Table 18.12). -/
  jobStart : Word := 0
  /-- A start that waits for the clears before its region table is in force (R239): job, tally keys. -/
  startWait : Option (Job × Word × Word) := none
  /-- A start that waits for the strike in progress (R361): job, position, tally keys. -/
  owedStart : Option (Job × Nat × Word × Word) := none
  /-- A restore from a buddy that waits for that start (R354). -/
  owedRestore : Option (Job × Nat) := none
  /-- The buddy copy being written (R352): the writes not acknowledged, and the camp address of the STATE that is
  written when they are; a checkpoint being read back. -/
  stashAcks : List Nat := []
  stashSeal : Option (Nat × Nat) := none
  pull : Option Pull := none
  /-- Tent evacuations asked for and not made (R435). -/
  evacWait : List Nat := []
  /-- Evacuations abandoned, which run at the next strike with no state copied (R435). -/
  evacLater : List Nat := []
  /-- The responder. -/
  resp : Responder := {}
  /-- The Compass's latest report, what it last read of each tent counter, the last page an SMBus block read
  returned. -/
  report : List Byte := []
  smbus : List Byte := []
  compassRead : List (Nat × Word) := []
  /-- Parts above their warning temperature (R433, R456). -/
  warm : List Nat := []
  /-- LAN_RESET.WARM has been written by the access in progress, which a WARM reset ends (R424). -/
  warmAsked : Bool := false
  /-- The last preset that listed each setting (R9), by register address × 64 + lowest bit. -/
  preset : List (Nat × Setting) := []
  deriving DecidableEq, Repr

/-- The state: the commands that wait, first in first out; what no reset clears; the rest. -/
structure State where
  pending : List Instr := []
  perm : Perm := {}
  dev : Dev := {}
  deriving DecidableEq, Repr

/-- The module before its first power-up: nothing is pending, nothing listed, registers at their reset
values. The module is out of power; what the spec leaves to each part (UID, VROOT, the kits in flash) is at
the value the assumption log names. -/
def State.reset : State := {}

end Sys2Proof.Machine
end

