-- ==== Sys2Proof/Machine/Ops.lean ====
section
/-! DEFINITION. The named operations over registers, memory, tents and queues; the error log and events
(R441, R442, Table 18.14); peg signals (R362, R368, R369). -/

namespace Sys2Proof.Machine

/-- The outcome of a command. -/
abbrev Out := Host.Outcome State Fault Refusal

/-- A command that changes the device and nothing that survives every reset. -/
def lift (f : Dev → Dev) (s : State) : Out := .next { s with dev := f s.dev }

/-- The same, for a command that reads fuses or flash. -/
def liftP (f : Perm → Dev → Dev) (s : State) : Out := .next { s with dev := f s.perm s.dev }

/-- A command that may write flash or burn fuses. -/
def liftAll (f : Perm → Dev → Perm × Dev) (s : State) : Out :=
  .next { s with perm := (f s.perm s.dev).1, dev := (f s.perm s.dev).2 }

/-! ### Registers -/

/-- The value of the register whose home address is a. -/
def Dev.reg (d : Dev) (a : Nat) : Nat := (look regReset d.regs a).toNat

/-- Set it. -/
def Dev.setReg (d : Dev) (a v : Nat) : Dev := { d with regs := put regReset d.regs a (BitVec.ofNat 64 v) }

/-- A field of a register. -/
def Dev.regF (d : Dev) (a lsb width : Nat) : Nat := field (d.reg a) lsb width

/-- Set a field of a register. -/
def Dev.setRegF (d : Dev) (a lsb width v : Nat) : Dev := d.setReg a (withField (d.reg a) lsb width v)

/-- Add to a counter. -/
def Dev.bump (d : Dev) (a n : Nat) : Dev := d.setReg a (d.reg a + n)

/-- Set bits of a register. -/
def Dev.orReg (d : Dev) (a m : Nat) : Dev := d.setReg a (d.reg a ||| m)

/-- The registers of [lo, hi) at their reset values. -/
def Dev.wipeRegs (d : Dev) (lo hi : Nat) : Dev := { d with regs := wipe d.regs lo hi }

/-! ### Tents -/

/-- The state of a tent. -/
def Dev.tent (d : Dev) (t : Nat) : Tent := look (fun _ => {}) d.tents t

/-- Replace it. -/
def Dev.setTent (d : Dev) (t : Nat) (x : Tent) : Dev := { d with tents := put (fun _ => {}) d.tents t x }

/-- Change it. -/
def Dev.modTent (d : Dev) (t : Nat) (f : Tent → Tent) : Dev := d.setTent t (f (d.tent t))

/-- S-core n of a tent. -/
def Dev.core (d : Dev) (t n : Nat) : Core := look (fun _ => {}) (d.tent t).cores n

/-- Replace it. -/
def Dev.setCore (d : Dev) (t n : Nat) (c : Core) : Dev :=
  d.modTent t fun x => { x with cores := put (fun _ => {}) x.cores n c }

/-- Queue q of a tent. -/
def Dev.queue (d : Dev) (t q : Nat) : Queue := look (fun _ => {}) (d.tent t).queues q

/-- Replace it. -/
def Dev.setQueue (d : Dev) (t q : Nat) (x : Queue) : Dev :=
  d.modTent t fun s => { s with queues := put (fun _ => {}) s.queues q x }

/-- Change it. -/
def Dev.modQueue (d : Dev) (t q : Nat) (f : Queue → Queue) : Dev := d.setQueue t q (f (d.queue t q))

/-- Depth of a queue (Table 2.6). -/
def queueDepth (q : Nat) : Nat := if q = 8 then 32 else if q = 9 then 8 else 16

/-- Free entries of a queue. A command leaves its entry when it issues; a WAIT pending at the head keeps it. A
FEED (opcode 7 of queue 6) takes one entry of the mover's queue while it runs (R126). -/
def Dev.queueFree (d : Dev) (t q : Nat) : Nat :=
  let feeds := if q = 8 then ((d.queue t 6).flight.filter fun i => i.cmd.toNat % 16 == 7).length else 0
  queueDepth q - (d.queue t q).entries.length - feeds

/-- A new request wakes a gated block (R433): 0 to 3 S-cores, 4 + q the engine of queue q. -/
def Dev.ungate (d : Dev) (t b : Nat) : Dev :=
  if (d.tent t).gated.contains b then d.modTent t fun x => { x with gated := x.gated.filter (· != b) } else d

/-- The requester of Table 2.7 that a master's access of a tent uses: the S-cores of a tent in it, the mesh port
for every other. -/
def padReqOf (w : Writer) (t : Nat) : Nat :=
  match w.who with
  | .score u n => if u.toNat = t then n.toNat else 13
  | .mover u => if u.toNat = t then 4 else 13
  | _ => 13

/-- The number by which a log names the writer of a count (R371, R377). DESIGN CHOICE: the spec gives no numbers. -/
def writerCode (w : Writer) : Nat :=
  match w.who with
  | .score _ n => n.toNat
  | .mover _ => 4
  | .arrayPort _ _ => 5
  | .forage _ => 11
  | .vector _ => 12
  | .pack _ => 13
  | .ring _ _ => 16
  | .host => 17
  | .debug => 18
  | .lantern b => 19 + b2n b
  | .device _ => 21

/-! ### Settings (R7 to R9) -/

/-- An expert-level write has reached the bytes [a, a + n) of a register: the settings a preset listed there count as
changed by hand (R418). -/
def Dev.noteHand (d : Dev) (a n : Nat) : Dev :=
  let hit (s : Setting) : Bool :=
    decide (s.addr + s.lsb / 8 < a + n) && decide (a ≤ s.addr + (s.lsb + s.width - 1) / 8)
  if d.preset.any fun p => hit p.2 then
    { d with preset := d.preset.map fun p => if hit p.2 then (p.1, { p.2 with hand := true }) else p }
  else d

/-- The life-cycle state in force: 0 MANUFACTURE, 1 PROVISIONED, 2 FIELD, 3 RETURN, 4 END. -/
def Fuses.lifecycle (f : Fuses) : Nat := f.lcLog.getLastD 0

/-! ### Identity and worlds -/

/-- RDX_IDENT on IOD0. -/
def identAddr : Nat := dieReg 6 0xE00_0000
/-- The job in force. -/
def Dev.job (d : Dev) : Nat := d.regF identAddr 0 12
/-- EPOCH in force. -/
def Dev.epoch (d : Dev) : Nat := d.regF identAddr 12 4
/-- GEN in force. -/
def Dev.gen (d : Dev) : Nat := d.regF identAddr 16 8

/-- TNT_BLK_WORLD in force: bits 0 to 3 S-cores, 4 mover, 5 arrays, 6 Forage, 7 vector (R406). -/
def Dev.blkSecure (d : Dev) (t b : Nat) : Bool := bitAt (d.reg (tentReg t 0x18)) b

/-- A register of ring channel ch of a die: BASE at 0, CTL at 8, HEAD at 0xC, TAIL at 0x10. -/
def ringReg (die ch o : Nat) : Nat := dieReg die ((if die < 6 then 0x600_0000 else 0x1000_0000) + 0x100 * ch + o)

/-- The channel's world. -/
def Dev.ringSecure (d : Dev) (die ch : Nat) : Bool := d.regF (ringReg die ch 8) 5 1 == 1
/-- The JOB of the channel's traffic. -/
def Dev.ringJob (d : Dev) (die ch : Nat) : Nat := d.regF (ringReg die ch 8) 6 12
/-- The channel stopped on a fault. -/
def Dev.ringStopped (d : Dev) (die ch : Nat) : Bool := d.regF (ringReg die ch 8) 18 1 == 1

/-! ### The world a requester acts in (R6, R291, R405 to R407) -/

/-- The world of the debug port (Table 18.8); none in END, where it reaches no register and no memory. -/
def debugWorld (p : Perm) (d : Dev) : Option Bool :=
  let s := p.fuses.lifecycle
  if s = 2 then some d.debugOpen else if 4 ≤ s then none else some true

/-- The world a requester acts in: a block of a tent in that of TNT_BLK_WORLD, a ring channel in that of SECURE, the host
in the non-secure one, the debug port in that of Table 18.8. An access of a Lantern, of a pack engine or of another
device carries its own. None: the requester makes no access. -/
def worldOf (p : Perm) (d : Dev) (w : Writer) : Option Bool :=
  match w.who with
  | .score t n => some (d.blkSecure t.toNat n.toNat)
  | .mover t => some (d.blkSecure t.toNat 4)
  | .arrayPort t _ => some (d.blkSecure t.toNat 5)
  | .forage t => some (d.blkSecure t.toNat 6)
  | .vector t => some (d.blkSecure t.toNat 7)
  | .ring die ch => some (d.ringSecure die.toNat ch.toNat)
  | .host => some false
  | .debug => debugWorld p d
  | _ => some w.secure

/-- The writer of a command with the world it acts in. -/
def State.acting (s : State) (w : Writer) : Option Writer :=
  (worldOf s.perm s.dev w).map fun b => ⟨w.who, b⟩

/-- A command of a requester, which acts in its world. -/
def asWriter (w : Writer) (f : Writer → State → Out) (s : State) : Out :=
  match s.acting w with
  | some v => f v s
  | none => .next s

/-- Segment i of a tent is secure: its bit still reads 1 while it is being lowered (R44). -/
def Dev.segSecure (d : Dev) (t i : Nat) : Bool := bitAt (d.reg (tentReg t 0x10)) i

/-! ### Errors and events -/

/-- Classes of Table 18.14. -/
def clsCorrected : Nat := 1
/-- CONTAINED. -/
def clsContained : Nat := 2
/-- DEVICE. -/
def clsDevice : Nat := 3

/-- The event-path requester of a die of Table 2.10, for a tent's pitch see `tentErr` (Table 16.4). -/
def srcOfDie (die : Nat) : Nat :=
  if die < 2 then 2 * die else if die < 6 then 4 + (die - 2) else 8 + (die - 6)

/-- The die a source of the event path lies on. -/
def dieOfSrc (src : Nat) : Nat :=
  if src < 4 then src / 2 else if src < 8 then src - 2 else if src < 10 then src - 2 else 6

/-- The "record waiting" notice of a source (R392): one raised before the last was acknowledged merges into it
and is counted in CLK_MERGED of its die. -/
def Dev.pulse (d : Dev) (src : Nat) : Dev :=
  if d.pulses.contains src then d.bump (dieReg (dieOfSrc src) 0x1500_0008) 1
  else { d with pulses := d.pulses ++ [src] }

/-- An event of this device at this time, with the identity in force (Table 18.14). A DEVICE event stops
every engine and ring channel, drives ALERT_N low (R441, R456) and abandons the live-service procedures (R434). -/
def Dev.raise (d : Dev) (src cls code unit detail : Nat) : Dev :=
  { d.pulse src with
    events := d.events ++ [⟨src, cls, code, unit, d.job + d.epoch * 2 ^ 12, d.gen, d.time, detail⟩]
    rowSaves := if cls = clsDevice then [] else d.rowSaves
    bankCopies := if cls = clsDevice then [] else d.bankCopies
    evacWait := if cls = clsDevice then [] else d.evacWait
    halted := d.halted || cls == clsDevice
    alertN := d.alertN && cls != clsDevice }

/-- What an error record carries beside its block, class and cause (R442). -/
structure ErrInfo where
  op : Nat := 0
  tag : Nat := 0
  addr : Nat := 0
  spec : Nat := 0
  deriving DecidableEq, Repr

/-- An entry of a block's error log, sent as an error record (R442): block B of Table 19.7 at a unit. -/
def Dev.logErr (d : Dev) (src unit blk cls cause : Nat) (i : ErrInfo := {}) : Dev :=
  let key := (unit * 256 + blk) * 256 + cause
  let n := look (fun _ => 0) d.errCounts key + 1
  { d with errCounts := put (fun _ => 0) d.errCounts key n }.raise src cls (0x400 + blk) unit
    (cause + i.op % 256 * 2 ^ 8 + i.tag % 2 ^ 16 * 2 ^ 16 + i.addr % 2 ^ 64 * 2 ^ 64 +
      n % 2 ^ 64 * 2 ^ 128 + i.spec % 2 ^ 64 * 2 ^ 192)

/-- The pitch of a tent or of a row spare. -/
def pitchOf (t : Nat) : Nat := if t < 16384 then t / 4096 else (t - 16384) / 64

/-- An entry of a log of a tent's block. -/
def Dev.tentErr (d : Dev) (t blk cls cause : Nat) (i : ErrInfo := {}) : Dev :=
  d.logErr (pitchOf t) t blk cls cause i

/-- An entry of a log of a die's block: unit is the die, and a port or channel in bits [15:8]. -/
def Dev.dieErr (d : Dev) (die port blk cls cause : Nat) (i : ErrInfo := {}) : Dev :=
  d.logErr (srcOfDie die) (die + port * 256) blk cls cause i

/-- The last event carries a JOB. -/
def Dev.asJob (d : Dev) (job : Nat) : Dev :=
  match d.events.getLast? with
  | some e => { d with events := d.events.dropLast ++ [{ e with ident := e.ident / 4096 * 4096 + job }] }
  | none => d

/-! ### Memory -/

/-- What an unlisted byte of memory reads as. -/
def byte0 : Nat → Byte := fun _ => 0

/-- Memory is in its canonical form: addresses strictly rising, no entry that reads as an unlisted byte does. -/
def Memory.wf (m : List Host.Cell) : Bool := canonical byte0 m

/-- n bytes of memory. -/
def Dev.rd (d : Dev) (a n : Nat) : List Byte := lookAll byte0 d.mem a n

/-- A little-endian number in n bytes of memory (R1). -/
def Dev.rdNat (d : Dev) (a n : Nat) : Nat := leNat (d.rd a n)

/-- Bytes of the ECC unit that holds an address: a scratchpad word, a granule of memory, a vector element
(R42, R220, R154); 1 where no unit is named. -/
def unitLen (a : Nat) : Nat :=
  match regionOf a with
  | .hbm => 64
  | .lpddr => 64
  | .scratch _ _ => 16
  | .vreg _ _ => 4
  | _ => 1

/-- The address of an ECC unit. -/
def unitBase (a : Nat) : Nat := a / unitLen a * unitLen a

/-- Some unit of [a, a + n) reads as uncorrectable. -/
def Dev.badIn (d : Dev) (a n : Nat) : Bool :=
  d.bad.any fun u => decide (u < a + n) && decide (a < u + unitLen u)

/-- A unit turns uncorrectable. -/
def Dev.spoil (d : Dev) (a : Nat) : Dev :=
  if d.bad.contains (unitBase a) then d else { d with bad := d.bad ++ [unitBase a] }

/-- An error strikes the unit of an address: it shows when the unit is next read. -/
def Dev.upset (d : Dev) (a : Nat) (e : Upset) : Dev :=
  if unitLen a = 1 then d else { d with flips := d.flips ++ [(unitBase a, e)] }

/-- Bad units that a write of [a, a + n) covers only in part. -/
def Dev.blockedBy (d : Dev) (a n : Nat) : List Nat :=
  d.bad.filter fun u =>
    decide (u < a + n) && decide (a < u + unitLen u) &&
      !(decide (a ≤ u) && decide (u + unitLen u ≤ a + n))

/-- Put bytes except those of the blocked units. -/
def putKept (blocked : List Nat) : List Host.Cell → Nat → List Byte → List Host.Cell
  | m, _, [] => m
  | m, a, b :: bs =>
    putKept blocked
      (if blocked.any (fun u => decide (u ≤ a) && decide (a < u + unitLen u)) then m else put byte0 m a b)
      (a + 1) bs

/-- A write to a unit takes its error away, unless the fault is hard. -/
def upsetSoft : Upset → Bool
  | .wrong _ again => !again
  | .onDie => true

/-- Write bytes (R42, R225): a unit written whole becomes readable again; a bad unit written in part is left
as it was. The Bool tells that one was. -/
def Dev.wr (d : Dev) (a : Nat) (bs : List Byte) : Dev × Bool :=
  let blocked := d.blockedBy a bs.length
  ({ d with
      mem := putKept blocked d.mem a bs
      bad := d.bad.filter fun u => !(decide (a ≤ u) && decide (u + unitLen u ≤ a + bs.length))
      flips := d.flips.filter fun p =>
        !(upsetSoft p.2 && decide (a ≤ p.1) && decide (p.1 + unitLen p.1 ≤ a + bs.length)) },
    !blocked.isEmpty)

/-- Write bytes where no unit is bad, or whatever of them can be written. -/
def Dev.wrB (d : Dev) (a : Nat) (bs : List Byte) : Dev := (d.wr a bs).1

/-- Write a little-endian number of n bytes. -/
def Dev.wrNat (d : Dev) (a n v : Nat) : Dev := d.wrB a (leBytes n v)

/-- Zero the bytes of [lo, hi), which also makes their units readable. -/
def Dev.zero (d : Dev) (lo hi : Nat) : Dev :=
  { d with
    mem := wipe d.mem lo hi
    bad := d.bad.filter fun u => !(decide (lo ≤ u) && decide (u < hi))
    flips := d.flips.filter fun p => !(upsetSoft p.2 && decide (lo ≤ p.1) && decide (p.1 < hi)) }

/-- n open bytes (R100, R224), which no statement can rest on. -/
def Dev.freeBytes (d : Dev) (n : Nat) : List Byte × Dev :=
  ((List.range n).map fun i => Config.freeByte (d.fresh + i), { d with fresh := d.fresh + n })

/-- An open 64-bit word. -/
def Dev.freeWord (d : Dev) : Word × Dev := (Config.freeWord d.fresh, { d with fresh := d.fresh + 1 })

/-- The bytes of a read in which bad units give open bytes. -/
def Dev.rdOpen (d : Dev) (a n : Nat) : List Byte × Dev :=
  let f := d.freeBytes n
  (((d.rd a n).zip f.1).zipIdx.map fun (x, i) => if d.badIn (a + i) 1 then x.2 else x.1, f.2)

/-- Open bytes over a range of this device's memory: contents the spec leaves undefined. -/
def Dev.undef (d : Dev) (a n : Nat) : Dev :=
  let f := d.freeBytes n
  f.2.wrB a f.1

/-- Put bytes at device-local addresses. -/
def Dev.placeAll (d : Dev) (bs : List (Nat × Byte)) : Dev :=
  bs.foldl (fun (d : Dev) p => d.wrB p.1 [p.2]) d

/-! ### Camp addresses (R54 to R56) -/

/-- Where a camp address leads. -/
inductive Place where
  | here (a : Nat)
  | remote (dev a : Nat)
  /-- A decode fault. -/
  | bad
  deriving DecidableEq, Repr

/-- Decode a camp address: reserved bits, SELF, device ID, and the ranges of Table 2.10. -/
def Dev.place (d : Dev) (x : Nat) : Place :=
  let a := field x 0 48
  if field x 59 5 ≠ 0 then .bad
  else if bitAt x 58 || field x 48 10 == d.devId then (if regionOf a = .none then .bad else .here a)
  else if d.camp.contains (field x 48 10) then .remote (field x 48 10) a
  else .bad

/-- The camp address that a place of this device has, for an address with SELF or the device's own ID, or a
device-local one (R73's address input). -/
def Dev.ownAddrOf (d : Dev) (x : Nat) : Nat := d.devId * 2 ^ 48 + x % 2 ^ 48

/-! ### Pegs (R362, R368, R369) -/

/-- PEG_CNT_p of a tent. -/
def pegAddr (t p : Nat) : Nat := tentReg t (0x40_0004 + 0x10 * p)

/-- The count of a tent peg. -/
def Dev.peg (d : Dev) (t p : Nat) : Nat := d.reg (pegAddr t p)

/-- A tent peg is signalled by c: it saturates at 2^32 - 1, sets SAT and logs (R368). -/
def Dev.pegSig (d : Dev) (t p c : Nat) : Dev :=
  let n := d.peg t p + c
  if n < 2 ^ 32 then d.setReg (pegAddr t p) n
  else
    ((d.setReg (pegAddr t p) (2 ^ 32 - 1)).orReg (tentReg t 0x40_0448) (2 ^ p)).tentErr t 1 clsContained 0x12
      { addr := tentReg t (0x40_0000 + 0x10 * p) }

/-- PEG_IO_CNT_n of an I/O die. -/
def ioPegAddr (die n : Nat) : Nat := dieReg die (0x1100_0004 + 0x10 * n)

/-- The armed Lantern wait of an I/O die peg takes its n when the count reaches it (R369). -/
def Dev.ioPegTest (d : Dev) (die n : Nat) : Dev :=
  let k := die * 1024 + n
  let w := look (fun _ => 0) d.armed k
  let c := d.reg (ioPegAddr die n)
  if w ≠ 0 ∧ w ≤ c then
    ({ d with armed := put (fun _ => 0) d.armed k 0 }.setReg (ioPegAddr die n) (c - w)).raise
      (srcOfDie die) 0 0x0201 (die + n % 256 * 256) n
  else d

/-- An I/O die peg is signalled by c. -/
def Dev.ioPegSig (d : Dev) (die n c : Nat) : Dev :=
  let v := d.reg (ioPegAddr die n) + c
  if v < 2 ^ 32 then (d.setReg (ioPegAddr die n) v).ioPegTest die n
  else
    (((d.setReg (ioPegAddr die n) (2 ^ 32 - 1)).orReg (dieReg die (0x1100_4000 + n / 64 * 8))
      (2 ^ (n % 64))).dieErr die 0 0x0F clsContained 0x01 { addr := n }).ioPegTest die n

/-! ### Commands of queues -/

/-- Bits [lsb + w - 1 : lsb] of a 32-byte command. -/
def cmdF (c : Cmd) (lsb w : Nat) : Nat := field c.toNat lsb w

/-- Bytes [o, o + n) of a command as a number. -/
def cmdB (c : Cmd) (o n : Nat) : Nat := field c.toNat (8 * o) (8 * n)

/-- The head of a queue that may issue: the device is not halted (R441), no WAIT is pending at the head. A
stopped queue still issues the commands it kept (R100). -/
def Dev.head (d : Dev) (t q : Nat) : Option Cmd :=
  let x := d.queue t q
  if d.halted || x.waiting then none else x.entries.head?

/-- The head issues: it leaves its entry and is in flight with the flags its work raised. -/
def Dev.issue (d : Dev) (t q : Nat) (i : Issued) : Dev :=
  d.modQueue t q fun x => { x with entries := x.entries.tail, flight := x.flight ++ [i], waiting := false }

/-- Remove the element at an index. -/
def dropNth {α : Type} (xs : List α) (i : Nat) : List α := xs.take i ++ xs.drop (i + 1)

/-- Command i in flight of a queue has completed. -/
def Dev.retire (d : Dev) (t q i : Nat) : Dev :=
  d.modQueue t q fun x => { x with flight := dropNth x.flight i }

end Sys2Proof.Machine
end

