-- ==== Sys2Proof/Machine/Memory.lean ====
section
/-! DEFINITION. The memory tiers (10_memory_tiers): address decode, region worlds, reads, writes and
accumulates with their status, error correction and repair, fast clear, region lowering. -/

namespace Sys2Proof.Machine

/-! ### Where an address lives (R218, R219) -/

/-- G in bytes of an interleave code. -/
def interleave (code : Nat) : Nat :=
  match code with
  | 0 => 0x100
  | 1 => 0x400
  | 2 => 0x1000
  | _ => 0x1_0000

/-- MSD_CTL (one shared copy, R239). -/
def msdCtl : Nat := dieReg 2 0

/-- Decode an HBM3E or LPDDR5X address under MSD_CTL (R218, R219). -/
def Dev.memLoc (d : Dev) (a : Nat) : MemLoc :=
  if a < hbmEnd then
    let G := interleave (d.regF msdCtl 0 2)
    if d.regF msdCtl 2 1 = 0 then
      let g := a / G
      let st := g % 12
      ⟨st / 3, st % 3, g / 12 % 32, g / 384 * G + a % G⟩
    else
      let h := a / (576 * 2 ^ 30)
      let b := a - h * (576 * 2 ^ 30)
      let g := b / G
      let st := 6 * h + g % 6
      ⟨st / 3, st % 3, g / 6 % 32, g / 192 * G + b % G⟩
  else
    let l := a - lpBase
    let G := interleave (d.regF msdCtl 3 2)
    if d.regF msdCtl 5 1 = 0 then
      let g := l / G
      ⟨g % 96 / 24, 3, g % 96, g / 96 * G + l % G⟩
    else
      let h := l / (1536 * 2 ^ 30)
      let b := l - h * (1536 * 2 ^ 30)
      let g := b / G
      let c := 48 * h + g % 48
      ⟨c / 24, 3, c, g / 48 * G + b % G⟩

/-- Die number of Table 2.10 of a place. -/
def MemLoc.die (x : MemLoc) : Nat := 2 + x.msd
/-- HBC_MAINT or LPC_MAINT of the place's controller. -/
def MemLoc.maint (x : MemLoc) : Nat := dieReg x.die ((2 + x.ctl) * 0x100_0000)
/-- A counter of its controller, by offset. -/
def MemLoc.cnt (x : MemLoc) (o : Nat) : Nat := x.maint + o
/-- Key of the controller. -/
def MemLoc.key (x : MemLoc) : Nat := x.die * 4 + x.ctl
/-- Key of the bank within the controller. -/
def MemLoc.bank (x : MemLoc) : Nat := x.ch * 2 ^ 32 + Config.bankOf x.loc
/-- Two places lie in one bank. -/
def MemLoc.sameBank (x y : MemLoc) : Bool := x.key == y.key && x.bank == y.bank
/-- Two places lie in one row. -/
def MemLoc.sameRow (x y : MemLoc) : Bool := x.sameBank y && Config.rowOf x.loc == Config.rowOf y.loc
/-- Block B of Table 19.7 of the controller: HBC 8, LPC 9. -/
def MemLoc.blk (x : MemLoc) : Nat := if x.ctl = 3 then 9 else 8

/-! ### Worlds (R237, R238) -/

/-- MSD_RGN_BASE_n; END at +8, CTL at +0x10 (shared). -/
def rgnAddr (n : Nat) : Nat := dieReg 2 (0x100_0000 + 0x20 * n)

/-- Region n is valid and secure. -/
def Dev.rgnSecure (d : Dev) (n : Nat) : Bool := d.regF (rgnAddr n + 0x10) 0 2 == 3

/-- Base and end address of region n. -/
def Dev.rgnRange (d : Dev) (n : Nat) : Nat × Nat :=
  (d.regF (rgnAddr n) 20 28 * 2 ^ 20, d.regF (rgnAddr n + 8) 20 28 * 2 ^ 20)

/-- Some granule of [a, a + n) is secure, the region `but` apart. -/
def Dev.memSecureBut (d : Dev) (but : Option Nat) (a n : Nat) : Bool :=
  (List.range 64).any fun k =>
    decide (some k ≠ but) && d.rgnSecure k &&
      decide ((d.rgnRange k).1 < (d.rgnRange k).2) &&
      decide ((d.rgnRange k).1 < (a + n + 63) / 64 * 64) && decide (a / 64 * 64 < (d.rgnRange k).2)

/-- Some granule of [a, a + n) is secure. -/
def Dev.memSecure (d : Dev) (a n : Nat) : Bool := d.memSecureBut none a n

/-! ### Requests -/

/-- What asks a memory-side die (R216): a master, a block of an I/O die (a reduction context, a Lantern), the BBM
engine, the scrub or a repair, a clear. -/
inductive MemSrc where
  | master (m : Master)
  | io
  | bbm
  | maint
  | clear
  deriving DecidableEq, Repr

/-- Whether a tent reaches a memory-side die from its own compute die, over a compute pair (R220). -/
def sameDie (t msd : Nat) : Bool := pitchOf t / 2 == msd / 2

/-- The port of MSD_ERR at which a request of a source reaches memory-side die m (R216, R220). DESIGN CHOICE: a pack
engine or a mover of another memory-side die comes over the I/O pair, since no pair joins two memory-side dies. -/
def MemSrc.port (x : MemSrc) (m : Nat) : Nat :=
  match x with
  | .bbm => 4
  | .maint => 5
  | .clear => 6
  | .io => 1
  | .master w =>
    match w with
    | .score t _ => if sameDie t.toNat m then 0 else 1
    | .mover t => if sameDie t.toNat m then 0 else 1
    | .arrayPort t _ => if sameDie t.toNat m then 0 else 1
    | .forage t => if sameDie t.toNat m then 0 else 1
    | .vector t => if sameDie t.toNat m then 0 else 1
    | .pack t => if pitchOf t.toNat = m then 2 else 1
    | .ring d _ => if d.toNat = 2 + m then 3 else 1
    | _ => 1

/-- Who asks: the source, the JOB, the world. -/
structure MemReq where
  src : MemSrc
  job : Nat
  secure : Bool
  deriving DecidableEq, Repr

/-- The event of a status other than OK: MSD_ERR, MSD_ERR_ADDR, the log of the die that holds the granule
(R224, R225, R238). -/
def Dev.msdEvent (d : Dev) (q : MemReq) (status a : Nat) : Dev :=
  let x := d.memLoc a
  let port := q.src.port x.msd
  let cls := if status = 1 ∨ status = 4 then clsContained else clsCorrected
  ((d.setReg (dieReg x.die 0x200) (status + port * 2 ^ 8 + q.job % 2 ^ 12 * 2 ^ 12)).setReg
    (dieReg x.die 0x208) a).dieErr x.die 0 7 cls status { op := port, addr := a }

/-- A refusal by the region table, recorded at the lowest secure granule that [a, a + n) touches (R225, R238). -/
def Dev.msdRefuse (d : Dev) (q : MemReq) (a n : Nat) : Dev :=
  let lo := (List.range 64).filterMap fun k =>
    if d.rgnSecure k && decide ((d.rgnRange k).1 < (d.rgnRange k).2) &&
        decide ((d.rgnRange k).1 < a + n) && decide (a < (d.rgnRange k).2)
    then some (max (a / 64 * 64) (d.rgnRange k).1) else none
  let g := lo.foldl min (lo.headD (a / 64 * 64))
  (d.bump (dieReg (d.memLoc g).die 0x318) 1).msdEvent q 2 g

/-- The bad units of [a, a + n). -/
def Dev.badUnits (d : Dev) (a n : Nat) : List Nat :=
  d.bad.filter fun u => decide (u < a + n) && decide (a < u + unitLen u)

/-- UNCORR of each controller counts its own granules, and the lowest is recorded (R225). -/
def Dev.uncorrEvent (d : Dev) (q : MemReq) (gs : List Nat) : Dev :=
  (gs.foldl (fun (d : Dev) g => d.bump ((d.memLoc g).cnt 0x108) 1) d).msdEvent q 1 (gs.foldl min (gs.headD 0))

/-! ### Error correction and repair (R222 to R229) -/

/-- The physical bank a place's bank is mapped to: its own, or the spare the map has switched to (R228). -/
def Dev.physBank (d : Dev) (x : MemLoc) : Nat :=
  match d.bankMap.find? fun p => p.1 == x.key && p.2.1 == x.bank with
  | some p => p.2.2
  | none => x.bank

/-- The physical number of spare k of a pseudo-channel. -/
def spareBank (ch k : Nat) : Nat := ch * 2 ^ 32 + (k + 1) * 2 ^ 48

/-- A hard fault is repaired live where REPAIR_EN is set (R227): a row of a bank with a post-package repair left goes
to one of the controller's four save buffers; an HBM3E bank without one is copied to a spare (R228); with neither,
DEVICE (R229). A row already saved is served from its buffer, a bank already being copied is copied once. The Bool
tells that the fault is out of the way; it is met again otherwise. -/
def Dev.repair (d : Dev) (a : Nat) : Dev × Bool :=
  let x := d.memLoc a
  if d.regF x.maint 8 1 = 0 then (d, false)
  else if d.rowSaves.any x.sameRow then (d, true)
  else
    let bank := d.physBank x
    let used := (d.pprUsed.filter fun p => p.1 == x.key && p.2 == bank).length
    let spares := (d.sparesUsed.filter fun p => p.1 == x.key && p.2 == x.ch).length
    if used < Config.pprPerBank then
      if 4 ≤ (d.rowSaves.filter fun y => y.key == x.key).length then (d, false)
      else ({ d with rowSaves := d.rowSaves ++ [x], pprUsed := d.pprUsed ++ [(x.key, bank)] }, true)
    else if d.bankCopies.any x.sameBank then (d, false)
    else if x.ctl < 3 ∧ spares < 2 then
      ({ d with bankCopies := d.bankCopies ++ [x], sparesUsed := d.sparesUsed ++ [(x.key, x.ch)] }, false)
    else (d.dieErr x.die 0 x.blk clsDevice 0x01 { addr := a }, false)

/-- Symbols of an error that the code of a granule corrects: 3 in HBM3E, 2 in LPDDR5X (R222, R223). -/
def corrects (a : Nat) : Nat := if regionOf a = .lpddr then 2 else 3
/-- Symbols of an error that it detects without fail: 5 in HBM3E, none beyond those it corrects in LPDDR5X. -/
def detects (a : Nat) : Nat := if regionOf a = .lpddr then 2 else 5

/-- A granule corrected: counted in CORR as CORRECTED (R224). DESIGN CHOICE: CAUSE 0x02 of the controller's log. -/
def Dev.corrected (d : Dev) (a : Nat) : Dev :=
  let x := d.memLoc a
  (d.bump (x.cnt 0x100) 1).dieErr x.die 0 x.blk clsCorrected 0x02 { addr := a }

/-- The code of a granule meets an error (R217, R222 to R224, R227): a report of the on-die ECC is counted in ODECC; an
error within the code's reach is corrected, counted, written back and read again; one it detects leaves the granule
uncorrectable; one beyond that may escape, and then the granule holds open data: silently in HBM3E, miscorrected (and
so counted as corrected) in LPDDR5X. -/
def Dev.granuleMet (d : Dev) (a : Nat) (e : Upset) : Dev :=
  match e with
  | .onDie => d.bump ((d.memLoc a).cnt 0x110) 1
  | .wrong n again =>
    if n = 0 then d
    else if n ≤ corrects a then
      let d1 := d.corrected a
      if again then
        let r := d1.repair a
        if r.2 then r.1 else { r.1 with flips := r.1.flips ++ [(a, e)] }
      else d1
    else if detects a < n ∧ Config.escapes d.fresh then
      let d1 := { d with fresh := d.fresh + 1 }.undef a 64
      if regionOf a = .lpddr then d1.corrected a else d1
    else { d with fresh := d.fresh + 1 }.spoil a

/-- A word of a scratchpad with wrong bits (R42): one is corrected and counted, more make it uncorrectable. DESIGN
CHOICE: CAUSE 0x18 of the tent's log, for which Table 2.9 gives no number. -/
def Dev.wordMet (d : Dev) (t a n : Nat) : Dev :=
  if n = 0 then d else if n = 1 then d.tentErr t 1 clsCorrected 0x18 { addr := a } else d.spoil a

/-- An element of the register file with wrong bits (R152): one is corrected and counted in VEC_CORR, more make it
uncorrectable. DESIGN CHOICE: CAUSE 0x30 of the vector engine's log. -/
def Dev.elementMet (d : Dev) (t a n : Nat) : Dev :=
  if n = 0 then d
  else if n = 1 then (d.bump (tentReg t 0x30_0030) 1).tentErr t 5 clsCorrected 0x30 { addr := a }
  else d.spoil a

/-- The read of a unit meets the error in it. -/
def Dev.unitMet (d : Dev) (p : Nat × Upset) : Dev :=
  match regionOf p.1, p.2 with
  | .hbm, e => d.granuleMet p.1 e
  | .lpddr, e => d.granuleMet p.1 e
  | .scratch t _, .wrong n _ => d.wordMet t p.1 n
  | .vreg t _, .wrong n _ => d.elementMet t p.1 n
  | _, _ => d

/-- The reads of the units with errors that a test names. -/
def Dev.meetWhere (d : Dev) (f : Nat → Bool) : Dev :=
  if d.flips.isEmpty then d
  else (d.flips.filter fun p => f p.1).foldl Dev.unitMet { d with flips := d.flips.filter fun p => !f p.1 }

/-- A read of [a, a + n) meets the errors of its units. -/
def Dev.meet (d : Dev) (a n : Nat) : Dev :=
  d.meetWhere fun u => decide (u < a + n) && decide (a < u + unitLen u)

/-- A write of [a, a + n) reads the units it covers only in part (R42, R225). -/
def Dev.meetParts (d : Dev) (a n : Nat) : Dev :=
  d.meetWhere fun u => decide (u < a + n) && decide (a < u + unitLen u) &&
    !(decide (a ≤ u) && decide (u + unitLen u ≤ a + n))

/-- Errors strike the granules of a list. -/
def Dev.struck (d : Dev) (find : List (Nat × Upset)) : Dev := find.foldl (fun (d : Dev) p => d.upset p.1 p.2) d

/-- Wrong bits of a finding on a scratchpad word or a register element. -/
def eccUpset : EccFind → Upset
  | .clean => .wrong 0 false
  | .single => .wrong 1 false
  | .double => .wrong 2 false

/-! ### Reads and writes -/

/-- Number of a channel: HBM3E pseudo-channels 0 to 383, LPDDR5X channels from 384. -/
def MemLoc.chan (x : MemLoc) : Nat := if x.ctl < 3 then (x.msd * 3 + x.ctl) * 32 + x.ch else 384 + x.ch

/-- A request wakes the channels it reaches from power-down (R433). -/
def Dev.memWake (d : Dev) (a n : Nat) : Dev :=
  if d.memDown.isEmpty then d
  else
    let cs := (List.range (n / 64 + 2)).map fun i => (d.memLoc (a + min (64 * i) (n - 1))).chan
    { d with memDown := d.memDown.filter fun c => !cs.contains c }

/-- A memory read (R224, R238): status and data. -/
def Dev.memRead (d : Dev) (q : MemReq) (a n : Nat) : Answer × Dev :=
  let d := d.memWake a n
  if !q.secure && d.memSecure a n then (⟨2, List.replicate n 0⟩, d.msdRefuse q a n)
  else
    let d := d.meet a n
    if d.badIn a n then
      let r := d.rdOpen a n
      (⟨1, r.1⟩, r.2.uncorrEvent q (d.badUnits a n))
    else (⟨0, d.rd a n⟩, d)

/-- A memory write, granule by granule (R225, R238). -/
def Dev.memWrite (d : Dev) (q : MemReq) (a : Nat) (bs : List Byte) : Nat × Dev :=
  let d := d.memWake a bs.length
  if !q.secure && d.memSecure a bs.length then (2, d.msdRefuse q a bs.length)
  else
    let d := d.meetParts a bs.length
    let r := d.wr a bs
    match d.blockedBy a bs.length with
    | [] => (0, r.1)
    | g :: gs => (1, r.1.uncorrEvent q (g :: gs))

/-! ### Accumulate-on-write (R230 to R232) -/

/-- Bytes of an accumulate element; 0 for a format that is refused (Table 10.5). -/
def accBytes (fmt : Nat) : Nat := if fmt = 0 ∨ fmt = 9 then 4 else if fmt = 13 then 16 else 0

/-- What one accumulate element leaves: its new bits, whether it saturated, whether it became infinite or NaN
from finite values. -/
structure AccOut where
  bits : Nat
  sat : Bool := false
  inf : Bool := false
  deriving DecidableEq, Repr

/-- Add one element; none where raw forms cannot be added (R69, R230). -/
def accElem (fmt old new : Nat) : Option AccOut :=
  if fmt = 9 then
    let s := signed 32 old + signed 32 new
    if s > 2 ^ 31 - 1 then some ⟨2 ^ 31 - 1, true, false⟩
    else if s < -(2 ^ 31) then some ⟨2 ^ 31, true, false⟩
    else some ⟨unsigned 32 s, false, false⟩
  else if fmt = 13 then (addRaw old new).map fun r => ⟨r.1, false, false⟩
  else
    let r := (addFp32 old new).1
    some ⟨r, false,
      (fp32.decode old).isFin && (fp32.decode new).isFin && !(fp32.decode r).isFin⟩

/-- MSD_ACC_WRITES, MSD_ACC_SAT and MSD_ACC_INF of the die that holds an element it has added. -/
def Dev.accCount (d : Dev) (a : Nat) (o : AccOut) : Dev :=
  let die := (d.memLoc a).die
  ((d.bump (dieReg die 0x300) 1).bump (dieReg die 0x308) (b2n o.sat)).bump (dieReg die 0x310) (b2n o.inf)

/-- Add elements in ascending address, leaving those in bad units as they are; the first address that saturated. -/
def accRun (fmt e : Nat) : Nat → List Nat → Dev → Option Nat → Dev × Option Nat
  | _, [], d, sat => (d, sat)
  | a, x :: xs, d, sat =>
    if d.badIn a e then accRun fmt e (a + e) xs d sat
    else
      match accElem fmt (d.rdNat a e) x with
      | none => accRun fmt e (a + e) xs d sat
      | some o =>
        accRun fmt e (a + e) xs ((d.wrNat a e o.bits).accCount a o) (if o.sat && sat.isNone then some a else sat)

/-- The elements of n bytes each. -/
def elemsOf (e : Nat) (bs : List Byte) : List Nat :=
  (List.range (bs.length / e)).map fun i => leAt bs (i * e) e

/-- An ACCUM write to memory: REFUSED and FORMAT refuse it whole; then UNCORR before SAT (R225, R230). -/
def Dev.memAccum (d : Dev) (q : MemReq) (fmt a : Nat) (bs : List Byte) : Nat × Dev :=
  let d := d.memWake a bs.length
  let e := accBytes fmt
  if !q.secure && d.memSecure a bs.length then (2, d.msdRefuse q a bs.length)
  else if e = 0 ∨ a % e ≠ 0 ∨ bs.length % e ≠ 0 then (3, d.msdEvent q 3 (a / 64 * 64))
  else
    let d := d.meet a bs.length
    let xs := elemsOf e bs
    let clash := xs.zipIdx.find? fun (x, i) =>
      !d.badIn (a + i * e) e && (accElem fmt (d.rdNat (a + i * e) e) x).isNone
    match clash with
    | some (_, i) => (3, d.msdEvent q 3 ((a + i * e) / 64 * 64))
    | none =>
      let r := accRun fmt e a xs d none
      if d.badIn a bs.length then (1, r.1.uncorrEvent q (d.badUnits a bs.length))
      else match r.2 with
      | some s => (4, r.1.msdEvent q 4 s)
      | none => (0, r.1)

/-- The request of a writer: a ring channel carries the JOB of its control register. -/
def Dev.memReq (d : Dev) (w : Writer) : MemReq :=
  { src := .master w.who
    job := match w.who with
      | .ring die ch =>
        d.regF (ringReg die.toNat ch.toNat 8) 6 12
      | _ => d.job
    secure := w.secure }

/-- The same with the JOB of a Trail packet, where one brings the access (R241). -/
def Dev.memReqFor (d : Dev) (w : Writer) (job : Option Nat) : MemReq :=
  { d.memReq w with job := job.getD (d.memReq w).job }

/-- A memory address of this device, with room for n bytes in its tier. -/
def Dev.memHere (d : Dev) (x n : Nat) : Option Nat :=
  match d.place x with
  | .here a =>
    if (regionOf a = .hbm ∧ a + n ≤ hbmEnd) ∨ (regionOf a = .lpddr ∧ a + n ≤ lpEnd) then some a else none
  | _ => none

/-- The response reaches an S-core that waits for a load at this camp address. -/
def Dev.answerLoad (d : Dev) (m : Master) (x : Word) (r : Answer) : Dev :=
  match m with
  | .score t n =>
    let c := d.core t.toNat n.toNat
    match c.wait with
    | .load rd size addr none =>
      if addr = x then d.setCore t.toNat n.toNat { c with wait := .load rd size addr (some r) } else d
    | _ => d
  | _ => d

/-- ROW_REPAIR_DONE (R227): the oldest row in repair is released, counted and listed in flash. -/
def execRowRepairDone (ctl : BitVec 4) : State → Out :=
  liftAll fun p d =>
    let key := 8 + ctl.toNat
    match d.rowSaves.find? fun x => x.key == key with
    | none => (p, d)
    | some r =>
      ({ p with flash := { p.flash with repairs := p.flash.repairs ++ [.row r] } },
        ({ d with rowSaves := d.rowSaves.erase r }.bump (r.cnt 0x118) 1).dieErr r.die 0 r.blk clsCorrected 0x03
          { addr := r.loc, spec := r.ch })

/-- BANK_COPY_DONE (R228): the map switches to the spare bank, the last that its pseudo-channel has taken for it. -/
def execBankCopyDone (ctl : BitVec 4) : State → Out :=
  liftAll fun p d =>
    let key := 8 + ctl.toNat
    match d.bankCopies.find? fun x => x.key == key with
    | none => (p, d)
    | some r =>
      let k := (d.bankMap.filter fun m => m.1 == r.key && m.2.2 % 2 ^ 48 == r.ch * 2 ^ 32).length
      ({ p with flash := { p.flash with repairs := p.flash.repairs ++ [.bank r] } },
        ({ d with bankCopies := d.bankCopies.erase r, bankMap := (r.key, r.bank, spareBank r.ch k) :: d.bankMap }.bump
          (r.cnt 0x120) 1).dieErr r.die 0 8 clsCorrected 0x04 { addr := r.loc, spec := r.ch })

/-- A granule lies in the tier of a controller. -/
def Dev.ofController (d : Dev) (key g : Nat) : Bool :=
  (regionOf g == .hbm || regionOf g == .lpddr) && (d.memLoc g).key == key

/-- SCRUB (R226): one pass over a controller's tier, after the errors given have struck: what it meets is corrected; an
uncorrectable granule is logged, and nothing else happens until it is read. SCRUB_H = 0 turns it off. DESIGN CHOICE:
the log is CAUSE 5 of the controller's, CORRECTED, beside MSD_ERR with status 1 and PORT 5. -/
def Dev.scrub (d : Dev) (key : Nat) (find : List (Nat × Upset)) : Dev :=
  let maint := dieReg (key / 4) ((2 + key % 4) * 0x100_0000)
  let d1 := d.struck find
  if d.regF maint 0 8 = 0 then d1
  else
    let d2 := d1.meetWhere fun u => d1.ofController key u
    (d2.bad.filter fun u => d2.ofController key u).foldl (fun (d : Dev) g =>
      let x := d.memLoc g
      ((d.setReg (dieReg x.die 0x200) (1 + MemSrc.maint.port x.msd * 2 ^ 8)).setReg (dieReg x.die 0x208) g).dieErr
        x.die 0 x.blk clsCorrected 0x05 { op := 5, addr := g }) d2

/-- SCRUB: the errors that have struck, and the granules whose on-die code reports one (R217). -/
def execScrub (ctl : BitVec 4) (find : List (Nat × Upset)) (reports : List Nat) : State → Out :=
  lift fun d => d.scrub (8 + ctl.toNat) (find ++ reports.map fun g => (g, .onDie))

/-! ### Fast clear (R233 to R235) -/

/-- MSD_CLEAR_BASE (shared); END at +8, CTL at +0x10. -/
def clearAddr : Nat := dieReg 2 0x100

/-- Both bounds are multiples of 64 KiB, in order, within one tier. -/
def clearBounds (lo hi : Nat) : Bool :=
  lo % 0x1_0000 == 0 && hi % 0x1_0000 == 0 && decide (lo ≤ hi) &&
    (decide (hi ≤ hbmEnd) || (decide (lpBase ≤ lo) && decide (hi ≤ lpEnd)))

/-- A refused clear: CLR_ERR and cause 5 in MSD_ERR of every die (R233, R235). -/
def Dev.refuseClear (d : Dev) (q : MemReq) : Dev :=
  let lo := d.reg clearAddr
  ([2, 3, 4, 5].foldl (fun d die =>
    (d.setReg (dieReg die 0x200) (5 + 6 * 2 ^ 8 + q.job * 2 ^ 12)).setReg (dieReg die 0x208) lo)
    (d.setRegF (clearAddr + 0x10) 3 1 1)).dieErr 2 0 7 clsCorrected 5 { op := 6, addr := lo }

/-- A clear has completed, counted in every die. -/
def Dev.countClear (d : Dev) : Dev := [2, 3, 4, 5].foldl (fun d die => d.bump (dieReg die 0x330) 1) d

/-- BUSY and PENDING follow the running and the waiting clear. -/
def Dev.clearBits (d : Dev) : Dev :=
  (d.setRegF (clearAddr + 0x10) 1 1 (b2n d.clearRun.isSome)).setRegF (clearAddr + 0x10) 2 1
    (b2n d.clearWait.isSome)

/-- Start a clear: every granule ahead of the front counts as cleared at once (R234). -/
def Dev.startClear (d : Dev) (c : Clear) : Dev := { d.zero c.lo c.hi with clearRun := some c }.clearBits

/-- A write of GO (R233, R235). -/
def Dev.clearGo (d : Dev) (w : Writer) : Dev :=
  let lo := d.reg clearAddr
  let hi := d.reg (clearAddr + 8)
  let q := { d.memReq w with src := .clear }
  if !clearBounds lo hi then d.refuseClear q
  else if lo = hi then d.countClear
  else if !w.secure && d.memSecure lo (hi - lo) then d.refuseClear q
  else match d.clearRun, d.clearWait with
  | none, _ => d.startClear { lo := lo, hi := hi }
  | some _, none => { d with clearWait := some { lo := lo, hi := hi } }.clearBits
  | some _, some _ => d.setRegF (clearAddr + 0x10) 3 1 1

/-- CLEAR_GO (R233). -/
def execClearGo (w : Writer) : State → Out := asWriter w fun w => lift (·.clearGo w)

/-- The next region of a strike starts to clear (R414, one at a time). CLR_BUSY of a secure one reads 1 until it is no
longer valid (R239). -/
def Dev.nextStrikeClear (d : Dev) : Dev :=
  match d.strikeRgn, d.clearRun with
  | n :: rest, none =>
    let d1 := if d.rgnSecure n then d.setRegF (rgnAddr n + 0x10) 3 1 1 else d
    { d1 with strikeRgn := rest }.startClear ⟨(d.rgnRange n).1, (d.rgnRange n).2, some n⟩
  | _, _ => d

/-- A clear completes: counted; the region the strike cleared with it is no longer VALID; a waiting clear, or
the strike's next, starts. -/
def Dev.clearDone (d : Dev) : Dev :=
  match d.clearRun with
  | none => d
  | some c =>
    let d1 := { d with clearRun := none, clearWait := none }.countClear
    let d2 := match c.rgn with
      | some n => (d1.setRegF (rgnAddr n + 0x10) 0 1 0).setRegF (rgnAddr n + 0x10) 3 1 0
      | none => d1
    match d.clearWait with
    | some w => d2.startClear w
    | none => d2.clearBits.nextStrikeClear

/-- CLEAR_DONE (R233). -/
def execClearDone : State → Out := lift (·.clearDone)

/-! ### Region writes (R239) -/

/-- The parts of [lo, hi) outside [lo', hi'). -/
def rangeMinus (lo hi lo' hi' : Nat) : List (Nat × Nat) :=
  [(lo, min hi (max lo lo')), (max lo (min hi hi'), hi)].filter fun p => p.1 < p.2

/-- Region n keeps the MiB at lo secure: in force now, and still so once a change that waits has come. -/
def Dev.rgnKeeps (d : Dev) (n lo : Nat) : Bool :=
  d.rgnSecure n && decide ((d.rgnRange n).1 ≤ lo) && decide (lo < (d.rgnRange n).2) &&
    match d.lowering.find? fun p => p.1 == n with
    | some (_, b, e, c) => c % 4 == 3 && decide (b ≤ lo) && decide (lo < e)
    | none => true

/-- Zero the granules of a range that no other valid secure region covers, MiB by MiB (region bounds are whole MiB,
R237). DEDUCED: an entry whose own change waits covers only what it keeps, or two entries lowered together would each
leave their common part to the other. -/
def Dev.clearUncovered (d : Dev) (n lo : Nat) : Nat → Dev
  | 0 => d
  | k + 1 =>
    let d1 := if (List.range 64).any (fun m => m != n && d.rgnKeeps m lo) then d else d.zero lo (lo + 2 ^ 20)
    d1.clearUncovered n (lo + 2 ^ 20) k

/-- The registers of region n as last written: those of a lowering that waits, else those in force. -/
def Dev.rgnWritten (d : Dev) (n which : Nat) : Nat :=
  let a := rgnAddr n
  let cur := ((d.lowering.find? fun p => p.1 == n).map Prod.snd).getD (d.reg a, d.reg (a + 8), d.reg (a + 0x10) % 8)
  match which with
  | 0 => cur.1
  | 1 => cur.2.1
  | _ => cur.2.2

/-- The parts of region n that stop being secure when its entry becomes (BASE, END, CTL). -/
def Dev.rgnLost (d : Dev) (n : Nat) (new : Nat × Nat × Nat) : List (Nat × Nat) :=
  if d.rgnSecure n then
    (if new.2.2 % 4 = 3 then rangeMinus (d.rgnRange n).1 (d.rgnRange n).2 new.1 new.2.1
    else [d.rgnRange n]).filter fun p => p.1 < p.2
  else []

/-- Region n as written. -/
def Dev.setRgn (d : Dev) (n : Nat) (x : Nat × Nat × Nat) : Dev :=
  ((d.setReg (rgnAddr n) x.1).setReg (rgnAddr n + 8) x.2.1).setReg (rgnAddr n + 0x10) x.2.2

/-- A change of region n waits for its clear: CLR_BUSY reads 1. -/
def Dev.rgnWait (d : Dev) (n : Nat) (new : Nat × Nat × Nat) : Dev :=
  let rest : List (Nat × Nat × Nat × Nat) := d.lowering.filter fun p => p.1 != n
  { d with lowering := rest ++ [(n, new)] }.setRegF (rgnAddr n + 0x10) 3 1 1

/-- A write of one register of region n by a secure writer: in force at once, or after the part that stops
being secure has been cleared. `which`: 0 BASE, 1 END, 2 CTL. -/
def Dev.regionWrite (d : Dev) (w : Writer) (n which v : Nat) : Dev :=
  if !w.secure then d.dieErr 2 0 7 clsCorrected 0x06 { addr := rgnAddr n + 8 * which }
  else
    let a := rgnAddr n
    let pend := (d.lowering.find? fun p => p.1 == n).map Prod.snd
    let cur := pend.getD (d.reg a, d.reg (a + 8), d.reg (a + 0x10) % 8)
    let mask := v / 2 ^ 20 % 2 ^ 28 * 2 ^ 20
    let new := match which with
      | 0 => (mask, cur.2.1, cur.2.2)
      | 1 => (cur.1, mask, cur.2.2)
      | _ => (cur.1, cur.2.1, v % 8)
    let parts := d.rgnLost n new
    if parts.isEmpty ∧ pend.isNone then d.setRgn n new
    else
      (parts.foldl (fun (d : Dev) p => d.clearUncovered n p.1 ((p.2 - p.1) / 2 ^ 20)) d).rgnWait n new

/-- REGION_WRITE (R239). -/
def execRegionWrite (w : Writer) (n : BitVec 6) (which : BitVec 2) (v : Word) : State → Out :=
  asWriter w fun w => lift fun d => d.regionWrite w n.toNat which.toNat v.toNat

/-- The clears before a change of region n have finished on all four dies: the new entry comes into force. -/
def Dev.regionLowerDone (d : Dev) (n : Nat) : Dev :=
  match d.lowering.find? (·.1 == n) with
  | none => d
  | some (_, new) => { d with lowering := d.lowering.filter (·.1 != n) }.setRgn n new

end Sys2Proof.Machine
end

