-- ==== Sys2Proof/Machine/Watch.lean ====
section
/-! DEFINITION. Watch tables (16 R378 to R382): one grant of an arbiter instance, commit, mode, quotas. -/

namespace Sys2Proof.Machine

/-- The owned slots of Table 16.5 for the instance whose registers lie at a base: slot and requester. -/
def defaultOwner (base n : Nat) : Option Nat :=
  match regionOf base with
  | .tentR _ _ => if n = 0 then some 14 else none
  | .dieR d o =>
    let i := o % 0x100_0000 / 0x1000
    if 512 ≤ i then (if n = 0 then some 2 else none)
    else if 2 ≤ d ∧ d < 6 ∧ i < 120 then (if n = 0 then some 8 else if n = 32 then some 5 else none)
    else if 6 ≤ d ∧ i < 24 then (if n = 0 then some 8 else none)
    else none
  | _ => none

/-- The slot word (OWNER, OPEN) that an instance holds when no write has changed it: the kit's own table, Table 16.5,
or the reset value. -/
def Dev.slotDefault (d : Dev) (base n : Nat) : Nat :=
  if d.watchKit then
    match d.watchTable.find? fun x => x.1 == base && x.2.1 == n with
    | some x => x.2.2 % 64
    | none => (defaultOwner base n).getD 0x20
  else 0x20

/-- The state of an instance. -/
def Dev.watchAt (d : Dev) (base : Nat) : Watch := look (fun _ => {}) d.watch base

/-- Replace it. -/
def Dev.setWatch (d : Dev) (base : Nat) (w : Watch) : Dev :=
  { d with watch := put (fun _ => {}) d.watch base w }

/-- Active slot n: its word. -/
def Dev.slotWord (d : Dev) (base n : Nat) : Nat :=
  look (fun n => d.slotDefault base n) (d.watchAt base).slots n

/-- Active requester row r: LIMIT, PRIO, QUOTA. -/
def Dev.reqWord (d : Dev) (base r : Nat) : Nat := look (fun _ => d.watchLimit % 256) (d.watchAt base).reqs r

/-- An instance is in SERVICE mode. -/
def Dev.inService (d : Dev) (base : Nat) : Bool := (d.watchAt base).service.getD d.watchService

/-- WINDOW in grants. -/
def Dev.windowLen (d : Dev) (base : Nat) : Nat := (d.watchAt base).window.getD d.watchWindow + 1

/-- The shadow value of a slot register. -/
def Dev.shadowSlot (d : Dev) (base n : Nat) : Nat :=
  look (fun n => d.slotDefault base n) (d.watchAt base).shSlots n

/-- The shadow of a requester register. -/
def Dev.shadowReq (d : Dev) (base r : Nat) : Nat := look (fun _ => d.watchLimit % 256) (d.watchAt base).shReqs r

/-- What a read of a register of an instance shows: the value in force (R8), so MODE, WINDOW and the active table. -/
def Dev.viewWch (d : Dev) (base o raw : Nat) : Nat :=
  if o = 0 then withField (withField raw 0 1 (b2n (d.inService base))) 4 16 (d.windowLen base - 1)
  else if o < 0x100 then raw
  else if o < 0x200 then d.slotWord base ((o - 0x100) / 4)
  else if o < 0x300 then d.reqWord base ((o - 0x200) / 4)
  else raw

/-- What a write of some bytes of a register leaves in the others: those of the shadow. -/
def Dev.baseWch (d : Dev) (base o raw : Nat) : Nat :=
  if o < 0x100 then d.viewWch base o raw
  else if o < 0x200 then d.shadowSlot base ((o - 0x100) / 4)
  else if o < 0x300 then d.shadowReq base ((o - 0x200) / 4)
  else raw

/-- Every quota at QUOTA, a window started (R380, R382). -/
def Dev.reloadQuotas (d : Dev) (base : Nat) : Dev :=
  d.setWatch base { d.watchAt base with
    quota := (List.range 32).foldl (fun m r => put (fun _ => 0) m r (field (d.reqWord base r) 9 16)) []
    winPos := 0 }

/-- The shadow table becomes active; COMMIT_PEND clears (R382). -/
def Dev.applyCommit (d : Dev) (base : Nat) : Dev :=
  let w := d.watchAt base
  (d.setWatch base { w with
    slots := w.shSlots
    reqs := w.shReqs }).setRegF base 2 1 0

/-- LIMIT of a requester: 0 is taken as 1. -/
def Dev.limitOf (d : Dev) (base r : Nat) : Nat := max 1 (field (d.reqWord base r) 0 8)

/-- The requester with the largest wait counter, then the lowest number (R378). -/
def bestOf (wait : Nat → Nat) : List Nat → Option Nat
  | [] => none
  | r :: rs =>
    match bestOf wait rs with
    | none => some r
    | some b => if wait r > wait b ∨ (wait r = wait b ∧ r < b) then some r else some b

/-- What a grant decides: the winner, whether it was forced, whether it used quota, the masked askers. -/
structure Grant where
  winner : Option Nat
  forced : Bool := false
  prio : Bool := false
  masked : Nat := 0
  deriving DecidableEq, Repr

/-- A PRIO requester with no quota left is masked in SERVICE mode: it does not ask (R380). -/
def Dev.maskedAt (d : Dev) (base r : Nat) : Bool :=
  d.inService base && field (d.reqWord base r) 8 1 == 1 && look (fun _ => 0) (d.watchAt base).quota r == 0

/-- The decision of one grant among asking requesters (R378, R380). -/
def Dev.decideGrant (d : Dev) (base : Nat) (asking : List Nat) : Grant :=
  let w := d.watchAt base
  let wait := look (fun _ => 0) w.waits
  let slot := d.slotWord base w.pointer
  let owner := if slot / 32 % 2 = 0 ∧ asking.contains (slot % 32) then some (slot % 32) else none
  if d.inService base then
    let prio := fun r => field (d.reqWord base r) 8 1 == 1
    let free := asking.filter fun r => !d.maskedAt base r
    match bestOf wait (free.filter fun r => prio r) with
    | some r => ⟨some r, false, true, asking.length - free.length⟩
    | none =>
      match owner with
      | some r => if free.contains r then ⟨some r, false, false, asking.length - free.length⟩
        else ⟨bestOf wait free, false, false, asking.length - free.length⟩
      | none => ⟨bestOf wait free, false, false, asking.length - free.length⟩
  else
    match bestOf wait (asking.filter fun r => d.limitOf base r ≤ wait r) with
    | some r => ⟨some r, true, false, 0⟩
    | none => ⟨owner.orElse fun _ => bestOf wait asking, false, false, 0⟩

/-- One grant of an instance: a pending commit is applied at slot 0, a window's end reloads the quotas; the
wait counters, the pointer, the parked requester and the counters follow (R378 to R382). -/
def Dev.grant (d : Dev) (base : Nat) (asking : List Nat) : Dev × Option Nat :=
  let d0 := if d.regF base 2 1 = 1 ∧ (d.watchAt base).pointer = 0 then d.applyCommit base else d
  let d1 := if d0.inService base ∧ d0.windowLen base ≤ (d0.watchAt base).winPos then d0.reloadQuotas base else d0
  let g := d1.decideGrant base asking
  match g.winner with
  | none => ((d1.setWatch base { d1.watchAt base with waits := [] }).bump (base + 0x310) g.masked, none)
  | some r =>
    let w := d1.watchAt base
    let waits := (List.range 32).foldl (fun m k =>
      put (fun _ => 0) m k
        (if asking.contains k && k != r && !d1.maskedAt base k then look (fun _ => 0) w.waits k + 1 else 0)) []
    let quota := if g.prio then put (fun _ => 0) w.quota r (look (fun _ => 0) w.quota r - 1) else w.quota
    let d2 := d1.setWatch base
      { w with waits := waits, quota := quota, pointer := (w.pointer + 1) % 64, parked := some r,
               winPos := w.winPos + 1 }
    (((d2.bump (base + 0x300) 1).bump (base + 0x308) (b2n g.forced)).bump (base + 0x310) g.masked, some r)

/-! ### Register writes (R380, R382) -/

/-- A write by a non-secure requester to a watch-table register is discarded and logged (R6). -/
def Dev.wchRefused (d : Dev) (base : Nat) : Dev :=
  match regionOf base with
  | .tentR t _ => d.tentErr t 0x11 clsCorrected 0x06 { addr := base }
  | .dieR die _ => d.dieErr die 0 0x11 clsCorrected 0x06 { addr := base }
  | _ => d

/-- An instance lies at this base. -/
def isWch (base : Nat) : Bool := wchBaseOf base == some base

/-- COMMIT arms the shadow table. -/
def Dev.wchCommit (d : Dev) (w : Writer) (base : Nat) : Dev :=
  if !isWch base then d else if !w.secure then d.wchRefused base else d.setRegF base 2 1 1

/-- MODE and WINDOW: entering SERVICE reloads every quota and starts a window; a WINDOW below 15, and one that
the sum of QUOTA reaches, is refused with CFG_ERR. -/
def Dev.wchModeWrite (d : Dev) (w : Writer) (base v : Nat) : Dev :=
  if !isWch base then d else if !w.secure then d.wchRefused base
  else
    let d0 := if bitAt v 3 then d.setRegF base 3 1 0 else d
    let sum := ((List.range 32).map fun r => field (d.shadowReq base r) 9 16).sum
    let d1 := if field v 4 16 < 15 ∨ field v 4 16 + 1 ≤ sum then d0.setRegF base 3 1 1
      else d0.setWatch base { d0.watchAt base with window := some (field v 4 16) }
    let service := bitAt v 0
    let d2 := d1.setWatch base { d1.watchAt base with service := some service }
    let d3 := if service && !d.inService base then d2.reloadQuotas base else d2
    if bitAt v 1 then d3.setRegF base 2 1 1 else d3

/-- WCH_REQ_r: refused where the sum of QUOTA would reach WINDOW. -/
def Dev.wchReqWrite (d : Dev) (w : Writer) (base r v : Nat) : Dev :=
  if !isWch base then d else if !w.secure then d.wchRefused base
  else
    let others := ((List.range 32).map fun k => if k = r then 0 else field (d.shadowReq base k) 9 16).sum
    if d.windowLen base ≤ others + field v 9 16 then d.setRegF base 3 1 1
    else
      let x := d.watchAt base
      d.setWatch base { x with shReqs := put (fun _ => d.watchLimit % 256) x.shReqs r (v % 2 ^ 25) }

/-- WCH_SLOT_n goes to the shadow table. -/
def Dev.wchSlotWrite (d : Dev) (w : Writer) (base n v : Nat) : Dev :=
  if !isWch base then d else if !w.secure then d.wchRefused base
  else
    let x := d.watchAt base
    d.setWatch base { x with shSlots := put (fun n => d.slotDefault base n) x.shSlots n (v % 64) }

/-- WCH_COMMIT (R382). -/
def execWchCommit (w : Writer) (base : Word) : State → Out := asWriter w fun w => lift (·.wchCommit w base.toNat)

/-- WCH_COMMIT_APPLY: the next grant at slot 0 (R382). -/
def execWchCommitApply (base : Word) : State → Out :=
  lift fun d =>
    if isWch base.toNat ∧ d.regF base.toNat 2 1 = 1 ∧ (d.watchAt base.toNat).pointer = 0
    then d.applyCommit base.toNat else d

/-- WCH_MODE_WRITE (R382). -/
def execWchModeWrite (w : Writer) (base : Word) (v : Half) : State → Out :=
  asWriter w fun w => lift (·.wchModeWrite w base.toNat v.toNat)

/-- WCH_REQ_WRITE (R380). -/
def execWchReqWrite (w : Writer) (base : Word) (r : BitVec 5) (v : Half) : State → Out :=
  asWriter w fun w => lift (·.wchReqWrite w base.toNat r.toNat v.toNat)

/-- QUOTA_WINDOW_RELOAD: the start of a window of WINDOW grants (R380). -/
def execQuotaWindowReload (base : Word) : State → Out :=
  lift fun d =>
    if isWch base.toNat ∧ d.inService base.toNat ∧ d.windowLen base.toNat ≤ (d.watchAt base.toNat).winPos
    then d.reloadQuotas base.toNat else d

end Sys2Proof.Machine
end

