-- ==== Sys2Proof/Machine/Paths.lean ====
section
/-! DEFINITION. The ways through the device (01 R11, R13, R14, R19; 02 R29, R30, R48, R51, R52; 10 R220): which tents,
seams and die pairs an access passes, and whether they let it through. -/

namespace Sys2Proof.Machine

/-! ### Die pairs (Table 1.2) -/

/-- The two dies of each pair, by the numbers of Table 2.10, in the order of Table 1.2: CD0–MSD0, CD0–MSD1, CD1–MSD2,
CD1–MSD3; CD0–IOD0, CD0–IOD1, CD1–IOD0, CD1–IOD1; MSD0–IOD0, MSD2–IOD0, MSD1–IOD1, MSD3–IOD1; the cross bridge. -/
def pairDies : List (Nat × Nat) :=
  [(0, 2), (0, 3), (1, 4), (1, 5), (0, 6), (0, 7), (1, 6), (1, 7), (2, 6), (4, 6), (3, 7), (5, 7), (6, 7)]

/-- Modules of a pair, in the order of Table 1.2. -/
def pairModules (pair : Nat) : Nat :=
  if pair < 4 then 20 else if pair < 8 then 12 else if pair < 12 then 6 else if pair = 12 then 8 else 0

/-- The die at an end of a pair: the first (false) or the second. -/
def pairDie (pair : Nat) (second : Bool := false) : Nat :=
  let p := pairDies.getD pair (6, 7)
  if second then p.2 else p.1

/-- The pair that joins two dies. -/
def pairOf (x y : Nat) : Option Nat := pairDies.findIdx? fun p => p == (x, y) || p == (y, x)

/-- A module. -/
def Dev.module (d : Dev) (pair m : Nat) : Module := look (fun _ => {}) d.ucie (pair * 32 + m)
/-- Replace it. -/
def Dev.setModule (d : Dev) (pair m : Nat) (x : Module) : Dev :=
  { d with ucie := put (fun _ => {}) d.ucie (pair * 32 + m) x }

/-- The modules in the hash of a pair. -/
def Dev.working (d : Dev) (pair : Nat) : List Nat :=
  (List.range (pairModules pair)).filter fun m => !(d.module pair m).out

/-- Some module of the pair is in the hash. -/
def Dev.pairAlive (d : Dev) (pair : Nat) : Bool := !(d.working pair).isEmpty

/-- The egress arbiter of a pair at one of its dies: window 2, 7 or 19, instance 512 + j for the j-th pair of Table 1.2
that leaves the die (Table 16.4). -/
def pairWatch (pair : Nat) (second : Bool) : Nat :=
  let die := pairDie pair second
  let j := ((pairDies.take pair).filter fun p => p.1 == die || p.2 == die).length
  dieReg die ((if die < 2 then 0x200_0000 else if die < 6 then 0x700_0000 else 0x1300_0000) + 0x1000 * (512 + j))

/-- The dies that an access passes from one to another (R14, R19, R220): over the pair that joins them, or through the
I/O die attached to the memory-side die, never through a compute die. DESIGN CHOICE: between the two compute dies it
takes the I/O die of parity `par`, and between two memory-side dies, which nothing in the spec lets talk, their I/O
dies. -/
def dieHops (par x y : Nat) : List Nat :=
  if x = y then [x]
  else if (pairOf x y).isSome then [x, y]
  else if 6 ≤ x then [x, 13 - x, y]
  else if 6 ≤ y then [x, 13 - y, y]
  else if x < 2 ∧ y < 2 then [x, 6 + par, y]
  else if x < 2 then [x, 6 + y % 2, y]
  else if y < 2 then [x, 6 + x % 2, y]
  else if x % 2 = y % 2 then [x, 6 + x % 2, y]
  else [x, 6 + x % 2, 6 + y % 2, y]

/-- The pairs along a list of dies. -/
def hopPairs : List Nat → List Nat
  | x :: y :: r => (pairOf x y).toList ++ hopPairs (y :: r)
  | _ => []

/-! ### Rows and columns (R29, R51) -/

/-- TNT_ROW_MAP_n of a tent's row. -/
def rowMapAddr (t : Nat) : Nat := dieReg (t / 8192) (0x1000 + 4 * (t / 4096 % 2 * 64 + t / 64 % 64))

/-- The row's map is in force. -/
def Dev.rowMapped (d : Dev) (t : Nat) : Bool := d.regF (rowMapAddr t) 6 1 == 1

/-- Physical tent number of a logical tent (R29, R445): 65 to a row. -/
def Dev.physical (d : Dev) (t : Nat) : Nat :=
  let c := t % 64
  if 16384 ≤ t then
    let r := t - 16384
    65 * r + (if d.rowMapped (64 * r) then d.regF (rowMapAddr (64 * r)) 0 6 else 64)
  else 65 * (t / 64) + (if d.rowMapped t && d.regF (rowMapAddr t) 0 6 == c then 64 else c)

/-- An end of an access: a tent by pitch, row and physical column, or a die. -/
inductive Node where
  | tent (pitch row col : Nat)
  | die (n : Nat)
  deriving DecidableEq, Repr

/-- Where a tent lies. -/
def Dev.tentNode (d : Dev) (t : Nat) : Node :=
  let n := d.physical t
  .tent (n / 65 / 64) (n / 65 % 64) (n % 65)

/-- A way within a pitch: along the row to the physical column, then along that column (R51). -/
structure Leg where
  pitch : Nat
  row : Nat
  col : Nat
  toRow : Nat
  toCol : Nat
  deriving DecidableEq, Repr

/-- x lies between the ends a and b. -/
def between (a b x : Nat) : Bool := decide (min a b ≤ x) && decide (x ≤ max a b)

/-- A leg passes the router of a physical tent. -/
def Leg.meets (g : Leg) (n : Nat) : Bool :=
  let r := n / 65 % 64
  let c := n % 65
  n / 65 / 64 == g.pitch &&
    ((r == g.row && between g.col g.toCol c) || (c == g.toCol && between g.row g.toRow r))

/-- The row of a pitch next to the seam. DESIGN CHOICE: rows count from north to south in both pitches, so the seam
lies at row 63 of the even pitch and at row 0 of the odd one; the opposite row faces the die links. -/
def seamRow (pitch : Nat) : Nat := if pitch % 2 = 0 then 63 else 0
/-- The row of a pitch that faces its die links. -/
def outerRow (pitch : Nat) : Nat := 63 - seamRow pitch

/-- From a tent out of its compute die by the pitch of a parity: to the edge tent in its column, over the seam first
where that pitch is the other one (R51, R220). -/
def leave (p r c par : Nat) : List Leg :=
  if p % 2 = par then [⟨p, r, c, outerRow p, c⟩]
  else
    let q := p / 2 * 2 + par
    [⟨p, r, c, seamRow p, c⟩, ⟨q, seamRow q, c, outerRow q, c⟩]

/-- Into a compute die by the pitch of a parity to a tent. DESIGN CHOICE: it enters in the tent's column. -/
def enter (p r c par : Nat) : List Leg :=
  if p % 2 = par then [⟨p, outerRow p, c, r, c⟩]
  else
    let q := p / 2 * 2 + par
    [⟨q, outerRow q, c, seamRow q, c⟩, ⟨p, seamRow p, c, r, c⟩]

/-- The legs and the dies from one node to another. -/
def way : Node → Node → List Leg × List Nat
  | .tent p r c, .tent p' r' c' =>
    if p = p' ∧ r = r' ∧ c = c' then ([], [])
    else if p = p' then ([⟨p, r, c, r', c'⟩], [])
    else if p / 2 = p' / 2 then ([⟨p, r, c, seamRow p, c⟩, ⟨p', seamRow p', c, r', c'⟩], [])
    else (leave p r c (p' % 2) ++ enter p' r' c' (p' % 2), dieHops (p' % 2) (p / 2) (p' / 2))
  | .tent p r c, .die y =>
    let ds := dieHops (p % 2) (p / 2) y
    (if ds.length < 2 then [] else leave p r c (ds.getD 1 0 % 2), ds)
  | .die x, .tent p r c =>
    let ds := dieHops (p % 2) x (p / 2)
    (if ds.length < 2 then [] else enter p r c (ds.getD (ds.length - 2) 0 % 2), ds)
  | .die x, .die y => ([], dieHops 0 x y)

/-! ### Networks (R48, R52) -/

/-- The planes that carry the transfer of [a, a + n): a flit's plane is bit 8 of its address (R52). -/
def planesOf (a n : Nat) : List Nat :=
  if a / 256 = (a + n - 1) / 256 then [1 + a / 256 % 2] else [1, 2]

/-- The networks of the bytes of an access: 0 the mesh up to 64 bytes, above that the stream, plane A or B (R48). -/
def netsOf (a n : Nat) : List Nat := if n ≤ 64 then [0] else planesOf a n

/-- Nothing has failed that could stop an access. -/
def Dev.netWhole (d : Dev) : Bool := d.routersOut.isEmpty && (List.range 13).all d.pairAlive

/-- A message of one of these networks gets from one node to another: no router on its fixed way has failed, and every
pair it crosses has a working module; nothing goes round them (R19, R30). -/
def Dev.wayOpen (d : Dev) (x y : Node) (nets : List Nat) : Bool :=
  let w := way x y
  (d.routersOut.all fun o => !nets.contains o.2 || !(w.1.any (·.meets o.1))) && (hopPairs w.2).all d.pairAlive

/-- The nodes that hold the bytes of [a, a + n) (Table 2.10). -/
def Dev.targets (d : Dev) (a n : Nat) : List Node :=
  match regionOf a with
  | .hbm => ((List.range (n / 256 + 2)).map fun i => Node.die (d.memLoc (a + min (256 * i) (n - 1))).die).eraseDups
  | .lpddr => ((List.range (n / 256 + 2)).map fun i => Node.die (d.memLoc (a + min (256 * i) (n - 1))).die).eraseDups
  | .scratch t _ => [d.tentNode t]
  | .vreg t _ => [d.tentNode t]
  | .tentR t _ => [d.tentNode t]
  | .istore t _ _ => [d.tentNode t]
  | .dieR k _ => [.die k]
  | .lanSram l _ => [.die (6 + l)]
  | .canister l => [.die (6 + l)]
  | .lanCtl l _ => [.die (6 + l)]
  | .none => []

/-- An access of n bytes at a from a node gets there, and its answer back: a read's request and a write's answer are
mesh messages, the bytes go by their network (R48). -/
def Dev.pathOpen (d : Dev) (x : Node) (read : Bool) (a n : Nat) : Bool :=
  d.netWhole || (d.targets a n).all fun y =>
    d.wayOpen x y (if read then [0] else netsOf a n) && d.wayOpen y x (if read then netsOf a n else [0])

/-- Where a master sits. The debug port (R407) and another device enter elsewhere. -/
def Dev.nodeOf (d : Dev) (m : Master) : Option Node :=
  match m with
  | .score t _ => some (d.tentNode t.toNat)
  | .mover t => some (d.tentNode t.toNat)
  | .arrayPort t _ => some (d.tentNode t.toNat)
  | .forage t => some (d.tentNode t.toNat)
  | .vector t => some (d.tentNode t.toNat)
  | .pack t => some (.die (2 + pitchOf t.toNat))
  | .ring k _ => some (.die k.toNat)
  | .host => some (.die 6)
  | .lantern b => some (.die (if b then 7 else 6))
  | .debug => none
  | .device _ => none

/-- An access of a master finds no way, and stays where it is. -/
def Dev.cutOff (d : Dev) (m : Master) (read : Bool) (a n : Nat) : Bool :=
  match d.nodeOf m with
  | some x => !d.pathOpen x read a n
  | none => false

/-- The same for a request of memory. -/
def Dev.srcCutOff (d : Dev) (s : MemSrc) (read : Bool) (a n : Nat) : Bool :=
  match s with
  | .master m => d.cutOff m read a n
  | _ => false

/-! ### Arbiters on the way (Table 16.4) -/

/-- Grants of an arbiter until a requester wins; its rivals keep asking. -/
def Dev.winsAt (d : Dev) (base req : Nat) (rivals : List Nat) : Nat → Dev
  | 0 => d
  | k + 1 =>
    let r := d.grant base (if rivals.contains req then rivals else req :: rivals)
    if r.2 = some req then r.1 else r.1.winsAt base req rivals k

/-- The port of a pseudo-channel or channel: its arbiter in window 7 of the memory-side die. -/
def MemLoc.portWatch (x : MemLoc) : Nat :=
  dieReg x.die (0x700_0000 + 0x1000 * (if x.ctl = 3 then 96 + x.ch % 24 else 32 * x.ctl + x.ch))

/-- The granules of [a, a + n). -/
def granules (a n : Nat) : List Nat :=
  if n = 0 then [] else (List.range ((a + n - 1) / 64 - a / 64 + 1)).map fun i => (a / 64 + i) * 64

/-- Each granule of a request takes a grant of its channel's port; one that adds takes one of the die's accumulate unit
first, and the port as requester 7 (R381). DESIGN CHOICE: a source's requester number is its PORT of MSD_ERR. -/
def Dev.portGrants (d : Dev) (src : MemSrc) (acc : Bool) (rivals : List Nat) (a n : Nat) : Dev :=
  (granules a n).foldl (fun (d : Dev) g =>
    let x := d.memLoc g
    let port := src.port x.msd
    if acc then
      (d.winsAt (dieReg x.die (0x700_0000 + 0x1000 * 120)) (min port 2) [] 512).winsAt x.portWatch 7 rivals 512
    else d.winsAt x.portWatch port rivals 512) d

/-- A message crosses the seam in its column: the arbiter in window 2 of the compute die, instance 6c + 2w + d, asked
by the edge tent itself (0) or from the interior of its pitch (3) (R12, Table 16.4). -/
def Dev.seamGrant (d : Dev) (x y : Node) (net : Nat) : Dev :=
  match x, y with
  | .tent p r c, .tent p' _ _ =>
    if p ≠ p' ∧ p / 2 = p' / 2 then
      let w := if net = 0 then 2 else net - 1
      (d.grant (dieReg (p / 2) (0x200_0000 + 0x1000 * (6 * c + 2 * w + p % 2)))
        [if r = seamRow p then 0 else 3]).1
    else d
  | _, _ => d

/-! ### Requests of memory -/

/-- A request of a master at memory: it waits where no way is open; its granules are granted at their ports; the errors
given have struck. -/
def Dev.request (d : Dev) (w : Writer) (read acc : Bool) (x n : Nat) (rivals : List (BitVec 4))
    (find : List (Nat × Upset)) : Option Dev :=
  match d.memHere x n with
  | none => none
  | some a =>
    if d.cutOff w.who read a n then none
    else some ((d.portGrants (.master w.who) acc (rivals.map (·.toNat)) a n).struck find)

/-- MEMORY_READ (R224, R238): the findings of the code, the region check, one status; the response goes to
its requester. -/
def Dev.memoryRead (d : Dev) (a : RAccess) (rivals : List (BitVec 4)) (find : List (Nat × Upset)) : Dev :=
  match d.request a.by_ true false a.addr.toNat a.len rivals find with
  | none => d
  | some d1 =>
    let r := d1.memRead (d1.memReq a.by_) (a.addr.toNat % 2 ^ 48) a.len
    { r.2 with response := some (a.by_.who, r.1) }.answerLoad a.by_.who a.addr r.1

/-- MEMORY_WRITE (R225). -/
def Dev.memoryWrite (d : Dev) (a : WAccess) (rivals : List (BitVec 4)) (find : List (Nat × Upset)) : Dev :=
  match d.request a.by_ false false a.addr.toNat a.data.length rivals find with
  | none => d
  | some d1 =>
    let r := d1.memWrite (d1.memReq a.by_) (a.addr.toNat % 2 ^ 48) a.data
    { r.2 with response := some (a.by_.who, ⟨r.1, []⟩) }

/-- MEMORY_ACCUMULATE (R230). -/
def Dev.memoryAccumulate (d : Dev) (a : WAccess) (fmt : Nat) (rivals : List (BitVec 4)) (find : List (Nat × Upset)) :
    Dev :=
  match d.request a.by_ false true a.addr.toNat a.data.length rivals find with
  | none => d
  | some d1 =>
    let r := d1.memAccum (d1.memReq a.by_) fmt (a.addr.toNat % 2 ^ 48) a.data
    { r.2 with response := some (a.by_.who, ⟨r.1, []⟩) }

/-- MEMORY_READ (R224). -/
def execMemoryRead (a : RAccess) (rivals : List (BitVec 4)) (find : List (Nat × Upset)) : State → Out :=
  asWriter a.by_ fun w => lift fun d => d.memoryRead { a with by_ := w } rivals find

/-- MEMORY_WRITE. -/
def execMemoryWrite (a : WAccess) (met : Met) : State → Out :=
  asWriter a.by_ fun w => lift fun d => d.memoryWrite { a with by_ := w } met.rivals met.find

/-- MEMORY_ACCUMULATE. -/
def execMemoryAccumulate (a : WAccess) (fmt : BitVec 4) (met : Met) : State → Out :=
  asWriter a.by_ fun w => lift fun d => d.memoryAccumulate { a with by_ := w } fmt.toNat met.rivals met.find

/-! ### Failed routers (R30) -/

/-- The tent whose log takes the errors of a physical tent: the logical tent there, else the row's spare. -/
def Dev.logicalOf (d : Dev) (n : Nat) : Nat :=
  let row := n / 65
  let c := n % 65
  let map := d.rowMapped (64 * row)
  let col := d.regF (rowMapAddr (64 * row)) 0 6
  if c = 64 then if map then 64 * row + col else 16384 + row
  else if map && col == c then 16384 + row
  else 64 * row + c

/-- ROUTER_FAILURE (R30): a DEVICE error; what must pass the router stays where it is, for nothing goes round it.
DESIGN CHOICE: CAUSE 0x1A, and the network in TAG. -/
def execRouterFailure (r : Router) : State → Out :=
  lift fun d =>
    let key := (r.tent.toNat, r.net.toNat)
    let d1 := if d.routersOut.contains key then d else { d with routersOut := d.routersOut ++ [key] }
    d1.tentErr (d.logicalOf r.tent.toNat) 1 clsDevice 0x1A { tag := r.net.toNat }

end Sys2Proof.Machine
end

