-- ==== Sys2Proof/Machine/Engine.lean ====
section
/-! DEFINITION. What the engines of a tent share: the work of a command as a computation over the device
that may fault, wait for a remote read or be held; scratchpad accesses with their world and ECC checks
(R41 to R44); the queue checks, completion and fault stop of 04 R100 to R104 and its counterparts. -/

namespace Sys2Proof.Machine

/-- Why the work of a command does not go on. -/
inductive Stop where
  /-- A run fault of the engine: its cause and the address or offset involved. -/
  | fault (cause addr : Nat)
  /-- A remote read must be answered first: camp address, length, the world it carries. -/
  | need (addr len : Nat) (secure : Bool)
  /-- The plot entry at a camp address is MOVING (R253). -/
  | moving (entry : Nat)
  /-- The access is held: a segment is being cleared, a row or range is busy (R44, R233). -/
  | held
  deriving DecidableEq, Repr

/-- The device during the work of a command, with the flags raised so far, the answered remote reads, the
writes to other devices it makes, in order, and the tags of packets it has sent that must be acknowledged. -/
structure EngS where
  dev : Dev
  flags : Nat := 0
  stage : List (Nat × List Byte) := []
  out : List OutW := []
  acks : List Nat := []
  /-- The write that waits for the rest of its unit. -/
  pend : Option OutW := none
  /-- The next write to another device begins a packet of its own. -/
  cut : Bool := false
  deriving DecidableEq, Repr

/-- The work of a command: it changes the device, and may stop. -/
abbrev Eng := ExceptT Stop (StateM EngS)

/-- Change the device. -/
def onDev (f : Dev → Dev) : Eng Unit := modify fun s => { s with dev := f s.dev }

/-- Read from the device. -/
def askDev {α : Type} (f : Dev → α) : Eng α := do return f (← get).dev

/-- Raise flags (R76). -/
def flag (m : Nat) : Eng Unit := modify fun s => { s with flags := s.flags ||| m }

/-- Stop with a fault. -/
def failWith {α : Type} (cause addr : Nat) : Eng α := throw (.fault cause addr)

/-- Check a condition. -/
def need (ok : Bool) (cause addr : Nat) : Eng Unit := if ok then pure () else failWith cause addr

/-- An engine's port to the scratchpad: tent, requester number (Table 2.7), world, and the engine's cause
codes for an access out of range, an uncorrectable word, and a refusal by segment world. -/
structure PadPort where
  t : Nat
  req : Nat
  secure : Bool
  range : Nat
  uncorr : Nat
  refused : Nat
  deriving DecidableEq, Repr

/-- Bytes of the scratchpad. -/
def padLen : Nat := 0x1_8000

/-- Open bytes over part of a scratchpad. -/
def Dev.undefPad (d : Dev) (t o n : Nat) : Dev := d.undef (tentMem t o) (min n (padLen - o))

/-- Some byte of [o, o + n) lies in a secure segment (R43). -/
def Dev.touchesSecure (d : Dev) (t o n : Nat) : Bool :=
  (List.range 12).any fun i =>
    d.segSecure t i && decide (o < (i + 1) * 0x2000) && decide (i * 0x2000 < o + n)

/-- Some byte of [o, o + n) lies in a segment whose clear is pending or running (R44). -/
def Dev.touchesClearing (d : Dev) (t o n : Nat) : Bool :=
  (d.tent t).segClear.any fun i => decide (o < (i + 1) * 0x2000) && decide (i * 0x2000 < o + n)

/-- The checks of a scratchpad access: range, held segment, world (logged with the requester, R464). -/
def padCheck (p : PadPort) (o n : Nat) : Eng Unit := do
  need (o + n ≤ padLen) p.range o
  if ← askDev (·.touchesClearing p.t o n) then throw .held
  if !p.secure && (← askDev (·.touchesSecure p.t o n)) then
    onDev (·.tentErr p.t 1 clsContained 0x16 { op := p.req, addr := o })
    failWith p.refused o

/-- Keys at which two rising lists of (key, value) differ; the fuel is the sum of their lengths. -/
def diffKeys : Nat → List (Nat × Byte) → List (Nat × Byte) → List Nat
  | 0, _, _ => []
  | _, [], ys => ys.map Prod.fst
  | _, xs, [] => xs.map Prod.fst
  | k + 1, x :: xs, y :: ys =>
    if x.1 < y.1 then x.1 :: diffKeys k xs (y :: ys)
    else if y.1 < x.1 then y.1 :: diffKeys k (x :: xs) ys
    else if x.2 = y.2 then diffKeys k xs ys
    else x.1 :: diffKeys k xs ys

/-- Equal neighbours of a list, once. -/
def onceEach : List Nat → List Nat
  | [] => []
  | [x] => [x]
  | x :: y :: r => if x = y then onceEach (y :: r) else x :: onceEach (y :: r)

/-- The words of scratchpads and elements of register files that differ in a later state, by address, with what they
held before (R103, R152). -/
def Dev.wordsLost (d e : Dev) : List (Nat × List Byte) :=
  let pads (x : Dev) : List (Nat × Byte) :=
    x.mem.filter fun p => decide (tentBase ≤ p.1) && decide (p.1 < tentBase + 0x8000_0000)
  let a := pads d
  let b := pads e
  (onceEach ((diffKeys (a.length + b.length) a b).map unitBase)).map fun u => (u, d.rd u (unitLen u))

/-- What the units of [lo, hi) held before the unfinished commands of every master wrote them. -/
def Dev.oldWords (d : Dev) (lo hi : Nat) : List (Nat × List Byte) :=
  let all := (d.tents.flatMap fun x => x.2.queues.flatMap fun q => q.2.flight.flatMap (·.olds)) ++
    d.rings.flatMap fun r => r.2.flight.flatMap (·.olds)
  all.filter fun w => decide (lo < w.1 + w.2.length) && decide (w.1 < hi)

/-- A read at an address beside unfinished writes: each unit is the new or an old one (R103, R130, R152). -/
def mixOld (a : Nat) (bs : List Byte) : List (Nat × List Byte) → Dev → List Byte × Dev
  | [], d => (bs, d)
  | (w, old) :: ws, d =>
    let d1 := { d with fresh := d.fresh + 1 }
    if Config.oldWord d.fresh then
      mixOld a (bs.zipIdx.map fun (b, i) => if w ≤ a + i then old.getD (a + i - w) b else b) ws d1
    else mixOld a bs ws d1

/-- Read n bytes of a tent window as a master sees them that is not ordered against the writers. -/
def Dev.rdMixed (d : Dev) (a n : Nat) : List Byte × Dev := mixOld a (d.rd a n) (d.oldWords a (a + n)) d

/-- Read n bytes of the scratchpad at offset o (R42, R43). The mover's port, the arrays' ports and the Forage engine's
and the vector engine see old or new words of unfinished writes (R103, R130, R155, R258). -/
def padRead (p : PadPort) (o n : Nat) : Eng (List Byte) := do
  padCheck p o n
  onDev (·.meet (tentMem p.t o) n)
  if ← askDev (·.badIn (tentMem p.t o) n) then
    onDev (·.tentErr p.t 1 clsContained 0x14 { op := p.req, addr := o })
    failWith p.uncorr o
  if p.req < 4 ∨ 12 < p.req then askDev (·.rd (tentMem p.t o) n)
  else
    let r ← askDev (·.rdMixed (tentMem p.t o) n)
    onDev fun _ => r.2
    return r.1

/-- Write bytes to the scratchpad; a partial write of an uncorrectable word is refused (R42). -/
def padWrite (p : PadPort) (o : Nat) (bs : List Byte) : Eng Unit := do
  padCheck p o bs.length
  onDev (·.meetParts (tentMem p.t o) bs.length)
  let r ← askDev (·.wr (tentMem p.t o) bs)
  onDev fun _ => r.1
  if r.2 then
    onDev (·.tentErr p.t 1 clsContained 0x14 { op := p.req, addr := o })
    failWith p.uncorr o

/-- A number of n bytes at an offset. -/
def padNat (p : PadPort) (o n : Nat) : Eng Nat := do return leNat (← padRead p o n)

/-- Write a number of n bytes. -/
def padPut (p : PadPort) (o n v : Nat) : Eng Unit := padWrite p o (leBytes n v)

/-- The common header (Table 4.3): opcode. -/
def cmdOp (c : Cmd) : Nat := cmdF c 0 4
/-- SIG. -/
def cmdSig (c : Cmd) : Bool := cmdF c 4 1 == 1
/-- PEG. -/
def cmdPeg (c : Cmd) : Nat := cmdF c 8 6
/-- TAG. -/
def cmdTag (c : Cmd) : Nat := cmdF c 16 16
/-- N of a WAIT. -/
def cmdWaitN (c : Cmd) : Nat := cmdB c 4 2

/-- Some bit outside the given (low bit, width) fields is set. -/
def reservedSet (c : Cmd) (used : List (Nat × Nat)) : Bool :=
  used.foldl (fun x u => withField x u.1 u.2 0) c.toNat != 0

/-- The first cause whose condition holds; 0 when none does. -/
def firstCause : List (Bool × Nat) → Nat
  | [] => 0
  | (b, c) :: r => if b then c else firstCause r

/-- SIG of a completing command (R102). -/
def Dev.signal (d : Dev) (t : Nat) (c : Cmd) : Dev := if cmdSig c then d.pegSig t (cmdPeg c) 1 else d

/-- Where an engine records a fault: its ERR register, its block number of Table 19.7. -/
structure ErrPlace where
  reg : Nat
  blk : Nat
  deriving DecidableEq, Repr

/-- Record a fault in the engine's ERR register and the tent's error log; the step is CONTAINED. -/
def Dev.recordFault (d : Dev) (t : Nat) (e : ErrPlace) (c : Cmd) (cause addr : Nat) : Dev :=
  (d.setReg e.reg (cause + cmdOp c * 2 ^ 8 + cmdTag c * 2 ^ 16)).tentErr t e.blk clsContained cause
    { op := cmdOp c, tag := cmdTag c, addr := addr }

/-- Waits that a queue has pending are withdrawn. -/
def Dev.dropWaits (d : Dev) (t waiter : Nat) : Dev :=
  d.modTent t fun x => { x with pegWaits := x.pegWaits.filter fun w => w.waiter != waiter }

/-- A push that fails its check: recorded, the queue stopped, the earlier commands kept (R100). -/
def Dev.refusePush (d : Dev) (t q : Nat) (e : ErrPlace) (c : Cmd) (cause : Nat) : Dev :=
  (d.recordFault t e c cause 0).modQueue t q fun x => { x with stopped := true }

/-- A check made when the command issues fails: it and the commands behind it are discarded (R100). -/
def Dev.refuseIssue (d : Dev) (t q : Nat) (e : ErrPlace) (c : Cmd) (cause addr : Nat) : Dev :=
  ((d.recordFault t e c cause addr).modQueue t q fun x =>
    { x with stopped := true, entries := [], tiles := [], waiting := false }).dropWaits t (4 + q)

/-- A run fault: the whole queue is discarded (R104). -/
def Dev.runFault (d : Dev) (t q : Nat) (e : ErrPlace) (c : Cmd) (cause addr : Nat) : Dev :=
  ((d.recordFault t e c cause addr).modQueue t q fun x =>
    { x with stopped := true, entries := [], flight := [], tiles := [], waiting := false }).dropWaits t (4 + q)

/-- Run the head's work, and put the command in flight with its flags; a held access leaves everything as
it was; a fault stops the queue. -/
def Dev.runHead (d : Dev) (t q : Nat) (e : ErrPlace) (c : Cmd) (work : Eng Unit) : Dev :=
  match work.run { dev := d } with
  | (.ok _, s) => s.dev.issue t q { cmd := c, flags := s.flags, olds := d.wordsLost s.dev }
  | (.error (.fault cause addr), s) => s.dev.runFault t q e c cause addr
  | (.error _, _) => d

/-- WAIT at the head of a queue: the wait is placed on its peg, once (R364). -/
def Dev.placeWait (d : Dev) (t q : Nat) (c : Cmd) : Dev :=
  (d.modQueue t q fun x => { x with waiting := true }).modTent t fun x =>
    { x with pegWaits := x.pegWaits ++ [{ peg := cmdPeg c, waiter := 4 + q, n := cmdWaitN c }] }

/-- Command i of a queue's flight, when it may complete: a NOP (opcode 0) only as the oldest. -/
def Dev.completing (d : Dev) (t q i : Nat) : Option Issued :=
  if d.halted then none
  else match (d.queue t q).flight[i]? with
  | some x => if cmdOp x.cmd = 0 ∧ i ≠ 0 then none else some x
  | none => none

end Sys2Proof.Machine
end

