-- ==== Sys2Proof/Machine/Arrays.lean ====
section
/-! DEFINITION. The dense arrays (04_dense_arrays): arrangement and width, the push and issue checks of
Table 4.10, PASS on both axes, DRAIN, PRELOAD, CLEAR, WAIT, NOP, and completion. -/

namespace Sys2Proof.Machine

/-! ### Arrangements (R32 to R34) -/

/-- ARRANGE in force. -/
def Dev.arrange (d : Dev) (t : Nat) : Nat := d.regF (tentReg t 0) 0 3

/-- Grid columns of array a in the arrangement in force (Table 2.3); 0 when it has none. `expert` holds the
12 column labels and the 6 roles sampled (R34). -/
def Dev.arrayCols (d : Dev) (t a : Nat) : Nat :=
  match d.arrange t with
  | 0 => if a < 3 then 4 else 0
  | 1 => if a = 0 then 12 else 0
  | 2 => if a < 3 then 4 else 0
  | _ => ((d.tent t).expert.take 12).count a

/-- Role of an array in force: 0 F, 1 BA, 2 BW. -/
def Dev.arrayRole (d : Dev) (t a : Nat) : Nat :=
  match d.arrange t with
  | 0 => a
  | 1 => 0
  | 2 => 0
  | _ => ((d.tent t).expert.drop 12).getD a 0

/-- The arrays in force. -/
def Dev.arrays (d : Dev) (t : Nat) : List Nat := (List.range 6).filter fun a => 0 < d.arrayCols t a

/-- C: cell columns of an array. -/
def Dev.arrayWidth (d : Dev) (t a : Nat) : Nat := 4 * d.arrayCols t a

/-- The BW array in force, when there is one (R45). -/
def Dev.bwArray (d : Dev) (t : Nat) : Option Nat := (d.arrays t).find? fun a => d.arrayRole t a == 2

/-! ### Commands -/

/-- Cell modes (Table 4.1). -/
inductive CellMode where
  | single | pair | half
  deriving DecidableEq, Repr

/-- FP8 elements. -/
def isFp8 (f : Nat) : Bool := f == 3 || f == 4
/-- BF16 or FP16. -/
def isF16 (f : Nat) : Bool := f == 1 || f == 2

/-- The mode of a format pair; none when the pair is not in Table 3.4. -/
def cellMode (s m : Nat) : Option CellMode :=
  if isFp8 s && isFp8 m then some .single
  else if s == 8 && m == 8 then some .single
  else if isMx s && isMx m then (if s == 7 && m == 7 then some .pair else some .single)
  else if (isF16 s && (isF16 m || isFp8 m)) || (isFp8 s && isF16 m) then some .half
  else none

/-- Fields of a PASS (Table 4.5). -/
structure PassCmd where
  fs : Nat
  fm : Nat
  axis : Bool
  zero : Bool
  close : Bool
  acc : Nat
  count : Nat
  sOff : Nat
  mOff : Nat
  mBstr : Nat
  sscOff : Nat
  mscOff : Nat
  mscStr : Nat
  sref : Int
  deriving DecidableEq, Repr

/-- Read them from a command. -/
def passOf (c : Cmd) : PassCmd :=
  { fs := cmdF c 32 4, fm := cmdF c 36 4, axis := cmdF c 40 1 == 1, zero := cmdF c 41 1 == 1,
    close := cmdF c 42 1 == 1, acc := cmdF c 48 6, count := cmdF c 56 6 + 1, sOff := cmdF c 64 17,
    mOff := cmdF c 96 17, mBstr := cmdF c 128 17, sscOff := cmdF c 160 17, mscOff := cmdF c 192 17,
    mscStr := cmdF c 224 16, sref := signed 16 (cmdF c 240 16) }

/-- Bytes of a stored lane (R84): two for the 16-bit formats. -/
def laneBytes (f : Nat) : Nat := if isF16 f then 2 else 1

/-- ACC and COUNT of PASS, DRAIN, PRELOAD and CLEAR. -/
def accRange (c : Cmd) : Nat × Nat := (cmdF c 48 6, cmdF c 56 6 + 1)

/-- Two commands name a common entry. -/
def rangesMeet (x y : Cmd) : Bool :=
  decide ((accRange x).1 < (accRange y).1 + (accRange y).2) &&
    decide ((accRange y).1 < (accRange x).1 + (accRange x).2)

/-- The bits each opcode uses (Tables 4.3 to 4.8). -/
def arrayUsed (op : Nat) : List (Nat × Nat) :=
  [(0, 5), (8, 6), (16, 16)] ++
    match op with
    | 1 => [(32, 11), (48, 6), (56, 6), (64, 17), (96, 17), (128, 17), (160, 17), (192, 17), (224, 32)]
    | 2 => [(32, 6), (48, 6), (56, 6), (64, 17), (96, 17), (128, 17), (160, 17)]
    | 3 => [(32, 1), (40, 6), (48, 6), (56, 6), (64, 17), (96, 17), (128, 16)]
    | 4 => [(48, 6), (56, 6)]
    | 5 => [(32, 16)]
    | _ => []

/-- A scale reference outside −256 to 255. -/
def srefBad (x : Int) : Bool := decide (x < -256) || decide (x > 255)

/-- Element bytes of a DRAIN's output. -/
def drainBytes (c : Cmd) : Nat := if cmdF c 36 1 = 1 then 16 else if cmdF c 32 4 = 1 then 2 else 4

/-- Checks of a push that need no array width: 0 or a cause of Table 4.10. An offset beyond the scratchpad, and bytes
whose number does not depend on C, are refused here. -/
def arrayPushCause (c : Cmd) : Nat :=
  let op := cmdOp c
  let rangeBad := decide ((accRange c).1 + (accRange c).2 > 64)
  firstCause ([(decide (5 < op), 0x01), (reservedSet c (arrayUsed op), 0x02)] ++
    match op with
    | 1 =>
      let p := passOf c
      let e := laneBytes p.fm
      let mx := isMx p.fs && isMx p.fm
      [((cellMode p.fs p.fm).isNone, 0x03),
        (rangeBad || decide (p.sOff % 16 ≠ 0) || decide (p.mOff % (8 * e) ≠ 0) ||
          (p.axis && decide (p.mBstr % (8 * e) ≠ 0)) ||
          decide (p.sOff ≥ padLen) || decide (p.mOff + 8 * e * (p.count + 7) > padLen) ||
          (mx && (p.axis || p.close) &&
            (decide (p.sscOff ≥ padLen) || decide (p.mscOff + (p.count - 1) * p.mscStr + 1 > padLen))), 0x04),
        (srefBad p.sref || (!mx && decide (p.sref ≠ 0)), 0x05)]
    | 2 =>
      let al := drainBytes c
      let out := cmdF c 32 4
      [(cmdF c 36 1 == 0 && !(out == 0 || out == 1 || out == 10), 0x03),
        (rangeBad || decide (cmdF c 64 17 % al ≠ 0) || decide (cmdF c 96 17 % al ≠ 0) ||
          decide (cmdF c 64 17 ≥ padLen) ||
          (cmdF c 36 1 == 0 && out == 10 &&
            (decide (cmdF c 128 17 + (accRange c).2 > padLen) || decide (cmdF c 160 17 + (accRange c).2 > padLen))), 0x04)]
    | 3 =>
      [(rangeBad || decide (cmdF c 64 17 % 16 ≠ 0) || decide (cmdF c 96 17 % 16 ≠ 0) ||
          decide (cmdF c 64 17 + cmdF c 96 17 * ((accRange c).2 - 1) + 16 * (cmdF c 40 6 + 1) > padLen), 0x04),
        (srefBad (signed 16 (cmdF c 128 16)), 0x05)]
    | 4 => [(rangeBad, 0x04)]
    | 5 => [(cmdWaitN c == 0, 0x07)]
    | _ => [])

/-- Checks at issue, which need C: width and range (R100); `lanes` holds the lane count of each entry of a
DRAIN's range. -/
def arrayIssueCause (width : Nat) (lanes : List Nat) (c : Cmd) : Nat :=
  match cmdOp c with
  | 2 =>
    if lanes.zipIdx.any fun (n, i) => decide (cmdF c 64 17 + i * cmdF c 96 17 + n * drainBytes c > padLen) then 0x04
    else 0
  | 1 =>
    let p := passOf c
    let pair := cellMode p.fs p.fm = some .pair
    let e := laneBytes p.fm
    let mx := isMx p.fs && isMx p.fm
    let bands := if pair then (width + 15) / 16 else (width + 7) / 8
    firstCause [
      (p.axis && (decide (width < 8) || (decide pair && decide (width < 16))), 0x06),
      (decide (p.sOff + 8 * width * laneBytes p.fs > padLen) ||
        (p.axis && decide (p.mOff + (bands - 1) * p.mBstr + 8 * e * (p.count + 7) > padLen)) ||
        (mx && (p.axis || p.close) &&
          (decide (p.sscOff + width > padLen) ||
            decide (p.mscOff + (p.count - 1) * p.mscStr +
              (if p.axis then (width + 31) / 32 else 1) > padLen))), 0x04)]
  | 3 => if cmdF c 40 6 + 1 > width then 0x06 else 0
  | _ => 0

/-- R101: the command may issue beside the commands in flight; a turn waits for the pass before it (R93). -/
def arrayMayIssue (c : Cmd) (flight : List Issued) : Bool :=
  flight.all fun x =>
    let o := cmdOp x.cmd
    match cmdOp c with
    | 1 =>
      let p := passOf c
      let y := passOf x.cmd
      if o = 1 then p.axis == y.axis && decide (cellMode p.fs p.fm = cellMode y.fs y.fm)
      else !(o == 3 && rangesMeet c x.cmd)
    | 2 => !((o == 1 || o == 3) && rangesMeet c x.cmd)
    | 3 => !(o == 1 && rangesMeet c x.cmd)
    | 4 => !((o == 1 || o == 3) && rangesMeet c x.cmd)
    | _ => true

/-! ### Accumulator entries -/

/-- Entry k of array a. -/
def Tent.entry (x : Tent) (a k : Nat) : Entry := look (fun _ => {}) x.accs (a * 64 + k)

/-- Set it. -/
def Tent.setEntry (x : Tent) (a k : Nat) (e : Entry) : Tent :=
  { x with accs := put (fun _ => {}) x.accs (a * 64 + k) e }

/-- An open block partial in some lane. -/
def Entry.open_ (e : Entry) : Bool := e.lanes.any fun l => decide (l.part ≠ 0)

/-- Apply f to lanes with their index, gathering flags. -/
def mapLanes (f : Nat → Lane → Lane × Nat) : Nat → List Lane → List Lane × Nat
  | _, [] => ([], 0)
  | i, l :: ls =>
    let a := f i l
    let r := mapLanes f (i + 1) ls
    (a.1 :: r.1, a.2 ||| r.2)

/-! ### PASS -/

/-- The operands of one pass as read: the stationary image, the bands of the moving operand (one on the
normal axis), the scales. -/
structure PassData where
  image : List Byte
  bands : List (List Byte)
  ssc : List Byte
  msc : List (List Byte)
  deriving DecidableEq, Repr

/-- Byte i of a list. -/
def byteAt (bs : List Byte) (i : Nat) : Nat := (bs.getD i 0).toNat

/-- S[r][c] in a mode: in pair mode contraction row r of 16. -/
def statElem (p : PassCmd) (mode : CellMode) (width : Nat) (img : List Byte) (r c : Nat) : Num :=
  match mode with
  | .pair => elemNum p.fs (field (byteAt img (r / 2 * width + c)) (4 * (r % 2)) 4)
  | _ =>
    let e := laneBytes p.fs
    let b := leAt img ((r * width + c) * e) e
    elemNum p.fs (if p.fs = 7 then b % 16 else b)

/-- Element i of moving vector j on the normal axis (R84): i is the contraction index in the band. -/
def movNormal (p : PassCmd) (mode : CellMode) (band : List Byte) (j i : Nat) : Num :=
  match mode with
  | .pair => elemNum p.fm (field (byteAt band ((j + i / 2) * 8 + i / 2)) (4 * (i % 2)) 4)
  | _ =>
    let e := laneBytes p.fm
    let b := leAt band ((j + i) * 8 * e + i * e) e
    elemNum p.fm (if p.fm = 7 then b % 16 else b)

/-- Lane c of moving vector j on the transposed axis (R85). -/
def movTransposed (p : PassCmd) (mode : CellMode) (bands : List (List Byte)) (j c : Nat) : Num :=
  match mode with
  | .pair =>
    let k := c % 16 / 2
    elemNum p.fm (field (byteAt (bands.getD (c / 16) []) ((j + k) * 8 + k)) (4 * (c % 2)) 4)
  | _ =>
    let e := laneBytes p.fm
    let k := c % 8
    let b := leAt (bands.getD (c / 8) []) ((j + k) * 8 * e + k * e) e
    elemNum p.fm (if p.fm = 7 then b % 16 else b)

/-- The exact sum of products at weight 2^-48, with the kinds of special product and the flags they leave (R65,
R67). -/
def exactSum : List (Num × Num) → Int × Nat × Nat
  | [] => (0, 0, 0)
  | (x, y) :: r =>
    let t := exactSum r
    let p := x.mul y
    match p.1 with
    | .fin neg m e => (atWeight48 neg m e + t.1, t.2.1, p.2 ||| t.2.2)
    | q => (t.1, kindsOf q ||| t.2.1, p.2 ||| t.2.2)

/-- The band or row sum of the FP32 path: products added in order, each addition rounded (R71, R92). -/
def fp32Sum : List (Num × Num) → Option Nat → Nat × Nat
  | [], acc => (acc.getD 0, 0)
  | (x, y) :: r, acc =>
    let p := x.mul y
    let s := match acc with
      | none => (p.1, 0)
      | some a => (fp32.decode a).add .rne p.1
    let v := toFp32 s.1
    let t := fp32Sum r (some v.1)
    (t.1, p.2 ||| s.2 ||| v.2 ||| t.2)

/-- A two's-complement integer of so many bits, wrapped: the row path's 96 bits (R92) and the block partial's 72
(R83). DESIGN CHOICE: one that leaves its width wraps. -/
def wrapTo (bits : Nat) (x : Int) : Int := (x + 2 ^ (bits - 1)) % 2 ^ bits - 2 ^ (bits - 1)

/-- Add a sum to a lane's special state and integer (R64, R67, R70). -/
def Lane.addExact (l : Lane) (sum : Int × Nat × Nat) : Lane × Nat :=
  let a := l.addInt sum.1
  let b := a.1.specials sum.2.1
  (b.1, a.2 ||| b.2 ||| sum.2.2)

/-- A scaled contribution floor(m × 2^k), with RES and RESOLUTION when it is not exact (R66). -/
def Lane.addScaled (l : Lane) (m : Int) (k : Int) : Lane × Nat :=
  let v := floorScale m k
  let inexact := decide (k < 0) && decide (v * (2 : Int) ^ (-k).toNat ≠ m)
  let a := l.addInt v
  (if inexact && !l.saturated then { a.1 with res := true } else a.1, a.2 ||| flagIf inexact fResolution)

/-- Contribution of one pass to output lane i of vector j. -/
def passLane (p : PassCmd) (mode : CellMode) (width : Nat) (x : PassData) (j i : Nat) (l : Lane) : Lane × Nat :=
  let depth := if mode = .pair then 16 else 8
  let terms : List (Num × Num) :=
    if p.axis then
      (List.range width).map fun c => (statElem p mode width x.image i c, movTransposed p mode x.bands j c)
    else
      (List.range depth).map fun r =>
        (statElem p mode width x.image r i, movNormal p mode (x.bands.getD 0 []) j r)
  if mode = .half then
    let s := fp32Sum terms none
    let a := addFp32 (unsigned 32 l.i) s.1
    ({ l with i := (a.1 : Int) }, s.2 ||| a.2)
  else if isMx p.fs && isMx p.fm then
    if p.axis then
      -- each product is its own contribution at its scales (R92)
      let scales (c : Nat) : Nat × Nat := (byteAt (x.msc.getD j []) (c / 32), byteAt x.ssc c)
      let one (c : Nat) (y : Num × Num) : (Int × Nat × Nat) × Bool :=
        let sc := scales c
        let q := y.1.mul y.2
        if sc.1 = 255 ∨ sc.2 = 255 then ((0, 4, q.2), false)
        else
          match q.1 with
          | .fin neg m e =>
            let k : Int := e + 48 + ((sc.1 : Int) + (sc.2 : Int) - 254 - p.sref)
            let v := floorScale (sgnInt neg m) k
            ((v, 0, q.2), decide (k < 0) && decide (v * (2 : Int) ^ (-k).toNat ≠ sgnInt neg m))
          | z => ((0, kindsOf z, q.2), false)
      let parts := terms.zipIdx.map fun (y, c) => one c y
      let path := parts.foldr (fun a b => (a.1.1 + b.1, a.1.2.1 ||| b.2.1, a.1.2.2 ||| b.2.2)) (0, 0, 0)
      let sum := (wrapTo 96 path.1, path.2.1, path.2.2)
      let inexact := parts.any (·.2)
      let r := l.addExact sum
      (if inexact && !l.saturated then { r.1 with res := true } else r.1, r.2 ||| flagIf inexact fResolution)
    else
      let s := exactSum terms
      let l1 := { l with part := wrapTo 72 (l.part + s.1) }.specials s.2.1
      let fl := s.2.2 ||| l1.2
      if p.close then
        let xm := byteAt (x.msc.getD j []) 0
        let xs := byteAt x.ssc i
        if xm = 255 ∨ xs = 255 then
          let r := { l1.1 with part := 0 }.special 3
          (r.1, fl ||| r.2)
        else
          let r := { l1.1 with part := 0 }.addScaled l1.1.part ((xm : Int) + (xs : Int) - 254 - p.sref)
          (r.1, fl ||| r.2)
      else (l1.1, fl)
  else l.addExact (exactSum terms)

/-- Output lanes of a pass (R96). -/
def passLanes (p : PassCmd) (mode : CellMode) (width : Nat) : Nat :=
  if p.axis then (if mode = .pair then 16 else 8) else width

/-- The vectors of a pass enter their entries in order: tag checks (R83), the open block (R94), the sums. -/
def passEntries (a : Nat) (t : Nat) (p : PassCmd) (mode : CellMode) (width : Nat) (x : PassData) :
    List Nat → Eng Unit
  | [] => pure ()
  | j :: js => do
    let k := p.acc + j
    let old ← askDev fun d => (d.tent t).entry a k
    let mx := isMx p.fs && isMx p.fm
    let kind := if mode = .half then 1 else 0
    let n := passLanes p mode width
    let start : Entry :=
      if p.zero || old.empty then { empty := false, kind := kind, sref := p.sref, lanes := List.replicate n {} }
      else old
    need (!(!mx && start.open_)) 0x11 (k * 2 ^ 17)
    need (start.kind == kind && start.sref == p.sref && start.lanes.length == n) 0x10 (k * 2 ^ 17)
    let r := mapLanes (passLane p mode width x j) 0 start.lanes
    flag r.2
    onDev (·.modTent t fun s => s.setEntry a k { start with lanes := r.1 })
    passEntries a t p mode width x js

/-- The stationary image of a pass: the tile buffer's, where it has been read (R88), else as it lies now. -/
def passImage (q : PadPort) (a : Nat) (width : Nat) (p : PassCmd) : Eng (List Byte) := do
  match ← askDev fun d => (d.queue q.t a).tiles.head? with
  | none => padRead q p.sOff (8 * width * laneBytes p.fs)
  | some x =>
    match x.fault with
    | some f => failWith f.1 f.2
    | none => return x.bytes

/-- The work of a PASS (R96). -/
def passWork (q : PadPort) (a : Nat) (width : Nat) (p : PassCmd) : Eng Unit := do
  let mode := (cellMode p.fs p.fm).getD .single
  let em := laneBytes p.fm
  let image ← passImage q a width p
  let nb := if p.axis then (if mode = .pair then (width + 15) / 16 else (width + 7) / 8) else 1
  let bands ← (List.range nb).mapM fun b => padRead q (p.mOff + b * p.mBstr) (8 * em * (p.count + 7))
  let mx := isMx p.fs && isMx p.fm
  let (ssc, msc) ← if mx && (p.axis || p.close) then do
      let s ← padRead q p.sscOff width
      let m ← (List.range p.count).mapM fun j =>
        padRead q (p.mscOff + j * p.mscStr) (if p.axis then (width + 31) / 32 else 1)
      pure (s, m)
    else pure ([], [])
  passEntries a q.t p mode width ⟨image, bands, ssc, msc⟩ (List.range p.count)

/-! ### DRAIN (R97) -/

/-- One lane converted to BI24 against an exponent byte: bytes, flags, marks, non-finite. DESIGN CHOICE: a column that
is saturated already raises OVERFLOW again and marks its block, as a container that saturates does (R74); to FP32 and
BF16 it converts without a flag. -/
def drainBi (ex : Nat) (e : Entry) (l : Lane) : BiOut :=
  if ex = 255 then ⟨0, 0, false, true⟩
  else if l.s ≠ 0 then ⟨0, flagIf (l.s != 3) fInvalid, false, true⟩
  else if e.kind = 0 ∧ l.saturated then
    ⟨if l.w < 0 then -(2 ^ 23) else 2 ^ 23 - 1, fOverflow, true, false⟩
  else narrowBi 10 ex .rne 0 (drainNum e.kind e.sref l)

/-- Drain the entries of a range. -/
def drainEntries (q : PadPort) (a width : Nat) (c : Cmd) : List Nat → Eng Unit
  | [] => pure ()
  | i :: is => do
    let k := cmdF c 48 6 + i
    let e ← askDev fun d => (d.tent q.t).entry a k
    need (!e.open_) 0x11 (k * 2 ^ 17)
    let lanes := if e.empty then List.replicate width {} else e.lanes
    let off := cmdF c 64 17 + i * cmdF c 96 17
    if cmdF c 36 1 = 1 then
      padWrite q off (lanes.flatMap fun l => leBytes 16 (if e.empty then 0 else rawOf e.kind l))
    else if cmdF c 32 4 = 10 then do
      let ex ← padNat q (cmdF c 128 17 + i) 1
      let outs := lanes.map (drainBi ex e)
      flag (orAll (outs.map (·.flags)))
      padWrite q off (outs.flatMap fun o => leBytes 4 (unsigned 32 o.m))
      if outs.any (·.nonfinite) then padPut q (cmdF c 128 17 + i) 1 0xFF
      if outs.any (·.mark) then padPut q (cmdF c 160 17 + i) 1 1
    else do
      let f := if cmdF c 32 4 = 1 then bf16 else fp32
      let outs := lanes.map (drainFp f e.kind e.sref)
      flag (orAll (outs.map (·.2)))
      padWrite q off (outs.flatMap fun o => leBytes (if cmdF c 32 4 = 1 then 2 else 4) o.1)
    if cmdF c 37 1 = 0 then onDev (·.modTent q.t fun s => s.setEntry a k {})
    drainEntries q a width c is

/-! ### PRELOAD (R98) -/

/-- Lane-wise sums of an entry with raw forms: an empty raw form leaves the lane. -/
def addRaws (kind : Nat) : List Lane → List Nat → List Lane × Nat
  | l :: ls, x :: xs =>
    let r := addRaws kind ls xs
    let s := if x = 0 then (l, 0) else addLane kind l (laneOfRaw x)
    (s.1 :: r.1, s.2 ||| r.2)
  | ls, _ => (ls, 0)

/-- Add raw forms into one entry. -/
def preloadEntry (q : PadPort) (a : Nat) (c : Cmd) (i : Nat) : Eng Unit := do
  let k := cmdF c 48 6 + i
  let n := cmdF c 40 6 + 1
  let sref := signed 16 (cmdF c 128 16)
  let off := cmdF c 64 17 + i * cmdF c 96 17
  let bs ← padRead q off (16 * n)
  let raws := (List.range n).map fun l => leAt bs (16 * l) 16
  let old ← askDev fun d => (d.tent q.t).entry a k
  let zero := cmdF c 32 1 == 1
  need (zero || !old.open_) 0x11 (k * 2 ^ 17)
  let kinds := (raws.filter (· ≠ 0)).map rawKind
  let fresh := zero || old.empty
  let kind := if fresh then kinds.headD 0 else old.kind
  need (!raws.any rawBad && kinds.all (· == kind)) 0x12 (off + k * 2 ^ 17)
  need (fresh || (old.sref == sref && old.lanes.length == n)) 0x10 (k * 2 ^ 17)
  let start : Entry :=
    if fresh then { empty := false, kind := kind, sref := sref, lanes := List.replicate n {} } else old
  -- into a lane just cleared a raw form is loaded as it is; otherwise it is added (R69)
  let r := if fresh then (raws.map laneOfRaw, 0) else addRaws kind start.lanes raws
  flag r.2
  let allEmpty := if fresh then raws.all (· == 0) else r.1.all fun l => rawOf kind l == 0
  onDev (·.modTent q.t fun s => s.setEntry a k (if allEmpty then {} else { start with lanes := r.1 }))

/-! ### Issue and completion -/

/-- The array port of a tent (Table 2.7, Table 4.10). -/
def Dev.arrayPort (d : Dev) (t a : Nat) : PadPort := ⟨t, 5 + a, d.blkSecure t 5, 0x04, 0x20, 0x21⟩

/-- ARY_ERR_n. -/
def aryErr (t a : Nat) : ErrPlace := ⟨tentReg t (0x10_0008 + 0x100 * a), 2⟩

/-- A fault of an array: ARY_ERR_OFF_n takes offset and entry; a run fault leaves its entries undefined. -/
def Dev.aryFault (d : Dev) (t a addr : Nat) (undef : Bool) : Dev :=
  (d.setReg (tentReg t (0x10_000C + 0x100 * a)) (addr % 2 ^ 23)).modTent t fun x =>
    if undef && !x.accUndef.contains a then { x with accUndef := a :: x.accUndef } else x

/-- Read the image of a PASS into the tile buffer (R88); one held by a clear of its segment is left for later. -/
def Dev.fetchTile (d : Dev) (t a : Nat) (c : Cmd) : Dev :=
  let p := passOf c
  let n := 8 * d.arrayWidth t a * laneBytes p.fs
  if padLen < p.sOff + n then d
  else match (padRead (d.arrayPort t a) p.sOff n).run { dev := d } with
  | (.ok bs, s) => s.dev.modQueue t a fun x => { x with tiles := x.tiles ++ [⟨bs, none⟩] }
  | (.error (.fault cause o), s) => s.dev.modQueue t a fun x => { x with tiles := x.tiles ++ [⟨[], some (cause, o)⟩] }
  | (.error _, _) => d

/-- The tile buffer reads the images of the next two PASSes that no WAIT holds (R88, R99). -/
def Dev.fetchTiles (d : Dev) (t a : Nat) : Dev :=
  let x := d.queue t a
  if d.halted || x.stopped && x.flight.isEmpty || d.arrayCols t a == 0 then d
  else
    let next := (x.entries.takeWhile fun c => cmdOp c != 5).filter fun c => cmdOp c == 1
    ((next.take 2).drop x.tiles.length).foldl (fun (d : Dev) c =>
      if (d.queue t a).tiles.length < 2 then d.fetchTile t a c else d) d

/-- A command of an array issues: a PASS leaves the tile buffer, which reads on. -/
def Dev.arrayIssue (d : Dev) (t a : Nat) (i : Issued) : Dev :=
  let d1 := d.issue t a i
  (if cmdOp i.cmd = 1 then d1.modQueue t a fun x => { x with tiles := x.tiles.tail } else d1).fetchTiles t a

/-- A turn is in progress (R93): the next PASS is of another axis or mode than one in flight. -/
def Dev.turning (d : Dev) (t a : Nat) : Bool :=
  let x := d.queue t a
  match x.entries.head? with
  | some c =>
    cmdOp c == 1 && x.flight.any fun i =>
      let p := passOf c
      let y := passOf i.cmd
      cmdOp i.cmd == 1 && !(p.axis == y.axis && decide (cellMode p.fs p.fm = cellMode y.fs y.fm))
  | none => false

/-- The head of array a's queue, when the array is in force and the row's opcode is the head's. -/
def Dev.arrayHead (d : Dev) (t a op : Nat) : Option Cmd :=
  if d.arrayCols t a = 0 then none
  else match d.head t a with
  | some c => if cmdOp c = op ∧ arrayMayIssue c (d.queue t a).flight then some c else none
  | none => none

/-- Issue the head: the checks that need C, then its work; a run fault discards the queue (R100, R104). -/
def Dev.arrayRun (d : Dev) (t a op : Nat) (work : PadPort → Nat → Cmd → Eng Unit) : Dev :=
  match d.arrayHead t a op with
  | none => d
  | some c =>
    let lanes := (List.range (accRange c).2).map fun i =>
      let e := (d.tent t).entry a ((accRange c).1 + i)
      if e.empty then d.arrayWidth t a else e.lanes.length
    let cause := arrayIssueCause (d.arrayWidth t a) lanes c
    if cause ≠ 0 then (d.refuseIssue t a (aryErr t a) c cause 0).aryFault t a 0 false
    else
      match (work (d.arrayPort t a) (d.arrayWidth t a) c).run { dev := d } with
      | (.ok _, s) => s.dev.arrayIssue t a { cmd := c, flags := s.flags, olds := d.wordsLost s.dev }
      | (.error (.fault cause addr), s) =>
        (s.dev.runFault t a (aryErr t a) c cause addr).aryFault t a addr true
      | (.error _, _) => d

/-- PASS (R96). -/
def execPass (t : TentId) (a : BitVec 3) : State → Out :=
  lift fun d => d.arrayRun t.toNat a.toNat 1 fun q w c => passWork q a.toNat w (passOf c)

/-- DRAIN (R97). -/
def execDrain (t : TentId) (a : BitVec 3) : State → Out :=
  lift fun d => d.arrayRun t.toNat a.toNat 2 fun q w c => drainEntries q a.toNat w c (List.range (accRange c).2)

/-- PRELOAD (R98). -/
def execPreload (t : TentId) (a : BitVec 3) : State → Out :=
  lift fun d => d.arrayRun t.toNat a.toNat 3 fun q _ c =>
    (List.range (accRange c).2).forM (preloadEntry q a.toNat c)

/-- The entries of a range at empty (R99). -/
def clearEntries (a lo : Nat) : Nat → Tent → Tent
  | 0, x => x
  | n + 1, x => clearEntries a (lo + 1) n (x.setEntry a lo {})

/-- CLEAR, which completes in the cycle in which it issues (R99, R102). -/
def execArrayClear (t : TentId) (a : BitVec 3) : State → Out :=
  lift fun d =>
    match d.arrayHead t.toNat a.toNat 4 with
    | none => d
    | some c =>
      (((d.modTent t.toNat (clearEntries a.toNat (accRange c).1 (accRange c).2)).modQueue t.toNat a.toNat
        fun x => { x with entries := x.entries.tail }).fetchTiles t.toNat a.toNat).signal t.toNat c

/-- WAIT: the queue is held until wait(N) on its peg is granted (R99). -/
def execArrayWait (t : TentId) (a : BitVec 3) : State → Out :=
  lift fun d =>
    match d.arrayHead t.toNat a.toNat 5 with
    | none => d
    | some c => d.placeWait t.toNat a.toNat c

/-- NOP issues; it completes when every earlier command has (R99). -/
def execArrayNop (t : TentId) (a : BitVec 3) : State → Out :=
  lift fun d =>
    match d.arrayHead t.toNat a.toNat 0 with
    | none => d
    | some c => d.arrayIssue t.toNat a.toNat { cmd := c }

/-- A pass is counted, and the steps it lost (R90, R106): a free value, which timing decides. -/
def Dev.passDone (d : Dev) (base : Nat) : Dev :=
  ({ d with fresh := d.fresh + 1 }.bump (base + 0x10) 1).bump (base + 0x18) (Config.stallSteps d.fresh)

/-- A command in flight completes: flags into ARY_FLAGS_n, the pass counted, SIG once (R96, R102). -/
def execArrayCommandComplete (t : TentId) (a : BitVec 3) (i : Nat) : State → Out :=
  lift fun d =>
    match d.completing t.toNat a.toNat i with
    | none => d
    | some x =>
      let base := tentReg t.toNat (0x10_0000 + 0x100 * a.toNat)
      let d1 := (d.retire t.toNat a.toNat i).orReg (base + 4) x.flags
      let d2 := if cmdOp x.cmd = 1 then d1.passDone base else d1
      d2.signal t.toNat x.cmd

end Sys2Proof.Machine
end

