-- ==== Sys2Proof/Machine/Kit.lean ====
section
/-! DEFINITION. The kit image and what makes it valid (18 R401, R402, Tables 18.4 to 18.6), the fuses, and
which Lantern is active (R398). -/

namespace Sys2Proof.Machine

/-! ### Fuses (Table 18.3) -/

/-- The OWNER slot in force. -/
def Fuses.ownerSlot (f : Fuses) : Nat := f.owners.length - 1
/-- Its digest. -/
def Fuses.owner (f : Fuses) : Option (BitVec 512) := f.owners.getLast?

/-! ### Kits (R401) -/

/-- Bytes of a signature block. -/
def sigLen : Nat := 2048

/-- A directory entry (Table 18.5). -/
structure Section where
  typ : Nat
  vendor : Bool
  off : Nat
  len : Nat
  digest : BitVec 512
  /-- The 80 bytes of the entry. -/
  raw : List Byte
  deriving DecidableEq, Repr

/-- NSECT. -/
def kitCount (k : List Byte) : Nat := leAt k 6 2

/-- The directory. -/
def kitDir (k : List Byte) : List Section :=
  (List.range (kitCount k)).map fun i =>
    let e := slice k (256 + 80 * i) 80
    { typ := leAt e 0 2, vendor := bitAt (leAt e 2 2) 0, off := leAt e 4 4, len := leAt e 8 4,
      digest := BitVec.ofNat 512 (leAt e 16 64), raw := e }

/-- The bytes of a section; empty when the kit has none of the type. -/
def kitSection (k : List Byte) (typ : Nat) : List Byte :=
  match (kitDir k).find? (·.typ == typ) with
  | some s => slice k s.off s.len
  | none => []

/-- VENDOR of a section type (Table 18.6). -/
def vendorType (typ : Nat) : Bool := typ == 2 || typ == 3
/-- Section types that a kit must hold. -/
def requiredTypes : List Nat := [1, 2, 3, 6, 0xA, 0xB]

/-- SEQUENCE. -/
def kitSequence (k : List Byte) : Nat := leAt k 8 8

/-- The kit measurement (R402). -/
def kitMeasure (k : List Byte) : BitVec 512 := Config.shake512 (k.take (256 + 80 * kitCount k))

/-- Bytes of a list are zero. -/
def allZero (bs : List Byte) : Bool := bs.all (· == 0)

/-- Check 1 of R402: header and directory obey Tables 18.4 to 18.6, the parts in order. -/
def kitForm (k : List Byte) : Bool :=
  let vs := leAt k 32 4
  let os := leAt k 36 4
  let dir := kitDir k
  leAt k 0 4 == 0x5449_4B4E && leAt k 4 2 == 1 && decide (1 ≤ kitCount k) && decide (kitCount k ≤ 64) &&
    decide (leAt k 16 1 ≤ 64) && allZero (slice k 17 3) && allZero (slice k 40 216) &&
    os == vs + sigLen && leAt k 20 4 == os + sigLen && decide (os + sigLen ≤ k.length) &&
    decide (os + sigLen ≤ 0x780_0000) &&
    dir.all (fun s =>
      decide (1 ≤ s.typ) && decide (s.typ ≤ 0xB) && s.vendor == vendorType s.typ && leAt s.raw 2 2 / 2 == 0 &&
        leAt s.raw 12 4 == 0 && decide (256 + 80 * kitCount k ≤ s.off) && decide (s.off + s.len ≤ vs)) &&
    (dir.map (·.typ)).eraseDups.length == dir.length &&
    requiredTypes.all (fun t => dir.any (·.typ == t)) &&
    dir.all (fun s => s.typ != 1 || s.len == 2 * 1793)

/-- The signature in a 2,048-byte block: LEN, the signature, zero bytes. -/
def sigOf (b : List Byte) : List Byte := slice b 2 (min (leAt b 0 2) (sigLen - 2))

/-- Checks 2 to 6 of R402: what a Lantern judges before it streams the sections. -/
def kitSigned (f : Fuses) (k : List Byte) : Bool :=
  let keys := kitSection k 1
  let vkey := keys.take 1793
  let okey := slice keys 1793 1793
  let vs := leAt k 32 4
  let os := leAt k 36 4
  let vdir := ((kitDir k).filter (·.vendor)).flatMap (·.raw)
  (leAt k 24 8 == 0 || leAt k 24 8 == f.uid.toNat) && decide (f.ksvn ≤ leAt k 16 1) &&
    Config.shake512 vkey == f.vroot &&
    Config.falconVerify vkey (Config.shake512 vdir) (sigOf (slice k vs sigLen)) &&
    (f.lifecycle != 2 ||
      (f.owner == some (Config.shake512 okey) &&
        Config.falconVerify okey (Config.shake512 (k.take os)) (sigOf (slice k os sigLen))))

/-- Boot step 2: the slot is valid as far as its header, directory and signatures show. -/
def kitStep2 (f : Fuses) (k : List Byte) : Bool := kitForm k && kitSigned f k

/-- Check 7, as the sections stream in. -/
def kitDigests (k : List Byte) : Bool :=
  (kitDir k).all fun s => Config.shake512 (slice k s.off s.len) == s.digest

/-- A kit is valid (R402). -/
def kitValid (f : Fuses) (k : List Byte) : Bool := kitStep2 f k && kitDigests k

/-! ### The Lanterns (R398, R436) -/

/-- Lantern A (false) or B (true). -/
def Dev.lan (d : Dev) (b : Bool) : Lantern := if b then d.lanB else d.lanA
/-- Replace it. -/
def Dev.setLan (d : Dev) (b : Bool) (x : Lantern) : Dev := if b then { d with lanB := x } else { d with lanA := x }
/-- The active Lantern, while its cores run. -/
def Dev.active (d : Dev) : Option Bool :=
  if d.lanA.role = .active ∧ !d.lanA.lost then some false
  else if d.lanB.role = .active ∧ !d.lanB.lost then some true
  else none
/-- The die of a Lantern. -/
def lanDie (b : Bool) : Nat := if b then 7 else 6
/-- The kit in force: the one the active Lantern applied, kept in the SRAM of a Lantern that is lost. -/
def Dev.kit (d : Dev) : List Byte :=
  if d.lanA.role = .active then d.lanA.kit else if d.lanB.role = .active then d.lanB.kit else []
/-- Its TOPOLOGY section. -/
def Dev.topology (d : Dev) : List Byte := kitSection d.kit 6

/-- A log entry of the Lantern and security blocks (R442). -/
def Dev.lanErr (d : Dev) (cls cause : Nat) (i : ErrInfo := {}) : Dev :=
  d.dieErr (lanDie (d.active == some true)) 0 0x13 cls cause i

end Sys2Proof.Machine
end

