-- ==== Sys2Proof/Machine/Packets.lean ====
section
/-! DEFINITION. Trail packets (12 R277 to R279, R286): the header, its checks, route selection, egress
queues, and the packets a device sends of its own accord. -/

namespace Sys2Proof.Machine

/-- The packet header (Table 12.5). -/
structure Hdr where
  typ : Nat
  vc : Nat
  worldS : Bool := false
  accum : Bool := false
  ackReq : Bool := false
  comp : Bool := false
  form : Nat := 0
  mgmt : Bool := false
  len : Nat := 0
  job : Nat := 0
  epoch : Nat := 0
  gen : Nat := 0
  fmt : Nat := 0
  dest : Nat := 0
  src : Nat := 0
  tid : Nat := 0
  aux : Nat := 0
  arg : Nat := 0
  deriving DecidableEq, Repr

/-- Read a header from the first 32 bytes of a packet. -/
def hdrOf (bs : List Byte) : Hdr :=
  let x := leAt bs 0 32
  { typ := field x 0 4, vc := field x 4 3, worldS := bitAt x 7, accum := bitAt x 8, ackReq := bitAt x 9,
    comp := bitAt x 10, form := field x 11 3, mgmt := bitAt x 14, len := field x 16 13, job := field x 32 12,
    epoch := field x 44 4, gen := field x 48 8, fmt := field x 56 4, dest := field x 64 64,
    src := field x 128 10, tid := field x 144 16, aux := field x 160 32, arg := field x 192 64 }

/-- The 32 bytes of a header. -/
def Hdr.bytes (h : Hdr) : List Byte :=
  leBytes 32 (h.typ % 16 + h.vc % 8 * 2 ^ 4 + b2n h.worldS * 2 ^ 7 + b2n h.accum * 2 ^ 8 +
    b2n h.ackReq * 2 ^ 9 + b2n h.comp * 2 ^ 10 + h.form % 8 * 2 ^ 11 + b2n h.mgmt * 2 ^ 14 +
    h.len % 2 ^ 13 * 2 ^ 16 + h.job % 2 ^ 12 * 2 ^ 32 + h.epoch % 16 * 2 ^ 44 + h.gen % 256 * 2 ^ 48 +
    h.fmt % 16 * 2 ^ 56 + h.dest % 2 ^ 64 * 2 ^ 64 + h.src % 2 ^ 10 * 2 ^ 128 + h.tid % 2 ^ 16 * 2 ^ 144 +
    h.aux % 2 ^ 32 * 2 ^ 160 + h.arg % 2 ^ 64 * 2 ^ 192)

/-- Flits of a packet with LEN payload bytes. -/
def pktFlits (len : Nat) : Nat := (32 + len + 63) / 64

/-- A packet: header, payload, zero padding to whole flits. -/
def mkPkt (h : Hdr) (payload : List Byte) : List Byte :=
  slice ({ h with len := payload.length }.bytes ++ payload) 0 (64 * pktFlits payload.length)

/-- The payload of a packet. -/
def payloadOf (bs : List Byte) : List Byte := slice bs 32 (hdrOf bs).len

/-- Packet types allowed on a VC (Table 12.4). -/
def typeOnVc (vc typ : Nat) : Bool :=
  match vc with
  | 0 => typ == 8 || typ == 4 || typ == 9
  | 1 => typ == 7
  | 2 => typ == 6
  | 6 => typ == 5
  | 7 => typ == 10 || typ == 1 || typ == 2 || typ == 3
  | _ => typ == 1 || typ == 2 || typ == 3

/-- The HEADER class of Table 12.9: TYPE invalid or not allowed on its VC, VC not the slot tag's, a reserved bit of
Table 12.5 set, SELF or a bit above it set, LEN above 4,096 or above the one flit of VC0. Fields that are zero for
other types (AUX, ARG, FORM, FMT, the identity of MGMT packets) are not reserved bits and are not looked at. -/
def hdrBad (tagVc : Nat) (bs : List Byte) : Bool :=
  let x := leAt bs 0 32
  let h := hdrOf bs
  !typeOnVc h.vc h.typ || h.vc != tagVc || bitAt x 15 || field x 29 3 != 0 || field x 60 4 != 0 ||
    field x 138 6 != 0 || field h.dest 58 6 != 0 || decide (h.len > 4096) || (h.vc == 0 && decide (h.len > 32))

/-! ### Links -/

/-- Die of a link's port. -/
def linkDie (l : Nat) : Nat := 6 + l / 24
/-- Address of an offset in the window of a link's port. -/
def portReg (l o : Nat) : Nat := dieReg (linkDie l) (l / 2 % 12 * 0x100_0000 + o)
/-- TRL_STATUS_k_h. -/
def linkStatus (l : Nat) : Nat := portReg l (0x10 + 4 * (l % 2))
/-- A per-link counter, by offset. -/
def linkCnt (l o : Nat) : Nat := portReg l (0x100 + 0x80 * (l % 2) + o)
/-- STATE of a link: 0 off, 1 training, 2 up, 3 retraining, 4 down, 5 quarantined. -/
def Dev.linkState (d : Dev) (l : Nat) : Nat := d.regF (linkStatus l) 0 3
/-- The link is up. -/
def Dev.linkUp (d : Dev) (l : Nat) : Bool := d.linkState l == 2

/-- A link. -/
def Dev.link (d : Dev) (l : Nat) : Link := look (fun _ => {}) d.links l
/-- Replace it. -/
def Dev.setLink (d : Dev) (l : Nat) (x : Link) : Dev := { d with links := put (fun _ => {}) d.links l x }
/-- Change it. -/
def Dev.modLink (d : Dev) (l : Nat) (f : Link → Link) : Dev := d.setLink l (f (d.link l))

/-- The links of the route entry of a device, in order; empty when the entry is not VALID (R279). -/
def Dev.routeLinks (d : Dev) (dev : Nat) : List Nat :=
  let r := d.reg (dieReg 6 (0xC01_0000 + 4 * dev))
  if bitAt r 26 then (List.range (field r 24 2 + 1)).map fun i => field r (6 * i) 6 else []

/-- h of R279: the XOR of the 6-bit fields of DEST[47:8]. -/
def routeHash (dest : Nat) : Nat :=
  let x := field dest 8 40
  (List.range 7).foldl (fun h i => h ^^^ field x (6 * i) 6) 0

/-- The link the route entry gives a packet (R279). -/
def Dev.routeOf (d : Dev) (dest : Nat) : Option Nat :=
  let ls := d.routeLinks (field dest 48 10)
  ls[routeHash dest % ls.length]?

/-- A link is out of use: down, quarantined (R270, R288). -/
def Dev.linkGone (d : Dev) (l : Nat) : Bool := d.linkState l == 4 || d.linkState l == 5

/-- The links of a packet's route entry in the order it tries them: its own, then the next ones (R270). -/
def Dev.routeTurn (d : Dev) (dest : Nat) : List Nat :=
  let ls := d.routeLinks (field dest 48 10)
  let i := routeHash dest % ls.length
  ls.drop i ++ ls.take i

/-- The link a packet is queued on: the first of its turn that is up or trains; where none is, the first that is off
and may yet train. None where every link of the entry is down or quarantined: the packet is lost. DEDUCED from R24
and R270, which let the camp run without a link that is down. -/
def Dev.egressOf (d : Dev) (dest : Nat) : Option Nat :=
  let ls := (d.routeTurn dest).filter fun l => !d.linkGone l
  (ls.find? fun l => d.linkState l != 0).orElse fun _ => ls.head?

/-- Put a packet at the end of a link's egress queue. -/
def Dev.enqueue (d : Dev) (l vc : Nat) (pkt : List Byte) : Dev :=
  d.modLink l fun x => { x with queue := x.queue ++ [(vc, pkt)] }

/-- An entry of the violation log of a link's die (R286). -/
def Dev.vlog (d : Dev) (l cls reason : Nat) (hdr : List Byte) : Dev :=
  let die := linkDie l
  let n := d.regF (dieReg die 0xC00_0008) 0 6
  let a := dieReg die (0xC04_0000 + 32 * n)
  ((((d.setReg a (cls + l * 2 ^ 8 + reason * 2 ^ 16)).setReg (a + 8) d.time.toNat).setReg (a + 16)
    (leAt hdr 0 8)).setReg (a + 24) (leAt hdr 8 8)).setReg (dieReg die 0xC00_0008) ((n + 1) % 64)

/-- The NAK for a dropped packet: its first 32 header bytes, to the device in SRC, on VC0. -/
def nakFor (self reason : Nat) (hdr : List Byte) : Hdr × List Byte :=
  let h := hdrOf hdr
  ({ typ := 9, vc := 0, mgmt := h.mgmt, job := h.job, epoch := h.epoch, gen := h.gen,
     dest := h.src * 2 ^ 48, src := self, tid := h.tid, arg := reason }, slice hdr 0 32)

/-- Send a NAK; one whose SRC has no route, or no link left, is dropped and counted (R286: a CORRECTED record, cause
0x20 a DESIGN CHOICE). A packet of this device itself is answered at once to itself. -/
def Dev.sendNak (d : Dev) (l reason : Nat) (hdr : List Byte) : Dev :=
  let n := nakFor d.devId reason hdr
  let pkt := mkPkt n.1 n.2
  if (hdrOf hdr).src = d.devId then d.modLink l fun x => { x with own := x.own ++ [pkt] }
  else match d.egressOf n.1.dest with
  | some out => (d.enqueue out 0 pkt).bump (linkCnt l 0x38) 1
  | none => d.dieErr (linkDie l) (l / 2) 0x0C clsCorrected 0x20 { addr := n.1.dest }

/-- Queue a packet on the link of its route; with every link of its entry out of use it is lost and NAKed with LINK
(R270), by link `via` of the device. -/
def Dev.queuePkt (d : Dev) (via : Nat) (pkt : List Byte) : Dev :=
  let h := hdrOf pkt
  match d.egressOf h.dest with
  | some l => d.enqueue l h.vc pkt
  | none => d.sendNak via 6 (slice pkt 0 32)

/-- Send a packet of this device: queued on the link of its route. Without a valid route it is a ROUTE
violation, dropped and answered to the device itself (R279, R286). -/
def Dev.sendPkt (d : Dev) (h : Hdr) (payload : List Byte) : Dev :=
  let pkt := mkPkt { h with src := d.devId } payload
  match d.routeOf h.dest with
  | some l => d.queuePkt l pkt
  | none => (d.vlog 0 4 4 (slice pkt 0 16)).sendNak 0 4 (slice pkt 0 32)

/-- A new transaction tag that waits for an answer to an owner. -/
def Dev.newTid (d : Dev) (o : Owner) : Nat × Dev :=
  (d.nextTid, { d with nextTid := (d.nextTid + 1) % 2 ^ 16, tids := d.tids ++ [(d.nextTid, o)] })

/-- The owner of a tag. -/
def Dev.ownerOf (d : Dev) (tid : Nat) : Option Owner := (d.tids.find? fun p => p.1 == tid).map Prod.snd

/-- A tag is answered. -/
def Dev.dropTid (d : Dev) (tid : Nat) : Dev :=
  { d with tids := d.tids.filter fun p => p.1 != tid, tidAt := d.tidAt.filter fun p => p.1 != tid }

/-- The camp address that the transaction of a tag names. -/
def Dev.addrOf (d : Dev) (tid : Nat) : Nat := ((d.tidAt.find? fun p => p.1 == tid).map Prod.snd).getD 0

/-- A tag's transaction names a camp address. -/
def Dev.noteTid (d : Dev) (tid addr : Nat) : Dev := { d with tidAt := (d.tidAt.filter fun p => p.1 != tid) ++ [(tid, addr)] }

/-- The camp address of a place of this device. -/
def Dev.ownAddr (d : Dev) (a : Nat) : Nat := d.devId * 2 ^ 48 + a

/-- The return address of an owner's READ. DESIGN CHOICE: the space reserved for the answer (R278) is the owner's
own, found by TID; the address names the block it lies in, and RDATA goes where its TID says. -/
def Dev.returnAddr (d : Dev) : Owner → Nat
  | .core t _ => d.ownAddr (tentMem t 0)
  | .queue t _ => d.ownAddr (tentMem t 0)
  | .ring die ch => d.ownAddr (dieReg die (0x100 * ch))
  | .host => d.ownAddr (dieReg 6 0x1400_0000)
  | .ctx _ => d.ownAddr (dieReg 6 0xE00_0000)
  | .pack t => d.ownAddr (tentMem t 0)
  | .stash => d.ownAddr lpBase

/-- What an access to another device carries. -/
structure Carry where
  vc : Nat := 5
  secure : Bool := false
  mgmt : Bool := false
  job : Nat := 0
  deriving DecidableEq, Repr

/-- Send a READ; its tag. -/
def Dev.sendRead (d : Dev) (o : Owner) (c : Carry) (addr len : Nat) : Nat × Dev :=
  let t := d.newTid o
  (t.1, (t.2.noteTid t.1 addr).sendPkt
    { typ := 2, vc := c.vc, worldS := c.secure, mgmt := c.mgmt, job := if c.mgmt then 0 else c.job,
      epoch := if c.mgmt then 0 else d.epoch, gen := if c.mgmt then 0 else d.gen, dest := addr, tid := t.1,
      aux := len, arg := d.returnAddr o } [])

/-- Send a WRITE with ACK_REQ, or an ACCUM write of a format; its tag. -/
def Dev.sendWrite (d : Dev) (o : Owner) (c : Carry) (accum : Option Nat) (addr : Nat) (bs : List Byte) :
    Nat × Dev :=
  let t := d.newTid o
  (t.1, (t.2.noteTid t.1 addr).sendPkt
    { typ := 1, vc := c.vc, worldS := c.secure, accum := accum.isSome, fmt := accum.getD 0, ackReq := true,
      mgmt := c.mgmt, job := if c.mgmt then 0 else c.job, epoch := if c.mgmt then 0 else d.epoch,
      gen := if c.mgmt then 0 else d.gen, dest := addr, tid := t.1 } bs)

/-- Send a COMPL with a status (R276, R283). -/
def Dev.sendCompl (d : Dev) (h : Hdr) (status : Nat) : Dev :=
  d.sendPkt { typ := 4, vc := 0, mgmt := h.mgmt, job := h.job, epoch := h.epoch, gen := h.gen,
              dest := h.src * 2 ^ 48, tid := h.tid, arg := status } []

/-- The identity fields of Table 13.1. -/
structure Ident where
  job : Nat
  epoch : Nat
  gen : Nat
  deriving DecidableEq, Repr

/-- The identity in force for the device's job (R298). -/
def Dev.ident (d : Dev) : Ident := ⟨d.job, d.epoch, d.gen⟩

/-- Send a PEG packet that signals a peg of another device by a count (Table 16.1), with an identity. -/
def Dev.sendPeg (d : Dev) (addr count : Nat) (i : Ident := d.ident) : Dev :=
  d.sendPkt { typ := 8, vc := 0, job := i.job, epoch := i.epoch, gen := i.gen, dest := addr,
              arg := count % 2 ^ 32 } []

end Sys2Proof.Machine
end

