-- ==== Sys2Proof/Machine/Link.lean ====
section
/-! DEFINITION. The Trail link layer and sideband (12 R264 to R276, R284 to R288): groups, acceptance in
order, replay, credits, retrain, going down, quarantine, transit, multicast branches, egress. -/

namespace Sys2Proof.Machine

/-! ### CRC-32C -/

/-- Eight steps of the reflected CRC-32C polynomial. -/
def crcStep : Nat → Nat → Nat
  | 0, c => c
  | k + 1, c => crcStep k (if c % 2 = 1 then (c / 2) ^^^ 0x82F63B78 else c / 2)

/-- CRC-32C over bytes, from a running value. -/
def crcRun : List Byte → Nat → Nat
  | [], c => c
  | b :: bs, c => crcRun bs (crcStep 8 (c ^^^ b.toNat))

/-- CRC-32C (PRESUMED: the Castagnoli CRC with its usual start and final inversion). -/
def crc32c (bs : List Byte) : Nat := crcRun bs 0xFFFF_FFFF ^^^ 0xFFFF_FFFF

/-! ### State of a link -/

/-- The port of a link is split into two half ports (R264). -/
def Dev.split (d : Dev) (l : Nat) : Bool := d.regF (portReg l 0) 1 1 == 1
/-- The link exists: link 2p + 1 only on a split port. -/
def Dev.linkExists (d : Dev) (l : Nat) : Bool := decide (l < 48) && (l % 2 == 0 || d.split l)
/-- Lanes of a link, and the fewest it runs on (R266). -/
def Dev.laneCount (d : Dev) (l : Nat) : Nat := if d.split l then 4 else 8
/-- Fewest lanes. -/
def Dev.laneMin (d : Dev) (l : Nat) : Nat := if d.split l then 3 else 6
/-- Flits of a link's receive buffer (R271). -/
def Dev.rxBuffer (d : Dev) (l : Nat) : Nat := if d.split l then 6144 else 12288

/-- Flits allocated to a VC: TRL_CRED_LO and HI as written; their reset value is halved on a split port. -/
def Dev.vcAlloc (d : Dev) (l v : Nat) : Nat :=
  match (d.link l).alloc with
  | some ns => ns.getD v 0
  | none =>
    let n := d.regF (portReg l (0x20 + 16 * (l % 2) + 8 * (v / 4))) (16 * (v % 4)) 14
    if d.split l then n / 2 else n

/-- TRL_CRED_LO (hi = 0) or HI (1) of a link, as read. -/
def Dev.credWord (d : Dev) (l hi : Nat) : Nat :=
  ((List.range 4).map fun i => d.vcAlloc l (4 * hi + i) * 2 ^ (16 * i)).sum

/-- Set it. -/
def Dev.setCredWord (d : Dev) (l hi v : Nat) : Dev :=
  d.modLink l fun x => { x with
    alloc := some ((List.range 8).map fun k => if k / 4 = hi then field v (16 * (k % 4)) 14 else d.vcAlloc l k) }

/-- The link and the half (LO 0, HI 1) that a register of an I/O die's port window is the allocation of. -/
def credRegOf (die o : Nat) : Option (Nat × Nat) :=
  let x := o % 0x100_0000
  if 6 ≤ die ∧ o < 0xC00_0000 ∧ 0x20 ≤ x ∧ x < 0x40 then
    some (2 * (12 * (die - 6) + o / 0x100_0000) + (x - 0x20) / 16, (x - 0x20) / 8 % 2)
  else none

/-- Credit a sender holds for a VC; before the partner has said anything it is the allocation of the link's
own buffer (both ends use Table 12.4). -/
def Dev.credit (d : Dev) (l v : Nat) : Nat :=
  match (d.link l).credits with
  | [] => d.vcAlloc l v
  | cs => cs.getD v 0

/-- Set STATE. -/
def Dev.setLinkState (d : Dev) (l s : Nat) : Dev := d.setRegF (linkStatus l) 0 3 s

/-- LANES in use. -/
def Dev.setLanes (d : Dev) (l : Nat) : Dev :=
  d.setRegF (linkStatus l) 3 4 (d.laneCount l - (d.link l).lanesOut)

/-- An entry of the TRL log of a link. -/
def Dev.trlErr (d : Dev) (l cls cause : Nat) (i : ErrInfo := {}) : Dev :=
  d.dieErr (linkDie l) (l / 2) 0x0C cls cause i

/-- The allocations of a link fit its receive buffer (R271). -/
def Dev.allocFits (d : Dev) (l : Nat) : Bool :=
  decide (((List.range 8).map fun v => d.vcAlloc l v).sum ≤ d.rxBuffer l)

/-- A link is to train: it does, unless its allocations sum to more than its buffer, a configuration error (R271;
DESIGN CHOICE: a CORRECTED record, cause 0x09, TAG = link). -/
def Dev.trainLink (d : Dev) (l : Nat) : Dev :=
  if d.allocFits l then d.setLinkState l 1 else d.trlErr l clsCorrected 0x09 { tag := l }

/-- A sideband frame of this device (R284). -/
def Dev.sendSb (d : Dev) (port typ : Nat) (payload : List Byte) : Dev :=
  let p := look (fun _ => {}) d.ports port
  let f : SbFrame :=
    ⟨BitVec.ofNat 8 typ, BitVec.ofNat 8 payload.length, BitVec.ofNat 8 p.seq, payload, true⟩
  let q : Port := { p with seq := (p.seq + 1) % 256, out := p.out ++ [f] }
  { d with ports := put (fun _ => {}) d.ports port q }

/-- A link that is up or down retrains (R270); while it does, it sends nothing. A quarantine ends by QREL alone. -/
def Dev.beginRetrain (d : Dev) (l : Nat) : Dev :=
  if d.linkState l = 2 ∨ d.linkState l = 4 then
    ((d.setLinkState l 3).bump (linkCnt l 0x28) 1).trlErr l clsCorrected 0x01 { tag := l }
  else d

/-- A retrain of this device's own accord: the partner is asked by a TRAIN frame with the link and the lanes wanted
(Table 12.8). -/
def Dev.startRetrain (d : Dev) (l : Nat) : Dev :=
  if d.linkState l = 2 ∨ d.linkState l = 4 then
    let x := d.link l
    (d.beginRetrain l).sendSb (l / 2) 5
      [BitVec.ofNat 8 l, BitVec.ofNat 8 (d.laneCount l - x.lanesOut - x.lanesBad)]
  else d

/-! ### Going down and quarantine (R270, R288) -/

/-- The next link of a packet's route entry after l that is not out of use (R270). -/
def Dev.nextLink (d : Dev) (l dest : Nat) : Option Nat :=
  let ls := d.routeLinks (field dest 48 10)
  match ls.findIdx? (· == l) with
  | some i => (ls.drop (i + 1) ++ ls.take i).find? fun n => n != l && !d.linkGone n && d.linkState n != 0
  | none => none

/-- Put a packet at the head of a VC's queue, behind the packet of that VC that is half sent. -/
def Link.putHead (x : Link) (v : Nat) (p : List Byte) : Link :=
  if look (fun _ => 0) x.sent v = 0 then { x with queue := (v, p) :: x.queue }
  else match x.queue.findIdx? fun q => q.1 == v with
  | some i => { x with queue := x.queue.take (i + 1) ++ (v, p) :: x.queue.drop (i + 1) }
  | none => { x with queue := (v, p) :: x.queue }

/-- The queued packets of a link move, in order, to the head of the queue of the next link in their route
entry; a packet with no other link is lost and NAKed. -/
def Dev.moveQueue (d : Dev) (l : Nat) : List (Nat × List Byte) → Dev
  | [] => d
  | (v, p) :: rest =>
    -- the last packet first, so that the first ends at the head
    let d1 := d.moveQueue l rest
    match d1.nextLink l (hdrOf p).dest with
    | some n => d1.modLink n fun x => x.putHead v p
    | none => d1.sendNak l 6 (slice p 0 32)

/-- The packets of unacknowledged groups, each once, as number and header. -/
def Link.unacked (x : Link) : List (Nat × List Byte) :=
  (x.stored.flatMap (·.hdrs)).foldl (fun hs h => if hs.any fun g => g.1 == h.1 then hs else hs ++ [h]) []

/-- The half-sent packets of a link with flits in unacknowledged groups: they are lost, not moved. -/
def Link.halfLost (x : Link) (v : Nat) : Bool :=
  look (fun _ => 0) x.sent v != 0 && x.unacked.any fun h => h.1 == look (fun _ => 0) x.pktOf v

/-- The packets of the egress queue that wait whole, and those half sent whose every sent flit was acknowledged. -/
def Link.toMove (x : Link) : List (Nat × List Byte) :=
  (List.range 8).foldl (fun q v =>
    if x.halfLost v then
      match q.find? fun p => p.1 == v with
      | some p => q.erase p
      | none => q
    else q) x.queue

/-- A link stops in STATE s (R270): its queued packets move or are lost, the packets of its unacknowledged groups are
lost, and so are those of its branch buffer, which no route entry leads on. Each lost packet is NAKed once. -/
def Dev.stopLink (d : Dev) (l s : Nat) : Dev :=
  let x := d.link l
  let cut := if x.halfLost 6 then x.branch.drop 1 else x.branch
  let d1 := (d.setLinkState l s).setLink l
    { x with queue := [], sent := [], pktOf := [], branch := [], stored := [], resend := [], lastNak := none, held := none }
  (x.unacked.map Prod.snd ++ cut.map fun p => slice p 0 32).foldl (fun (d : Dev) h => d.sendNak l 6 h) (d1.moveQueue l x.toMove)

/-- Counts of global time per millisecond (R395). -/
def msCounts : Nat := 800000

/-- A counted violation: when those of a link within WINDOW ms exceed LIMIT, it is quarantined (R288). -/
def Dev.countViolation (d : Dev) (l cls : Nat) : Dev :=
  let ctl := dieReg 6 0xC00_0000
  let now := d.time.toNat
  let win := max 1 (d.regF ctl 8 10) * msCounts
  let recent := ((d.link l).viols.filter fun t => now < t + win) ++ [now]
  let d1 := (d.bump (linkCnt l 0x30) 1).modLink l fun x => { x with viols := recent }
  if d.regF ctl 0 8 < recent.length ∧ d.linkState l ≠ 5 then
    ((d1.stopLink l 5).sendSb (l / 2) 3
      ([BitVec.ofNat 8 l, BitVec.ofNat 8 cls] ++ leBytes 2 recent.length ++ leBytes 8 now)).trlErr l clsCorrected
        0x02 { tag := l }
  else d1

/-- A violation of Table 12.9: logged, the packet dropped and NAKed with its reason, counted (R286). -/
def Dev.violate (d : Dev) (l cls : Nat) (hdr : List Byte) : Dev :=
  ((d.vlog l cls cls (slice hdr 0 16)).sendNak l cls (slice hdr 0 32)).countViolation l cls

/-! ### Receiving (R268, R269, R272, R273) -/

/-- An uncorrectable codeword (class FEC) or a checksum that fails (class CRC) is logged (R286). -/
def Dev.badGroup (d : Dev) (l : Nat) (fec : Bool) : Dev :=
  (if fec then d.bump (linkCnt l 0x18) 1 else d).vlog l (if fec then 6 else 7) 0 []

/-- The most symbol errors of a codeword that RS(544,514) corrects (R265). -/
def fecMax : Nat := 15

/-- The decoding of a group's codewords, by the wrong symbols of each (R265): corrected symbols are counted, an
uncorrectable codeword is logged. -/
def Dev.fecDecode (d : Dev) (l : Nat) (errs : List Nat) : Dev :=
  errs.foldl (fun (d : Dev) n =>
    if n ≤ fecMax then d.bump (linkCnt l 0x10) n else d.badGroup l true) d

/-- A group that carried the next sequence number is refused; eight times in a row retrain the link (R269, R270). -/
def Dev.refuseGroup (d : Dev) (l : Nat) : Dev :=
  let d1 := d.modLink l fun x => { x with refusing := true, refused := x.refused + 1 }
  if 8 ≤ (d1.link l).refused then (d1.modLink l fun x => { x with refused := 0 }).startRetrain l else d1

/-- Flits leave the receive buffer of a VC: they are freed (R272). -/
def Link.free (x : Link) (v n : Nat) : Link :=
  { x with
    freed := setNth x.freed v ((x.freed.getD v 0 + n) % 65536)
    rxUsed := setNth x.rxUsed v (x.rxUsed.getD v 0 - n) }

/-- The last flit of a packet has come: it is checked (Table 12.9) and passed on, or dropped. -/
def Dev.packetDone (d : Dev) (l v : Nat) (bs : List Byte) (marked : Option Nat) : Dev :=
  let n := bs.length / 64
  let drop (cls : Nat) : Dev := ((d.modLink l (·.free v n)).violate l cls bs)
  match marked with
  | some cls =>
    if cls = 5 then (drop 5).modLink l fun x => { x with resyncOut := 4 }
    else drop cls
  | none =>
    if hdrBad v bs then drop 1
    else if pktFlits (hdrOf bs).len ≠ n then drop 3
    else d.modLink l fun x => { x with inbox := x.inbox ++ [bs] }

/-- A flit of an accepted group (R271, R286). -/
def Dev.takeFlit (d : Dev) (l : Nat) (f : Flit) : Dev :=
  let x := d.link l
  let have_ := look (fun _ => []) x.part f.vc
  let used := x.rxUsed.getD f.vc 0 + 1
  let mark := look (fun _ => 0) x.bad f.vc
  let mark' := if mark ≠ 0 then mark else if d.vcAlloc l f.vc = 0 then 2
    else if d.vcAlloc l f.vc < used then 5 else 0
  let bs := have_ ++ slice f.data 0 64
  let d1 := d.setLink l { x with
    rxUsed := setNth x.rxUsed f.vc used
    part := put (fun _ => []) x.part f.vc (if f.eop then [] else bs)
    bad := put (fun _ => 0) x.bad f.vc (if f.eop then 0 else mark') }
  if f.eop then d1.packetDone l f.vc bs (if mark' = 0 then none else some mark') else d1

/-- The held group is accepted when it is the next in order and its checks hold; otherwise it and the later
groups are refused until it comes again (R268, R269). A group whose codewords failed was logged as it came. -/
def Dev.settleHeld (d : Dev) (l : Nat) (pcrcOk : Bool) : Dev :=
  match (d.link l).held with
  | none => d
  | some g =>
    let d0 := d.modLink l fun x => { x with held := none }
    if g.good && pcrcOk then
      if g.seq = (d0.link l).rxSeq then
        let d1 := d0.modLink l fun x => { x with rxSeq := (x.rxSeq + 1) % 4096, refusing := false, refused := 0 }
        (g.flits.foldl (fun d f => d.takeFlit l f) d1).bump (linkCnt l 0x08) g.flits.length
      else d0
    else
      let d1 := if g.good then d0.badGroup l false else d0
      if g.seq = (d1.link l).rxSeq then d1.refuseGroup l else d1

/-- Groups up to an ACK leave the replay buffer (R269). -/
def ackedGroups (ack : Nat) (stored : List SentGroup) : List SentGroup :=
  match stored.findIdx? (·.seq == ack) with
  | some i => stored.drop (i + 1)
  | none => stored

/-- A NAK head: on the first that names an ACK value the stored groups are to be resent (R269), a CORRECTED replay; a
further one of that value is ignored while the replay runs. More than REPLAY_LIMIT replays in 1 ms retrain the link
(R270). -/
def Dev.replay (d : Dev) (l ack : Nat) : Dev :=
  let x := d.link l
  if (x.lastNak = some ack ∧ !x.resend.isEmpty) ∨ x.stored.isEmpty then d
  else
    let now := d.time.toNat
    let recent := (x.replayAt.filter fun t => now < t + msCounts) ++ [now]
    let d1 := ((d.setLink l { x with lastNak := some ack, resend := x.stored, replayAt := recent }).bump (linkCnt l 0x20)
      1).trlErr l clsCorrected 0x03 { tag := l }
    if d.regF (dieReg 6 0xC00_0000) 18 8 < recent.length then d1.startRetrain l else d1

/-- The ACK, NAK and CRED fields of a head whose HCRC matches (R268, R272, R273). -/
def Dev.useHead (d : Dev) (l : Nat) (head : List Byte) : Dev :=
  let w0 := leAt head 0 2
  let w1 := leAt head 2 2
  let ack := field w1 0 12
  let cred := (List.range 8).map fun v => leAt head (4 + 2 * v) 2
  let x := d.link l
  let stored := ackedGroups ack x.stored
  let credits := (List.range 8).map fun v =>
    if bitAt w0 13 then
      cred.getD v 0 - ((stored.map fun g => (g.flits.filter (·.vc == v)).length).sum)
    else d.credit l v + (cred.getD v 0 + 65536 - x.credSeen.getD v 0) % 65536
  let seen := if bitAt w0 13 then List.replicate 8 0 else cred
  let d1 := d.setLink l { x with
    stored := stored, credits := credits, credSeen := seen
    resend := x.resend.filter fun g => stored.any fun k => k.seq == g.seq }
  if bitAt w1 12 then d1.replay l ack else d1

/-- GROUP_RECEIVE (R267 to R273): `errs` is the number of wrong symbols of each of the group's two codewords. -/
def Dev.groupReceive (d : Dev) (l : Nat) (errs : List Nat) (head : List Byte) (slots : List (List Byte)) : Dev :=
  if !d.linkUp l then d
  else
    let fecOk := errs.all fun n => decide (n ≤ fecMax)
    let hcrcOk := crc32c (slice head 0 60) == leAt head 60 4
    let d1 := match (d.link l).held with
      | some g => d.settleHeld l (hcrcOk && leAt head 56 4 == g.crc)
      | none => d
    let d2 := (if hcrcOk then d1.useHead l head else d1).fecDecode l errs
    if !hcrcOk then
      -- the head is lost with its group; while later groups are refused already, which group it was is not known
      let d3 := if fecOk then d2.badGroup l false else d2
      if (d3.link l).refusing then d3 else d3.refuseGroup l
    else if bitAt (leAt head 0 2) 12 then d2
    else
      let tags := leAt head 20 12
      let flits := (List.range 19).filterMap fun s =>
        let t := field tags (5 * s) 5
        if bitAt t 3 then some ⟨t % 8, bitAt t 4, slots.getD s []⟩ else none
      let body := slots.flatMap fun s => slice s 0 64
      d2.modLink l fun x => { x with held := some ⟨field (leAt head 0 2) 0 12, fecOk, flits, crc32c body⟩ }

/-- GROUP_RECEIVE (R268). -/
def execGroupReceive (l : BitVec 6) (errs : List Nat) (head : List Byte) (slots : List (List Byte)) : State → Out :=
  lift fun d => d.groupReceive l.toNat errs head slots

/-- A packet is acted on: the copy that waits in the link's inbox, if any, leaves the receive buffer; an answer of
the device to itself leaves its list, which holds no flits of the buffer. -/
def Dev.consume (d : Dev) (l : Nat) (pkt : List Byte) : Dev :=
  let x := d.link l
  if x.own.contains pkt then d.setLink l { x with own := x.own.erase pkt }
  else if x.inbox.contains pkt then
    d.setLink l ({ x with inbox := x.inbox.erase pkt }.free (hdrOf pkt).vc (pkt.length / 64))
  else d

/-- A packet waits in the receive buffer of its link, where it is not there yet. -/
def Dev.await (d : Dev) (l : Nat) (pkt : List Byte) : Dev :=
  let x := d.link l
  if x.inbox.contains pkt then d
  else
    let v := (hdrOf pkt).vc
    d.setLink l { x with inbox := x.inbox ++ [pkt], rxUsed := setNth x.rxUsed v (x.rxUsed.getD v 0 + pkt.length / 64) }

/-- No earlier packet of its VC waits at its link (R276). Answers go past requests that wait (R278), and a multicast
packet past one whose copy some branch has still to take (R282). -/
def Dev.turnOf (d : Dev) (l : Nat) (pkt : List Byte) : Bool :=
  let h := hdrOf pkt
  h.typ == 3 || h.typ == 4 || h.typ == 9 ||
    match (d.link l).inbox.find? fun q => (hdrOf q).vc == h.vc && !d.mcWaits.any fun w => w.ingress == some l && w.pkt == q with
    | some q => q == pkt
    | none => true

/-- The watch-table instance of a link's egress (Table 16.4). -/
def linkWch (l : Nat) : Nat := dieReg (linkDie l) (19 * 0x100_0000 + (l % 24) * 0x1000)

/-! ### Retraining (R266, R270) -/

/-- The links of a port. -/
def Dev.portLinks (d : Dev) (p : Nat) : List Nat := [2 * p, 2 * p + 1].filter fun l => d.linkExists l

/-- A write of TRL_CTL_k.RETRAIN: removed lanes return (R266, R270). -/
def Dev.retrainPort (d : Dev) (p : Nat) : Dev :=
  (d.portLinks p).foldl (fun d l =>
    if d.linkState l = 0 then d else (d.modLink l fun x => { x with lanesOut := 0 }).startRetrain l) d

/-- Discard a non-secure write to a secure register of a port (R6). -/
def Dev.trlRefused (d : Dev) (p : Nat) : Dev :=
  d.dieErr (6 + p / 12) p 0x0C clsCorrected 0x06 { addr := portReg (2 * p) 0 }

/-- RETRAIN (R270). -/
def execRetrain (port : BitVec 5) (w : Writer) : State → Out :=
  asWriter w fun w => lift fun d =>
    let p := port.toNat
    if 24 ≤ p then d else if !w.secure then d.trlRefused p else d.retrainPort p

/-- RETRAIN_DONE (R266, R270), in a recalibration slot of the link's egress: failing lanes are removed, each CORRECTED;
a link left with too few lanes, or whose retrain failed three times in a row, goes down; otherwise it is up and its
stored groups are replayed. One whose allocations do not fit its buffer does not train (R271). -/
def Dev.retrainDone (d : Dev) (l : Nat) (ok : Bool) : Dev :=
  if d.linkState l ≠ 1 ∧ d.linkState l ≠ 3 then d
  else
    let x := d.link l
    let fits := d.allocFits l
    let out := x.lanesOut + x.lanesBad
    let d0 := if fits then d else d.trlErr l clsCorrected 0x09 { tag := l }
    let d1 := (d0.grant (linkWch l) [8]).1.setLink l { x with lanesOut := out, lanesBad := 0 }
    let d2 := (List.range x.lanesBad).foldl (fun (d : Dev) _ => d.trlErr l clsCorrected 0x04 { tag := l }) d1
    if d.laneCount l < out + d.laneMin l then (d2.stopLink l 4).trlErr l clsCorrected 0x05 { tag := l }
    else if ok && fits then
      ((d2.setLinkState l 2).modLink l fun y =>
        { y with failed := 0, refused := 0, held := none, idleHalf := false, resend := y.stored, lastNak := none }).setLanes l
    else if 2 ≤ x.failed then
      ((d2.modLink l fun y => { y with failed := 0 }).stopLink l 4).trlErr l clsCorrected 0x05 { tag := l }
    else d2.modLink l fun y => { y with failed := y.failed + 1 }

/-- RETRAIN_DONE (R270). -/
def execRetrainDone (l : BitVec 6) (ok : Bool) : State → Out := lift fun d => d.retrainDone l.toNat ok

/-- TRAIL_LANE_FAIL (R266): the lane leaves at the next retrain, which the runtime check starts (R270). -/
def execTrailLaneFail (l : BitVec 6) : State → Out :=
  lift fun d =>
    let n := l.toNat
    if d.linkState n = 2 ∨ d.linkState n = 3 then
      (d.modLink n fun x => { x with lanesBad := x.lanesBad + 1 }).startRetrain n
    else d

/-- The quarantine of a port ends: its links retrain and RELEASE is sent. -/
def Dev.endQuarantine (d : Dev) (p : Nat) : Dev :=
  (d.portLinks p).foldl (fun d l =>
    if d.linkState l = 5 then
      (((d.modLink l fun x => { x with viols := [] }).setLinkState l 4).startRetrain l).sendSb p 4 [BitVec.ofNat 8 l]
    else d) d

/-- QREL (R288): the quarantine ends. -/
def execQrel (port : BitVec 5) (w : Writer) : State → Out :=
  asWriter w fun w => lift fun d =>
    let p := port.toNat
    if 24 ≤ p then d else if !w.secure then d.trlRefused p else d.endQuarantine p

/-- EN of a port: its links may train, or are off. -/
def Dev.portEnable (d : Dev) (p : Nat) (on : Bool) : Dev :=
  (d.portLinks p).foldl (fun d l =>
    if on then (if d.linkState l = 0 then d.trainLink l else d)
    else if d.linkState l = 0 then d else d.stopLink l 0) d

/-- PORT_RESET (R424): link layer, replay buffer and credits of the port are reset, and it retrains; a link in
quarantine stays there (R288). -/
def Dev.portReset (d : Dev) (p : Nat) : Dev :=
  (d.portLinks p).foldl (fun d l =>
    let x := d.link l
    let d1 := d.setLink l { lanesOut := x.lanesOut, lanesBad := x.lanesBad, viols := x.viols, alloc := x.alloc }
    if d.linkState l = 0 ∨ d.linkState l = 5 then d1 else (d1.setLinkState l 2).startRetrain l) d

/-- LANE_IDLE_HALF (R433): a link of only IDLE groups for LANE_IDLE µs drops to half its lanes. -/
def execLaneIdleHalf (l : BitVec 6) : State → Out :=
  lift fun d =>
    let n := l.toNat
    let x := d.link n
    if d.linkUp n ∧ x.queue.isEmpty ∧ x.branch.isEmpty ∧ d.regF (dieReg (linkDie n) 0x1800_0000) 18 10 ≠ 0 then
      (d.modLink n fun x => { x with idleHalf := true }).setRegF (linkStatus n) 3 4
        ((d.laneCount n - x.lanesOut) / 2)
    else d

/-- LINK_UP_TIMEOUT (R24): a port the topology names that finds no partner is logged, and its links that still train
are down: their packets go by the next links (R270). DESIGN CHOICE: CAUSE 0x07, TAG = port; TRL has no cause table. -/
def execLinkUpTimeout (port : BitVec 5) : State → Out :=
  lift fun d =>
    let p := port.toNat
    if p < 24 ∧ (Config.kitPorts d.topology).contains p ∧ d.regF (linkStatus (2 * p)) 23 1 = 0 then
      ((d.portLinks p).foldl (fun (d : Dev) l => if d.linkState l = 1 then d.stopLink l 4 else d) d).trlErr (2 * p)
        clsCorrected 0x07 { tag := p }
    else d

/-! ### Transit and multicast branches (R279, R282) -/

/-- PACKET_TRANSIT (R279): a packet for another device goes out on the link of its route; without a valid
entry it is a ROUTE violation. -/
def Dev.transit (d : Dev) (l : Nat) (pkt : List Byte) : Dev :=
  let h := hdrOf pkt
  if field h.dest 48 10 = d.devId then d
  else if !d.turnOf l pkt then d.await l pkt
  else
    let d1 := d.consume l pkt
    match d1.routeOf h.dest with
    | some _ => d1.queuePkt l pkt
    | none => d1.violate l 4 (slice pkt 0 32)

/-- PACKET_TRANSIT (R279). -/
def execPacketTransit (l : BitVec 6) (pkt : List Byte) : State → Out := lift fun d => d.transit l.toNat pkt

/-- The links a multicast group leads on to (R281). -/
def Dev.mcLinks (d : Dev) (grp : Nat) : List Nat :=
  let e := d.reg (dieReg 6 (0xC02_0000 + 8 * grp))
  if bitAt e 59 then (List.range 48).filter fun l => bitAt e l else []

/-- Key of a transfer: SRC and TID. -/
def mcKey (h : Hdr) : Nat := h.src * 65536 + h.tid

/-- Flits a branch buffer holds (R282). -/
def branchFlits (x : Link) : Nat := (x.branch.map fun p => p.length / 64).sum

/-- A branch can take a multicast packet: it has room, no earlier packet waits for it, or it has abandoned the
transfer and discards it. -/
def Dev.branchTakes (d : Dev) (pkt : List Byte) (l : Nat) : Bool :=
  let x := d.link l
  x.abandoned.contains (mcKey (hdrOf pkt)) ||
    (decide (branchFlits x + pkt.length / 64 ≤ 1536) && !d.mcWaits.any fun w => w.left.contains l)

/-- A branch takes a packet: one of a transfer abandoned there is discarded and counted; with the transfer's last
packet the branch forgets it. -/
def Dev.branchTake (d : Dev) (pkt : List Byte) (l : Nat) : Dev :=
  let k := mcKey (hdrOf pkt)
  if (d.link l).abandoned.contains k then
    (d.modLink l fun x => { x with abandoned := if (hdrOf pkt).ackReq then x.abandoned.filter (· != k) else x.abandoned }).bump
      (linkCnt l 0x48) 1
  else d.modLink l fun x => { x with branch := x.branch ++ [pkt] }

/-- Copy a multicast packet to the branches that can take it; the others keep the ingress copy until they can
(R282). -/
def Dev.branchCopy (d : Dev) (ingress : Option Nat) (pkt : List Byte) (ls : List Nat) : Dev :=
  let left := ls.filter fun l => !d.branchTakes pkt l
  let d1 := (ls.filter fun l => d.branchTakes pkt l).foldl (fun (d : Dev) l => d.branchTake pkt l) d
  if left.isEmpty then d1 else { d1 with mcWaits := d1.mcWaits ++ [⟨ingress, pkt, left⟩] }

/-- The ingress copies that no branch waits for are freed (R282). -/
def Dev.freeCopies (d : Dev) (ws : List McWait) : Dev :=
  ws.foldl (fun (d : Dev) w =>
    if w.left.isEmpty then
      match w.ingress with
      | some l => d.consume l w.pkt
      | none => d
    else { d with mcWaits := d.mcWaits ++ [w] }) { d with mcWaits := [] }

/-- Branches take, in order, the packets they now have room for. -/
def Dev.takeCopies (d : Dev) : Dev :=
  let r := d.mcWaits.foldl (fun (a : Dev × List McWait) w =>
    let b := w.left.foldl (fun (b : Dev × List Nat) l =>
      let behind := a.2.any fun v => v.left.contains l
      if !behind && { b.1 with mcWaits := [] }.branchTakes w.pkt l then (b.1.branchTake w.pkt l, b.2) else (b.1, b.2 ++ [l]))
      (a.1, [])
    (b.1, a.2 ++ [{ w with left := b.2 }])) (d, [])
  r.1.freeCopies r.2

/-- No copy of a transfer of this device waits to leave: its last packet has been sent (R283). -/
def Dev.mcGone (d : Dev) (tid : Nat) : Bool :=
  let k := d.devId * 65536 + tid
  !(d.links.any fun x => x.2.branch.any fun p => mcKey (hdrOf p) == k) &&
    !d.mcWaits.any fun w => w.ingress.isNone && mcKey (hdrOf w.pkt) == k

/-- Note the transfers whose last packet has left. -/
def Dev.noteSent (d : Dev) : Dev :=
  { d with mcasts := d.mcasts.map fun x => if x.lastSent then x else { x with lastSent := d.mcGone x.tid } }

/-- MC_BRANCH_ABANDON (R282): the packet at the branch's head, or an ingress copy it holds, has waited MC_TO µs: it and
every later packet of the transfer is discarded on that branch and counted. A packet of it half sent is cut there. -/
def Dev.mcAbandon (d : Dev) (n : Nat) : Dev :=
  let x := d.link n
  let waits := d.mcWaits.filter fun w => w.left.contains n
  match (x.branch ++ waits.map (·.pkt)).head? with
  | none => d
  | some p =>
    let k := mcKey (hdrOf p)
    let mine (q : List Byte) : Bool := mcKey (hdrOf q) == k
    let gone := x.branch.filter mine ++ (waits.filter fun w => mine w.pkt).map (·.pkt)
    let ends := gone.any fun q => (hdrOf q).ackReq
    let cut := (x.branch.head?.map mine).getD false
    let y : Link := { x with
      branch := x.branch.filter fun q => !mine q
      abandoned := if ends then x.abandoned else x.abandoned ++ [k]
      sent := if cut then put (fun _ => 0) x.sent 6 0 else x.sent }
    ((((d.setLink n y).freeCopies (d.mcWaits.map fun w =>
      if mine w.pkt then { w with left := w.left.filter (· != n) } else w)).bump (linkCnt n 0x48) gone.length).trlErr n
        clsCorrected 0x08 { tag := n }).noteSent

/-- MC_BRANCH_ABANDON. -/
def execMcBranchAbandon (l : BitVec 6) : State → Out := lift (·.mcAbandon l.toNat)

/-! ### Egress (R267, R271, R275) -/

/-- The packet at the head of a VC of a link, and the flits of it already sent. -/
def Link.vcHead (x : Link) (v : Nat) : Option (List Byte × Nat) :=
  let s := look (fun _ => 0) x.sent v
  if v = 6 then x.branch.head?.map fun p => (p, s)
  else (x.queue.find? fun q => q.1 == v).map fun q => (q.2, s)

/-- Remove the head packet of a VC. -/
def Link.popVc (x : Link) (v : Nat) : Link :=
  let x1 := { x with sent := put (fun _ => 0) x.sent v 0, pktOf := put (fun _ => 0) x.pktOf v 0 }
  if v = 6 then { x1 with branch := x.branch.tail }
  else match x.queue.find? fun q => q.1 == v with
  | some q => { x1 with queue := x.queue.erase q }
  | none => x1

/-- Fill slots of one group: VC0 first, the other VCs by the watch table, each with a credit. -/
def Dev.fillSlots (d : Dev) (l : Nat) : Nat → List Flit → List (Nat × List Byte) → Dev × List Flit × List (Nat × List Byte)
  | 0, fs, hs => (d, fs, hs)
  | k + 1, fs, hs =>
    let x := d.link l
    let ready := (List.range 8).filter fun v => (x.vcHead v).isSome
    let able := ready.filter fun v => 0 < d.credit l v
    let d0 := if able.length < ready.length then d.bump (linkCnt l 0x40) 1 else d
    let pick : Dev × Option Nat := if able.contains 0 then (d0, some 0) else d0.grant (linkWch l) able
    match pick.2 with
    | none => (pick.1, fs, hs)
    | some v =>
      match (pick.1.link l).vcHead v with
      | none => (pick.1, fs, hs)
      | some (p, s) =>
        let last := decide (p.length ≤ 64 * (s + 1))
        let cs := (List.range 8).map fun u => pick.1.credit l u - b2n (u == v)
        let y := pick.1.link l
        let num := if s = 0 then y.pktNext else look (fun _ => 0) y.pktOf v
        let y1 : Link := { y with
          credits := cs, sent := put (fun _ => 0) y.sent v (s + 1), pktOf := put (fun _ => 0) y.pktOf v num
          pktNext := if s = 0 then y.pktNext + 1 else y.pktNext }
        let d1 := pick.1.setLink l (if last then y1.popVc v else y1)
        d1.fillSlots l k (fs ++ [⟨v, last, slice p (64 * s) 64⟩])
          (if hs.any fun h => h.1 == num then hs else hs ++ [(num, slice p 0 32)])

/-- The 12 bytes of slot tags (R267). -/
def slotTags (fs : List Flit) : List Byte :=
  leBytes 12 (((fs.take 19).zipIdx.map fun (f, s) => (f.vc % 8 + 8 + 16 * b2n f.eop) * 2 ^ (5 * s)).sum)

/-- CRED_v of the next head: the flits freed so far, or in a RESYNC head the flits free now (R272, R273). -/
def Dev.headCred (d : Dev) (l : Nat) (resync : Bool) (v : Nat) : Nat :=
  let x := d.link l
  if resync then d.vcAlloc l v - x.rxUsed.getD v 0 else x.freed.getD v 0

/-- The head flit of a group (Table 12.3): GSEQ, KIND, RESYNC, ACK of the last group accepted, NAK while groups are
refused (R269), CRED, the slot tags, PCRC of the previous group, HCRC. -/
def Dev.headFlit (d : Dev) (l seq : Nat) (idle resync : Bool) (fs : List Flit) : List Byte :=
  let x := d.link l
  let bs := leBytes 2 (seq + b2n idle * 2 ^ 12 + b2n resync * 2 ^ 13) ++
    leBytes 2 ((x.rxSeq + 4095) % 4096 + b2n x.refusing * 2 ^ 12) ++
    ((List.range 8).flatMap fun v => leBytes 2 (d.headCred l resync v % 65536)) ++ slotTags fs ++
    List.replicate 24 0 ++ leBytes 4 x.pcrc
  bs ++ leBytes 4 (crc32c bs)

/-- A group leaves for the partner: its head is composed, and its flits are counted. In a RESYNC head the running
totals restart at zero. -/
def Dev.emitGroup (d : Dev) (l seq : Nat) (idle : Bool) (fs : List Flit) : Dev :=
  let resync := decide ((d.link l).resyncOut ≠ 0)
  let slots := (List.range 19).map fun s => ((fs[s]?).map fun f => slice f.data 0 64).getD (List.replicate 64 0)
  let head := d.headFlit l seq idle resync fs
  (d.modLink l fun x => { x with
    wire := some ⟨head, slots⟩
    pcrc := crc32c slots.flatten
    resyncOut := x.resyncOut - 1
    freed := if resync then List.replicate 8 0 else x.freed }).bump (linkCnt l 0) fs.length

/-- One group of a link that is up (R267, R269): the next group of a running replay; else a DATA group when a flit can
go and the replay buffer of 512 groups has room; else an IDLE group. -/
def Dev.sendGroup (d : Dev) (l : Nat) : Dev :=
  if !d.linkUp l then d
  else match (d.link l).resend with
  | g :: rest => (d.modLink l fun x => { x with resend := rest }).emitGroup l g.seq false g.flits
  | [] =>
    if 512 ≤ (d.link l).stored.length then d.emitGroup l (d.link l).txSeq true []
    else
      let r := d.fillSlots l 19 [] []
      let seq := (r.1.link l).txSeq
      if r.2.1.isEmpty then r.1.emitGroup l seq true []
      else (r.1.modLink l fun x => { x with
        stored := x.stored ++ [⟨seq, r.2.1, r.2.2⟩]
        txSeq := (x.txSeq + 1) % 4096
        idleHalf := false }).emitGroup l seq false r.2.1

/-! ### Sideband (R284, R285) -/

/-- A port. -/
def Dev.port (d : Dev) (p : Nat) : Port := look (fun _ => {}) d.ports p
/-- Replace it. -/
def Dev.setPort (d : Dev) (p : Nat) (x : Port) : Dev := { d with ports := put (fun _ => {}) d.ports p x }

/-- The TYPE codes of Table 12.8. -/
def sbTypes : List Nat := [0x01, 0x02, 0x03, 0x04, 0x05, 0x10, 0x11]

/-- A frame that is ignored: bad CRC, unknown TYPE, LEN above 240. -/
def sbBad (f : SbFrame) : Bool := !f.crcOk || !sbTypes.contains f.typ.toNat || decide (240 < f.len.toNat)

/-- Take a frame of a type at a port: a bad one is counted, another type is not this row's. -/
def Dev.sbTake (d : Dev) (p typ : Nat) (f : SbFrame) (act : Dev → Dev) : Dev :=
  if 24 ≤ p then d
  else if sbBad f then d.bump (linkCnt (2 * p) 0x50) 1
  else if f.typ.toNat = typ then act d else d

/-- Pass a frame to the active Lantern. -/
def Dev.passFrame (d : Dev) (p : Nat) (f : SbFrame) : Dev :=
  d.setPort p { d.port p with passed := (d.port p).passed ++ [f] }

/-- PRESENCE (R285): partner device ID (2 bytes), port, link split, camp role, Lantern states; for every link of the
port that exists. -/
def execPresence (port : BitVec 5) (f : SbFrame) : State → Out :=
  lift fun d => d.sbTake port.toNat 0x01 f fun d =>
    let p := port.toNat
    let d1 := d.setPort p
      { d.port p with peerRole := leAt f.payload 4 1, peerLans := leAt f.payload 5 1, passed := (d.port p).passed ++ [f] }
    (d.portLinks p).foldl (fun d l =>
      let a := linkStatus l
      (((d.setRegF a 7 10 (leAt f.payload 0 2)).setRegF a 17 5 (leAt f.payload 2 1)).setRegF a 22 1
        (if leAt f.payload 3 1 = 0 then 0 else l % 2)).setRegF a 23 1 1) d1

/-- PARTNER_ABSENT (R285). -/
def execPartnerAbsent (port : BitVec 5) : State → Out :=
  lift fun d =>
    if 24 ≤ port.toNat then d
    else (d.portLinks port.toNat).foldl (fun d l => d.setRegF (linkStatus l) 23 1 0) d

/-- VIOLATION: the neighbour tells of a quarantine (R288). -/
def execViolation (port : BitVec 5) (f : SbFrame) : State → Out :=
  lift fun d => d.sbTake port.toNat 0x03 f (·.passFrame port.toNat f)

/-- SB_RELEASE: a quarantine has ended (R288). -/
def execSbRelease (port : BitVec 5) (f : SbFrame) : State → Out :=
  lift fun d => d.sbTake port.toNat 0x04 f (·.passFrame port.toNat f)

/-- TRAIN: the partner asks to retrain a link, with the lanes wanted (Table 12.8). -/
def execTrain (port : BitVec 5) (f : SbFrame) : State → Out :=
  lift fun d => d.sbTake port.toNat 0x05 f fun d =>
    let p := port.toNat
    let l := 2 * p + leAt f.payload 0 1 % 2
    let d1 := (d.passFrame p f)
    let d2 := d1.setPort p { d1.port p with asked := leAt f.payload 1 1 }
    if d2.linkExists l then d2.beginRetrain l else d2

/-- RECOVER_RSP: a fragment of a recovery answer (R438). -/
def execRecoverRsp (port : BitVec 5) (f : SbFrame) : State → Out :=
  lift fun d => d.sbTake port.toNat 0x11 f (·.passFrame port.toNat f)

/-- State of the Lanterns as PRESENCE tells it: 2 bits each, 0 booting, 1 active, 2 standby, 3 neither. -/
def lanCode (x : Lantern) : Nat :=
  match x.role with
  | .booting => 0
  | .active => 1
  | .standby => 2
  | .neither => 3

/-- PRESENCE_SEND (R284): every powered end, in the bivouac too. -/
def execPresenceSend (port : BitVec 5) : State → Out :=
  lift fun d =>
    let p := port.toNat
    if 24 ≤ p ∨ d.power = .off ∨ d.power = .held then d
    else d.sendSb p 0x01 (leBytes 2 d.devId ++
      [BitVec.ofNat 8 p, BitVec.ofNat 8 (b2n (d.split (2 * p))), BitVec.ofNat 8 d.role,
        BitVec.ofNat 8 (lanCode d.lanA + 4 * lanCode d.lanB)])

end Sys2Proof.Machine
end

