-- ==== Sys2Proof/Machine/Operands.lean ====
section
/-! DEFINITION. Operand forms (R57 to R62, R242 to R252, R173): the tensor descriptor and its faults, where
each element, scale and padding byte of a view lies, the bounding range, element access, plot tables, and
the sparse forms with their format violations (R128). -/

namespace Sys2Proof.Machine

/-! ### The tensor descriptor (R242, R243) -/

/-- A tensor descriptor (Table 11.1). -/
structure Desc where
  base : Nat
  fmt : Nat
  form : Nat
  idxSigned : Bool
  layout : Nat
  rank : Nat
  plot : Bool
  skew : Bool
  accum : Bool
  strict : Bool
  worldS : Bool
  n : Nat
  metaOff : Nat
  dims : List Nat
  strides : List Nat
  deriving DecidableEq, Repr

/-- Read a descriptor from its 64 bytes. -/
def descOf (bs : List Byte) : Desc :=
  let b8 := leAt bs 8 1
  let b10 := leAt bs 10 1
  { base := leAt bs 0 8, fmt := field b8 0 4, form := field b8 4 3, idxSigned := bitAt b8 7,
    layout := leAt bs 9 1, rank := field b10 0 3, plot := bitAt b10 3, skew := bitAt b10 4,
    accum := bitAt b10 5, strict := bitAt b10 6, worldS := bitAt b10 7, n := leAt bs 11 1,
    metaOff := leAt bs 12 4, dims := (List.range 6).map fun k => leAt bs (16 + 4 * k) 4,
    strides := (List.range 6).map fun k => leAt bs (40 + 4 * k) 4 }

/-- DIM[k]. -/
def Desc.dim (d : Desc) (k : Nat) : Nat := d.dims.getD k 0
/-- STRIDE[k], signed. -/
def Desc.stride (d : Desc) (k : Nat) : Int := signed 32 (d.strides.getD k 0)
/-- The box origin of a plot view. -/
def Desc.origin (d : Desc) (k : Nat) : Nat := d.strides.getD k 0
/-- The DIMs below RANK. -/
def Desc.extent (d : Desc) : List Nat := d.dims.take d.rank
/-- Product of a list. -/
def prod (xs : List Nat) : Nat := xs.foldl (· * ·) 1
/-- Elements of the view. -/
def Desc.count (d : Desc) : Nat := prod d.extent

/-- Container size of a format, for the alignment of BASE (R243 item 3). -/
def containerBytes (f : Nat) : Nat :=
  if f = 13 then 16 else if f = 0 ∨ f = 9 ∨ f = 12 ∨ f = 10 then 4
  else if f = 1 ∨ f = 2 ∨ f = 11 then 2 else 1

/-- An MXFP4 view in the single-mode lane form (R62, R84). -/
def Desc.laneForm (d : Desc) : Bool := d.fmt == 7 && d.n == 1

/-- Bits of a stored element. -/
def Desc.bits (d : Desc) : Nat := if d.laneForm then 8 else fmtBits d.fmt

/-- Every stride is zero. -/
def Desc.packed (d : Desc) : Bool := d.strides.all (· == 0)

/-- Formats that sparse forms allow (R62). -/
def sparseFmt (f : Nat) : Bool := decide (f ≤ 4) || f == 8

/-- R59 to R62 for a descriptor: blocks, scales, forms and byte 11. -/
def Desc.formBad (d : Desc) : Bool :=
  let bl := blockLen d.fmt
  let strided := d.layout == 0 || d.layout == 0x10
  (bl != 0 && strided && !d.plot && d.stride 0 != 1) ||
  (bl != 0 && d.plot && d.origin 0 % bl != 0) ||
  (d.layout == 0x10 && !isMx d.fmt) ||
  (d.form != 0 && !sparseFmt d.fmt) ||
  (if d.form == 2 then d.n == 0 || decide (4 < d.n)
   else if d.fmt == 7 && d.form == 0 && (d.layout == 1 || d.layout == 2 || d.layout == 3) then decide (1 < d.n)
   else d.n != 0)

/-- Table 11.2: a reserved layout, or one whose own rule is broken. -/
def Desc.layoutBad (d : Desc) : Bool :=
  match d.layout with
  | 0x00 => false
  | 0x01 => decide (d.rank < 2) || !d.packed
  | 0x02 => decide (d.rank < 2) || !d.packed
  | 0x03 => decide (d.rank < 2) || !d.packed
  | 0x04 => d.rank != 2 || d.dim 0 != 16 || d.dim 1 != 8 || !(decide (1 ≤ d.fmt) && decide (d.fmt ≤ 4)) ||
      !d.packed || d.base % 64 != 0
  | 0x10 => !isMx d.fmt || (!d.plot && d.stride 0 != 1)
  | 0x20 => d.rank != 1 || d.form != 0 || !d.packed
  | _ => true

/-- R243 without item 7: the descriptor faults. -/
def Desc.bad (d : Desc) (reading : Bool) : Bool :=
  d.rank == 0 || d.rank == 7 ||
  (d.dims.drop d.rank).any (· != 0) || (d.strides.drop d.rank).any (· != 0) ||
  decide (14 ≤ d.fmt) || decide (4 ≤ d.form) || d.formBad ||
  field d.base 59 5 != 0 || d.base % containerBytes d.fmt != 0 ||
  (d.skew && (d.layout != 0 || d.form != 0 || decide (d.rank < 2))) ||
  (d.form != 0 && (d.layout != 0 || d.plot || !d.packed)) ||
  (d.plot && (d.form != 0 || !(d.layout == 0 || d.layout == 0x10))) ||
  (reading && d.accum) || d.layoutBad ||
  (d.fmt == 13 && (d.form != 0 || d.layout != 0 || d.plot))

/-- The same for an engine that is no mover: only the tent mover writes bands and the gradient pair, and the gradient
pair is a destination only (item 9, Table 11.2). -/
def Desc.engineBad (d : Desc) (reading : Bool) : Bool :=
  d.bad reading || d.layout == 4 || (d.layout == 1 && !reading)

/-- Item 7 of R243: WORLD_S used by a non-secure block. -/
def Desc.worldBad (d : Desc) (secure : Bool) : Bool := d.worldS && !secure

/-! ### Where elements lie (R244, R245, R60) -/

/-- Index vectors of extents, dimension 0 fastest. -/
def indices : List Nat → List (List Nat)
  | [] => [[]]
  | n :: ns => (indices ns).flatMap fun r => (List.range n).map fun i => i :: r

/-- Linear index in packed extents (R156). -/
def linear : List Nat → List Nat → Nat
  | n :: ns, i :: is => i + n * linear ns is
  | _, _ => 0

/-- Σ i_k × s_k. -/
def dot (is : List Nat) (ss : List Int) : Int :=
  ((is.zip ss).map fun (i, s) => (i : Int) * s).foldl (· + ·) 0

/-- Lanes of a band (R245). -/
def Desc.bandLanes (d : Desc) : Nat := if d.fmt = 7 ∧ d.n = 0 then 16 else 8
/-- Bytes of a lane in a band. -/
def Desc.laneE (d : Desc) : Nat := if fmtBits d.fmt = 16 then 2 else 1
/-- Bands along dimension 0. -/
def Desc.bands (d : Desc) : Nat := (d.dim 0 + d.bandLanes - 1) / d.bandLanes
/-- Bytes of a band. -/
def Desc.bandBytes (d : Desc) : Nat := 8 * d.laneE * (d.dim 1 + 7)

/-- Bit offsets from BASE of an element in a view that is not a plot: two in the gradient pair (R173). -/
def Desc.places (d : Desc) (idx : List Nat) : List Int :=
  let i0 := idx.getD 0 0
  let i1 := idx.getD 1 0
  let up := linear (d.extent.drop 2) (idx.drop 2)
  let bits : Int := d.bits
  match d.layout with
  | 0x01 =>
    let l := i0 % d.bandLanes
    let lane := if d.bandLanes = 16 then l / 2 else l
    let nib := if d.bandLanes = 16 then l % 2 * 4 else 0
    let band := i0 / d.bandLanes + d.bands * up
    [((8 * (band * d.bandBytes + (i1 + lane) * 8 * d.laneE + lane * d.laneE) + nib : Nat) : Int)]
  | 0x02 =>
    let tile := i0 / 16 + (d.dim 0 + 15) / 16 * (i1 / 8 + (d.dim 1 + 7) / 8 * up)
    [bits * ((tile * 128 + i1 % 8 * 16 + i0 % 16 : Nat) : Int)]
  | 0x03 =>
    let tile := i0 / 8 + (d.dim 0 + 7) / 8 * (i1 / 16 + (d.dim 1 + 15) / 16 * up)
    [bits * ((tile * 128 + i1 % 16 * 8 + i0 % 8 : Nat) : Int)]
  | 0x04 =>
    let e := d.laneE
    let q := i0 / 8
    let l := i0 % 8
    [bits * ((16 * i1 + i0 : Nat) : Int),
      ((8 * (128 * e + 120 * e * q + (i1 + l) * 8 * e + l * e) : Nat) : Int)]
  | 0x10 =>
    let blk : Int := 8 * ((32 * fmtBits d.fmt / 8 + 1 : Nat) : Int)
    [((i0 / 32 : Nat) : Int) * blk + bits * ((i0 % 32 : Nat) : Int) +
      blk * dot (idx.drop 1) ((List.range 5).map fun k => d.stride (k + 1))]
  | 0x20 => [8 * 64 + bits * (i0 : Int)]
  | _ =>
    let s := if d.skew then ((i1 % 8 : Nat) : Int) * d.stride 0 else 0
    [bits * (dot idx ((List.range 6).map d.stride) + s)]

/-- Byte offset from BASE of the scale or exponent byte of an element's block (R60). -/
def Desc.scalePlace (d : Desc) (idx : List Nat) : Option Int :=
  let bl := blockLen d.fmt
  if bl = 0 then none
  else if d.layout = 0x10 then
    let blk : Int := ((32 * fmtBits d.fmt / 8 + 1 : Nat) : Int)
    some (((idx.getD 0 0 / 32 : Nat) : Int) * blk + blk - 1 +
      blk * dot (idx.drop 1) ((List.range 5).map fun k => d.stride (k + 1)))
  else
    let nb := (d.dim 0 + bl - 1) / bl
    some ((d.metaOff + (idx.getD 0 0 / bl + nb * linear (d.extent.drop 1) (idx.drop 1)) : Nat) : Int)

/-- Blocks of a block format: one representative index each. -/
def Desc.blockHeads (d : Desc) : List (List Nat) :=
  let bl := blockLen d.fmt
  if bl = 0 then []
  else (indices (((d.dim 0 + bl - 1) / bl) :: d.extent.drop 1)).map fun r => (r.getD 0 0 * bl) :: r.drop 1

/-- Runs along dimension 0. -/
def Desc.runs (d : Desc) : Nat := prod (d.extent.drop 1)

/-- Groups of a run in the sparse form. -/
def Desc.groups (d : Desc) : Nat := if d.form = 1 then (d.dim 0 + 63) / 64 else (d.dim 0 + 7) / 8

/-- Bytes of an element of a format of whole bytes. -/
def eBytes (f : Nat) : Nat := fmtBits f / 8

/-- Worst case of the values of a sparse view (R122, R61). -/
def Desc.sparseBytes (d : Desc) : Nat :=
  match d.form with
  | 1 => d.runs * d.groups * (8 + 64 * eBytes d.fmt)
  | 2 => d.runs * d.groups * d.n * eBytes d.fmt
  | _ => d.runs * d.dim 0 * eBytes d.fmt

/-- Bytes of the metadata of a sparse view. -/
def Desc.metaBytes (d : Desc) : Nat :=
  match d.form with
  | 1 => 4 * d.runs * d.groups
  | 2 => 2 * d.runs * d.groups
  | _ => 4 * (d.runs + 1) + 4 * d.runs * d.dim 0

/-- Bytes that padding and elements of a packed layout take. -/
def Desc.packedBytes (d : Desc) : Nat :=
  let up := prod (d.extent.drop 2)
  match d.layout with
  | 0x01 => d.bands * up * d.bandBytes
  | 0x02 => ((d.dim 0 + 15) / 16) * ((d.dim 1 + 7) / 8) * up * 128 * d.bits / 8
  | 0x03 => ((d.dim 0 + 7) / 8) * ((d.dim 1 + 15) / 16) * up * 128 * d.bits / 8
  | 0x04 => 368 * d.laneE
  | _ => 0

/-- Least and greatest of a list that is not empty. -/
def minMax : List Int → Int × Int
  | [] => (0, 0)
  | [x] => (x, x)
  | x :: xs => (min x (minMax xs).1, max x (minMax xs).2)

/-- The corner indices of the extents: every element offset lies between those of two corners. -/
def corners : List Nat → List (List Nat)
  | [] => [[]]
  | n :: ns => (corners ns).flatMap fun r => if n ≤ 1 then [0 :: r] else [0 :: r, (n - 1) :: r]

/-- The bounding range of a view that is not a plot and not empty: the lowest byte and the first byte beyond
the highest, relative to BASE (R246). -/
def Desc.span (d : Desc) : Int × Int :=
  let metaR : List Int :=
    if d.form ≠ 0 then [(d.metaOff : Int), (d.metaOff + d.metaBytes : Nat)]
    else if blockLen d.fmt ≠ 0 ∧ d.layout ≠ 0x10 then
      let nb := (d.dim 0 + blockLen d.fmt - 1) / blockLen d.fmt * d.runs
      [(d.metaOff : Int), (d.metaOff + nb : Nat)]
    else []
  if d.form ≠ 0 then minMax ([0, (d.sparseBytes : Int)] ++ metaR)
  else if d.layout = 1 ∨ d.layout = 2 ∨ d.layout = 3 ∨ d.layout = 4 then
    minMax ([0, (d.packedBytes : Int)] ++ metaR)
  else
    let cs := corners d.extent
    let ends := cs.flatMap fun c =>
      (d.places c).flatMap fun p =>
        let skews : List Int := if d.skew then
            [0, ((min 7 (d.dim 1 - 1) : Nat) : Int) * d.stride 0 * (d.bits : Int)]
          else [0]
        let p0 := if d.skew then p - ((c.getD 1 0 % 8 : Nat) : Int) * d.stride 0 * (d.bits : Int) else p
        skews.flatMap fun k => [(p0 + k) / 8, (p0 + k + (d.bits : Int) + 7) / 8]
    let blkEnds := if d.layout = 0x10 then cs.flatMap fun c =>
        match d.scalePlace c with
        | some s => [s + 1]
        | none => []
      else []
    minMax ((if d.layout = 0x20 then [0] else []) ++ ends ++ blkEnds ++ metaR)

/-- Camp address of a byte offset from BASE. -/
def Desc.at_ (d : Desc) (o : Int) : Nat := ((d.base : Int) + o).toNat

/-- The range of Table 2.10 that holds a device-local address, each tent's window apart; none outside them. -/
def mapRange (a : Nat) : Option Nat :=
  if a < hbmEnd then some 0
  else if lpBase ≤ a ∧ a < lpEnd then some 1
  else if tentBase ≤ a ∧ a < tentBase + 0x8000_0000 then some (8 + (a - tentBase) / 0x2_0000)
  else if tentRegBase ≤ a ∧ a < spareRegBase then some 2
  else if spareRegBase ≤ a ∧ a < spareRegBase + 0x1_0000_0000 then some 3
  else if dieBase ≤ a ∧ a < dieBase + 0x8_0000_0000 then some 4
  else if lanternBase ≤ a ∧ a < 0x1_0000_0000_0000 then some 5
  else none

/-- A range of byte offsets from BASE lies in one range of Table 2.10, a tent view in one tent's window (R246). -/
def Desc.spanOk (d : Desc) (s : Int × Int) : Bool :=
  let lo := (d.base % 2 ^ 48 : Int) + s.1
  let hi := (d.base % 2 ^ 48 : Int) + s.2 - 1
  decide (0 ≤ lo) && decide (hi < 2 ^ 48) && (mapRange lo.toNat).isSome && mapRange lo.toNat == mapRange hi.toNat

/-- The bounding range of the view keeps R246. -/
def Desc.rangeOk (d : Desc) : Bool := d.spanOk d.span

/-- The lowest byte and the first beyond the highest that some elements of a dense view touch, with their scales,
relative to BASE. -/
def Desc.touch (d : Desc) (is : List (List Nat)) : Int × Int :=
  minMax (is.flatMap fun i =>
    ((d.places i).flatMap fun p => [p / 8, (p + (d.bits : Int) + 7) / 8]) ++
      (match d.scalePlace i with
        | some o => [o, o + 1]
        | none => []))

/-! ### Element access -/

/-- How an engine reaches camp addresses; `fin` makes the write that still waits for the rest of its unit. -/
structure Via where
  rd : Nat → Nat → Eng (List Byte)
  wr : Nat → List Byte → Eng Unit
  fin : Eng Unit := pure ()

/-- Bytes of the unit in which writes at an address are made: a granule of memory, a word of a scratchpad (R42,
R225); 0 where every write stands alone. -/
def writeUnit (x : Nat) : Nat :=
  match regionOf (x % 2 ^ 48) with
  | .hbm => 64
  | .lpddr => 64
  | .scratch _ _ => 16
  | _ => 0

/-- Make the write that waits. -/
def Via.landPend (v : Via) : Eng Unit := do
  match (← get).pend with
  | some w =>
    modify fun s => { s with pend := none }
    v.wr w.addr w.data
  | none => pure ()

/-- The two writes lie in one unit. -/
def sameUnit (w : OutW) (x n : Nat) : Bool :=
  let u := writeUnit x
  u != 0 && w.addr / u == x / u && w.addr / u == (x + n - 1) / u

/-- Writes that follow each other within a unit are made as one; `adds` for writes that accumulate. -/
def Via.whole (v : Via) (adds : Bool := false) : Via :=
  { rd := fun x n => do
      let bs ← v.rd x n
      match (← get).pend with
      | some w => return bs.zipIdx.map fun (b, i) =>
          if w.addr ≤ x + i ∧ x + i < w.addr + w.data.length then w.data.getD (x + i - w.addr) b else b
      | none => return bs
    wr := fun x bs => do
      let fresh : OutW := ⟨x, bs, none, false⟩
      match (← get).pend with
      | none => modify fun s => { s with pend := some fresh }
      | some w =>
        if sameUnit w x bs.length ∧ w.addr + w.data.length = x then
          modify fun s => { s with pend := some { w with data := w.data ++ bs } }
        else if sameUnit w x bs.length ∧ !adds ∧ w.addr ≤ x ∧ x + bs.length ≤ w.addr + w.data.length then
          let w2 : OutW := { w with data := w.data.take (x - w.addr) ++ bs ++ w.data.drop (x - w.addr + bs.length) }
          modify fun s => { s with pend := some w2 }
        else
          v.landPend
          modify fun s => { s with pend := some fresh }
    fin := v.landPend }

/-- Bits of an element at a bit offset from BASE. -/
def Via.getBits (v : Via) (d : Desc) (p : Int) (bits : Nat) : Eng Nat := do
  let a := d.at_ (p / 8)
  if bits = 4 then do
    let b ← v.rd a 1
    return field (leNat b) (p % 8).toNat 4
  else return leNat (← v.rd a (bits / 8))

/-- Write an element's bits; a nibble leaves the other half of its byte (R467). -/
def Via.putBits (v : Via) (d : Desc) (p : Int) (bits x : Nat) : Eng Unit := do
  let a := d.at_ (p / 8)
  if bits = 4 then do
    let b ← v.rd a 1
    v.wr a (leBytes 1 (withField (leNat b) (p % 8).toNat 4 x))
  else v.wr a (leBytes (bits / 8) x)

/-- Element bits of a dense view at an index. -/
def Via.get (v : Via) (d : Desc) (idx : List Nat) : Eng Nat := do
  let x ← v.getBits d ((d.places idx).headD 0) d.bits
  return if d.laneForm then x % 16 else x

/-- Write an element at an index, wherever its layout places it. -/
def Via.put (v : Via) (d : Desc) (idx : List Nat) (x : Nat) : Eng Unit :=
  (d.places idx).forM fun p => v.putBits d p d.bits x

/-- Scale or exponent byte of an element's block; 0 for other formats. -/
def Via.scale (v : Via) (d : Desc) (idx : List Nat) : Eng Nat :=
  match d.scalePlace idx with
  | some o => do return leNat (← v.rd (d.at_ o) 1)
  | none => pure 0

/-- Write it. -/
def Via.putScale (v : Via) (d : Desc) (idx : List Nat) (x : Nat) : Eng Unit :=
  match d.scalePlace idx with
  | some o => v.wr (d.at_ o) (leBytes 1 x)
  | none => pure ()

/-- Zero the padding of a packed layout, and the missing elements of short MX blocks, before the elements
are written (R245, R60, R173). -/
def Via.pad (v : Via) (d : Desc) : Eng Unit := do
  if d.packedBytes ≠ 0 then v.wr d.base (List.replicate d.packedBytes 0)
  else if d.layout = 0x10 ∧ d.dim 0 % 32 ≠ 0 then
    (indices (d.extent.drop 1)).forM fun r =>
      ((List.range 32).filter fun i => d.dim 0 ≤ d.dim 0 / 32 * 32 + i).forM fun i =>
        v.put d ((d.dim 0 / 32 * 32 + i) :: r) 0

/-! ### Plot tables (R250 to R254) -/

/-- The header of a plot table. -/
structure PlotHdr where
  magic : Nat
  nent : Nat
  gdim : List Nat
  blk : List Nat
  reserved : Nat
  deriving DecidableEq, Repr

/-- Read it from 64 bytes. -/
def plotHdrOf (bs : List Byte) : PlotHdr :=
  { magic := leAt bs 0 4, nent := leAt bs 4 4, gdim := (List.range 6).map fun k => leAt bs (8 + 4 * k) 4,
    blk := (List.range 6).map fun k => leAt bs (32 + 4 * k) 4, reserved := leAt bs 56 8 }

/-- Block counts n_k. -/
def PlotHdr.counts (h : PlotHdr) (rank : Nat) : List Nat :=
  (List.range rank).map fun k => (h.gdim.getD k 0 + h.blk.getD k 1 - 1) / h.blk.getD k 1

/-- The header is well formed for a view (Table 11.4). -/
def PlotHdr.ok (h : PlotHdr) (d : Desc) : Bool :=
  h.magic == 0x544F4C50 && h.reserved == 0 &&
    (List.range 6).all (fun k =>
      if k < d.rank then decide (1 ≤ h.blk.getD k 0) else h.blk.getD k 0 == 0 && h.gdim.getD k 0 == 0) &&
    h.nent == prod (h.counts d.rank) &&
    (blockLen d.fmt == 0 || h.blk.getD 0 0 % blockLen d.fmt == 0)

/-- The box lies within GDIM (R250), and holds whole blocks of a block format unless it reaches GDIM[0] (R59). -/
def PlotHdr.boxOk (h : PlotHdr) (d : Desc) : Bool :=
  (List.range d.rank).all fun k => decide (d.origin k + d.dim k ≤ h.gdim.getD k 0)

/-- A plot entry (Table 11.5). -/
structure PlotEnt where
  owner : Nat
  origin : Nat
  extent : Nat
  version : Nat
  tier : Nat
  flags : Nat
  reserved : Bool
  prev : Nat
  deriving DecidableEq, Repr

/-- Read it from 32 bytes. -/
def plotEntOf (bs : List Byte) : PlotEnt :=
  { owner := leAt bs 0 8, origin := leAt bs 8 4, extent := leAt bs 12 4, version := leAt bs 16 4,
    tier := field (leAt bs 20 1) 0 1, flags := leAt bs 21 1,
    reserved := field (leAt bs 20 1) 1 7 != 0 || field (leAt bs 21 1) 4 4 != 0 || leAt bs 22 2 != 0,
    prev := leAt bs 24 8 }

/-- VALID, MOVING, ZERO, PREV. -/
def PlotEnt.valid (e : PlotEnt) : Bool := bitAt e.flags 0
/-- MOVING. -/
def PlotEnt.moving (e : PlotEnt) : Bool := bitAt e.flags 1
/-- ZERO. -/
def PlotEnt.zero (e : PlotEnt) : Bool := bitAt e.flags 2
/-- PREV. -/
def PlotEnt.hasPrev (e : PlotEnt) : Bool := bitAt e.flags 3

/-- Where an element of a box lies: its block index, its coordinates in the block, the block's extents. -/
structure PlotAt where
  idx : Nat
  j : List Nat
  x : List Nat
  deriving DecidableEq, Repr

/-- Resolve a box index (R252). -/
def plotResolve (h : PlotHdr) (d : Desc) (i : List Nat) : PlotAt :=
  let ks := List.range d.rank
  let g := ks.map fun k => d.origin k + i.getD k 0
  let b := ks.map fun k => g.getD k 0 / h.blk.getD k 1
  { idx := linear (h.counts d.rank) b
    j := ks.map fun k => g.getD k 0 % h.blk.getD k 1
    x := ks.map fun k => min (h.blk.getD k 1) (h.gdim.getD k 0 - b.getD k 0 * h.blk.getD k 1) }

/-- The checks of an entry (R253): MOVING apart. TIER is checked in a ZERO entry too. -/
def PlotEnt.ok (e : PlotEnt) (p : PlotAt) : Bool :=
  e.origin == p.idx && e.extent == prod p.x && !e.reserved && e.valid &&
    match regionOf (e.owner % 2 ^ 48) with
      | .hbm => e.tier == 0
      | .lpddr => e.tier == 1
      | _ => false

/-- Strides of a packed view of extents; layout 0x10 counts blocks from dimension 1 (R245, R251). -/
def packedStrides (layout : Nat) (x : List Nat) : List Nat :=
  let x0 := if layout = 0x10 then (x.getD 0 0 + 31) / 32 else x.getD 0 0
  let rest := (List.range (x.length - 1)).map fun k => x0 * prod ((x.drop 1).take k)
  (1 :: rest ++ List.replicate 6 0).take 6

/-- The view of a whole block at its owner (R251). -/
def blockView (d : Desc) (owner : Nat) (x : List Nat) : Desc :=
  { d with base := owner, plot := false, rank := x.length, dims := (x ++ List.replicate 6 0).take 6,
           strides := packedStrides d.layout x }

/-! ### Sparse forms (R61, R128) -/

/-- What decoding one run gives: held positions with their bits, ascending; violations counted; non-zeros
dropped; positions out of range; the first violation (false) or index out of range (true), with its group, row
or list position, for FOR_ERR_POS. -/
structure Held where
  items : List (Nat × Nat) := []
  viols : Nat := 0
  dropped : Nat := 0
  outRange : Nat := 0
  first : Option (Bool × Nat) := none
  deriving DecidableEq, Repr

/-- Add what one group gives. -/
def Held.join (a b : Held) : Held :=
  { items := a.items ++ b.items, viols := a.viols + b.viols, dropped := a.dropped + b.dropped,
    outRange := a.outRange + b.outRange, first := a.first.orElse fun _ => b.first }

/-- Bits that are +0 or −0, or 0 for INT8. -/
def isZeroBits (f x : Nat) : Bool :=
  if f = 8 then x % 256 == 0 else x % 2 ^ (fmtBits f - 1) == 0

/-- Non-zero values among some bits. -/
def nonZeros (f : Nat) (xs : List Nat) : Nat := (xs.filter fun x => !isZeroBits f x).length

/-- Decode one BBM group (Table 5.6): `space` is the value bytes up to the next group's offset, none for the
last group of a tensor; `ext` the run's extent from the group's first position. -/
def bbmGroup (e grp base ext : Nat) (space : Option Nat) (bitmap : Nat) (val : Nat → Nat) : Held :=
  let set := (List.range 64).filter fun i => bitAt bitmap i
  let room := match space with
    | some s => s / e
    | none => set.length
  let fits := set.take room
  let extra := set.drop room
  let vals := fits.zipIdx.map fun (i, k) => (i, val k)
  let inside := vals.filter fun p => p.1 < ext
  let outside := vals.filter fun p => ext ≤ p.1
  let bad := !extra.isEmpty || !outside.isEmpty || (extra.any fun i => ext ≤ i)
  { items := inside.map fun p => (base + p.1, p.2)
    viols := b2n bad
    dropped := extra.length + outside.length
    first := if bad then some (false, grp) else none }

/-- The slots of an N:8 group that are kept, and the rest from the first whose position does not rise or that
holds a value at or beyond the extent (Table 5.6). -/
def n8Walk (f ext : Nat) : List (Nat × Nat) → Option Nat → List (Nat × Nat) × List (Nat × Nat)
  | [], _ => ([], [])
  | (p, x) :: rest, prev =>
    let order := match prev with
      | none => true
      | some q => decide (q < p)
    if order && (decide (p < ext) || isZeroBits f x) then
      let r := n8Walk f ext rest (some p)
      ((p, x) :: r.1, r.2)
    else ([], (p, x) :: rest)

/-- Decode one N:8 group: slot positions from the metadata word, values in order. -/
def n8Group (f n grp base ext meta_ : Nat) (val : Nat → Nat) : Held :=
  let w := n8Walk f ext ((List.range n).map fun s => (field meta_ (3 * s) 3, val s)) none
  let bad := meta_ / 2 ^ (3 * n) != 0 || !w.2.isEmpty
  { items := (w.1.filter fun p => !isZeroBits f p.2).map fun p => (base + p.1, p.2)
    viols := b2n bad
    dropped := nonZeros f (w.2.map Prod.snd)
    first := if bad then some (false, grp) else none }

/-- Where an engine reads the bytes of a sparse operand. -/
def Via.nat (v : Via) (d : Desc) (o n : Nat) : Eng Nat := do return leNat (← v.rd (d.at_ o) n)

/-- Decode one run of a BBM operand. -/
def Via.bbmRun (v : Via) (d : Desc) (run : Nat) : Eng Held := do
  let e := eBytes d.fmt
  let total := d.runs * d.groups
  let parts ← (List.range d.groups).mapM fun g => do
    let k := run * d.groups + g
    let off ← v.nat d (d.metaOff + 4 * k) 4
    let prev ← if k = 0 then pure 0 else v.nat d (d.metaOff + 4 * (k - 1)) 4
    let next ← if k + 1 < total then some <$> v.nat d (d.metaOff + 4 * (k + 1)) 4 else pure none
    if off % 8 ≠ 0 ∨ (k ≠ 0 ∧ off < prev + 8) then
      return ({ viols := 1, first := some (false, k) } : Held)
    else
      let bm ← v.nat d off 8
      let cnt := ((List.range 64).filter fun i => bitAt bm i).length
      let room := match next with
        | some nx => min cnt ((nx - off - 8) / e)
        | none => cnt
      let vals ← (List.range room).mapM fun i => v.nat d (off + 8 + i * e) e
      return bbmGroup e k (64 * g) (d.dim 0 - 64 * g) (next.map fun nx => nx - off - 8) bm
        (fun i => vals.getD i 0)
  return parts.foldl Held.join {}

/-- Decode one run of an N:8 operand. -/
def Via.n8Run (v : Via) (d : Desc) (run : Nat) : Eng Held := do
  let e := eBytes d.fmt
  let parts ← (List.range d.groups).mapM fun g => do
    let k := run * d.groups + g
    let m ← v.nat d (d.metaOff + 2 * k) 2
    let vals ← (List.range d.n).mapM fun s => v.nat d ((k * d.n + s) * e) e
    return n8Group d.fmt d.n k (8 * g) (d.dim 0 - 8 * g) m (fun s => vals.getD s 0)
  return parts.foldl Held.join {}

/-- Decode a dense run: every position below the extent is held (R108). -/
def Via.denseRun (v : Via) (d : Desc) (run : Nat) : Eng Held := do
  let rest := (indices (d.extent.drop 1)).getD run []
  let items ← (List.range (d.dim 0)).mapM fun i => do return (i, ← v.get d (i :: rest))
  return { items := items }

/-- Class of an index value (Table 5.5). -/
inductive IdxClass where
  | valid (v : Nat)
  | empty
  | outOfRange
  deriving DecidableEq, Repr

/-- Classify an index of 32 bits against an extent (R127). -/
def idxClass (signed_ : Bool) (extent x : Nat) : IdxClass :=
  if signed_ ∧ x = 2 ^ 32 - 1 then .empty
  else if signed_ ∧ 2 ^ 31 ≤ x then .outOfRange
  else if x < extent then .valid x
  else .outOfRange

/-! ### Local operands (R115, R134) -/

/-- Offset of a camp address in a tent's own window of 128 KiB; none outside it. -/
def Dev.ownOff (d : Dev) (t x : Nat) : Option Nat :=
  match d.place x with
  | .here a => if tentMem t 0 ≤ a ∧ a < tentMem t 0x2_0000 then some (a - tentMem t 0) else none
  | _ => none

/-- The operand is local: it is no plot view, its BASE lies in the tent's own window, and so does its bounding range. -/
def Desc.isLocal (v : Desc) (d : Dev) (t : Nat) : Bool :=
  !v.plot && match d.ownOff t (v.base % 2 ^ 64) with
    | some o => v.count == 0 || (decide (0 ≤ (o : Int) + v.span.1) && decide ((o : Int) + v.span.2 ≤ 0x2_0000))
    | none => false

/-- Every byte of a local view lies in the scratchpad. -/
def Desc.inPad (v : Desc) (d : Dev) (t : Nat) : Bool :=
  match d.ownOff t v.base with
  | some o =>
    v.count == 0 || (decide (0 ≤ (o : Int) + v.span.1) && decide ((o : Int) + v.span.2 ≤ (padLen : Int)))
  | none => false

/-- The port in the world of a descriptor: a secure block's accesses for one with WORLD_S clear are non-secure (R243). -/
def PadPort.of (p : PadPort) (v : Desc) : PadPort := { p with secure := p.secure && v.worldS }

/-- Accesses of an engine to its tent's own scratchpad by camp address. -/
def padVia (p : PadPort) : Via :=
  { rd := fun x n => do
      match ← askDev (·.ownOff p.t x) with
      | some o => padRead p o n
      | none => failWith p.range (x % 2 ^ 17)
    wr := fun x bs => do
      match ← askDev (·.ownOff p.t x) with
      | some o => padWrite p o bs
      | none => failWith p.range (x % 2 ^ 17) }

/-- A descriptor at a scratchpad offset, with its raw bytes; the offset must be a multiple of 64 inside the
scratchpad. -/
def readDesc (p : PadPort) (o : Nat) : Eng Desc := do
  need (o % 64 == 0 && decide (o + 64 ≤ padLen)) p.range o
  return descOf (← padRead p o 64)

/-- Bytes of one place of an element. -/
def placeBytes (v : Desc) : Nat := max 1 (v.bits / 8)

/-- Open bytes at a camp address, where it names memory, a scratchpad or vector registers of this device. -/
def Dev.undefAt (d : Dev) (x n : Nat) : Dev :=
  match d.place x with
  | .here a =>
    match regionOf a with
    | .hbm => d.undef a n
    | .lpddr => d.undef a n
    | .scratch _ o => d.undef a (min n (padLen - o))
    | .vreg _ _ => d.undef a n
    | _ => d
  | _ => d

/-- Open bytes over some elements of a dense view and over the scales of some. -/
def Dev.undefSome (d : Dev) (v : Desc) (is heads : List (List Nat)) : Dev :=
  let d1 := is.foldl (fun (d : Dev) i =>
    (v.places i).foldl (fun (d : Dev) p => d.undefAt (v.at_ (p / 8)) (placeBytes v)) d) d
  heads.foldl (fun (d : Dev) i =>
    match v.scalePlace i with
    | some o => d.undefAt (v.at_ o) 1
    | none => d) d1

/-- Open bytes over the elements and scales of a view, or over the values and metadata of a sparse one, where
they lie on this device. -/
def Dev.undefView (d : Dev) (v : Desc) : Dev :=
  if v.plot then d
  else if v.form ≠ 0 then (d.undefAt v.base v.sparseBytes).undefAt (v.at_ v.metaOff) v.metaBytes
  else d.undefSome v (indices v.extent) v.blockHeads

end Sys2Proof.Machine
end

