-- ==== Sys2Proof/Machine/Targets.lean ====
section
/-! DEFINITION. What the addresses of pegs, guylines and fences name (R363, R371, R372). -/

namespace Sys2Proof.Machine

/-- The peg that a register address names: a tent's (tent, peg) or an I/O die's (die, peg), and the offset of
the register from PEG_SIG. -/
inductive PegReg where
  | tent (t p o : Nat)
  | io (die n o : Nat)
  | other
  deriving DecidableEq, Repr

/-- Classify an address. -/
def pegRegOf (a : Nat) : PegReg :=
  match regionOf a with
  | .tentR t o =>
    if 0x40_0000 ≤ o ∧ o < 0x40_0400 then .tent t ((o - 0x40_0000) / 16) (o % 16) else .other
  | .dieR d o =>
    if (d = 6 ∨ d = 7) ∧ 0x1100_0000 ≤ o ∧ o < 0x1100_4000 then .io d ((o - 0x1100_0000) / 16) (o % 16) else .other
  | _ => .other

/-- Which guyline register an address names. -/
inductive GylReg where
  | rowMask (g r : Nat)
  | rowCnt (g r : Nat)
  | pitchCnt (g p : Nat)
  | camp (g : Nat)
  | devCnt (g : Nat)
  | child (g k : Nat)
  | up (g : Nat)
  | down (g : Nat)
  | force
  | other
  deriving DecidableEq, Repr

/-- Classify it. -/
def gylRegOf (a : Nat) : GylReg :=
  match regionOf a with
  | .dieR d o =>
    if d < 2 ∧ 0x100_0000 ≤ o ∧ o < 0x100_4000 then
      .rowMask ((o - 0x100_0000) / 1024) (128 * d + (o - 0x100_0000) / 8 % 128)
    else if d < 2 ∧ 0x100_4000 ≤ o ∧ o < 0x100_6000 then
      .rowCnt ((o - 0x100_4000) / 512) (128 * d + (o - 0x100_4000) / 4 % 128)
    else if d < 2 ∧ 0x100_6000 ≤ o ∧ o < 0x100_6080 then
      .pitchCnt ((o - 0x100_6000) / 8) (2 * d + (o - 0x100_6000) / 4 % 2)
    else if d = 6 ∧ 0x1200_0000 ≤ o ∧ o < 0x1200_1000 then
      let g := (o - 0x1200_0000) / 0x100
      let r := o % 0x100
      if r < 4 then .camp g else if r < 8 then .devCnt g
      else if 0x10 ≤ r ∧ r < 0x70 then .child g ((r - 0x10) / 4)
      else if 0x80 ≤ r ∧ r < 0x84 then .up g else if 0x84 ≤ r ∧ r < 0x88 then .down g else .other
    else if d = 6 ∧ 0x1200_1000 ≤ o ∧ o < 0x1200_1004 then .force
    else .other
  | _ => .other

/-- What a peg target's address names. -/
inductive PegTarget where
  | tent (t p : Nat)
  | io (die n : Nat)
  | fence (c : Nat)
  | up (g : Nat)
  | down (g : Nat)
  | none
  deriving DecidableEq, Repr

/-- Classify a device-local address. -/
def pegTargetOf (a : Nat) : PegTarget :=
  match pegRegOf a with
  | .tent t p 0 => .tent t p
  | .io die n 0 => .io die n
  | _ =>
    match gylRegOf a with
    | .up g => .up g
    | .down g => .down g
    | _ =>
      match regionOf a with
      | .dieR die o =>
        if (die = 6 ∨ die = 7) ∧ 0xE01_0060 ≤ o ∧ o < 0xE01_2060 ∧ (o - 0xE01_0060) % 0x100 = 0 then
          .fence ((die - 6) * 32 + (o - 0xE01_0060) / 0x100)
        else .none
      | _ => .none

end Sys2Proof.Machine
end

