-- ==== Sys2Proof/Machine/Tent.lean ====
section
/-! DEFINITION. The tent (02_tents_and_cores, R406): arrangement changes, S-core start, stop and fault,
instruction stores, segment worlds, the gradient bank, block worlds, scratchpad accesses, the transparent
test, router failure. -/

namespace Sys2Proof.Machine

/-! ### Arrangement changes (R33, R34) -/

/-- TNT_CONFIG. -/
def cfgAddr (t : Nat) : Nat := tentReg t 0

/-- The 12 column labels of the map registers. -/
def Dev.mapCols (d : Dev) (t : Nat) : List Nat :=
  (List.range 12).map fun j =>
    if j < 8 then d.regF (tentReg t 4) (4 * j) 4 else d.regF (tentReg t 8) (4 * (j - 8)) 4

/-- The 6 roles of TNT_ARRAY_ROLE. -/
def Dev.mapRoles (d : Dev) (t : Nat) : List Nat :=
  (List.range 6).map fun a => d.regF (tentReg t 0xC) (2 * a) 2

/-- Columns labelled a form one run of adjacent columns. -/
def oneRun (cols : List Nat) (a : Nat) : Bool :=
  let at_ := (List.range 12).filter fun j => cols.getD j 7 == a
  match at_ with
  | [] => true
  | j :: _ => at_ == (List.range at_.length).map (· + j)

/-- The maps describe a valid arrangement (R33). -/
def mapsValid (cols roles : List Nat) : Bool :=
  let used := (List.range 6).filter fun a => cols.contains a
  cols.all (fun c => decide (c ≤ 5) || c == 7) &&
    used.all (fun a => oneRun cols a && roles.getD a 3 != 3) &&
    decide ((used.filter fun a => roles.getD a 3 == 1).length ≤ 1) &&
    decide ((used.filter fun a => roles.getD a 3 == 2).length ≤ 1)

/-- PENDING and CFG_ERR follow the pending change. -/
def Dev.setPending (d : Dev) (t : Nat) (p : Option Nat) : Dev :=
  (d.modTent t fun x => { x with pendArr := p }).setRegF (cfgAddr t) 7 1 (b2n p.isSome)

/-- A refused arrangement: CFG_ERR and the tent error log (R33, R464). -/
def Dev.cfgError (d : Dev) (t : Nat) : Dev := (d.setRegF (cfgAddr t) 8 1 1).tentErr t 1 clsCorrected 0x11

/-- A write of TNT_CONFIG (R33, R34). -/
def Dev.arrangeWrite (d : Dev) (t v : Nat) : Dev :=
  let d0 := if bitAt v 8 then d.setRegF (cfgAddr t) 8 1 0 else d
  let a := v % 8
  if 4 ≤ a ∨ (a = 3 ∧ !mapsValid (d.mapCols t) (d.mapRoles t)) then d0.cfgError t
  else if a ≠ 3 ∧ a = d.arrange t then d0.setPending t none
  else d0.setPending t (some a)

/-- A queue of a tent is empty and nothing of it is in flight. -/
def Dev.queueIdle (d : Dev) (t q : Nat) : Bool :=
  (d.queue t q).entries.isEmpty && (d.queue t q).flight.isEmpty && !(d.queue t q).waiting

/-- A pending change takes effect (R33, R34, R104). -/
def Dev.arrangeTakeEffect (d : Dev) (t : Nat) : Dev :=
  match (d.tent t).pendArr with
  | none => d
  | some a =>
    if !(d.arrays t).all (fun q => d.queueIdle t q) then d
    else if a = 3 ∧ !mapsValid (d.mapCols t) (d.mapRoles t) then (d.setPending t none).cfgError t
    else
      let d1 := (d.setPending t none).setRegF (cfgAddr t) 0 3 a
      let d2 := d1.modTent t fun x =>
        { x with
          expert := if a = 3 then d.mapCols t ++ d.mapRoles t else x.expert
          accs := []
          accUndef := [] }
      let d3 := d2.setRegF (cfgAddr t) 4 3 (d2.arrays t).length
      (d3.arrays t).foldl (fun (d : Dev) q => d.fetchTiles t q) d3

/-- ARRANGE_WRITE (R34). -/
def execArrangeWrite (t : TentId) (w : Writer) (v : Half) : State → Out :=
  asWriter w fun _ => lift fun d => (d.arrangeWrite t.toNat v.toNat).noteHand (cfgAddr t.toNat) 4

/-- ARRANGE_TAKE_EFFECT (R34). -/
def execArrangeTakeEffect (t : TentId) : State → Out := lift (·.arrangeTakeEffect t.toNat)

/-! ### S-core control (R39, R40, R465, R466) -/

/-- TNT_SCORE_CTL_n. -/
def ctlAddr (t n : Nat) : Nat := tentReg t (0x20 + 4 * n)
/-- TNT_SCORE_PC_n. -/
def pcAddr (t n : Nat) : Nat := tentReg t (0x40 + 8 * n)

/-- The answer to a load of an S-core is no longer wanted: it is discarded when it arrives (R465). -/
def Dev.dropLoads (d : Dev) (t n : Nat) : Dev :=
  { d with tids := d.tids.filter fun x => x.2 != .core t n || d.stores.any fun s => s.tid == some x.1 }

/-- Stop an S-core with TNT_SCORE_PC_n at an index; what it waited for is withdrawn. -/
def Dev.coreStop (d : Dev) (t n pc : Nat) : Dev :=
  ((((d.setCore t n { d.core t n with running := false, stopPending := false, pc := pc, wait := .none }).dropWaits
    t n).dropLoads t n).setRegF (ctlAddr t n) 0 1 0).setReg (pcAddr t n) pc

/-- An S-core fault (R39): the cause, the opcode, the address and the program counter are recorded, FAULT is
set, and the S-core stops. -/
def Dev.coreFault (d : Dev) (t n cause op addr pc : Nat) : Dev :=
  ((d.coreStop t n pc).setRegF (ctlAddr t n) 2 1 1).tentErr t 1 clsContained cause
    { op := op, tag := n, addr := addr, spec := pc }

/-- An S-core goes on at an instruction index; one outside the instruction store is a fault with that index
(R39). -/
def Dev.corePc (d : Dev) (t n pc : Nat) : Dev :=
  if 4095 < pc then d.coreFault t n 0x03 0 0 pc else d.setCore t n { d.core t n with pc := pc, wait := .none }

/-- A non-secure access to a secure tent register by a requester other than an S-core of the tent (R464). -/
def Dev.tentRefused (d : Dev) (t : Nat) (w : Writer) (addr : Nat) : Dev :=
  d.tentErr t 1 clsCorrected 0x17 { op := padReqOf w t, addr := addr, spec := b2n w.secure }

/-- RUN written 1 (R465): a stopped S-core starts at TNT_SCORE_PC_n; a pending stop is cancelled. -/
def Dev.runStart (d : Dev) (t n : Nat) : Dev :=
  let c := d.core t n
  if c.running then d.setCore t n { c with stopPending := false }
  else ((d.ungate t n).setCore t n { c with running := true, stopPending := false, pc := d.reg (pcAddr t n), wait := .none }).setRegF
    (ctlAddr t n) 0 1 1

/-- RUN written 0: the stop takes effect in the next cycle of the tent. -/
def Dev.runStop (d : Dev) (t n : Nat) : Dev :=
  let c := d.core t n
  if c.running then d.setCore t n { c with stopPending := true } else d

/-- A pending stop takes effect: the waiting instruction is withdrawn and the program counter points at it. -/
def Dev.applyStop (d : Dev) (t n : Nat) : Dev :=
  let c := d.core t n
  if c.running && c.stopPending then d.coreStop t n c.pc else d

/-- An access to something in the world of S-core n is refused when that is secure and the access is not. -/
def Dev.coreWorldOk (d : Dev) (t n : Nat) (w : Writer) : Bool := w.secure || !d.blkSecure t n

/-- A write of TNT_SCORE_CTL_n: RUN, W1C DONE and FAULT, EVT. -/
def Dev.coreCtlWrite (d : Dev) (t n v : Nat) : Dev :=
  let a := ctlAddr t n
  let d1 := if bitAt v 1 then d.setRegF a 1 1 0 else d
  let d2 := (if bitAt v 2 then d1.setRegF a 2 1 0 else d1).setRegF a 3 1 (v / 8)
  if bitAt v 0 then d2.runStart t n else d2.runStop t n

/-- RUN_START (R465). -/
def execRunStart (t : TentId) (n : CoreNo) (w : Writer) : State → Out :=
  asWriter w fun w => lift fun d =>
    if d.coreWorldOk t.toNat n.toNat w then d.runStart t.toNat n.toNat
    else d.tentRefused t.toNat w (ctlAddr t.toNat n.toNat)

/-- RUN_STOP (R465). -/
def execRunStop (t : TentId) (n : CoreNo) (w : Writer) : State → Out :=
  asWriter w fun w => lift fun d =>
    if d.coreWorldOk t.toNat n.toNat w then d.runStop t.toNat n.toNat
    else d.tentRefused t.toNat w (ctlAddr t.toNat n.toNat)

/-- Address of a byte of an instruction store. -/
def storeAddr (t n o : Nat) : Nat := tentReg t (0x1_0000 + n * 0x4000 + o)

/-- A write to an instruction store: only from its world, only while RUN reads 0 (R40, R466). -/
def Dev.storeWrite (d : Dev) (t n : Nat) (w : Writer) (o : Nat) (bs : List Byte) : Dev :=
  if !d.coreWorldOk t n w then d.tentRefused t w (storeAddr t n o)
  else if (d.core t n).running then d.tentErr t 1 clsCorrected 0x10
    { op := padReqOf w t, addr := storeAddr t n o }
  else d.wrB (storeAddr t n o) (bs.take (0x4000 - o))

/-- INSTR_STORE_WRITE (R40). -/
def execInstrStoreWrite (t : TentId) (n : CoreNo) (w : Writer) (off : BitVec 14) (data : List Byte) : State → Out :=
  asWriter w fun w => lift (·.storeWrite t.toNat n.toNat w off.toNat data)

/-! ### Segment worlds and the gradient bank (R44, R45) -/

/-- TNT_SEG_WORLD: raised segments at once, lowered ones after their clear. DESIGN CHOICE: a segment written secure
again before its clear is done stays secure, and the clear is dropped. -/
def Dev.segWorldWrite (d : Dev) (t : Nat) (w : Writer) (v : Nat) : Dev :=
  let a := tentReg t 0x10
  if !w.secure then d.tentRefused t w a
  else
    let raised := (d.regF a 0 12) ||| v % 2 ^ 12
    let lower := (List.range 12).filter fun i => d.segSecure t i && !bitAt v i
    let keep := (d.tent t).segClear.filter fun i => !bitAt v i
    let q := keep ++ lower.filter fun i => !keep.contains i
    ((d.modTent t fun x => { x with segClear := q }).setRegF a 0 12 raised).setRegF a 12 1 (b2n (!q.isEmpty))

/-- A lowered segment has been cleared: its new world applies (R44). -/
def Dev.segmentClearDone (d : Dev) (t : Nat) : Dev :=
  match (d.tent t).segClear with
  | [] => d
  | i :: rest =>
    let a := tentReg t 0x10
    let d1 := d.zero (tentMem t (i * 0x2000)) (tentMem t ((i + 1) * 0x2000))
    ((d1.modTent t fun x => { x with segClear := rest }).setRegF a i 1 0).setRegF a 12 1 (b2n (!rest.isEmpty))

/-- SEG_WORLD_WRITE (R44). -/
def execSegWorldWrite (t : TentId) (w : Writer) (v : Half) : State → Out :=
  asWriter w fun w => lift (·.segWorldWrite t.toNat w v.toNat)

/-- SEGMENT_CLEAR_DONE (R44). -/
def execSegmentClearDone (t : TentId) : State → Out := lift (·.segmentClearDone t.toNat)

/-- TNT_GBANK (R45): 7 is treated as 6. DESIGN CHOICE: a write of the value in force waits for an idle BW array like any
other. -/
def Dev.gbankWrite (d : Dev) (t v : Nat) : Dev :=
  let a := tentReg t 0x14
  let n := min 6 (v % 8)
  match d.bwArray t with
  | none => ((d.modTent t fun x => { x with pendGb := none }).setRegF a 0 3 n).setRegF a 3 1 0
  | some _ => (d.modTent t fun x => { x with pendGb := some n }).setRegF a 3 1 1

/-- A pending GB_SEGS takes effect once the BW array is idle. -/
def Dev.gbankTakeEffect (d : Dev) (t : Nat) : Dev :=
  match (d.tent t).pendGb with
  | none => d
  | some n =>
    let idle := match d.bwArray t with
      | none => true
      | some q => d.queueIdle t q
    if idle then
      ((d.modTent t fun x => { x with pendGb := none }).setRegF (tentReg t 0x14) 0 3 n).setRegF (tentReg t 0x14) 3 1 0
    else d

/-- GBANK_WRITE (R45). -/
def execGbankWrite (t : TentId) (w : Writer) (v : Half) : State → Out :=
  asWriter w fun _ => lift fun d => (d.gbankWrite t.toNat v.toNat).noteHand (tentReg t.toNat 0x14) 4

/-- GBANK_TAKE_EFFECT (R45). -/
def execGbankTakeEffect (t : TentId) : State → Out := lift (·.gbankTakeEffect t.toNat)

/-! ### Block worlds (R406) -/

/-- TNT_BLK_WORLD: each changed bit waits for its block. -/
def Dev.blkWorldWrite (d : Dev) (t : Nat) (w : Writer) (v : Nat) : Dev :=
  let a := tentReg t 0x18
  if !w.secure then d.tentRefused t w a
  else if v % 256 = d.regF a 0 8 then (d.modTent t fun x => { x with pendBlk := none }).setRegF a 8 1 0
  else (d.modTent t fun x => { x with pendBlk := some (v % 256) }).setRegF a 8 1 1

/-- Block b (its bit number) is idle with an empty queue, or its RUN reads 0. -/
def Dev.blkIdle (d : Dev) (t b : Nat) : Bool :=
  if b < 4 then !(d.core t b).running
  else if b = 4 then d.queueIdle t 8 && (d.tent t).groups.isEmpty
  else if b = 5 then (List.range 6).all fun q => d.queueIdle t q
  else if b = 6 then d.queueIdle t 6
  else d.queueIdle t 7 && (d.tent t).sel.running.isNone

/-- Clear the state of a block before its world changes. -/
def Dev.blkClear (d : Dev) (t b : Nat) : Dev :=
  if b < 4 then
    (d.setCore t b { d.core t b with regs := [] }).zero (storeAddr t b 0) (storeAddr t b 0x4000)
  else if b = 4 then
    ((d.setQueue t 8 {}).modTent t fun x => { x with groups := [] }).wipeRegs (tentReg t 0x70_0840)
      (tentReg t 0x70_0880)
  else if b = 5 then d.modTent t fun x => { x with accs := [] }
  else if b = 6 then d.modTent t fun x => { x with filters := [] }
  else (d.zero (tentMem t 0x1_8000) (tentMem t 0x2_0000)).wipeRegs (tentReg t 0x30_1000) (tentReg t 0x30_1A00)

/-- A block is idle: its state is cleared and its new world applied. A mover's combine groups are part of
what is cleared, so open groups do not hold the change. -/
def Dev.blkWorldApply (d : Dev) (t b : Nat) : Dev :=
  match (d.tent t).pendBlk with
  | none => d
  | some v =>
    let a := tentReg t 0x18
    let idle := if b = 4 then d.queueIdle t 8 else d.blkIdle t b
    if bitAt v b = d.blkSecure t b ∨ !idle then d
    else
      let d1 := (d.blkClear t b).setRegF a b 1 (v / 2 ^ b)
      if d1.regF a 0 8 = v then (d1.modTent t fun x => { x with pendBlk := none }).setRegF a 8 1 0 else d1

/-- BLK_WORLD_WRITE (R406). -/
def execBlkWorldWrite (t : TentId) (w : Writer) (v : Half) : State → Out :=
  asWriter w fun w => lift (·.blkWorldWrite t.toNat w v.toNat)

/-- BLK_WORLD_APPLY (R406). -/
def execBlkWorldApply (t : TentId) (blk : BitVec 3) : State → Out := lift (·.blkWorldApply t.toNat blk.toNat)

/-! ### Scratchpad accesses (R41 to R43) -/

/-- The watch-table instance of a scratchpad bank. -/
def bankWch (t b : Nat) : Nat := tentReg t (0x50_0000 + 0x1000 * b)

/-- Grants of a bank until the requester wins; its rivals keep asking. -/
def Dev.bankGrants (d : Dev) (t b req : Nat) (rivals : List Nat) : Nat → Dev
  | 0 => d
  | k + 1 =>
    let r := d.grant (bankWch t b) (if rivals.contains req then rivals else req :: rivals)
    if r.2 = some req then r.1 else r.1.bankGrants t b req rivals k

/-- The master of a scratchpad requester (Table 2.7). -/
def padMaster (t : TentId) (req : Nat) : Master :=
  if req < 4 then .score t (BitVec.ofNat 2 req)
  else if req = 4 then .mover t
  else if req < 11 then .arrayPort t (BitVec.ofNat 3 (req - 5))
  else if req = 11 then .forage t
  else if req = 12 then .vector t
  else .device 0

/-- The access itself, once granted: refused whole where a segment is secure (R43), uncorrectable words
returned as such (R42). The response goes to the requester. -/
def Dev.padDo (d : Dev) (t : TentId) (req : Nat) (secure : Bool) (o : Nat) (op : PadOp) : Dev :=
  let n := match op with
    | .read n => n
    | .write bs => bs.length
  let a := tentMem t.toNat o
  let refuse := !secure && d.touchesSecure t.toNat o n
  let log (c : Nat) (d : Dev) : Dev :=
    if req < 4 then d else d.tentErr t.toNat 1 clsContained c { op := req, addr := o }
  let reply (r : Answer) (d : Dev) : Dev := { d with response := some (padMaster t req, r) }
  match op with
  | .read _ =>
    if refuse then (log 0x16 d) |> reply ⟨2, List.replicate n 0⟩
    else
      let d := d.meet a n
      if d.badIn a n then
        let f := d.rdOpen a n
        (log 0x14 f.2) |> reply ⟨1, f.1⟩
      else reply ⟨0, d.rd a n⟩ d
  | .write bs =>
    if refuse then (log 0x16 d) |> reply ⟨2, []⟩
    else
      let r := (d.meetParts a n).wr a bs
      if r.2 then (log 0x14 r.1) |> reply ⟨1, []⟩ else r.1 |> reply ⟨0, []⟩

/-- SCRATCHPAD_ACCESS (R41): up to 256 bytes within one row, split into word accesses, each granted by its
bank; an access to a segment that is being cleared is held (R44). -/
def execScratchpadAccess (t : TentId) (req : BitVec 4) (secure : Bool) (off : BitVec 17) (op : PadOp)
    (rivals : List (BitVec 4)) (find : List (BitVec 5 × EccFind)) : State → Out :=
  lift fun d =>
    let n := match op with
      | .read n => n
      | .write bs => bs.length
    let o := off.toNat
    let tn := t.toNat
    if n = 0 ∨ o % 256 + n > 256 ∨ o + n > padLen ∨ d.touchesClearing tn o n then d
    else
      let words := (List.range 16).filter fun w => o / 256 * 256 + w * 16 < o + n ∧ o < o / 256 * 256 + w * 16 + 16
      let d1 := words.foldl (fun d w => d.bankGrants tn w req.toNat (rivals.map (·.toNat)) 512) d
      let d2 := find.foldl (fun (d : Dev) p =>
        if p.1.toNat < 16 then d.upset (tentMem tn (o / 256 * 256 + p.1.toNat * 16)) (eccUpset p.2) else d) d1
      d2.padDo t req.toNat secure o op

/-! ### Transparent test and failures (R30, R31, R46, R47) -/

/-- A tent asks for evacuation to its row spare; in a row whose map is already valid, DEVICE (R31). -/
def Dev.askEvacuation (d : Dev) (t : Nat) : Dev :=
  if d.rowMapped t then d.tentErr t 1 clsDevice 0x19 {}
  else if d.evacWait.contains t then d
  else { d with evacWait := d.evacWait ++ [t] }

/-- TRANSPARENT_TEST_ROW (R46, R47): the row is tested and written back; a failing cell of a bank remaps the
row to one of the bank's two spares, or asks for evacuation with the row served from the shadow. -/
def execTransparentTestRow (t : TentId) (fail : Option (BitVec 4)) : State → Out :=
  lift fun d =>
    let tn := t.toNat
    let a := tentReg tn 0x100
    let row := d.regF a 1 9
    if d.regF a 0 1 = 0 then d
    else
      let d1 := d.setRegF a 1 9 ((row + 1) % 384)
      match fail with
      | none => d1
      | some b =>
        let d2 := d1.bump (tentReg tn 0x108) 1
        let used := fun (x : Tent) k => (x.remaps.filter fun p => p.1 == k).length
        let info : ErrInfo := { op := 14, addr := row * 256 + b.toNat * 16 }
        if used (d.tent tn) b.toNat < 2 then
          let d3 := d2.modTent tn fun x => { x with remaps := x.remaps ++ [(b.toNat, row)] }
          let least := (List.range 16).foldl (fun m k => min m (2 - used (d3.tent tn) k)) 2
          (d3.setRegF a 10 2 least).tentErr tn 1 clsCorrected 0x15 info
        else
          ((d2.modTent tn fun x => { x with shadowRow := some row }).tentErr tn 1 clsCorrected 0x15
            info).askEvacuation tn

end Sys2Proof.Machine
end

