-- ==== Sys2Proof/Machine/Sync.lean ====
section
/-! DEFINITION. Pegs and guylines (16 R362 to R377): signals, waits and their grants, peg sets, I/O die
waits, arrivals, counters, releases, forced releases. -/

namespace Sys2Proof.Machine

/-! ### Waits (R364 to R366, R371) -/

/-- The register that counts an engine's completed commands; none for queues without one. -/
def cmdsReg (t q : Nat) : Option Nat :=
  match q with
  | 6 => some (tentReg t 0x20_0020)
  | 7 => some (tentReg t 0x30_0020)
  | 8 => some (tentReg t 0x70_0020)
  | _ => none

/-- A command of a queue has completed: the engine counts it and SIG signals its peg once (R102). -/
def Dev.cmdDone (d : Dev) (t q : Nat) (c : Cmd) : Dev :=
  (match cmdsReg t q with
    | some a => d.bump a 1
    | none => d).signal t c

/-- A waiter is released: a PWAIT completes, or the WAIT at a queue's head leaves the queue. -/
def Dev.releaseWaiter (d : Dev) (t waiter : Nat) : Dev :=
  if waiter < 4 then d.corePc t waiter ((d.core t waiter).pc + 1)
  else
    let q := waiter - 4
    match (d.queue t q).entries with
    | [] => d
    | c :: rest =>
      let d1 := d.modQueue t q fun x => { x with entries := rest, waiting := false }
      (if q < 6 then d1.fetchTiles t q else d1).cmdDone t q c

/-- The waits that the count grants, oldest first, up to the first that does not fit. -/
def granted : Nat → List PegWait → List PegWait
  | _, [] => []
  | c, w :: ws => if w.n ≤ c then w :: granted (c - w.n) ws else []

/-- One cycle of a peg (R364): the count visible now grants pending waits in order. -/
def Dev.pegGrant (d : Dev) (t p : Nat) : Dev :=
  let mine := (d.tent t).pegWaits.filter fun w => w.peg == p
  let gs := granted (d.peg t p) mine
  let d1 := (d.setReg (pegAddr t p) (d.peg t p - (gs.map (·.n)).sum)).modTent t fun x =>
    { x with pegWaits := x.pegWaits.filter fun w => !gs.contains w }
  gs.foldl (fun d w => d.releaseWaiter t w.waiter) d1

/-- PEG_WAIT_GRANT (R364). -/
def execPegWaitGrant (t : TentId) (p : BitVec 6) : State → Out := lift (·.pegGrant t.toNat p.toNat)

/-- PEG_WAIT_EVENT (R371 registers): a wait pending longer than WAIT_EVT µs raises one event. -/
def Dev.pegWaitEvent (d : Dev) (t p : Nat) : Dev :=
  if d.regF (tentReg t 0x40_0450) 0 16 = 0 then d
  else match (d.tent t).pegWaits.find? fun w => w.peg == p && !w.told with
  | none => d
  | some w =>
    (d.modTent t fun x =>
      { x with pegWaits := x.pegWaits.map fun v => if v = w then { v with told := true } else v }).raise
        (t / 4096) 0 0x0104 t (p + w.waiter * 2 ^ 8 + d.peg t p * 2 ^ 16)

/-- PEG_WAIT_EVENT. -/
def execPegWaitEvent (t : TentId) (p : BitVec 6) : State → Out := lift (·.pegWaitEvent t.toNat p.toNat)

/-! ### Peg registers of a tent and of an I/O die (R369, R371) -/

/-- A write of PEG_SET or PEG_IO_SET (R371): secure, or the debug port; logged with the old and the new
count (bytes 56 to 63), the writer (OP, a DESIGN CHOICE of numbers) and the global time. -/
def Dev.pegSet (d : Dev) (w : Writer) (a v : Nat) : Dev :=
  let ok := w.secure || w.who == .debug
  match pegRegOf a with
  | .tent t p 8 =>
    if !ok then d.tentRefused t w a
    else (d.setReg (pegAddr t p) v).tentErr t 0x0F clsCorrected 0x02 { op := writerCode w, addr := a, spec := d.peg t p + v * 2 ^ 32 }
  | .io die n 8 =>
    if !ok then d.dieErr die 0 0x0F clsCorrected 0x06 { addr := a }
    else
      ((d.setReg (ioPegAddr die n) v).dieErr die 0 0x0F clsCorrected 0x02
        { op := writerCode w, addr := a, spec := d.reg (ioPegAddr die n) + v * 2 ^ 32 }).ioPegTest die n
  | _ => d

/-- A write of PEG_IO_WAIT_n arms one wait; a second arm is discarded and logged (R369). -/
def Dev.pegArm (d : Dev) (w : Writer) (die n v : Nat) : Dev :=
  let k := die * 1024 + n
  if !w.secure then d.dieErr die 0 0x0F clsCorrected 0x06 { addr := ioPegAddr die n }
  else if look (fun _ => 0) d.armed k ≠ 0 then d.dieErr die 0 0x0F clsCorrected 0x03 { addr := n }
  else { d with armed := put (fun _ => 0) d.armed k v }.ioPegTest die n

/-- PEG_SET (R371). -/
def execPegSet (w : Writer) (addr : Word) (v : Half) : State → Out :=
  asWriter w fun w => lift fun d =>
    match d.place addr.toNat with
    | .here a => d.pegSet w a v.toNat
    | _ => d

/-- PEG_IO_WAIT_ARM (R369). -/
def execPegIoWaitArm (iod : Bool) (p : BitVec 10) (w : Writer) (v : Half) : State → Out :=
  asWriter w fun w => lift (·.pegArm w (6 + b2n iod) p.toNat v.toNat)

/-! ### Guyline registers (R372) -/

/-- GYL_ROW_MASK_g of row r = 64 × pitch + row. -/
def rowMaskAddr (g r : Nat) : Nat := dieReg (r / 128) (0x100_0000 + 8 * (128 * g + r % 128))
/-- GYL_ROW_CNT. -/
def rowCntAddr (g r : Nat) : Nat := dieReg (r / 128) (0x100_4000 + 4 * (128 * g + r % 128))
/-- GYL_PITCH_CNT. -/
def pitchCntAddr (g p : Nat) : Nat := dieReg (p / 2) (0x100_6000 + 4 * (2 * g + p % 2))
/-- GYL_CAMP_g; GYL_DEV_CNT_g at +4, children from +0x10. -/
def campAddr (g : Nat) : Nat := dieReg 6 (0x1200_0000 + 0x100 * g)
/-- GYL_TENT_STAT. -/
def gylStat (t : Nat) : Nat := tentReg t 0x40_0440
/-- GYL_TENT_PEND. -/
def gylPend (t : Nat) : Nat := tentReg t 0x40_0444

/-- Set bits of a mask. -/
def bitCount (x n : Nat) : Nat := ((List.range n).filter fun i => bitAt x i).length

/-- Target of a row counter. -/
def Dev.rowTarget (d : Dev) (g r : Nat) : Nat := bitCount (d.reg (rowMaskAddr g r)) 64
/-- Rows of a pitch with members. -/
def Dev.pitchRows (d : Dev) (g p : Nat) : List Nat :=
  ((List.range 64).map (64 * p + ·)).filter fun r => d.reg (rowMaskAddr g r) ≠ 0
/-- Target of a pitch counter. -/
def Dev.pitchTarget (d : Dev) (g p : Nat) : Nat := (d.pitchRows g p).length
/-- Target of the device counter. -/
def Dev.devTarget (d : Dev) (g : Nat) : Nat :=
  ((List.range 4).filter fun p => 0 < d.pitchTarget g p).length + d.regF (campAddr g) 11 5
/-- Member tents of a guyline. -/
def Dev.members (d : Dev) (g : Nat) : List Nat :=
  (List.range 256).flatMap fun r =>
    ((List.range 64).filter fun c => bitAt (d.reg (rowMaskAddr g r)) c).map (64 * r + ·)
/-- A tent is a member. -/
def Dev.isMember (d : Dev) (g t : Nat) : Bool := bitAt (d.reg (rowMaskAddr g (t / 64))) (t % 64)
/-- Children of the device. -/
def Dev.children (d : Dev) (g : Nat) : List Nat :=
  (List.range (d.regF (campAddr g) 11 5)).map fun k => d.regF (campAddr g + 0x10 + 4 * k) 0 10

/-- Some counter of the guyline is not zero. -/
def Dev.roundOpen (d : Dev) (g : Nat) : Bool :=
  d.regF (campAddr g + 4) 0 5 != 0 || (List.range 4).any (fun p => d.regF (pitchCntAddr g p) 0 7 != 0) ||
    (List.range 256).any fun r => d.regF (rowCntAddr g r) 0 7 != 0

/-! ### Releases and counters (R373, R374) -/

/-- A bad packet to a guyline target (R370 item 4, R374). -/
def Dev.gylBad (d : Dev) (die : Nat := 6) : Dev :=
  (d.bump (dieReg die 0x1100_4110) 1).dieErr die 0 0x0F clsContained 0x04 {}

/-- The release of a guyline at the device: the device counter to zero, DOWN to every child, a release to
every member (R374). -/
def Dev.gylRelease (d : Dev) (g : Nat) (forced : Bool) : Dev :=
  let d1 := (d.setRegF (campAddr g + 4) 0 5 0).setRegF (campAddr g) 16 1 0
  let d2 := (d.children g).foldl (fun d c => d.sendPeg (c * 2 ^ 48 + (campAddr g + 0x84)) 1) d1
  { d2 with gyl := d2.gyl ++ (d.members g).map fun t => .release g t forced }

/-- The device counter against its target. -/
def Dev.devCount (d : Dev) (g n : Nat) : Dev :=
  let a := campAddr g
  let v := d.regF (a + 4) 0 5 + n
  if v < d.devTarget g ∨ d.devTarget g = 0 then d.setRegF (a + 4) 0 5 v
  else if d.regF a 10 1 = 1 then
    ((d.setRegF (a + 4) 0 5 0).setRegF a 16 1 1).sendPeg (d.regF a 0 10 * 2 ^ 48 + (a + 0x80)) 1
  else d.gylRelease g false

/-- A pitch counter takes arrivals. -/
def Dev.pitchCount (d : Dev) (g p n : Nat) : Dev :=
  let a := pitchCntAddr g p
  let v := d.regF a 0 7 + n
  if v < d.pitchTarget g p ∨ d.pitchTarget g p = 0 then d.setRegF a 0 7 v
  else { d.setRegF a 0 7 0 with gyl := d.gyl ++ [.toDev g p] }

/-- A row counter takes arrivals. -/
def Dev.rowCount (d : Dev) (g r n : Nat) : Dev :=
  let a := rowCntAddr g r
  let v := d.regF a 0 7 + n
  if v < d.rowTarget g r ∨ d.rowTarget g r = 0 then d.setRegF a 0 7 v
  else { d.setRegF a 0 7 0 with gyl := d.gyl ++ [.toPitch g r] }

/-- GUYLINE_COUNTER_ARRIVAL (R374): message i on its way reaches its counter. -/
def execGuylineCounterArrival (i : Nat) : State → Out :=
  lift fun d =>
    let gone (d : Dev) : Dev := { d with gyl := dropNth d.gyl i }
    match d.gyl[i]? with
    | some (.toRow g t) => (gone d).rowCount g (t / 64) 1
    | some (.toPitch g r) => (gone d).pitchCount g (r / 64) 1
    | some (.toDev g _) => (gone d).devCount g 1
    | _ => d

/-- An arrival of an S-core acts on ARRIVED and PENDING of its guyline at the port (R373). -/
def Dev.gylPort (d : Dev) (t g core rpeg : Nat) : Dev :=
  let arrived := d.regF (gylStat t) g 1 == 1
  let pending := d.regF (gylPend t) g 1 == 1
  if !d.isMember g t || (arrived && pending) then
    d.tentErr t 1 clsContained 0x13 { op := core, addr := tentReg t (0x40_0400 + 4 * g) }
  else if arrived then
    (d.setRegF (gylPend t) g 1 1).modTent t fun x => { x with rpegNext := put (fun _ => 0) x.rpegNext g rpeg }
  else
    let d1 := (d.setRegF (gylStat t) g 1 1).modTent t fun x => { x with rpeg := put (fun _ => 0) x.rpeg g rpeg }
    { d1 with gyl := d1.gyl ++ [.toRow g t] }

/-- An S-core's store to GYL_ARRIVE_g (R373): held at the port until the stores posted before it are
complete; any other master is a decode fault. -/
def Dev.gylArrive (d : Dev) (t : Nat) (w : Writer) (g v : Nat) : Dev :=
  match w.who with
  | .score u n =>
    if u.toNat = t then
      d.modTent t fun x => { x with held := x.held ++ [⟨g, n.toNat, v % 64, d.nextStore⟩] }
    else d.tentErr t 1 clsContained 0x04 { addr := tentReg t (0x40_0400 + 4 * g) }
  | _ => d.tentErr t 1 clsContained 0x04 { addr := tentReg t (0x40_0400 + 4 * g) }

/-- GYL_ARRIVE (R373). -/
def execGylArrive (t : TentId) (w : Writer) (g : BitVec 4) (v : Half) : State → Out :=
  asWriter w fun w => lift (·.gylArrive t.toNat w g.toNat v.toNat)

/-- Every store that S-core n posted before number b is complete. -/
def Dev.storesDone (d : Dev) (t n b : Nat) : Bool :=
  !d.stores.any fun s => s.t == t && s.core == n && decide (s.seq < b)

/-- GUYLINE_ARRIVAL_SEND (R373): the port acts on the first held arrival whose stores have completed. -/
def Dev.gylSend (d : Dev) (t g : Nat) : Dev :=
  match (d.tent t).held.find? fun h => h.g == g && d.storesDone t h.core h.bound with
  | none => d
  | some h => (d.modTent t fun x => { x with held := x.held.erase h }).gylPort t g h.core h.rpeg

/-- GUYLINE_ARRIVAL_SEND. -/
def execGuylineArrivalSend (t : TentId) (g : BitVec 4) : State → Out := lift (·.gylSend t.toNat g.toNat)

/-- A release reaches a member tent (R374): RPEG is signalled, ARRIVED clears, a PENDING arrival is sent. -/
def Dev.gylTentRelease (d : Dev) (t g : Nat) (forced : Bool) : Dev :=
  let x := d.tent t
  let d1 := if d.regF (gylStat t) g 1 = 1 then d.pegSig t (look (fun _ => 0) x.rpeg g) 1 else d
  let d2 := d1.setRegF (gylStat t) g 1 0
  let d3 := if forced then d2.setRegF (gylStat t) (16 + g) 1 1 else d2
  if d.regF (gylPend t) g 1 = 1 then
    let d4 := ((d3.setRegF (gylPend t) g 1 0).setRegF (gylStat t) g 1 1).modTent t fun y =>
      { y with rpeg := put (fun _ => 0) y.rpeg g (look (fun _ => 0) x.rpegNext g)
               rpegNext := dropAt g y.rpegNext }
    { d4 with gyl := d4.gyl ++ [.toRow g t] }
  else d3.modTent t fun y => { y with rpeg := dropAt g y.rpeg }

/-- GUYLINE_RELEASE (R374): the release on its way to the tent arrives. -/
def execGuylineRelease (t : TentId) (g : BitVec 4) : State → Out :=
  lift fun d =>
    match d.gyl.find? fun m => m == GylMsg.release g.toNat t.toNat true || m == GylMsg.release g.toNat t.toNat false with
    | some m =>
      { d with gyl := d.gyl.erase m }.gylTentRelease t.toNat g.toNat (m == GylMsg.release g.toNat t.toNat true)
    | none => d

/-- A packet of a struck or old GEN to a guyline target is discarded and counted (R370 item 3). -/
def Dev.gylStale (d : Dev) (gen : Nat) : Option Dev :=
  if gen = d.gen then none else some (d.bump (dieReg 6 0x1100_4108) 1)

/-- GUYLINE_UP (R374): from a child, by the value written, through an I/O die. -/
def Dev.gylUp (d : Dev) (g src : Nat) (n : Nat := 1) (die : Nat := 6) : Dev :=
  if (d.children g).contains src then d.devCount g n else d.gylBad die

/-- GUYLINE_DOWN (R374): from the parent while WAIT_DOWN is set. -/
def Dev.gylDown (d : Dev) (g src : Nat) (die : Nat := 6) : Dev :=
  let a := campAddr g
  if d.regF a 10 1 = 1 ∧ d.regF a 0 10 = src ∧ d.regF a 16 1 = 1 then d.gylRelease g false else d.gylBad die

/-- GUYLINE_UP. -/
def execGuylineUp (g : BitVec 4) (src : BitVec 10) (gen : BitVec 8) : State → Out :=
  lift fun d => (d.gylStale gen.toNat).getD (d.gylUp g.toNat src.toNat)

/-- GUYLINE_DOWN. -/
def execGuylineDown (g : BitVec 4) (src : BitVec 10) (gen : BitVec 8) : State → Out :=
  lift fun d => (d.gylStale gen.toNat).getD (d.gylDown g.toNat src.toNat)

/-- Every guyline at zero and every held RPEG signalled once, with FORCED (R376). -/
def Dev.gylForceTent (d : Dev) (t : Nat) : Dev :=
  let x := d.tent t
  (List.range 16).foldl (fun d g =>
    let arr := d.regF (gylStat t) g 1 == 1
    let pend := d.regF (gylPend t) g 1 == 1
    if !arr && !pend then d
    else
      let d1 := if arr then d.pegSig t (look (fun _ => 0) x.rpeg g) 1 else d
      let d2 := if pend then d1.pegSig t (look (fun _ => 0) x.rpegNext g) 1 else d1
      ((d2.setRegF (gylStat t) g 1 0).setRegF (gylPend t) g 1 0).setRegF (gylStat t) (16 + g) 1 1) d

/-- The counters of every guyline and WAIT_DOWN at zero; nothing of a round is on its way. -/
def Dev.gylZero (d : Dev) : Dev :=
  let d1 := (List.range 16).foldl (fun d g => (d.setRegF (campAddr g + 4) 0 5 0).setRegF (campAddr g) 16 1 0) d
  (([0, 1].foldl (fun d die => d.wipeRegs (dieReg die 0x100_4000) (dieReg die 0x100_6080)) d1) : Dev) |>
    fun d2 => { d2 with gyl := [] }

/-- Tents that hold something: only they can have an arrival. -/
def Dev.gylTents (d : Dev) : List Nat :=
  (List.range 16384).filter fun t => d.reg (gylStat t) % 2 ^ 16 != 0 || d.reg (gylPend t) != 0

/-- GUYLINE_FORCED_RELEASE (R376): owed since GEN changed. -/
def Dev.gylForcedRelease (d : Dev) : Dev :=
  if !d.gylGenClr then d
  else
    let d1 := (d.gylTents.foldl (fun d t => d.gylForceTent t) d).gylZero
    { d1 with gylGenClr := false }

/-- GUYLINE_FORCED_RELEASE. -/
def execGuylineForcedRelease : State → Out := lift (·.gylForcedRelease)

/-- A write of GYL_FORCE (R377): each guyline whose bit is set is released at the device. -/
def Dev.gylForce (d : Dev) (w : Writer) (v : Nat) : Dev :=
  if !(w.secure || w.who == .debug) then d.dieErr 6 0 0x10 clsCorrected 0x06 { addr := dieReg 6 0x1200_1000 }
  else
    ((List.range 16).filter fun g => bitAt v g).foldl (fun d g => d.gylRelease g true)
      (d.dieErr 6 0 0x10 clsCorrected 0x02 { op := writerCode w, addr := dieReg 6 0x1200_1000, spec := v * 2 ^ 32 })

/-- GYL_FORCE (R377). -/
def execGylForce (w : Writer) (v : Half) : State → Out := asWriter w fun w => lift (·.gylForce w v.toNat)

/-- Die of a guyline register. -/
def gylDie (a : Nat) : Nat :=
  match regionOf a with
  | .dieR d _ => d
  | _ => 6

/-- A write of COUNT (R377): secure or debug, logged; the count is tested from the next cycle. -/
def Dev.gylCountWrite (d : Dev) (w : Writer) (a v : Nat) : Dev :=
  let ok := w.secure || w.who == .debug
  let log (old : Nat) (d : Dev) : Dev :=
    d.dieErr (gylDie a) 0 0x10 clsCorrected 0x02 { op := writerCode w, addr := a, spec := old + v * 2 ^ 32 }
  let bad := d.dieErr (gylDie a) 0 0x10 clsCorrected 0x06 { addr := a }
  match gylRegOf a with
  | .rowCnt g r =>
    let x := rowCntAddr g r
    if !ok then bad else ((log (d.regF x 0 7) d).setRegF x 0 7 v).rowCount g r 0
  | .pitchCnt g p =>
    let x := pitchCntAddr g p
    if !ok then bad else ((log (d.regF x 0 7) d).setRegF x 0 7 v).pitchCount g p 0
  | .devCnt g =>
    let x := campAddr g + 4
    if !ok then bad else ((log (d.regF x 0 5) d).setRegF x 0 5 v).devCount g 0
  | _ => d

/-- GYL_COUNT_WRITE (R377). -/
def execGylCountWrite (w : Writer) (addr : Word) (v : Half) : State → Out :=
  asWriter w fun w => lift fun d =>
    match d.place addr.toNat with
    | .here a => d.gylCountWrite w a v.toNat
    | _ => d

/-- A write of a mask or of GYL_CAMP_g (R372): discarded and logged during a round; more than 24 children
discard the write. -/
def Dev.gylMaskWrite (d : Dev) (w : Writer) (a v : Nat) : Dev :=
  let bad (c : Nat) : Dev := d.dieErr (gylDie a) 0 0x10 clsCorrected c { addr := a }
  match gylRegOf a with
  | .rowMask g r =>
    if !w.secure then bad 0x06 else if d.roundOpen g then bad 0x03 else d.setReg (rowMaskAddr g r) v
  | .camp g =>
    if !w.secure then bad 0x06 else if d.roundOpen g then bad 0x03
    else if 24 < field v 11 5 then d
    else d.setRegF (campAddr g) 0 16 v
  | .child g k => if !w.secure then bad 0x06 else d.setReg (campAddr g + 0x10 + 4 * k) (v % 1024)
  | _ => d

/-- GYL_MASK_WRITE (R372). -/
def execGylMaskWrite (w : Writer) (addr : Word) (v : Word) : State → Out :=
  asWriter w fun w => lift fun d =>
    match d.place addr.toNat with
    | .here a => d.gylMaskWrite w a v.toNat
    | _ => d

end Sys2Proof.Machine
end

