-- ==== Sys2Proof/Machine/Reduce.lean ====
section
/-! DEFINITION. Exact gradient reduction (13 R297 to R322): identity writes, contexts, packets, adders, the
re-pitch round, the fence, cancellation and re-shard; signals at any peg target (R363, Table 16.1). -/

namespace Sys2Proof.Machine

/-! ### Contexts -/

/-- A register of context c, by offset in its slot. -/
def ctxReg (c o : Nat) : Nat := dieReg (6 + c / 32) (0xE01_0000 + 0x100 * (c % 32) + o)
/-- An RDX register of the die context c lies on. -/
def rdxReg (c o : Nat) : Nat := dieReg (6 + c / 32) (0xE00_0000 + o)
/-- A context. -/
def Dev.ctx (d : Dev) (c : Nat) : Ctx := look (fun _ => {}) d.ctxs c
/-- Change it. -/
def Dev.modCtx (d : Dev) (c : Nat) (f : Ctx → Ctx) : Dev :=
  { d with ctxs := put (fun _ => {}) d.ctxs c (f (d.ctx c)) }
/-- STATE. -/
def Dev.ctxState (d : Dev) (c : Nat) : Nat := d.regF (ctxReg c 0) 22 3
/-- Set STATE. -/
def Dev.setCtxState (d : Dev) (c s : Nat) : Dev := d.setRegF (ctxReg c 0) 22 3 s
/-- JOB of a context. -/
def Dev.ctxJob (d : Dev) (c : Nat) : Nat := d.regF (ctxReg c 4) 0 12
/-- EPOCH it took. -/
def Dev.ctxEpoch (d : Dev) (c : Nat) : Nat := d.regF (ctxReg c 4) 12 4
/-- GEN it took. -/
def Dev.ctxGen (d : Dev) (c : Nat) : Nat := d.regF (ctxReg c 4) 16 8
/-- P. -/
def Dev.ctxP (d : Dev) (c : Nat) : Nat := d.regF (ctxReg c 8) 0 11
/-- TREE. -/
def Dev.ctxTree (d : Dev) (c : Nat) : Bool := d.regF (ctxReg c 0) 1 1 == 1
/-- RES = ALL. -/
def Dev.ctxAll (d : Dev) (c : Nat) : Bool := d.regF (ctxReg c 0) 2 2 == 0
/-- CMP. -/
def Dev.ctxCmp (d : Dev) (c : Nat) : Bool := d.regF (ctxReg c 0) 6 1 == 1
/-- RELAY. -/
def Dev.ctxRelay (d : Dev) (c : Nat) : Bool := d.regF (ctxReg c 0) 8 1 == 1
/-- F of a tree. -/
def Dev.ctxFan (d : Dev) (c : Nat) : Nat := d.regF (ctxReg c 0) 9 5
/-- Open contexts. -/
def Dev.openCtxs (d : Dev) : List Nat := (List.range 64).filter fun c => d.ctxState c ≠ 0
/-- Open contexts of a job. -/
def Dev.jobCtxs (d : Dev) (job : Nat) : List Nat := d.openCtxs.filter fun c => d.ctxJob c == job

/-- The request a context makes of memory. -/
def Dev.ctxMem (d : Dev) (c : Nat) : MemReq := ⟨.io, d.ctxJob c, (d.ctx c).secure⟩

/-! ### The completion record and closing (R314, R318 to R320) -/

/-- The completion record (Table 13.5). -/
def Dev.ctxRecord (d : Dev) (c status cause : Nat) : List Byte :=
  let x := d.ctx c
  leBytes 4 (status + cause * 2 ^ 8) ++ leBytes 4 (d.reg (ctxReg c 0xC)) ++ leBytes 4 x.ovf.length ++
    leBytes 4 x.raised.length ++ leBytes 4 x.nf.length ++ leBytes 4 x.pkts ++ leBytes 8 d.time.toNat ++
    x.tally.flatMap (leBytes 8)

/-- A packet that waits is discarded where it now fails checks 1 to 3 of Table 13.4. -/
def Dev.purgeWaiting (d : Dev) : Dev :=
  let known (p : List Byte) : Bool :=
    let j := (hdrOf p).job
    j == d.job || !(d.jobCtxs j).isEmpty
  let lost := d.waitPkts.filter fun p => !known p
  lost.foldl (fun d p => d.bump (rdxReg (leAt p 32 1 % 64) 0x108) 1)
    { d with waitPkts := d.waitPkts.filter known }

/-- What has befallen this device's links since the last COLD reset: replays, retrains, quarantines, links down. -/
def Dev.linkMarks (d : Dev) : Nat :=
  ((List.range 48).map fun l =>
    d.reg (linkCnt l 0x20) + d.reg (linkCnt l 0x28) + d.reg (linkCnt l 0x30) + b2n (d.linkGone l)).sum

/-- The Quartermaster takes note of the completion record of a context that ended well (R317). -/
def Dev.noteTally (d : Dev) (c : Nat) : Dev :=
  let x := d.ctx c
  if d.role ≠ 1 then d
  else
    let r : TallyRec := ⟨d.ctxJob c, d.reg (ctxReg c 0xC), !d.ctxTree c, d.ctxP c, x.pos, x.tally, x.marks != d.linkMarks⟩
    { d with qm := { d.qm with tallies := d.qm.tallies ++ [r] } }

/-- A context closes: its record is written, its registers' STATE reads 0; the address of DONE_PEG. -/
def Dev.ctxClose (d : Dev) (c status cause : Nat) : Dev × Nat :=
  let w := (if status = 0 then d.noteTally c else d).memWrite (d.ctxMem c) (d.reg (ctxReg c 0x48)) (d.ctxRecord c status cause)
  let d1 := ((w.2.setCtxState c 0).setReg (ctxReg c 0x60) 0).modCtx c fun _ => {}
  (d1.purgeWaiting, d.reg (ctxReg c 0x50))

/-- The identity a context took as it opened (R298). -/
def Dev.ctxIdent (d : Dev) (c : Nat) : Ident := ⟨d.ctxJob c, d.ctxEpoch c, d.ctxGen c⟩

/-- Send a PEG packet for a context. -/
def Dev.ctxPeg (d : Dev) (c dev addr : Nat) : Dev :=
  d.sendPkt { typ := 8, vc := 0, job := d.ctxJob c, epoch := d.ctxEpoch c, gen := d.ctxGen c,
              dest := dev * 2 ^ 48 + addr, arg := 1 } []

/-- A member completes at the fence (R314): NEXT, the record, close. -/
def Dev.ctxFinish (d : Dev) (c : Nat) : Dev × Nat :=
  let x := d.ctx c
  let d1 := if d.regF (ctxReg c 0) 7 1 = 1 then
      (d.memWrite (d.ctxMem c) (d.reg (ctxReg c 0x28))
        ((List.range x.nblk).map fun b => BitVec.ofNat 8 (look (fun _ => 0) x.next b))).2
    else d
  d1.ctxClose c 0 0

/-- The fence count of a context is tested: m_0 waits for P, then tells every member; the others wait for
m_0. The Option is DONE_PEG of a context that has closed. -/
def Dev.fenceTest (d : Dev) (c : Nat) : Dev × Option Nat :=
  let x := d.ctx c
  let n := d.reg (ctxReg c 0x60)
  if d.ctxState c ≠ 5 then (d, none)
  else if x.pos = 0 then
    if n < d.ctxP c then (d, none)
    else
      let d1 := (x.members.drop 1).foldl (fun d m => d.ctxPeg c m (ctxReg c 0x60)) d
      let r := d1.ctxFinish c
      (r.1, some r.2)
  else if n = 0 then (d, none)
  else
    let r := d.ctxFinish c
    (r.1, some r.2)

/-! ### Peg targets (R363) -/

/-- Signal a peg target of this device by a count, from a device. A context that closes on it signals its own
DONE_PEG in turn; a context closes once, so 65 rounds reach the end of any chain. -/
def Dev.signalHere (d : Dev) (die src a n : Nat) : Nat → Dev
  | 0 => d
  | fuel + 1 =>
    match pegTargetOf a with
    | .tent t p => d.pegSig t p n
    | .io die k => d.ioPegSig die k n
    | .up g => if n = 0 then d else d.gylUp g src n die
    | .down g => if n = 0 then d else d.gylDown g src die
    | .fence c =>
      if d.ctxState c = 0 then d
      else
        let r := (d.bump (ctxReg c 0x60) n).fenceTest c
        match r.2 with
        | none => r.1
        | some x =>
          match r.1.place x with
          | .here b => r.1.signalHere die d.devId b 1 fuel
          | .remote _ _ => r.1.sendPeg x 1 (d.ctxIdent c)
          | .bad => r.1.gylBad die
    | .none => d.gylBad die

/-- A signal by a camp address: a peg of this device, or a PEG packet (Table 16.1) with the identity of its cause. -/
def Dev.signalCamp (d : Dev) (x n : Nat) (i : Ident := d.ident) : Dev :=
  match d.place x with
  | .here a => d.signalHere 6 d.devId a n 66
  | .remote _ _ => d.sendPeg x n i
  | .bad => d.gylBad

/-- Close a context and signal DONE_PEG. -/
def Dev.ctxEnd (d : Dev) (c status cause : Nat) : Dev :=
  let r := d.ctxClose c status cause
  r.1.signalCamp r.2 1 (d.ctxIdent c)

/-- Open bytes over what a fault leaves undefined: result, NEXT, OVL (R320). -/
def Dev.ctxUndef (d : Dev) (c : Nat) : Dev :=
  let x := d.ctx c
  let d1 := if d.ctxRelay c ∨ x.nblk = 0 then d
    else (d.undef x.rBase (x.dim * (if x.bi12 then 2 else 4))).undef x.rExp x.nblk
  let d2 := if d.regF (ctxReg c 0) 7 1 = 1 then d1.undef (d.reg (ctxReg c 0x28)) x.nblk else d1
  if x.nblk = 0 then d2 else d2.undef (d.reg (ctxReg c 0x38)) (16 + 8 * d.reg (ctxReg c 0x40))

/-- A context meets a fault (R320): the first since the strike stays in RDX_ERR; the record, DONE_PEG. -/
def Dev.ctxFault (d : Dev) (c cause addr : Nat) : Dev :=
  let die := 6 + c / 32
  let d0 := d.ctxUndef c
  let d1 := if d.reg (rdxReg c 0x10) = 0 then
      (d0.setReg (rdxReg c 0x10) (cause + c * 2 ^ 8 + d.ctxJob c * 2 ^ 14)).setReg (rdxReg c 0x18) addr
    else d0
  (d1.dieErr die 0 0x0D clsContained cause { tag := c, addr := addr, spec := d.ctxJob c }).ctxEnd c 3 cause

/-! ### The tally (R316) -/

/-- 2^61 - 1. -/
def tallyP : Nat := 2 ^ 61 - 1

/-- The keyed polynomial hash of 32-bit words, first word in the highest power. -/
def tallyHash (k : Nat) (ws : List Nat) : Nat :=
  ws.foldl (fun h w => (h + w) * k % tallyP) 0

/-- The words of a packet: the Trail header and the whole payload. -/
def pktWords (pkt : List Byte) : List Nat :=
  let n := 32 + (hdrOf pkt).len
  (List.range ((n + 3) / 4)).map fun i => leAt (slice pkt 0 n) (4 * i) 4

/-- Add a packet to a context's sums: sent (0) or accepted (2). -/
def Dev.tallyPkt (d : Dev) (c which : Nat) (pkt : List Byte) : Dev :=
  let ws := pktWords pkt
  let h := fun o => tallyHash (d.reg (rdxReg c o)) ws
  d.modCtx c fun x =>
    { x with tally := x.tally.zipIdx.map fun (v, i) =>
        if i = which then (v + h 0x20) % 2 ^ 64
        else if i = which + 1 then (v + h 0x28) % 2 ^ 64 else v }

/-! ### Blocks: arithmetic (R310, R312) -/

/-- The container range. -/
def contMax (bi12 : Bool) : Int := if bi12 then 2 ^ 15 - 1 else 2 ^ 31 - 1

/-- One block of an adder: what came in and what is local (or came from another child); whether this addition
overflowed. -/
def addBlk (bi12 : Bool) (x y : Blk) : Blk × Bool :=
  let m := contMax bi12
  if x.ovf || y.ovf then ({ x with mask := x.mask ||| y.mask, ovf := true, nf := x.nf || y.nf }, false)
  else if x.nf || y.nf then
    ({ els := List.replicate x.els.length 0, mask := x.mask ||| y.mask, nf := true }, false)
  else
    let s := (x.els.zip y.els).map fun (a, b) => a + b
    let past := s.any fun v => decide (m < v) || decide (v < -m - 1)
    ({ els := s.map fun v => max (-m - 1) (min m v), mask := x.mask ||| y.mask, ovf := past }, past)

/-- Wide elements add exactly (R311). -/
def addWide (x y : Blk) : Blk := { x with els := (x.els.zip y.els).map fun (a, b) => a + b }

/-- s × 2^-k rounded to nearest, ties to even. -/
def rneShift (s : Int) (k : Nat) : Int :=
  let q := s / 2 ^ k
  let r := s % 2 ^ k
  if k = 0 then s
  else if 2 * r < 2 ^ k ∨ (2 * r = 2 ^ k ∧ q % 2 = 0) then q else q + 1

/-- Every element rounds into the container range at a shift. -/
def fitsAt (bi12 : Bool) (els : List Int) (k : Nat) : Bool :=
  els.all fun s => decide (rneShift s k ≤ contMax bi12) && decide (-(contMax bi12) - 1 ≤ rneShift s k)

/-- The shortfall (R312): the least shift at which every element fits. Elements are below 2^64, so one below
64 is found. -/
def shortfall (bi12 : Bool) (els : List Int) : Nat := ((List.range 64).find? fun k => fitsAt bi12 els k).getD 64

/-- The data exponent of a container block at an exponent (R75); none for a block of zeros. -/
def dataExp (bi12 : Bool) (e : Nat) (els : List Int) : Option Nat :=
  let m := els.foldl (fun m v => max m v.natAbs) 0
  if m = 0 then none
  else
    let l : Int := (Nat.log2 m : Int) + (e : Int) - (if bi12 then 138 else 150) + 128
    some (min 254 l.toNat)

/-- NEXT of a finite result block (R303). -/
def nextOf (bi12 : Bool) (cmargin a e : Nat) (els : List Int) : Nat :=
  match dataExp bi12 e els with
  | some x => min 254 (x + cmargin)
  | none => a

/-! ### Local memory of a context -/

/-- Read at a device-local address; UNCORR or REFUSED are faults of the context. -/
def ctxRead (c a n : Nat) : Eng (List Byte) := do
  let r ← askDev fun d => d.memRead (d.ctxMem c) a n
  onDev fun _ => r.2
  need (r.1.status == 0) (if r.1.status = 2 then 0x21 else 0x20) a
  return r.1.data

/-- Write. -/
def ctxWrite (c a : Nat) (bs : List Byte) : Eng Unit := do
  let r ← askDev fun d => d.memWrite (d.ctxMem c) a bs
  onDev fun _ => r.2
  need (r.1 == 0) (if r.1 = 2 then 0x21 else 0x20) a

/-- AGREE[b]. -/
def ctxAgree (c b : Nat) : Eng Nat := do
  return leNat (← ctxRead c ((← askDev (·.reg (ctxReg c 0x20))) + b) 1)

/-- Elements a block of the tensor holds. -/
def Ctx.blkLen (x : Ctx) (b : Nat) : Nat := min 64 (x.dim - 64 * b)
/-- Bytes of a container. -/
def Ctx.cb (x : Ctx) : Nat := if x.bi12 then 2 else 4

/-- Block b of the contribution (R300): finite at A[b], non-finite at 0xFF, otherwise FORMAT. -/
def ctxLocal (c b : Nat) : Eng Blk := do
  let x ← askDev (·.ctx c)
  let e := leNat (← ctxRead c (x.cExp + b) 1)
  if e = 255 then return { els := List.replicate 64 0, nf := true }
  else
    need (e == (← ctxAgree c b)) 0x10 (x.cExp + b)
    let n := x.blkLen b
    let bs ← ctxRead c (x.cBase + 64 * x.cb * b) (n * x.cb)
    let els := (List.range 64).map fun i => if i < n then signed (8 * x.cb) (leAt bs (i * x.cb) x.cb) else 0
    return { els := els, mask := els.zipIdx.foldl (fun m p => if p.1 = 0 then m else m + 2 ^ p.2) 0 }

/-- Write block b of the result: containers and exponent. -/
def ctxPut (c b e : Nat) (els : List Int) : Eng Unit := do
  let x ← askDev (·.ctx c)
  let n := x.blkLen b
  ctxWrite c (x.rBase + 64 * x.cb * b) ((els.take n).flatMap fun v => leBytes x.cb (unsigned (8 * x.cb) v))
  ctxWrite c (x.rExp + b) [BitVec.ofNat 8 e]

/-! ### Packets out (R308, R309) -/

/-- One block in a packet: its index in the round, COUNT, its head byte (RRESULT), its body, OVF, NF. -/
structure Item where
  i : Nat
  cnt : Nat := 0
  head : List Byte := []
  body : List Byte := []
  ovf : Bool := false
  nf : Bool := false
  deriving DecidableEq, Repr

/-- Containers of a block. -/
def blkBytes (bi12 : Bool) (els : List Int) : List Byte :=
  let cb := if bi12 then 2 else 4
  els.flatMap fun v => leBytes cb (unsigned (8 * cb) v)

/-- The compressed block: bitmap, held containers in position order, padded to 8 bytes (R309). -/
def blkPacked (bi12 : Bool) (b : Blk) : List Byte :=
  let vals := (b.els.zipIdx.filter fun p => bitAt b.mask p.2).map Prod.fst
  let bs := blkBytes bi12 vals
  leBytes 8 b.mask ++ slice bs 0 ((bs.length + 7) / 8 * 8)

/-- A container block as it travels. -/
def Dev.blkItem (d : Dev) (c i cnt : Nat) (b : Blk) : Item :=
  let bi12 := (d.ctx c).bi12
  { i := i, cnt := cnt, body := if d.ctxCmp c then blkPacked bi12 b else blkBytes bi12 b.els,
    ovf := b.ovf, nf := b.nf }

/-- Largest NB of a phase (Table 13.3), within LEN where blocks are compressed. -/
def maxNb (phase : Nat) (bi12 cmp : Bool) : Nat :=
  match phase with
  | 0 => 4064
  | 3 => 2032
  | 4 => 7
  | _ => if bi12 then (if cmp then 29 else 31) else 15

/-- PFMT of a phase. -/
def pfmtOf (phase : Nat) (bi12 : Bool) : Nat :=
  match phase with
  | 0 => 3
  | 3 => 3
  | 4 => 2
  | _ => b2n bi12

/-- Cut items into runs of consecutive blocks of one COUNT. -/
def runsOf (n : Nat) : List Item → List (List Item)
  | [] => []
  | x :: xs =>
    match runsOf n xs with
    | [] => [[x]]
    | [] :: rs => [x] :: rs
    | (y :: ys) :: rs =>
      if y.i = x.i + 1 ∧ y.cnt = x.cnt ∧ (y :: ys).length < n then (x :: y :: ys) :: rs
      else [x] :: (y :: ys) :: rs

/-- Block of the tensor that index i of the round names. -/
def Dev.blockOf (d : Dev) (c i : Nat) : Nat :=
  if d.ctxState c = 4 then (d.ctx c).phi.getD i 0 else i

/-- EXPCRC over the agreed bytes of a packet's blocks. -/
def ctxCrc (c : Nat) (is : List Nat) : Eng Nat := do
  let bs ← is.mapM fun i => do ctxAgree c (← askDev fun d => d.blockOf c i)
  return crc32c (bs.map fun b => BitVec.ofNat 8 b)

/-- Bytes of a packet's body. -/
def itemsBody (phase : Nat) (items : List Item) : List Byte :=
  let heads := items.flatMap (·.head)
  (if phase = 5 then slice heads 0 ((heads.length + 15) / 16 * 16) else []) ++ items.flatMap (·.body)

/-- Send one packet to member position `tgt`. -/
def ctxSendRun (c tgt phase : Nat) (items : List Item) : Eng Unit := do
  let d ← askDev id
  let x := d.ctx c
  let cmp := d.ctxCmp c && (phase == 1 || phase == 2)
  let i0 := (items.head?.map (·.i)).getD 0
  let crc ← ctxCrc c (items.map (·.i))
  let bits (f : Item → Bool) : Nat :=
    if phase = 1 ∨ phase = 2 ∨ phase = 5 then items.zipIdx.foldl (fun m p => if f p.1 then m + 2 ^ p.2 else m) 0
    else 0
  let hdr := leBytes 32 (c + phase * 2 ^ 8 + pfmtOf phase x.bi12 * 2 ^ 11 + items.length * 2 ^ 16 +
    d.reg (ctxReg c 0xC) * 2 ^ 32 + i0 * 2 ^ 64 + x.pos * 2 ^ 96 +
    ((items.head?.map (·.cnt)).getD 0) * 2 ^ 112 + bits (·.ovf) * 2 ^ 128 + bits (·.nf) * 2 ^ 160 + crc * 2 ^ 192)
  let h : Hdr :=
    { typ := 7, vc := 1, worldS := x.secure, comp := cmp, form := if cmp then 1 else 0,
      fmt := if cmp then (if x.bi12 then 11 else 10) else 0, job := d.ctxJob c, epoch := d.ctxEpoch c,
      gen := d.ctxGen c, dest := x.members.getD tgt 0 * 2 ^ 48 + (ctxReg c 0 + 256 * (i0 % 2 ^ 20)) % 2 ^ 48,
      tid := c }
  let body := hdr ++ itemsBody phase items
  onDev fun d => (d.tallyPkt c 0 (mkPkt { h with src := d.devId } body)).sendPkt h body

/-- Send items in packets. -/
def ctxSend (c tgt phase : Nat) (items : List Item) : Eng Unit := do
  let d ← askDev id
  (runsOf (maxNb phase (d.ctx c).bi12 (d.ctxCmp c)) items).forM fun r => ctxSendRun c tgt phase r

/-! ### Ring and tree (R305, R306) -/

/-- Indices of the round in progress: all blocks, or those of the re-pitch round. -/
def Dev.roundLen (d : Dev) (c : Nat) : Nat :=
  if d.ctxState c = 4 then (d.ctx c).phi.length else (d.ctx c).nblk

/-- The shard of an index. -/
def Dev.shardOf (d : Dev) (c i : Nat) : Nat := i / max 1 ((d.roundLen c + d.ctxP c - 1) / d.ctxP c)

/-- Indices of a shard. -/
def Dev.shard (d : Dev) (c j : Nat) : List Nat := (List.range (d.roundLen c)).filter fun i => d.shardOf c i == j

/-- Children of a position in the tree. -/
def Dev.ctxKids (d : Dev) (c : Nat) : List Nat :=
  let f := d.ctxFan c
  ((List.range f).map fun k => f * (d.ctx c).pos + 1 + k).filter fun m => m < d.ctxP c

/-- Where results go next: down the tree, or on round the ring up to the member before the owner. -/
def Dev.onward (d : Dev) (c i : Nat) : List Nat :=
  if d.ctxTree c then d.ctxKids c
  else
    let s := ((d.ctx c).pos + 1) % d.ctxP c
    if s = d.shardOf c i ∨ d.ctxP c = 1 then [] else [s]

/-- Send result items to where they go next. -/
def ctxSpread (c phase : Nat) (items : List Item) : Eng Unit := do
  let d ← askDev id
  let dests := (items.flatMap fun it => d.onward c it.i).eraseDups
  dests.forM fun tgt => ctxSend c tgt phase (items.filter fun it => (d.onward c it.i).contains tgt)

/-- This member writes results: every member with RES = ALL, otherwise the one that ends the sum; a relay
never. -/
def Dev.writes (d : Dev) (c : Nat) (ends : Bool) : Bool := !d.ctxRelay c && (d.ctxAll c || ends)

/-- Index i of the round has its result here. -/
def Dev.markDone (d : Dev) (c i : Nat) : Dev := d.modCtx c fun x => { x with done := i :: x.done }

/-- Take the result of a block of the main pass (R310): OVF writes nothing, NF writes exponent 0xFF. -/
def mainResult (c i : Nat) (b : Blk) (ends : Bool) : Eng Unit := do
  let d ← askDev id
  let a ← ctxAgree c i
  let w := d.writes c ends
  let x := d.ctx c
  if b.nf then
    if w then ctxPut c i 255 (List.replicate 64 0)
  else if !b.ovf then
    if w then ctxPut c i a b.els
  let n := if b.nf || b.ovf then a else nextOf x.bi12 (d.regF (ctxReg c 0) 18 4) a a b.els
  onDev fun d => (d.modCtx c fun x =>
    { x with ovf := if b.ovf then i :: x.ovf else x.ovf, nf := if b.nf then i :: x.nf else x.nf
             next := put (fun _ => 0) x.next i n }).markDone c i

/-- SUMMARY bytes of a block: NEXT, then the flags. -/
def summaryItem (i next : Nat) (ovf nf raised : Bool) : Item :=
  { i := i, body := [BitVec.ofNat 8 next, BitVec.ofNat 8 (b2n ovf + 2 * b2n nf + 4 * b2n raised)] }

/-- The sum of main-pass blocks has ended here: results are taken and distributed. -/
def mainEnd (c : Nat) (xs : List (Nat × Blk)) : Eng Unit := do
  xs.forM fun p => mainResult c p.1 p.2 true
  let d ← askDev id
  if d.ctxAll c then ctxSpread c 2 (xs.map fun p => d.blkItem c p.1 0 p.2)
  else ctxSpread c 3 (xs.map fun p =>
    summaryItem p.1 (look (fun _ => 0) (d.ctx c).next p.1) p.2.ovf p.2.nf false)

/-- Take the final result of a re-pitch block: exponent e and containers. -/
def rpResult (c i e : Nat) (els : List Int) (a : Nat) (ends : Bool) : Eng Unit := do
  let d ← askDev id
  let b := d.blockOf c i
  if d.writes c ends then ctxPut c b e els
  let x := d.ctx c
  let n := if e = 255 then a else nextOf x.bi12 (d.regF (ctxReg c 0) 18 4) a e els
  onDev fun d => (d.modCtx c fun x =>
    { x with nf := if e = 255 then b :: x.nf else x.nf
             raised := if e ≠ a then b :: x.raised else x.raised
             next := put (fun _ => 0) x.next b n }).markDone c i

/-- The re-pitch sum of blocks has ended here (R312). -/
def rpEnd (c : Nat) (xs : List (Nat × Blk)) : Eng Unit := do
  let outs ← xs.mapM fun p => do
    let d ← askDev id
    let x := d.ctx c
    let a ← ctxAgree c (d.blockOf c p.1)
    let k := shortfall x.bi12 p.2.els
    let e := if 254 < a + k then 255 else a + k
    let els := if e = 255 then List.replicate 64 0 else p.2.els.map fun s => rneShift s k
    rpResult c p.1 e els a true
    if x.ovlBase + p.1 < d.reg (ctxReg c 0x40) then
      ctxWrite c (d.reg (ctxReg c 0x38) + 16 + 8 * (x.ovlBase + p.1) + 4) [BitVec.ofNat 8 k]
    return (p.1, e, els, k)
  let d ← askDev id
  let x := d.ctx c
  if d.ctxAll c then
    ctxSpread c 5 (outs.map fun (i, e, els, _) =>
      ({ i := i, head := [BitVec.ofNat 8 e], body := blkBytes x.bi12 els, nf := e == 255 } : Item))
  else
    ctxSpread c 3 (outs.map fun (i, e, _, k) =>
      summaryItem i (look (fun _ => 0) x.next (d.blockOf c i)) false (e == 255) (decide (0 < k)))

/-- A[b] of an EXPMAX result (R301). -/
def agreedOf (lift m : Nat) : Nat := if m = 255 then 255 else min 254 (m + lift)

/-- Take the largest byte of a block: A goes to AGREE and to the contribution's exponent array. -/
def expResult (c i m : Nat) : Eng Unit := do
  let d ← askDev id
  let a := agreedOf (d.regF (ctxReg c 0) 14 4) m
  ctxWrite c (d.reg (ctxReg c 0x20) + i) [BitVec.ofNat 8 a]
  if !d.ctxRelay c then ctxWrite c ((d.ctx c).cExp + i) [BitVec.ofNat 8 a]
  onDev (·.markDone c i)

/-- The EXPMAX of blocks has ended here. -/
def expEnd (c : Nat) (xs : List (Nat × Nat)) : Eng Unit := do
  xs.forM fun p => expResult c p.1 p.2
  ctxSpread c 0 (xs.map fun p => { i := p.1, body := [BitVec.ofNat 8 p.2] })

/-! ### Contributions in (R305, R306, R310) -/

/-- Own exponent byte of a block; a relay has none. -/
def ownExp (c i : Nat) : Eng Nat := do
  let d ← askDev id
  if d.ctxRelay c then return 0 else return leNat (← ctxRead c ((d.ctx c).cExp + i) 1)

/-- Own block of the round, wide in the re-pitch round; a relay has none. -/
def ownBlk (c i : Nat) : Eng (Option Blk) := do
  let d ← askDev id
  if d.ctxRelay c then return none else return some (← ctxLocal c (d.blockOf c i))

/-- Add to a sum: exactly in the re-pitch round, otherwise in containers, counting an overflow. -/
def joinBlk (c : Nat) (x y : Blk) : Eng Blk := do
  let d ← askDev id
  if d.ctxState c = 4 then return addWide x y
  else
    let r := addBlk (d.ctx c).bi12 x y
    if r.2 then onDev (·.bump (rdxReg c 0x130) 1)
    return r.1

/-- An arriving sum and this member's own block: a block with OVF set passes on, and the local copy is not
read (R310). -/
def joinOwn (c i : Nat) (x : Blk) : Eng Blk := do
  if x.ovf then return x
  match ← ownBlk c i with
  | some y => joinBlk c x y
  | none => return x

/-- Item of a sum in progress. -/
def Dev.sumItem (d : Dev) (c i cnt : Nat) (b : Blk) : Item :=
  if d.ctxState c = 4 then { i := i, cnt := cnt, body := b.els.flatMap fun v => leBytes 8 (unsigned 64 v) }
  else d.blkItem c i cnt b

/-- The phase of sums in the round in progress. -/
def Dev.sumPhase (d : Dev) (c : Nat) : Nat := if d.ctxState c = 4 then 4 else if d.ctxState c = 1 then 0 else 1

/-- End the sum of blocks, by round. -/
def roundEnd (c : Nat) (xs : List (Nat × Blk)) : Eng Unit := do
  if (← askDev (·.ctxState c)) = 4 then rpEnd c xs else mainEnd c xs

/-- Sums of a ring arrive: the owner ends them, another member adds its own and forwards. -/
def ringSums (c : Nat) (xs : List (Nat × Nat × Blk)) : Eng Unit := do
  let outs ← xs.mapM fun (i, cnt, b) => do return (i, cnt + 1, ← joinOwn c i b)
  let d ← askDev id
  let pos := (d.ctx c).pos
  let mine := outs.filter fun p => d.shardOf c p.1 == pos
  roundEnd c (mine.map fun p => (p.1, p.2.2))
  ctxSend c ((pos + 1) % d.ctxP c) (d.sumPhase c)
    ((outs.filter fun p => d.shardOf c p.1 != pos).map fun (i, cnt, b) => d.sumItem c i cnt b)

/-- A child's block is added; when every child has been heard, the own block is added and the sum is
complete. -/
def treeOne (c i cnt : Nat) (b : Blk) : Eng (Option (Nat × Nat × Blk)) := do
  let d ← askDev id
  let x := d.ctx c
  let n := look (fun _ => 0) x.heard i + 1
  let s ← if n = 1 then pure b else joinBlk c (look (fun _ => {}) x.sums i) b
  let total := look (fun _ => 0) x.counts i + cnt
  if n < (d.ctxKids c).length then
    onDev fun d => d.modCtx c fun x =>
      { x with heard := put (fun _ => 0) x.heard i n, sums := put (fun _ => {}) x.sums i s
               counts := put (fun _ => 0) x.counts i total }
    return none
  else
    onDev fun d => d.modCtx c fun x =>
      { x with heard := dropAt i x.heard, sums := dropAt i x.sums, counts := dropAt i x.counts }
    let s ← joinOwn c i s
    return some (i, total + b2n (!d.ctxRelay c), s)

/-- Sums of a tree arrive from a child. -/
def treeSums (c : Nat) (xs : List (Nat × Nat × Blk)) : Eng Unit := do
  let outs ← xs.mapM fun (i, cnt, b) => treeOne c i cnt b
  let full := outs.filterMap id
  let d ← askDev id
  let pos := (d.ctx c).pos
  if pos = 0 then roundEnd c (full.map fun p => (p.1, p.2.2))
  else ctxSend c ((pos - 1) / d.ctxFan c) (d.sumPhase c) (full.map fun (i, cnt, b) => d.sumItem c i cnt b)

/-- Exponent maxima of a ring arrive on their way to the owner. -/
def ringExp (c : Nat) (xs : List (Nat × Nat)) : Eng Unit := do
  let outs ← xs.mapM fun (i, m) => do return (i, max m (← ownExp c i))
  let d ← askDev id
  let pos := (d.ctx c).pos
  expEnd c (outs.filter fun p => d.shardOf c p.1 == pos)
  ctxSend c ((pos + 1) % d.ctxP c) 0
    ((outs.filter fun p => d.shardOf c p.1 != pos).map fun p => { i := p.1, body := [BitVec.ofNat 8 p.2] })

/-- A child's exponent byte of a block. -/
def treeExpOne (c i m : Nat) : Eng (Option (Nat × Nat)) := do
  let d ← askDev id
  let x := d.ctx c
  let n := look (fun _ => 0) x.heard i + 1
  let m := max m (look (fun _ => 0) x.emax i)
  if n < (d.ctxKids c).length then
    onDev fun d => d.modCtx c fun x =>
      { x with heard := put (fun _ => 0) x.heard i n, emax := put (fun _ => 0) x.emax i m }
    return none
  else
    onDev fun d => d.modCtx c fun x => { x with heard := dropAt i x.heard, emax := dropAt i x.emax }
    return some (i, max m (← ownExp c i))

/-- Exponent maxima of a tree arrive from a child. -/
def treeExp (c : Nat) (xs : List (Nat × Nat)) : Eng Unit := do
  let outs ← xs.mapM fun (i, m) => treeExpOne c i m
  let full := outs.filterMap id
  let d ← askDev id
  let pos := (d.ctx c).pos
  if pos = 0 then expEnd c full
  else ctxSend c ((pos - 1) / d.ctxFan c) 0 (full.map fun p => { i := p.1, body := [BitVec.ofNat 8 p.2] })

/-! ### Phases of a context (R301, R307, R311, R314) -/

/-- What a member sends of its own accord at the start of a round: its shard to the next in the ring, a
leaf's blocks to its parent; a lone member ends every block itself. -/
def roundStart (c : Nat) : Eng Unit := do
  let d ← askDev id
  let x := d.ctx c
  let p := d.ctxP c
  let all := List.range (d.roundLen c)
  let tgt := if d.ctxTree c then (x.pos - 1) / d.ctxFan c else (x.pos + 1) % p
  let own := if p = 1 then all
    else if d.ctxTree c then (if (d.ctxKids c).isEmpty then all else [])
    else d.shard c ((x.pos + p - 1) % p)
  if d.ctxState c = 1 then
    let xs ← own.mapM fun i => do return (i, ← ownExp c i)
    if p = 1 then expEnd c xs
    else ctxSend c tgt 0 (xs.map fun q => ({ i := q.1, body := [BitVec.ofNat 8 q.2] } : Item))
  else
    let xs ← own.mapM fun i => do return (i, (← ownBlk c i).getD {})
    if p = 1 then roundEnd c xs
    else ctxSend c tgt (d.sumPhase c) (xs.map fun q => d.sumItem c q.1 1 q.2)

/-- The main pass is complete: the flagged blocks go to the overflow list and the re-pitch round begins, or
the fence. -/
def mainComplete (c : Nat) : Eng Bool := do
  let d ← askDev id
  let x := d.ctx c
  let phi := (List.range x.nblk).filter fun b => x.ovf.contains b && !x.nf.contains b
  let ovl := d.reg (ctxReg c 0x38)
  let base ← if phi.isEmpty then pure 0 else do pure (leNat (← ctxRead c ovl 4))
  if !phi.isEmpty then
    ctxWrite c ovl (leBytes 4 (base + phi.length))
    phi.zipIdx.forM fun (b, k) =>
      if base + k < d.reg (ctxReg c 0x40) then ctxWrite c (ovl + 16 + 8 * (base + k)) (leBytes 8 b) else pure ()
  onDev fun d => d.modCtx c fun x => { x with phi := phi, ovlBase := base, done := [], got := [] }
  if phi.isEmpty then return false
  else
    onDev fun d => (d.setCtxState c 4).bump (rdxReg c 0x138) 1
    roundStart c
    return true

/-- A member's share is complete: it tells m_0 (R314). -/
def Dev.fenceStart (d : Dev) (c : Nat) : Dev :=
  let x := d.ctx c
  let d1 := (d.setCtxState c 5).modCtx c fun x => { x with fenced := true }
  let d2 := if x.pos = 0 then d1.bump (ctxReg c 0x60) 1
    else d1.ctxPeg c (x.members.getD 0 0) (ctxReg c 0x60)
  let r := d2.fenceTest c
  match r.2 with
  | some p => r.1.signalCamp p 1 (d.ctxIdent c)
  | none => r.1

/-- Move to the next phase when every index of the round is done here. Three phases can end at once. -/
def ctxAdvance (c : Nat) : Nat → Eng Unit
  | 0 => pure ()
  | k + 1 => do
    let d ← askDev id
    if d.roundLen c ≤ (d.ctx c).done.length then
      match d.ctxState c with
      | 1 =>
        onDev fun d => ((d.setCtxState c 2).modCtx c fun x => { x with done := [] }).signalCamp
          (d.reg (ctxReg c 0x58)) 1 (d.ctxIdent c)
      | 3 =>
        if ← mainComplete c then ctxAdvance c k else onDev (·.fenceStart c)
      | 4 => onDev (·.fenceStart c)
      | _ => pure ()

/-- Run what a context does; a fault ends the context. -/
def Dev.ctxRun (d : Dev) (c : Nat) (work : Eng Unit) : Dev :=
  match work.run { dev := d } with
  | (.error (.fault cause addr), s) => s.dev.ctxFault c cause addr
  | (_, s) => s.dev

/-! ### Arriving packets (R308, R315) -/

/-- The reduction header of a packet (Table 13.2). -/
structure RedHdr where
  ctx : Nat
  phase : Nat
  pfmt : Nat
  nb : Nat
  step : Nat
  block0 : Nat
  from_ : Nat
  count : Nat
  ovf : Nat
  nf : Nat
  crc : Nat
  reserved : Bool
  deriving DecidableEq, Repr

/-- Read it. -/
def redHdrOf (pkt : List Byte) : RedHdr :=
  let x := leAt pkt 32 32
  { ctx := field x 0 6, phase := field x 8 3, pfmt := field x 11 2, nb := field x 16 16, step := field x 32 32,
    block0 := field x 64 32, from_ := field x 96 10, count := field x 112 16, ovf := field x 128 32,
    nf := field x 160 32, crc := field x 192 32,
    reserved := field x 6 2 != 0 || field x 13 3 != 0 || field x 106 6 != 0 || field x 224 32 != 0 }

/-- What to do with an arriving packet before check 5. -/
inductive RedFate where
  | discard (counter : Nat)
  | wait
  | go
  deriving DecidableEq, Repr

/-- Checks 1 to 4 of Table 13.4, and the waits of R307: a packet of a later phase than the context has
reached waits. -/
def Dev.redFate (d : Dev) (pkt : List Byte) : RedFate :=
  let h := hdrOf pkt
  let r := redHdrOf pkt
  let cs := d.jobCtxs h.job
  let own := h.job == d.job
  let gen := if own then d.gen else (cs.head?.map d.ctxGen).getD 0
  let epoch := if own then d.epoch else (cs.head?.map d.ctxEpoch).getD 0
  if !own && cs.isEmpty then .discard 0x108
  else if h.gen ≠ gen then .discard 0x110
  else if h.epoch ≠ epoch then
    if own && d.regF identAddr 26 1 == 1 && h.epoch == (d.epoch + 1) % 16 then .wait else .discard 0x118
  else if !cs.contains r.ctx then .wait
  else
    let diff := signed 32 (r.step + 2 ^ 32 - d.reg (ctxReg r.ctx 0xC))
    if 0 < diff then .wait
    else if diff < 0 then .discard 0x120
    else
      let s := d.ctxState r.ctx
      if (r.phase = 1 ∧ (s = 1 ∨ s = 2)) ∨ ((r.phase = 4 ∨ r.phase = 5) ∧ s = 3) then .wait else .go

/-- Contributions below a position in the tree, at most. -/
def subtree (f p : Nat) : Nat → Nat → Nat
  | 0, _ => 0
  | fuel + 1, i =>
    if p ≤ i then 0 else 1 + ((List.range f).map fun k => subtree f p fuel (f * i + 1 + k)).sum

/-- The packet comes from the expected neighbour and is of the expected phase; true in the second part when it
brings results. -/
def Dev.redExpected (d : Dev) (c : Nat) (r : RedHdr) : Option Bool :=
  let x := d.ctx c
  let p := d.ctxP c
  let s := d.ctxState c
  let fromPrev := r.from_ == (x.pos + p - 1) % p && p != 1
  let fromKid := (d.ctxKids c).contains r.from_
  let fromParent := x.pos != 0 && r.from_ == (x.pos - 1) / d.ctxFan c
  let up := if d.ctxTree c then fromKid else fromPrev
  let down := if d.ctxTree c then fromParent else fromPrev
  let sh := d.shardOf c r.block0
  -- in the EXPMAX pass of a ring a block comes to most members twice: the second time it is the result
  let again := x.got.contains (r.from_ * 2 ^ 32 + r.block0) || sh == (x.pos + p - 1) % p
  match s, r.phase with
  | 1, 0 => if d.ctxTree c then (if fromKid then some false else if fromParent then some true else none)
      else if fromPrev then some again else none
  | 3, 1 => if up then some false else none
  | 3, 2 => if down && d.ctxAll c then some true else none
  | 3, 3 => if down && !d.ctxAll c then some true else none
  | 4, 4 => if up then some false else none
  | 4, 5 => if down && d.ctxAll c then some true else none
  | 4, 3 => if down && !d.ctxAll c then some true else none
  | _, _ => none

/-- Key of a block's arrival: an EXPMAX result apart from the sum before it. -/
def gotKey (phase from_ i : Nat) (res : Bool) : Nat :=
  (if phase = 0 && res then 6 else phase) * 2 ^ 48 + from_ * 2 ^ 32 + i

/-- Check 5 of Table 13.4. -/
def Dev.redProtocol (d : Dev) (c : Nat) (r : RedHdr) (res : Bool) : Bool :=
  let x := d.ctx c
  let p := d.ctxP c
  let is := (List.range r.nb).map (r.block0 + ·)
  !r.reserved && decide (1 ≤ r.nb) && decide (r.nb ≤ maxNb r.phase x.bi12 false) &&
    r.pfmt == pfmtOf r.phase x.bi12 && decide (r.block0 + r.nb ≤ d.roundLen c) &&
    is.all (fun i =>
      let j := d.shardOf c i
      !x.got.contains (gotKey r.phase r.from_ i res) &&
        (d.ctxTree c || (if res then j != x.pos else j != (x.pos + p - 1) % p)) &&
        (if r.phase = 1 ∨ r.phase = 4 then
          (if d.ctxTree c then decide (1 ≤ r.count) && decide (r.count ≤ subtree (d.ctxFan c) p 1024 r.from_)
          else r.count == (x.pos + p - (j + 1) % p) % p)
        else r.count == 0))

/-- Blocks of an uncompressed body. -/
def plainBlks (bi12 : Bool) (r : RedHdr) (body : List Byte) : List (Nat × Blk) :=
  let cb := if bi12 then 2 else 4
  (List.range r.nb).map fun n =>
    let els := (List.range 64).map fun k => signed (8 * cb) (leAt body ((64 * n + k) * cb) cb)
    (r.block0 + n, ⟨els, 2 ^ 64 - 1, bitAt r.ovf n, bitAt r.nf n⟩)

/-- Blocks of a compressed body; none where one breaks its form (R309). -/
def packedBlks (bi12 : Bool) (r : RedHdr) (len : Nat → Nat) : Nat → List Byte → Option (List (Nat × Blk))
  | 0, body => if body.isEmpty then some [] else none
  | k + 1, body =>
    let cb := if bi12 then 2 else 4
    let n := r.nb - (k + 1)
    let mask := leAt body 0 8
    let held := (List.range 64).filter fun i => bitAt mask i
    let size := 8 + (held.length * cb + 7) / 8 * 8
    if body.length < size ∨ 2 ^ len (r.block0 + n) ≤ mask then none
    else
      let els := (List.range 64).map fun i =>
        match held.findIdx? (· == i) with
        | some q => signed (8 * cb) (leAt body (8 + q * cb) cb)
        | none => 0
      (packedBlks bi12 r len k (body.drop size)).map fun xs =>
        (r.block0 + n, ⟨els, mask, bitAt r.ovf n, bitAt r.nf n⟩) :: xs

/-- Wide blocks. -/
def wideBlks (r : RedHdr) (body : List Byte) : List (Nat × Blk) :=
  (List.range r.nb).map fun n =>
    (r.block0 + n, { els := (List.range 64).map fun k => signed 64 (leAt body ((64 * n + k) * 8) 8) })

/-- Body bytes that NB blocks of a phase take, uncompressed. -/
def bodyLen (phase nb : Nat) (bi12 : Bool) : Nat :=
  let cb := if bi12 then 128 else 256
  match phase with
  | 0 => nb
  | 3 => 2 * nb
  | 4 => 512 * nb
  | 5 => (nb + 15) / 16 * 16 + cb * nb
  | _ => cb * nb

/-- Container blocks of a MAIN or RESULT packet. -/
def redBlks (d : Dev) (c : Nat) (h : Hdr) (r : RedHdr) (body : List Byte) : Eng (List (Nat × Blk)) := do
  let x := d.ctx c
  if d.ctxCmp c then
    need (h.comp && h.form == 1) 0x10 0
    match packedBlks x.bi12 r x.blkLen r.nb body with
    | some xs => return xs
    | none => failWith 0x10 0
  else
    need (!h.comp) 0x10 0
    need (body.length == bodyLen r.phase r.nb x.bi12) 0x11 0
    return plainBlks x.bi12 r body

/-- Act on an accepted packet. -/
def redAct (c : Nat) (h : Hdr) (r : RedHdr) (res : Bool) (body : List Byte) : Eng Unit := do
  let d ← askDev id
  let x := d.ctx c
  let is := (List.range r.nb).map (r.block0 + ·)
  if r.phase ≠ 1 ∧ r.phase ≠ 2 then
    need (!h.comp) 0x10 0
    need (body.length == bodyLen r.phase r.nb x.bi12) 0x11 0
  match r.phase with
  | 0 =>
    let xs := is.zipIdx.map fun (i, n) => (i, leAt body n 1)
    if res then
      xs.forM fun p => expResult c p.1 p.2
      ctxSpread c 0 (xs.map fun p => { i := p.1, body := [BitVec.ofNat 8 p.2] })
    else if d.ctxTree c then treeExp c xs else ringExp c xs
  | 1 =>
    let xs ← redBlks d c h r body
    let ys := xs.map fun p => (p.1, r.count, p.2)
    if d.ctxTree c then treeSums c ys else ringSums c ys
  | 2 =>
    let xs ← redBlks d c h r body
    xs.forM fun p => mainResult c p.1 p.2 false
    ctxSpread c 2 (xs.map fun p => d.blkItem c p.1 0 p.2)
  | 3 =>
    is.zipIdx.forM fun (i, n) => do
      let d ← askDev id
      let b := d.blockOf c i
      let f := leAt body (2 * n + 1) 1
      need (decide (f < 8)) 0x11 i
      onDev fun d => (d.modCtx c fun x =>
        { x with next := put (fun _ => 0) x.next b (leAt body (2 * n) 1)
                 ovf := if bitAt f 0 && r.phase == 3 && d.ctxState c == 3 then b :: x.ovf else x.ovf
                 nf := if bitAt f 1 then b :: x.nf else x.nf
                 raised := if bitAt f 2 then b :: x.raised else x.raised }).markDone c i
    ctxSpread c 3 (is.zipIdx.map fun (i, n) => { i := i, body := slice body (2 * n) 2 })
  | 4 =>
    let ys := (wideBlks r body).map fun p => (p.1, r.count, p.2)
    if d.ctxTree c then treeSums c ys else ringSums c ys
  | _ =>
    let off := (r.nb + 15) / 16 * 16
    let xs := plainBlks x.bi12 r (body.drop off)
    xs.zipIdx.forM fun (p, n) => do
      let d ← askDev id
      let a ← ctxAgree c (d.blockOf c p.1)
      rpResult c p.1 (leAt body n 1) p.2.els a false
    ctxSpread c 5 (xs.zipIdx.map fun (p, n) =>
      { i := p.1, head := slice body n 1, body := blkBytes x.bi12 p.2.els, nf := leAt body n 1 == 255 })

/-- The flits of sums that an adder takes ask its lanes, one grant each (Table 16.4). DESIGN CHOICE: flit k of a packet
goes to lane k mod 24, and a context asks as the number of its slot. -/
def Dev.adderGrants (d : Dev) (c flits : Nat) : Dev :=
  (List.range flits).foldl (fun (d : Dev) k =>
    (d.grant (dieReg (6 + c / 32) (0x1300_0000 + 0x1000 * (24 + k % 24))) [c % 32]).1) d

/-- Checks 5 and 6, then the packet is accepted, counted, added to the tally and acted on. -/
def redTake (c : Nat) (pkt : List Byte) : Eng Unit := do
  let h := hdrOf pkt
  let r := redHdrOf pkt
  let d ← askDev id
  match d.redExpected c r with
  | none => failWith 0x11 r.block0
  | some res =>
    need (d.redProtocol c r res) 0x11 r.block0
    if r.phase ≠ 0 then
      need ((← ctxCrc c ((List.range r.nb).map (r.block0 + ·))) == r.crc) 0x12 r.block0
    onDev fun d => ((d.bump (rdxReg c 0x100) 1).tallyPkt c 2 pkt).modCtx c fun x =>
      { x with pkts := x.pkts + 1
               got := (List.range r.nb).map (fun n => gotKey r.phase r.from_ (r.block0 + n) res) ++ x.got }
    if r.phase = 1 ∨ r.phase = 4 then onDev (·.adderGrants c (pktFlits h.len))
    redAct c h r res (slice pkt 64 (h.len - 32))
    ctxAdvance c 3

/-- An arriving or waiting REDUCE packet (R315). -/
def Dev.redOne (d : Dev) (pkt : List Byte) : Dev :=
  let c := (redHdrOf pkt).ctx
  match d.redFate pkt with
  | .discard o => d.bump (rdxReg c o) 1
  | .wait => { d with waitPkts := d.waitPkts ++ [pkt] }
  | .go => d.ctxRun c (redTake c pkt)

/-- Packets that wait are checked again, as often as one of them may have let another go. -/
def Dev.recheck (d : Dev) : Nat → Dev
  | 0 => d
  | k + 1 =>
    let ps := d.waitPkts
    let d1 : Dev := ps.foldl (fun (d : Dev) p => d.redOne p) { d with waitPkts := [] }
    if d1.waitPkts = ps then d1 else d1.recheck k

/-- Check the waiting packets again. -/
def Dev.recheckAll (d : Dev) : Dev := d.recheck (d.waitPkts.length + 1)

/-- REDUCE_PACKET (R315), in the order of its link (R276). -/
def execReducePacket (l : BitVec 6) (pkt : List Byte) : State → Out :=
  lift fun d =>
    if (hdrOf pkt).typ ≠ 7 then d else if !d.turnOf l.toNat pkt then d.await l.toNat pkt else ((d.consume l.toNat pkt).redOne pkt).recheckAll

/-- OPEN_WAIT_TIMEOUT (R315): waiting packet i is discarded, counted and logged with its JOB. One that an
open context will take in a later phase (R307) does not time out. -/
def execOpenWaitTimeout (i : Nat) : State → Out :=
  lift fun d =>
    match d.waitPkts[i]? with
    | none => d
    | some p =>
      let r := redHdrOf p
      let c := r.ctx
      if (d.jobCtxs (hdrOf p).job).contains c ∧ r.step = d.reg (ctxReg c 0xC) then d
      else
        ({ d with waitPkts := dropNth d.waitPkts i }.bump (rdxReg c 0x128) 1).dieErr (6 + c / 32) 0 0x0D
          clsCorrected 0x30 { tag := (hdrOf p).job }

/-! ### GO (R299, R304, R320) -/

/-- A tensor descriptor of R299; a relay's contribution names only FMT and DIM[0]. -/
def Dev.tensorOk (d : Dev) (v : Desc) (secure : Bool) : Bool :=
  !v.bad false && !v.worldBad secure && (v.fmt == 10 || v.fmt == 11) && v.form == 0 && v.layout == 0 &&
    v.rank == 1 && v.stride 0 == 1 && !v.plot && !v.accum && decide (v.dim 0 ≤ 2 ^ 34) &&
    (match d.place v.base with
      | .here a => (regionOf a == .hbm || regionOf a == .lpddr) && v.rangeOk
      | _ => false)

/-- Some byte lies in two of the ranges. -/
def rangesOverlap : List (Nat × Nat) → Bool
  | [] => false
  | (a, n) :: rs => (rs.any fun (b, m) => decide (a < b + m) && decide (b < a + n)) || rangesOverlap rs

/-- Bytes of reduction buffer a context takes: its bitmap, and one packet for each sender. -/
def Dev.ctxBuffer (d : Dev) (c nblk : Nat) : Nat := (nblk + 7) / 8 + 4096 * (d.ctxFan c + 1)

/-- The checks of GO, in this order: FIELD, WORLD, DESC, MEMBERS, OVERLAP, BUFFER; what the context takes. -/
def goCheck (c : Nat) (secure : Bool) : Eng Ctx := do
  let d ← askDev id
  let f := fun l w => d.regF (ctxReg c 0) l w
  need (decide (f 2 2 < 2) && f 4 2 != 3) 0x07 0
  need (secure || (!d.ctxRelay c && d.ctxJob c == d.job)) 0x06 0
  let addr := fun o => d.reg (ctxReg c o)
  need (addr 0x10 % 64 == 0 && (d.ctxRelay c || addr 0x18 % 64 == 0) &&
    [0x20, 0x28, 0x30, 0x38, 0x48].all fun o => addr o % 16 == 0) 0x01 0
  onDev fun d => d.modCtx c fun _ => { secure := secure }
  let cv := descOf (← ctxRead c (addr 0x10) 64)
  let rv ← if d.ctxRelay c then pure cv else do pure (descOf (← ctxRead c (addr 0x18) 64))
  let nblk := (cv.dim 0 + 63) / 64
  if d.ctxRelay c then need (cv.fmt == 10 || cv.fmt == 11) 0x01 (addr 0x10)
  else need (d.tensorOk cv secure && d.tensorOk rv secure && cv.fmt == rv.fmt && cv.dim 0 == rv.dim 0) 0x01 (addr 0x10)
  need (decide (nblk ≤ 2 ^ 28)) 0x01 (addr 0x10)
  let p := d.ctxP c
  need (decide (1 ≤ p) && decide (p ≤ 1024)) 0x02 0
  let ms ← (List.range p).mapM fun i => do return leNat (← ctxRead c (addr 0x30 + 2 * i) 2)
  let pos := ms.findIdx (· == d.devId)
  let fan := d.ctxFan c
  need (ms.all (fun m => decide (m < 1024) && (m == d.devId || d.camp.contains m)) && ms.eraseDups.length == p &&
    decide (pos < p) && (!d.ctxTree c || (decide (2 ≤ fan) && decide (fan ≤ 24))) &&
    (!d.ctxRelay c || (d.ctxTree c && decide (fan * pos + 1 < p)))) 0x02 (addr 0x30)
  let cb := if cv.fmt = 11 then 2 else 4
  let a := cv.base % 2 ^ 48
  let b := rv.base % 2 ^ 48
  if !d.ctxRelay c then
    need (!rangesOverlap [(a, cv.dim 0 * cb), (a + cv.metaOff, nblk), (b, rv.dim 0 * cb), (b + rv.metaOff, nblk)])
      0x03 (addr 0x10)
  let used := ((d.openCtxs.filter fun k => k / 32 == c / 32 && k != c).map fun k =>
    d.ctxBuffer k (d.ctx k).nblk).sum
  need (decide (used + d.ctxBuffer c nblk ≤ 2 ^ 27)) 0x04 0
  return { secure := secure, members := ms, pos := pos, nblk := nblk, bi12 := cv.fmt == 11, dim := cv.dim 0,
           cBase := a, cExp := a + cv.metaOff, rBase := b, rExp := b + rv.metaOff }

/-- GO on a closed context: it takes EPOCH and GEN and its first round begins; P = 1 copies. -/
def goOpen (c : Nat) (secure : Bool) : Eng Unit := do
  let x ← goCheck c secure
  onDev fun d =>
    (((d.modCtx c fun _ => { x with marks := d.linkMarks }).setRegF (ctxReg c 4) 12 4 d.epoch).setRegF (ctxReg c 4) 16 8 d.gen).setReg
      (ctxReg c 0x60) 0
  let pre := (← askDev (·.regF (ctxReg c 0) 4 2)) == 1
  onDev (·.setCtxState c (if pre then 1 else 3))
  roundStart c
  ctxAdvance c 3

/-- GO on a context in AGREED: the main pass begins (R301). -/
def goOn (c : Nat) : Eng Unit := do
  onDev (·.setCtxState c 3)
  roundStart c
  ctxAdvance c 3

/-- A write of GO (R304, R319, R320). -/
def Dev.ctxGo (d : Dev) (c : Nat) (secure : Bool) : Dev :=
  match d.ctxState c with
  | 0 =>
    if d.regF identAddr 26 1 = 1 ∧ d.ctxJob c = d.job then
      { d with heldGo := d.heldGo ++ [c + 64 * b2n secure] }
    else (d.ctxRun c (goOpen c secure)).recheckAll
  | 2 => (d.ctxRun c (goOn c)).recheckAll
  | _ => (d.ctxFault c 0x05 0).recheckAll

/-- GO (R304). -/
def execGo (c : BitVec 6) (w : Writer) : State → Out := asWriter w fun w => lift (·.ctxGo c.toNat w.secure)

/-- PROGRESS_TIMEOUT (R320): a context open and not AGREED faults. -/
def execProgressTimeout (c : BitVec 6) : State → Out :=
  lift fun d =>
    let s := d.ctxState c.toNat
    if s = 0 ∨ s = 2 then d else (d.ctxFault c.toNat 0x13 0).recheckAll

/-! ### Identity (R298, R318, R319) -/

/-- A write to RDX_IDENT by a non-secure requester (R6). -/
def Dev.identRefused (d : Dev) : Dev := d.dieErr 6 0 0x0D clsCorrected 0x31 { addr := identAddr }

/-- A write of JOB: EPOCH and GEN become 0; discarded while a context of the job in force is open. -/
def Dev.jobWrite (d : Dev) (w : Writer) (job : Nat) : Dev :=
  if !w.secure then d.identRefused
  else if !(d.jobCtxs d.job).isEmpty then d
  else d.setRegF identAddr 0 24 job

/-- A write of CANCEL: GEN advances; packs, expert units, guylines and contexts follow (R183, R209, R318,
R376). -/
def Dev.cancel (d : Dev) : Dev :=
  { d.setRegF identAddr 16 8 (d.gen + 1) with packGenClr := true, expertGenClr := true, gylGenClr := true }

/-- JOB_WRITE (R298). -/
def execJobWrite (w : Writer) (job : BitVec 12) : State → Out := asWriter w fun w => lift (·.jobWrite w job.toNat)

/-- CANCEL (R298). -/
def execCancel (w : Writer) : State → Out := asWriter w fun w => lift fun d => if w.secure then d.cancel else d.identRefused

/-- CONTEXT_CANCEL (R318): the open contexts of the job whose GEN is no longer in force close CANCELLED. -/
def Dev.contextCancel (d : Dev) : Dev :=
  ((d.jobCtxs d.job).filter fun c => d.ctxGen c ≠ d.gen).foldl (fun d c => d.ctxEnd c 1 0) d |>.recheckAll

/-- CONTEXT_CANCEL. -/
def execContextCancel : State → Out := lift (·.contextCancel)

/-- RESHARD (R319). -/
def execReshard (w : Writer) : State → Out :=
  asWriter w fun w => lift fun d => if w.secure then d.setRegF identAddr 26 1 1 else d.identRefused

/-- The epoch advances, the directory is rewritten for it (R210), held GOs open, waiting packets are checked again. -/
def Dev.reshardEnd (d : Dev) : Dev :=
  let d0 := match d.jobHere with
    | some j => d.placeAll (Config.imageEntriesAt j.image ((d.epoch + 1) % 16))
    | none => d
  let d1 := { (d0.setRegF identAddr 26 1 0).setRegF identAddr 12 4 (d.epoch + 1) with heldGo := [] }
  (d.heldGo.foldl (fun d g => d.ctxGo (g % 64) (g / 64 == 1)) d1).recheckAll

/-- RESHARD_COMPLETE (R319): every context of the job has closed. -/
def execReshardComplete : State → Out :=
  lift fun d =>
    if d.regF identAddr 26 1 = 1 ∧ (d.jobCtxs d.job).isEmpty then d.reshardEnd else d

/-- RESHARD_DRAIN_TIMEOUT (R319): contexts still open close RESHARD, and the step is CONTAINED. -/
def execReshardDrainTimeout : State → Out :=
  lift fun d =>
    if d.regF identAddr 26 1 = 0 then d
    else
      let cs := d.jobCtxs d.job
      let d1 := cs.foldl (fun d c => d.ctxEnd c 2 0) d
      (if cs.isEmpty then d1 else d1.dieErr 6 0 0x0D clsContained 0x32 {}).reshardEnd

end Sys2Proof.Machine
end

