-- ==== Sys2Proof/Machine/Func.lean ====
section
/-! DEFINITION. The function steps of the vector engine (R160): a result within one ulp of the exact value.
The exact value is enclosed in fixed point with 512 fraction bits; which of the FP32 values within one ulp
the engine gives is `Config.funcChoice`. Division and the square roots are exact quotients and roots with a
sticky bit, rounded once. -/

namespace Sys2Proof.Machine

/-- Fraction bits of the fixed point. -/
def fxBits : Nat := 512
/-- One. -/
def fxOne : Int := 2 ^ fxBits

/-- Product of fixed-point numbers. -/
def fxMul (a b : Int) : Int := a * b / fxOne
/-- Quotient. -/
def fxDiv (a b : Int) : Int := a * fxOne / b

/-- Σ term, where each term is the last × x / k for k rising (exponential series). -/
def expSeries (x : Int) : Nat → Nat → Int → Int → Int
  | 0, _, _, acc => acc
  | n + 1, k, t, acc =>
    let u := fxMul t x / (k : Int)
    expSeries x n (k + 1) u (acc + u)

/-- e^x - 1 for |x| ≤ 1. -/
def fxExpm1 (x : Int) : Int := expSeries x 110 1 fxOne 0

/-- Σ z^(2k+1) / (2k+1), with sign alternating when s = -1: atanh or atan. -/
def oddSeries (s z2 : Int) : Nat → Nat → Int → Int → Int
  | 0, _, _, acc => acc
  | n + 1, k, p, acc =>
    oddSeries s z2 n (k + 2) (s * fxMul p z2) (acc + p / (k : Int))

/-- atanh z for |z| ≤ 1/3. -/
def fxAtanh (z : Int) : Int := oddSeries 1 (fxMul z z) 170 1 z 0
/-- atan(1/n). -/
def fxAtanInv (n : Int) : Int := let z := fxOne / n; oddSeries (-1) (fxMul z z) 120 1 z 0

/-- ln 2 = 2 atanh(1/3). -/
def fxLn2 : Int := 2 * fxAtanh (fxOne / 3)
/-- π by Machin's formula. -/
def fxPi : Int := 16 * fxAtanInv 5 - 4 * fxAtanInv 239

/-- A value m × 2^e in fixed point (floor). -/
def toFx (x : Num) : Int :=
  match x with
  | .fin s m e => floorScale (sgnInt s m) (e + fxBits)
  | _ => 0

/-- A real value: a fixed-point number times a power of two, and whether it is exact. -/
structure Real_ where
  n : Int
  k : Int := 0
  exact : Bool := false
  deriving DecidableEq, Repr

/-- e^y for a fixed-point y: 2^q × e^r with r = y - q ln 2. -/
def fxExp (y : Int) : Real_ :=
  let q := (y + fxLn2 / 2) / fxLn2
  { n := fxOne + fxExpm1 (y - q * fxLn2), k := q }

/-- ln of a positive value m × 2^e. -/
def fxLn (m : Nat) (e : Int) : Int :=
  let b : Int := (bitLen m : Int) - 1
  let x := floorScale (m : Int) ((fxBits : Int) - b)
  2 * fxAtanh (fxDiv (x - fxOne) (x + fxOne)) + (b + e) * fxLn2

/-- Σ (-1)^n x^(2n+1) / (n! (2n+1)). -/
def erfSeries (x2 : Int) : Nat → Nat → Int → Int → Int
  | 0, _, _, acc => acc
  | n + 1, k, p, acc =>
    erfSeries x2 n (k + 1) (-(fxMul p x2) / ((k + 1 : Nat) : Int)) (acc + p / ((2 * k + 1 : Nat) : Int))

/-- erf x for |x| ≤ 6. -/
def fxErf (x : Int) : Int :=
  let s := (isqrt ((fxPi * fxOne).toNat) : Int)
  fxDiv (2 * erfSeries (fxMul x x) 400 0 x 0) s

/-- Clamp a value's size: functions of larger arguments are at their limits. -/
def clampFx (x lim : Int) : Int := max (-(lim * fxOne)) (min (lim * fxOne) x)

/-- The FP32 value of a real among those within one ulp, by the choice c; the flags (R160, R167). -/
def oneUlp (c : Nat) (x : Real_) : Nat × Nat :=
  let v := Num.fin (decide (x.n < 0)) x.n.natAbs (x.k - fxBits)
  let z := fp32.narrowWith false .rtz 0 false v
  let lo := z.1
  if x.exact then
    match c % 3 with
    | 0 => (lo, 0)
    | 1 => (lo + 1, fInexact)
    | _ => (if lo % 2 ^ 31 = 0 then lo ^^^ (2 ^ 31 + 1) else lo - 1, fInexact)
  else if z.2 &&& fOverflow ≠ 0 then (0x7F80_0000 + lo / 2 ^ 31 * 2 ^ 31, fInexact ||| fOverflow)
  else
    let r := if c % 2 = 0 then lo else lo + 1
    let e := field r 23 8
    (r, fInexact ||| flagIf (e == 255) fOverflow ||| flagIf (e == 0) fUnderflow)

/-- The function steps: 0x10 EXP, 0x11 EXP2, 0x12 LOG, 0x13 LOG2, 0x14 TANH, 0x15 SIGMOID, 0x16 ERF, of an
operand that is not NaN. -/
def funcStep (op a : Nat) : Nat × Nat :=
  let c := Config.funcChoice op (BitVec.ofNat 32 a)
  let x := fp32.decode a
  let one := 0x3F80_0000
  let sgn := a / 2 ^ 31 * 2 ^ 31
  let fx := toFx x
  match x with
  | .nan _ => (0x7FC0_0000, 0)
  | .inf neg =>
    match op with
    | 0x10 => (if neg then 0 else a, 0)
    | 0x11 => (if neg then 0 else a, 0)
    | 0x12 => if neg then (0x7FC0_0000, fInvalid) else (a, 0)
    | 0x13 => if neg then (0x7FC0_0000, fInvalid) else (a, 0)
    | 0x15 => (if neg then 0 else one, 0)
    | _ => (sgn + one, 0)
  | .fin neg m e =>
    match op with
    | 0x10 => if m = 0 then oneUlp c { n := fxOne, exact := true } else oneUlp c (fxExp (clampFx fx 256))
    | 0x11 =>
      let y := clampFx fx 512
      let q := y / fxOne
      if y = q * fxOne ∧ y = fx ∧ -149 ≤ q ∧ q ≤ 127 then oneUlp c { n := fxOne, k := q, exact := true }
      else
        let r := fxExp (fxMul (y - q * fxOne) fxLn2)
        oneUlp c { r with k := r.k + q }
    | 0x12 =>
      if m = 0 then (0xFF80_0000, fDivzero)
      else if neg then (0x7FC0_0000, fInvalid)
      else if fx = fxOne then oneUlp c { n := 0, exact := true }
      else oneUlp c { n := fxLn m e }
    | 0x13 =>
      if m = 0 then (0xFF80_0000, fDivzero)
      else if neg then (0x7FC0_0000, fInvalid)
      else if m = 2 ^ (bitLen m - 1) then
        oneUlp c { n := ((bitLen m : Int) - 1 + e) * fxOne, exact := true }
      else oneUlp c { n := fxDiv (fxLn m e) fxLn2 }
    | 0x14 =>
      if m = 0 then (let r := oneUlp c { n := 0, exact := true }; (r.1 ||| sgn, r.2))
      else
        let y := 2 * (clampFx fx 64).natAbs
        -- (E - 1) / (E + 1), E = e^|2a|
        let em1 := if y < fxOne.toNat then fxExpm1 y else (let r := fxExp y; floorScale r.n r.k - fxOne)
        let v := fxDiv em1 (em1 + 2 * fxOne)
        oneUlp c { n := if neg then -v else v }
    | 0x15 =>
      if m = 0 then oneUlp c { n := fxOne / 2, exact := true }
      else
        let r := fxExp (-(clampFx fx 256))
        if neg then
          -- e^a / (1 + e^a)
          let p := fxExp (clampFx fx 256)
          let den := fxOne + floorScale p.n p.k
          oneUlp c { n := fxDiv p.n den, k := p.k }
        else oneUlp c { n := fxDiv fxOne (fxOne + floorScale r.n r.k) }
    | _ =>
      if m = 0 then (let r := oneUlp c { n := 0, exact := true }; (r.1 ||| sgn, r.2))
      else
        let y := clampFx fx 6
        let v := if y = fx then fxErf y else (if neg then -(fxOne - 1) else fxOne - 1)
        oneUlp c { n := v }

/-- Quotient of two finite magnitudes with 80 bits and a sticky bit: m × 2^e. -/
def quotient (m : Nat) (e : Int) (n : Nat) (k : Int) : Nat × Int :=
  let s := 80 + bitLen n
  let q := m * 2 ^ s / n
  (2 * q + b2n (decide (m * 2 ^ s % n ≠ 0)), e - k - s - 1)

/-- Division of two values that are not NaN (IEEE 754-2019). -/
def Num.div : Num → Num → Num × Nat
  | .nan s, _ => (.nan s, 0)
  | _, .nan s => (.nan s, 0)
  | .inf _, .inf _ => (.nan false, fInvalid)
  | .inf s, .fin t _ _ => (.inf (s ^^ t), 0)
  | .fin s _ _, .inf t => (.fin (s ^^ t) 0 0, 0)
  | .fin s m e, .fin t n k =>
    if n = 0 then (if m = 0 then (.nan false, fInvalid) else (.inf (s ^^ t), fDivzero))
    else
      let q := quotient m e n k
      (.fin (s ^^ t) q.1 q.2, 0)

/-- Square root of a finite non-negative magnitude with a sticky bit. -/
def rootOf (m : Nat) (e : Int) : Nat × Int :=
  let s : Nat := 160 + (if (e - 160) % 2 = 0 then 0 else 1)
  let r := isqrt (m * 2 ^ s)
  (2 * r + b2n (decide (r * r ≠ m * 2 ^ s)), (e - s) / 2 - 1)

/-- √a. -/
def Num.sqrt : Num → Num × Nat
  | .nan s => (.nan s, 0)
  | .inf s => if s then (.nan false, fInvalid) else (.inf false, 0)
  | .fin s m e =>
    if m = 0 then (.fin s 0 e, 0) else if s then (.nan false, fInvalid)
    else
      let r := rootOf m e
      (.fin false r.1 r.2, 0)

/-- 1/√a: the root of the quotient 2^s / m, exact or with a sticky bit. -/
def Num.rsqrt : Num → Num × Nat
  | .nan s => (.nan s, 0)
  | .inf s => if s then (.nan false, fInvalid) else (.fin false 0 0, 0)
  | .fin s m e =>
    if m = 0 then (.inf s, fDivzero) else if s then (.nan false, fInvalid)
    else
      let sh : Nat := 240 + (if (e + 240) % 2 = 0 then 0 else 1)
      let r := isqrt (2 ^ sh / m)
      (.fin false (2 * r + b2n (decide (r * r * m ≠ 2 ^ sh))) (-((e + sh) / 2) - 1), 0)

end Sys2Proof.Machine
end

