-- ==== Sys2Proof/Machine/Pack.lean ====
section
/-! DEFINITION. The pack (08 R176 to R194): stacks, PUSH, POP, DROP, WAIT, NOP, completion, spill and
refill, the GEN change, configuration writes. -/

namespace Sys2Proof.Machine

/-! ### Parts and registers -/

/-- Memory-side die of a tent's stack. -/
def pckDie (t : Nat) : Nat := 2 + t / 4096
/-- A pack register of a die. -/
def pckReg (die o : Nat) : Nat := dieReg die (0x800_0000 + o)

/-- Bytes of the HBM part (false) or of the LPDDR part (true) of a stack. -/
def Dev.partCap (d : Dev) (t : Nat) (lp : Bool) : Nat :=
  d.regF (pckReg (pckDie t) 4) (if lp then 8 else 0) 8 * 2 ^ 20

/-- Base of a part (R176). -/
def Dev.partBase (d : Dev) (t : Nat) (lp : Bool) : Nat :=
  d.reg (pckReg (pckDie t) (if lp then 0x10 else 8)) + t * d.partCap t lp

/-- A stack. -/
def Dev.stack (d : Dev) (t : Nat) : Stack := (d.tent t).stack
/-- Change it. -/
def Dev.modStack (d : Dev) (t : Nat) (f : Stack → Stack) : Dev := d.modTent t fun x => { x with stack := f x.stack }

/-- Bytes held in a part. -/
def Stack.used (s : Stack) (lp : Bool) : Nat := ((s.frames.filter fun f => f.spilled == lp).map (·.size)).sum
/-- The frames of a part, bottom first. -/
def Stack.inPart (s : Stack) (lp : Bool) : List Frame := s.frames.filter fun f => f.spilled == lp

/-- Bytes of the frame of a command (R179). -/
def frameSize (c : Cmd) : Nat :=
  64 + 64 * ((cmdB c 12 4 + 63) / 64) + 64 * ((cmdB c 20 4 + 63) / 64)

/-- A range of a part, whose HBM side is used as a ring, as one or two address ranges. -/
def ringPieces (base cap off n : Nat) : List (Nat × Nat) :=
  if off + n ≤ cap then [(base + off, n)] else [(base + off, cap - off), (base, n - (cap - off))]

/-- The request of the pack engine: the world of the tent's mover (R180). -/
def Dev.pckReq (d : Dev) (t : Nat) : MemReq :=
  ⟨.master (.pack (BitVec.ofNat 14 t)), d.job, d.blkSecure t 4⟩

/-- Read pieces of memory; a status other than OK is the fault UNCORR or REFUSED. -/
def packRead (t : Nat) : List (Nat × Nat) → Eng (List Byte)
  | [] => pure []
  | (a, n) :: ps => do
    let r ← askDev fun d => d.memRead (d.pckReq t) a n
    onDev fun _ => r.2
    need (r.1.status == 0) (if r.1.status = 2 then 0x21 else 0x20) a
    let rest ← packRead t ps
    return r.1.data ++ rest

/-- Write pieces of memory. -/
def packWrite (t : Nat) : List (Nat × Nat) → List Byte → Eng Unit
  | [], _ => pure ()
  | (a, n) :: ps, bs => do
    let r ← askDev fun d => d.memWrite (d.pckReq t) a (bs.take n)
    onDev fun _ => r.2
    need (r.1 == 0) (if r.1 = 2 then 0x21 else 0x20) a
    packWrite t ps (bs.drop n)

/-- Where a frame's bytes [o, o + n) lie. -/
def Dev.framePieces (d : Dev) (t : Nat) (f : Frame) (o n : Nat) : List (Nat × Nat) :=
  let cap := d.partCap t f.spilled
  ringPieces (d.partBase t f.spilled) cap ((f.off + o) % max 1 cap) n

/-! ### Push checks (Table 8.6) -/

/-- The bits each opcode uses (Table 8.4). -/
def pckUsed (op : Nat) : List (Nat × Nat) :=
  [(0, 5), (8, 6), (16, 16)] ++
    match op with
    | 1 => [(32, 32), (64, 17), (96, 17), (128, 17), (160, 17), (192, 1)]
    | 2 => [(32, 32), (64, 17), (96, 17), (128, 17), (160, 17), (192, 1)]
    | 3 => [(32, 32), (96, 17), (160, 17), (192, 1)]
    | 4 => [(32, 16)]
    | _ => []

/-- Checks of a push. -/
def pckPushCause (c : Cmd) : Nat :=
  let op := cmdOp c
  let l0 := cmdB c 12 4
  let l1 := cmdB c 20 4
  let part (o l : Nat) : Bool := decide (o % 16 ≠ 0) || decide (o + l > padLen)
  firstCause [
    (decide (4 < op), 0x01),
    (reservedSet c (pckUsed op), 0x02),
    ((op == 1 || op == 2 || op == 3) &&
      (l0 == 0 || decide (l0 > 98304) || decide (l1 > 98304) || l0 % 16 != 0 || l1 % 16 != 0 ||
        (op != 3 && (part (cmdB c 8 4) l0 || part (cmdB c 16 4) l1))), 0x03),
    (op == 4 && cmdWaitN c == 0, 0x07)]

/-! ### Faults (R185) -/

/-- Record a fault: PCK_ERR keeps the first since the strike; the step is CONTAINED; the stack stops. -/
def Dev.pckRecord (d : Dev) (t op tag cause addr : Nat) : Dev :=
  let die := pckDie t
  let d1 := if d.reg (pckReg die 0x20) = 0 then
      (d.setReg (pckReg die 0x20) (cause + op * 2 ^ 8 + tag * 2 ^ 16)).setReg (pckReg die 0x24) t
    else d
  (d1.dieErr die 0 6 clsContained cause { op := op, tag := tag, addr := addr, spec := t }).modStack t fun s =>
    { s with stopped := true }

/-- A fault at issue or run, or of a spill or refill: the commands that have not issued are discarded, and no spill or
refill goes on. A command in flight when a spill or refill faults completes. -/
def Dev.pckStop (d : Dev) (t op tag cause addr : Nat) : Dev :=
  (((d.pckRecord t op tag cause addr).modQueue t 9 fun x =>
    { x with stopped := true, entries := [], waiting := false }).dropWaits t 13).modStack t fun s =>
      { s with spilling := false, refilling := false }

/-- The scratchpad destinations of a POP that faults are undefined, as far as they lie in the scratchpad (R185). -/
def Dev.popUndef (d : Dev) (t : Nat) (c : Cmd) : Dev :=
  if cmdOp c = 2 then (d.undefPad t (cmdB c 8 4) (cmdB c 12 4)).undefPad t (cmdB c 16 4) (cmdB c 20 4) else d

/-- A command meets a cause at issue or run. -/
def Dev.pckFault (d : Dev) (t : Nat) (c : Cmd) (cause addr : Nat) : Dev :=
  (d.popUndef t c).pckStop t (cmdOp c) (cmdTag c) cause addr

/-- A fault at push: the commands accepted before it still run, with the spills and refills they need (R100). -/
def Dev.pckRefuse (d : Dev) (t : Nat) (c : Cmd) (cause : Nat) : Dev :=
  ((d.popUndef t c).pckRecord t (cmdOp c) (cmdTag c) cause 0).modQueue t 9 fun x => { x with stopped := true }

/-! ### Commands -/

/-- The header a PUSH writes and a POP expects, bytes 0 to 23 (Table 8.3). -/
def Dev.frameHdr (d : Dev) (c : Cmd) (seq : Nat) : List Byte :=
  leBytes 4 0x4B43_4150 ++ leBytes 4 (cmdB c 4 4) ++ leBytes 2 (d.job + d.epoch * 2 ^ 12) ++ leBytes 1 d.gen ++
    leBytes 1 (cmdB c 24 1) ++ leBytes 4 (cmdB c 12 4) ++ leBytes 4 (cmdB c 20 4) ++ leBytes 4 seq

/-- The pack engine's port to the scratchpad: requester 4. -/
def Dev.pckPort (d : Dev) (t : Nat) : PadPort := ⟨t, 4, d.blkSecure t 4, 0x03, 0x20, 0x21⟩

/-- Some number of the lowest frames fits the LPDDR part while the rest fits the HBM part with n more bytes. -/
def Stack.canHold (s : Stack) (hcap lcap n : Nat) : Bool :=
  let lowest := (s.inPart true).length
  (List.range (s.frames.length + 1)).any fun k =>
    decide (lowest ≤ k) && decide (((s.frames.take k).map (·.size)).sum ≤ lcap) &&
      decide (((s.frames.drop k).map (·.size)).sum + n ≤ hcap)

/-- The head of queue 9 of an opcode: it issues when the command before it has completed, and not while a GEN change
is to discard it (R183). -/
def Dev.pckHead (d : Dev) (t op : Nat) : Option Cmd :=
  match d.head t 9 with
  | some c => if cmdOp c = op ∧ (d.queue t 9).flight.isEmpty ∧ !d.packGenClr then some c else none
  | none => none

/-- A part of a PUSH, padded to 64 bytes: the padding's contents are not given. -/
def partBytes (p : PadPort) (o n : Nat) : Eng (List Byte) := do
  if n = 0 then return []
  let bs ← padRead p o n
  let f ← askDev (·.freeBytes ((n + 63) / 64 * 64 - n))
  onDev fun _ => f.2
  return bs ++ f.1

/-- The work of a PUSH whose frame fits: header and body to the top of the HBM part. -/
def pushWork (t : Nat) (c : Cmd) (f : Frame) : Eng Unit := do
  let p ← askDev (·.pckPort t)
  let seq ← askDev fun d => (d.stack t).frames.length
  let h ← askDev fun d => d.frameHdr c seq ++ leBytes 8 d.time.toNat ++ List.replicate 32 0
  let b0 ← partBytes p (cmdB c 8 4) (cmdB c 12 4)
  let b1 ← partBytes p (cmdB c 16 4) (cmdB c 20 4)
  let ps ← askDev fun d => d.framePieces t f 0 f.size
  packWrite t ps (h ++ b0 ++ b1)
  onDev (·.modStack t fun s => { s with frames := s.frames ++ [f] })

/-- Offset of a new frame in the HBM ring: behind the top frame there. -/
def Stack.nextOff (s : Stack) (cap : Nat) : Nat :=
  match (s.inPart false).getLast? with
  | some f => (f.off + f.size) % max 1 cap
  | none => 0

/-- PUSH (R178, R180, R182): it waits while its frame does not fit in the HBM part; how many cycles, which PCK_WAITS
counts, timing decides. -/
def Dev.pckPush (d : Dev) (t : Nat) : Dev :=
  match d.pckHead t 1 with
  | none => d
  | some c =>
    let die := pckDie t
    let s := d.stack t
    let n := frameSize c
    let hcap := d.partCap t false
    let stop (cause : Nat) : Dev := d.pckFault t c cause 0
    if d.regF (pckReg die 0) 0 1 = 0 then stop 0x04
    else if hcap < n ∨ 65535 ≤ s.frames.length ∨ !s.canHold hcap (d.partCap t true) n then stop 0x06
    else
      let past := decide (d.regF (pckReg die 0) 1 4 * hcap < 16 * (s.used false + n))
      if hcap < s.used false + n then
        ({ d with fresh := d.fresh + 1 }.bump (pckReg die 0xB8) (Config.stallSteps d.fresh)).modStack t fun x => { x with spilling := true }
      else
        let f : Frame := ⟨s.nextOff hcap, n, false⟩
        match (pushWork t c f).run { dev := d } with
        | (.ok _, x) => (x.dev.issue t 9 { cmd := c }).modStack t fun y => { y with spilling := y.spilling || past }
        | (.error (.fault cause addr), x) =>
          ((x.dev.framePieces t f 0 f.size).foldl (fun d p => d.undef p.1 p.2) x.dev).pckStop t (cmdOp c)
            (cmdTag c) cause addr
        | (.error _, _) => d

/-- The top frame's header against the expected one; a mismatch moves nothing (R181). -/
def Dev.pckCheck (d : Dev) (t : Nat) (c : Cmd) (f : Frame) (found : List Byte) : Option Dev :=
  let die := pckDie t
  let want := d.frameHdr c ((d.stack t).frames.length - 1)
  if found = want then none
  else
    let d1 := [0, 1, 2].foldl (fun d i =>
      (d.setReg (pckReg die (0x30 + 8 * i)) (leAt want (8 * i) 8)).setReg (pckReg die (0x48 + 8 * i))
        (leAt found (8 * i) 8)) d
    some (d1.pckFault t c 0x10 f.off)

/-- POP or DROP (R180, R181, R185). -/
def Dev.pckPop (d : Dev) (t op : Nat) : Dev :=
  match d.pckHead t op with
  | none => d
  | some c =>
    let die := pckDie t
    let stop (d : Dev) (cause addr : Nat) : Dev := d.pckFault t c cause addr
    if d.regF (pckReg die 0) 0 1 = 0 then stop d 0x04 0
    else match (d.stack t).frames.getLast? with
    | none => stop d 0x05 0
    | some f =>
      match (packRead t (d.framePieces t f 0 24)).run { dev := d } with
      | (.error (.fault cause addr), x) => stop x.dev cause addr
      | (.error _, _) => d
      | (.ok found, x) =>
        match x.dev.pckCheck t c f found with
        | some d1 => d1
        | none =>
          if op = 3 then x.dev.issue t 9 { cmd := c }
          else
            let l0 := cmdB c 12 4
            let l1 := cmdB c 20 4
            let work : Eng Unit := do
              let b0 ← packRead t (d.framePieces t f 64 l0)
              let b1 ← if l1 = 0 then pure [] else packRead t (d.framePieces t f (64 + (l0 + 63) / 64 * 64) l1)
              let p ← askDev (·.pckPort t)
              padWrite p (cmdB c 8 4) b0
              if l1 ≠ 0 then padWrite p (cmdB c 16 4) b1
            match work.run { dev := x.dev } with
            | (.ok _, y) =>
              let d2 := y.dev.issue t 9 { cmd := c }
              if f.spilled then d2.bump (pckReg die 0xA0) 1 else d2
            | (.error (.fault cause addr), y) => stop y.dev cause addr
            | (.error _, _) => d

/-- PUSH. -/
def execPush (t : TentId) : State → Out := lift (·.pckPush t.toNat)
/-- POP. -/
def execPop (t : TentId) : State → Out := lift (·.pckPop t.toNat 2)
/-- DROP. -/
def execDrop (t : TentId) : State → Out := lift (·.pckPop t.toNat 3)

/-- NOP. -/
def execPackNop (t : TentId) : State → Out :=
  lift fun d =>
    match d.pckHead t.toNat 0 with
    | some c => d.issue t.toNat 9 { cmd := c }
    | none => d

/-- WAIT. -/
def execPackWait (t : TentId) : State → Out :=
  lift fun d =>
    match d.pckHead t.toNat 4 with
    | some c => d.placeWait t.toNat 9 c
    | none => d

/-- The top frame leaves the stack; a refill starts when the HBM part is left below LOW, or empty (R182). -/
def Dev.popFrame (d : Dev) (t : Nat) : Dev :=
  let s := d.stack t
  let s1 := { s with frames := s.frames.dropLast }
  let low := d.regF (pckReg (pckDie t) 0) 5 4 * d.partCap t false
  d.modStack t fun _ => { s1 with
    refilling := decide (s1.inPart true ≠ []) && (decide (16 * s1.used false < low) || s1.used false == 0) }

/-- A pack command is complete: a popped or dropped frame is removed, counted, SIG. -/
def Dev.pckFinish (d : Dev) (t : Nat) (c : Cmd) : Dev :=
  let die := pckDie t
  (match cmdOp c with
    | 1 => d.bump (pckReg die 0x80) 1
    | 2 => (d.popFrame t).bump (pckReg die 0x88) 1
    | 3 => d.popFrame t
    | _ => d).signal t c

/-- PACK_COMMAND_COMPLETE (R180). -/
def execPackCommandComplete (t : TentId) : State → Out :=
  lift fun d =>
    match d.completing t.toNat 9 0 with
    | none => d
    | some x => (d.retire t.toNat 9 0).pckFinish t.toNat x.cmd

/-! ### Spill and refill (R182) -/

/-- Replace a frame of the stack. -/
def Stack.swap (s : Stack) (old new : Frame) : Stack :=
  { s with frames := s.frames.map fun f => if f = old then new else f }

/-- Move a frame whole to its new place. -/
def moveFrame (t : Nat) (old new : Frame) : Eng Unit := do
  let src ← askDev fun d => d.framePieces t old 0 old.size
  let bs ← packRead t src
  let dst ← askDev fun d => d.framePieces t new 0 new.size
  packWrite t dst bs
  onDev (·.modStack t (·.swap old new))

/-- Run a move: a fault stops the stack with OP 0 and TAG 0, and the frame is undefined (R185). -/
def Dev.runMove (d : Dev) (t : Nat) (old new : Frame) (cnt : Nat) : Dev :=
  match (moveFrame t old new).run { dev := d } with
  | (.ok _, x) => x.dev.bump (pckReg (pckDie t) cnt) 1
  | (.error (.fault cause addr), x) =>
    ((x.dev.framePieces t old 0 old.size).foldl (fun d p => d.undef p.1 p.2) x.dev).pckStop t 0 0 cause addr
  | (.error _, _) => d

/-- A PUSH waits at the head for room. -/
def Dev.pushWaits (d : Dev) (t : Nat) : Bool :=
  match d.pckHead t 1 with
  | some c => decide (d.partCap t false < (d.stack t).used false + frameSize c)
  | none => false

/-- The spill goes on: past HIGH, or a push waits for room. -/
def Dev.spillNeeded (d : Dev) (t : Nat) : Bool :=
  d.pushWaits t || decide (d.regF (pckReg (pckDie t) 0) 1 4 * d.partCap t false < 16 * (d.stack t).used false)

/-- PACK_SPILL: the lowest HBM frame to the top of the LPDDR part. While a push waits, its own frame counts
as the top, so the frame below it may go. -/
def Dev.packSpill (d : Dev) (t : Nat) : Dev :=
  let s := d.stack t
  if !s.spilling ∨ d.halted then d
  else match s.inPart false with
  | [] => d.modStack t fun x => { x with spilling := false }
  | f :: rest =>
    let room := decide (s.used true + f.size ≤ d.partCap t true)
    if !d.spillNeeded t || !room || (rest.isEmpty && !d.pushWaits t) then
      d.modStack t fun x => { x with spilling := false }
    else
      let d1 := d.runMove t f ⟨s.used true, f.size, true⟩ 0x90
      d1.modStack t fun x => { x with spilling := x.spilling && d1.spillNeeded t }

/-- PACK_REFILL: the top LPDDR frame back below the HBM frames. -/
def Dev.packRefill (d : Dev) (t : Nat) : Dev :=
  let s := d.stack t
  let cap := d.partCap t false
  if !s.refilling ∨ d.halted then d
  else match (s.inPart true).getLast? with
  | none => d.modStack t fun x => { x with refilling := false }
  | some f =>
    if cap < s.used false + f.size then d.modStack t fun x => { x with refilling := false }
    else
      let off := match s.inPart false with
        | g :: _ => (g.off + cap - f.size) % max 1 cap
        | [] => 0
      let d1 := d.runMove t f ⟨off, f.size, false⟩ 0x98
      let low := d.regF (pckReg (pckDie t) 0) 5 4 * cap
      d1.modStack t fun x =>
        { x with refilling := x.refilling && decide (16 * x.used false < low) && !(x.inPart true).isEmpty }

/-- PACK_SPILL. -/
def execPackSpill (t : TentId) : State → Out := lift (·.packSpill t.toNat)
/-- PACK_REFILL. -/
def execPackRefill (t : TentId) : State → Out := lift (·.packRefill t.toNat)

/-! ### The GEN change and configuration (R183, R193, R194) -/

/-- The GEN change in one tent. -/
def Dev.pckGenTent (d : Dev) (t : Nat) : Dev :=
  let die := pckDie t
  let q := d.queue t 9
  let d1 := q.flight.foldl (fun d x => d.pckFinish t x.cmd) d
  let d2 := q.entries.foldl (fun d c => (d.bump (pckReg die 0xB0) 1).signal t c) d1
  let n := (d2.stack t).frames.length
  ((((d2.bump (pckReg die 0xA8) n).modQueue t 9 fun x =>
    { x with entries := [], flight := [], waiting := false }).dropWaits t 13).modStack t fun s =>
      { s with frames := [], spilling := false, refilling := false })

/-- Tents that hold any state beside their registers. -/
def Dev.liveTents (d : Dev) : List Nat := d.tents.map Prod.fst

/-- PACK_GEN_CLEAR (R183). -/
def Dev.packGenClear (d : Dev) : Dev :=
  if !d.packGenClr then d
  else
    let d1 : Dev := d.liveTents.foldl (fun (d : Dev) t => d.pckGenTent t) d
    { d1 with packGenClr := false }

/-- PACK_GEN_CLEAR. -/
def execPackGenClear : State → Out := lift (·.packGenClear)

/-- Some stack of the die holds frames. -/
def Dev.pckHeld (d : Dev) (m : Nat) : Bool :=
  d.liveTents.any fun t => t / 4096 == m && !(d.stack t).frames.isEmpty

/-- A region of a part lies in its tier on a 1 MiB boundary. -/
def regionOk (base mib lo hi : Nat) : Bool :=
  base % 2 ^ 20 == 0 && (mib == 0 || (decide (lo ≤ base) && decide (base + 16384 * mib * 2 ^ 20 ≤ hi)))

/-- A write to PCK_CTL, PCK_SHARE or a base (R194). -/
def Dev.packConfigWrite (d : Dev) (m : Nat) (w : Writer) (off v : Nat) : Dev :=
  let die := 2 + m
  let ctl := pckReg die 0
  let refuse : Dev := d.setRegF ctl 9 1 1
  if !w.secure then d.dieErr die 0 6 clsCorrected 0x06 { addr := pckReg die off }
  else if d.pckHeld m then refuse
  else match off with
  | 0 =>
    let d0 := if bitAt v 9 then d.setRegF ctl 9 1 0 else d
    let share := d.reg (pckReg die 4)
    let ok := regionOk (d.reg (pckReg die 8)) (field share 0 8) 0 hbmEnd &&
      regionOk (d.reg (pckReg die 0x10)) (field share 8 8) lpBase lpEnd && decide (field v 5 4 < field v 1 4)
    if bitAt v 0 && !ok then refuse else d0.setRegF ctl 0 9 v
  | 4 => d.setReg (pckReg die 4) (v % 2 ^ 16)
  | 8 => d.setReg (pckReg die 8) v
  | 0x10 => d.setReg (pckReg die 0x10) v
  | _ => d

/-- PACK_CONFIG_WRITE (R194). -/
def execPackConfigWrite (die : BitVec 2) (w : Writer) (off : BitVec 8) (v : Word) : State → Out :=
  asWriter w fun w => lift (·.packConfigWrite die.toNat w off.toNat v.toNat)

end Sys2Proof.Machine
end

