-- ==== Sys2Proof/Machine/Reach.lean ====
section
/-! DEFINITION. How an engine or a mover reaches any camp address (R54 to R56, R255): its own scratchpad,
the memories, other tents, register windows, other devices; accumulate-on-write at a scratchpad (R248); the
run of a command that may wait for answers from other devices. -/

namespace Sys2Proof.Machine

/-- The cause codes of an engine for the outcomes of an access. -/
structure Causes where
  range : Nat
  uncorr : Nat
  refused : Nat
  decode : Nat
  sat : Nat
  format : Nat
  form : Nat
  deriving DecidableEq, Repr

/-- An engine's or mover's reach: its own tent and port, the world of these accesses, the request it makes
of memory, its causes, and how it accesses register windows of this device. -/
structure Reach where
  own : Option Nat
  req : Nat
  secure : Bool
  mem : MemReq
  c : Causes
  busRd : Dev → Nat → Nat → Answer × Dev
  busWr : Dev → Nat → List Byte → Nat × Dev

/-- The cause of a status other than OK. -/
def Causes.of (c : Causes) (status : Nat) : Nat :=
  match status with
  | 1 => c.uncorr
  | 2 => c.refused
  | 3 => c.format
  | 4 => c.sat
  | _ => c.decode

/-- The port to a tent's scratchpad: its own requester number in the own tent, the mesh port elsewhere. -/
def Reach.pad (r : Reach) (t : Nat) : PadPort := ⟨t, if r.own = some t then r.req else 13, r.secure, r.c.decode, r.c.uncorr, r.c.refused⟩

/-- Stop unless a status is OK. -/
def Reach.ok (r : Reach) (status addr : Nat) : Eng Unit := need (status == 0) (r.c.of status) addr

/-- Bytes of the unit a remote read fetches: a granule of memory (R255, Table 11.3), a scratchpad word. -/
def fetchUnit (x n : Nat) : Nat :=
  match regionOf (x % 2 ^ 48) with
  | .hbm => 64
  | .lpddr => 64
  | .scratch _ _ => 16
  | _ => n

/-- A piece of another device's memory: answered already, or to be read first. -/
def fetched (secure : Bool) (x n : Nat) : Eng (List Byte) := do
  match (← get).stage.find? fun p => p.1 == x && p.2.length == n with
  | some p => return p.2
  | none => throw (.need x n secure)

/-- A byte of another device, with the writes this command makes. -/
def overlay (ws : List OutW) (x : Nat) (b : Byte) : Byte :=
  ws.foldl (fun b w => if w.accum.isNone ∧ w.addr ≤ x ∧ x < w.addr + w.data.length
    then w.data.getD (x - w.addr) b else b) b

/-- Read n bytes at another device. -/
def remoteRead (secure : Bool) (x n : Nat) : Eng (List Byte) := do
  let u := max 1 (fetchUnit x n)
  let lo := if u = n then x else x / u * u
  let cnt := (x + n - lo + u - 1) / u
  let parts ← (List.range cnt).mapM fun i => fetched secure (lo + u * i) u
  let bs := slice parts.flatten (x - lo) n
  let ws := (← get).out
  return bs.zipIdx.map fun (b, i) => overlay ws (x + i) b

/-- Contiguous writes at an address may share a packet: memory and scratchpads. -/
def joins (x : Nat) : Bool :=
  match regionOf (x % 2 ^ 48) with
  | .hbm => true
  | .lpddr => true
  | .scratch _ _ => true
  | _ => false

/-- Pieces of at most n bytes; the fuel bounds their number. -/
def cutAt (n : Nat) : Nat → Nat → List Byte → List (Nat × List Byte)
  | 0, _, _ => []
  | k + 1, x, bs => if bs.length ≤ n then [(x, bs)] else (x, bs.take n) :: cutAt n k (x + n) (bs.drop n)

/-- Write at another device: contiguous bytes go in one packet of up to 4,096 bytes (Table 12.4). -/
def remoteWrite (secure : Bool) (accum : Option Nat) (x : Nat) (bs : List Byte) : Eng Unit :=
  modify fun s0 =>
    let s := { s0 with cut := false }
    let split : List OutW := (cutAt 4096 (bs.length + 1) x bs).map fun p => ⟨p.1, p.2, accum, secure⟩
    if s0.cut then { s with out := s.out ++ split }
    else match s.out.getLast? with
    | some w =>
      if joins x ∧ w.accum = none ∧ accum = none ∧ w.secure = secure ∧ w.addr ≤ x ∧
          x + bs.length ≤ w.addr + w.data.length then
        { s with out := s.out.dropLast ++
            [{ w with data := w.data.take (x - w.addr) ++ bs ++ w.data.drop (x - w.addr + bs.length) }] }
      else if joins x ∧ w.addr + w.data.length = x ∧ w.accum = accum ∧ w.secure = secure ∧ w.data.length + bs.length ≤ 4096
      then { s with out := s.out.dropLast ++ [{ w with data := w.data ++ bs }] }
      else { s with out := s.out ++ split }
    | none => { s with out := s.out ++ split }

/-- The range of a memory address has room for n bytes. -/
def inTier (a n : Nat) : Bool :=
  decide (a + n ≤ hbmEnd) || (decide (lpBase ≤ a) && decide (a + n ≤ lpEnd))

/-- A vector register access from a mover or another tent: in the world of the vector engine (R406). -/
def vregOk (r : Reach) (t a n : Nat) : Eng Unit := do
  need (decide (a + n ≤ tentMem (t + 1) 0)) r.c.decode a
  need (r.secure || !(← askDev (·.blkSecure t 7))) r.c.refused a

/-- Read n bytes at a camp address. -/
def Reach.read (r : Reach) (x n : Nat) : Eng (List Byte) := do
  match ← askDev (·.place x) with
  | .bad => failWith r.c.decode x
  | .remote _ _ => remoteRead r.secure x n
  | .here a =>
    if ← askDev (·.srcCutOff r.mem.src true a n) then throw .held
    match regionOf a with
    | .scratch t o => padRead (r.pad t) o n
    | .vreg t _ =>
      vregOk r t a n
      onDev (·.meet a n)
      need (!(← askDev (·.badIn a n))) r.c.uncorr x
      let m ← askDev (·.rdMixed a n)
      onDev fun _ => m.2
      return m.1
    | .hbm =>
      need (inTier a n) r.c.decode x
      let m ← askDev (·.memRead { r.mem with secure := r.secure } a n)
      onDev fun _ => m.2
      r.ok m.1.status x
      return m.1.data
    | .lpddr =>
      need (inTier a n) r.c.decode x
      let m ← askDev (·.memRead { r.mem with secure := r.secure } a n)
      onDev fun _ => m.2
      r.ok m.1.status x
      return m.1.data
    | _ =>
      let m ← askDev fun d => r.busRd d a n
      onDev fun _ => m.2
      r.ok m.1.status x
      return m.1.data

/-- Write bytes at a camp address. -/
def Reach.write (r : Reach) (x : Nat) (bs : List Byte) : Eng Unit := do
  match ← askDev (·.place x) with
  | .bad => failWith r.c.decode x
  | .remote _ _ => remoteWrite r.secure none x bs
  | .here a =>
    if ← askDev (·.srcCutOff r.mem.src false a bs.length) then throw .held
    match regionOf a with
    | .scratch t o => padWrite (r.pad t) o bs
    | .vreg t _ =>
      vregOk r t a bs.length
      onDev (·.meetParts a bs.length)
      let m ← askDev (·.wr a bs)
      onDev fun _ => m.1
      need (!m.2) r.c.uncorr x
    | .hbm =>
      need (inTier a bs.length) r.c.decode x
      let m ← askDev (·.memWrite { r.mem with secure := r.secure } a bs)
      onDev fun _ => m.2
      r.ok m.1 x
    | .lpddr =>
      need (inTier a bs.length) r.c.decode x
      let m ← askDev (·.memWrite { r.mem with secure := r.secure } a bs)
      onDev fun _ => m.2
      r.ok m.1 x
    | _ =>
      let m ← askDev fun d => r.busWr d a bs
      onDev fun _ => m.2
      r.ok m.1 x

/-! ### Accumulate-on-write at a scratchpad (R248) -/

/-- Add the elements one by one, in ascending address; a KIND mismatch leaves its word. Statuses met are
collected: 1 for a word that is uncorrectable, 3, 4. -/
def padAccRun (fmt e : Nat) : Nat → List Nat → Dev → List Nat → Dev × List Nat
  | _, [], d, st => (d, st)
  | a, x :: xs, d, st =>
    if d.badIn a e then padAccRun fmt e (a + e) xs d (1 :: st)
    else match accElem fmt (d.rdNat a e) x with
    | none => padAccRun fmt e (a + e) xs d (3 :: st)
    | some o => padAccRun fmt e (a + e) xs (d.wrNat a e o.bits) (if o.sat then 4 :: st else st)

/-- An ACCUM write that arrives at a tent's scratchpad: refused whole by world or by format; then the status
of the elements, UNCORR before FORMAT before SAT. The step is CONTAINED on FORMAT and SAT (R248). -/
def Dev.padAccum (d : Dev) (t : Nat) (secure : Bool) (fmt o : Nat) (bs : List Byte) : Nat × Dev :=
  let e := accBytes fmt
  if !secure && d.touchesSecure t o bs.length then
    (2, d.tentErr t 1 clsContained 0x16 { op := 4, addr := o })
  else if e = 0 ∨ o % e ≠ 0 ∨ bs.length % e ≠ 0 ∨ padLen < o + bs.length then
    (3, d.tentErr t 0x0A clsContained 0x24 { addr := o })
  else
    let r := padAccRun fmt e (tentMem t o) (elemsOf e bs) (d.meet (tentMem t o) bs.length) []
    if r.2.contains 1 then (1, r.1.tentErr t 1 clsContained 0x14 { op := 4, addr := o })
    else if r.2.contains 3 then (3, r.1.tentErr t 0x0A clsContained 0x24 { addr := o })
    else if r.2.contains 4 then (4, r.1.tentErr t 0x0A clsContained 0x23 { addr := o })
    else (0, r.1)

/-- The memories and scratchpads, which add what an ACCUM write carries (R248). -/
def adds (x : Nat) : Bool := joins x

/-- An ACCUM write at a camp address: memory, a scratchpad or another device's; refused with FORM at vector registers
(R248). DESIGN CHOICE: the same at every other range, for which the spec gives no such write. -/
def Reach.accum (r : Reach) (fmt x : Nat) (bs : List Byte) : Eng Unit := do
  match ← askDev (·.place x) with
  | .bad => failWith r.c.decode x
  | .remote _ _ => if adds x then remoteWrite r.secure (some fmt) x bs else failWith r.c.form x
  | .here a =>
    if ← askDev (·.srcCutOff r.mem.src false a bs.length) then throw .held
    match regionOf a with
    | .scratch t o =>
      if ← askDev (·.touchesClearing t o bs.length) then throw .held
      let m ← askDev (·.padAccum t r.secure fmt o bs)
      onDev fun _ => m.2
      r.ok m.1 x
    | .hbm =>
      need (inTier a bs.length) r.c.decode x
      let m ← askDev (·.memAccum { r.mem with secure := r.secure } fmt a bs)
      onDev fun _ => m.2
      r.ok m.1 x
    | .lpddr =>
      need (inTier a bs.length) r.c.decode x
      let m ← askDev (·.memAccum { r.mem with secure := r.secure } fmt a bs)
      onDev fun _ => m.2
      r.ok m.1 x
    | _ => failWith r.c.form x

/-- Access to elements by this reach. -/
def Reach.via (r : Reach) : Via := ({ rd := r.read, wr := r.write } : Via).whole

/-- Access whose writes add in a format. -/
def Reach.accVia (r : Reach) (fmt : Nat) : Via := ({ rd := r.read, wr := r.accum fmt } : Via).whole true

/-- TENT_ACCUM_WRITE (R248): the tent's mover adds the bytes; the status goes to the sender. -/
def Dev.tentAccumWrite (d : Dev) (a : WAccess) (fmt : Nat) : Dev :=
  match d.place a.addr.toNat with
  | .here x =>
    match regionOf x with
    | .scratch t o =>
      if d.touchesClearing t o a.data.length then d
      else
        let m := d.padAccum t a.by_.secure fmt o a.data
        { m.2 with response := some (a.by_.who, ⟨m.1, []⟩) }
    | _ => d
  | _ => d

/-- TENT_ACCUM_WRITE. -/
def execTentAccumWrite (a : WAccess) (fmt : BitVec 4) : State → Out :=
  asWriter a.by_ fun w => lift fun d => d.tentAccumWrite { a with by_ := w } fmt.toNat

/-! ### Commands that wait for other devices -/

/-- Send the writes a command makes at other devices, each with ACK_REQ; the tags. A 4-byte write to a peg
target leaves as a PEG packet (R363). -/
def Dev.flush (d : Dev) (o : Owner) (c : Carry) : List OutW → List Nat × Dev
  | [] => ([], d)
  | w :: ws =>
    if w.data.length = 4 ∧ w.accum = none ∧ pegTargetOf (w.addr % 2 ^ 48) ≠ PegTarget.none then
      (d.sendPeg w.addr (leNat w.data) ⟨c.job, d.epoch, d.gen⟩).flush o c ws
    else
      let x := d.sendWrite o { c with secure := w.secure } w.accum w.addr w.data
      let y := x.2.flush o c ws
      (x.1 :: y.1, y.2)

/-- Run the work of a command from its start with the answers it has: when it ends, `send` sends its writes to
other devices, `room` of them at once where that is limited (R111), and it is done; when it needs a read at another
device, that is asked for and nothing else has happened; on MOVING it waits; an access that is held leaves it as it
was. The plot entries it has read stay as read (R252). `put` stores the command in flight, `fault` takes a run
fault. -/
def Dev.runIssued (d : Dev) (o : Owner) (c : Carry) (i : Issued) (room : Option Nat)
    (send : Dev → List OutW → List Nat × Dev)
    (put : Issued → Dev → Dev) (fault : Nat → Nat → Dev → Dev) (work : Eng Unit) : Dev :=
  match work.run { dev := d, stage := i.stage } with
  | (.ok _, s) =>
    let f := send s.dev (s.out.take (room.getD s.out.length))
    put { i with flags := s.flags, stage := [], want := none, acks := s.acks ++ f.1, done := true, moving := false,
                 outs := s.out.drop (room.getD s.out.length), olds := d.wordsLost s.dev } f.2
  | (.error (.fault cause addr), s) => fault cause addr s.dev
  | (.error (.need x n sec), s) =>
    let r := d.sendRead o { c with secure := sec } x n
    put { i with stage := s.stage, want := some (r.1, x, n), done := false, moving := false } r.2
  | (.error (.moving x), s) => put { i with stage := s.stage, done := false, moving := true, movingAt := x } d
  | (.error .held, s) => put { i with stage := s.stage, done := false } d

end Sys2Proof.Machine
end

