-- ==== Sys2Proof/Machine/Routing.lean ====
section
/-! DEFINITION. Threshold routing and experts (09 R195 to R215): the directory, ROUTE, DISPATCH, ANSWER,
the packets that arrive, combine groups, the GEN change. -/

namespace Sys2Proof.Machine

/-- A routing register of a tent. -/
def rteReg (t o : Nat) : Nat := tentReg t (0x70_0800 + o)
/-- MOV_XGRP_g. -/
def grpAddr (t g : Nat) : Nat := rteReg t (0x40 + 8 * g)
/-- Where the expert unit records a fault. -/
def rteErr (t : Nat) : ErrPlace := ⟨rteReg t 0xC, 0x0B⟩

/-- A register window is no operand of a routing command. -/
def noBusRd (d : Dev) (_ n : Nat) : Answer × Dev := (⟨5, List.replicate n 0⟩, d)
/-- The same for a write. -/
def noBusWr (d : Dev) (_ : Nat) (_ : List Byte) : Nat × Dev := (5, d)

/-- The reach of the expert unit (Table 9.8); the cause 0 stands for a status it takes no action on. -/
def Dev.rteReach (d : Dev) (t : Nat) : Reach :=
  { own := some t, req := 4, secure := d.blkSecure t 4, mem := ⟨.master (.mover (BitVec.ofNat 14 t)), d.job, d.blkSecure t 4⟩,
    c := { range := 0x43, uncorr := 0x60, refused := 0x61, decode := 0x62, sat := 0, format := 0, form := 0x42 },
    busRd := noBusRd, busWr := noBusWr }

/-- Its port to the scratchpad. -/
def Dev.rtePort (d : Dev) (t : Nat) : PadPort := ⟨t, 4, d.blkSecure t 4, 0x43, 0x60, 0x61⟩

/-! ### The expert directory (R195, R196) -/

/-- A directory entry (Table 9.1). -/
structure DirEnt where
  dev : Nat
  valid : Bool
  tent0 : Nat
  nt : Nat
  cap : Nat
  inOff : Nat
  pb : Nat
  epoch : Nat
  reserved : Bool
  deriving DecidableEq, Repr

/-- Read it from 16 bytes. -/
def dirEntOf (bs : List Byte) : DirEnt :=
  let x := leAt bs 0 16
  { dev := field x 0 10, valid := bitAt x 15, tent0 := field x 16 14, nt := field x 32 12, cap := field x 48 14,
    inOff := field x 64 17, pb := field x 96 16, epoch := field x 112 4,
    reserved := field x 10 5 != 0 || field x 30 2 != 0 || field x 44 4 != 0 || field x 62 2 != 0 ||
      field x 81 15 != 0 || field x 116 12 != 0 }

/-- The entry breaks R196. -/
def DirEnt.bad (e : DirEnt) (epoch : Nat) : Bool :=
  (e.valid && e.epoch != epoch) || (e.valid && decide (16383 < e.tent0 + e.nt)) || e.reserved || e.cap == 0

/-- 64-bit words of the occupancy bitmap. -/
def DirEnt.words (e : DirEnt) : Nat := (e.cap + 63) / 64
/-- Scratchpad offset of a slot record (R202). -/
def DirEnt.record (e : DirEnt) (slot : Nat) : Nat :=
  e.inOff + (8 * e.words + 15) / 16 * 16 + slot * (32 + e.pb)
/-- Quota of a source group (R198). -/
def DirEnt.quota (e : DirEnt) (srcs : Nat) : Nat := e.cap / srcs

/-- Read the entry of an expert, as the command faults on it. -/
def readDir (t e : Nat) : Eng DirEnt := do
  let r ← askDev (·.rteReach t)
  let base ← askDev (·.reg (rteReg t 0))
  let ent := dirEntOf (← r.read (2 ^ 58 + base + 16 * e) 16)
  need (!ent.bad (← askDev (·.epoch))) 0x47 e
  return ent

/-! ### ROUTE (R197 to R201) -/

/-- The fields of the routing commands that are in use (Table 9.6). -/
def rteUsed (op : Nat) : List (Nat × Nat) :=
  [(0, 5), (8, 6), (16, 16)] ++
    match op with
    | 0xC => [(32, 17), (64, 17), (96, 32), (128, 12), (144, 12), (160, 6), (192, 64)]
    | 0xD => [(32, 17), (64, 17), (96, 17), (128, 12), (144, 4), (148, 1), (149, 3), (152, 6), (160, 32)]
    | _ => [(32, 16), (64, 17)]

/-- A choice of a token: expert, score, and the slot when it is delivered. -/
structure Choice where
  expert : Nat
  score : Nat
  slot : Option Nat := none
  deriving DecidableEq, Repr

/-- Insert a candidate in descending score, equal scores by ascending expert ID. -/
def insertChoice (x : Choice) : List Choice → List Choice
  | [] => [x]
  | y :: ys =>
    let a := fp32.decode x.score
    let b := fp32.decode y.score
    if b.lt a || (!a.lt b && decide (x.expert < y.expert)) then x :: y :: ys else y :: insertChoice x ys

/-- The choice list of one token's scores before it is cut, and the NaN scores of valid experts. -/
def choiceList (valid : Nat → Bool) (thresh : Nat) (scores : List Nat) : List Choice × Nat :=
  let mine := scores.zipIdx.filter fun p => valid p.2
  let nums := mine.filter fun p => !(fp32.decode p.1).isNaN
  let taken := nums.filter fun p => !(fp32.decode p.1).lt (fp32.decode thresh)
  (taken.foldl (fun cs p => insertChoice { expert := p.2, score := p.1 } cs) [], mine.length - nums.length)

/-- Admit one choice against the quota (R198). -/
def admitOne (quota : Nat → Nat) (src : Nat) (used : List (Nat × Nat)) (c : Choice) :
    List (Nat × Nat) × Choice :=
  let u := look (fun _ => 0) used c.expert
  let q := quota c.expert
  if u < q then (put (fun _ => 0) used c.expert (u + 1), { c with slot := some (src * q + u) })
  else (used, c)

/-- Admit every token's choice at a rank, in token order. -/
def admitRank (quota : Nat → Nat) (src r : Nat) :
    List (Nat × Nat) → List (List Choice) → List (Nat × Nat) × List (List Choice)
  | used, [] => (used, [])
  | used, cs :: rest =>
    match cs[r]? with
    | none =>
      let y := admitRank quota src r used rest
      (y.1, cs :: y.2)
    | some c =>
      let x := admitOne quota src used c
      let y := admitRank quota src r x.1 rest
      (y.1, cs.set r x.2 :: y.2)

/-- All first choices before any second choice (R198). -/
def allot (quota : Nat → Nat) (src maxc : Nat) (lists : List (List Choice)) : List (List Choice) :=
  ((List.range maxc).foldl (fun (x : List (Nat × Nat) × List (List Choice)) r =>
    admitRank quota src r x.1 x.2) ([], lists)).2

/-- The sum of a token's delivered scores in rank order, in FP32 (R199). -/
def deliveredSum (cs : List Choice) : Nat :=
  match cs.filter fun c => c.slot.isSome with
  | [] => 0
  | c :: rest => rest.foldl (fun s x => (addFp32 s x.score).1) c.score

/-- The weight of a delivered choice (R199). -/
def weightOf (renorm : Bool) (cs : List Choice) (c : Choice) : Nat :=
  if renorm then (toFp32 ((fp32.decode c.score).div (fp32.decode (deliveredSum cs))).1).1 else c.score

/-- A choice table entry (Table 9.2). -/
def tableEntry (renorm : Bool) (cs : List Choice) (r : Nat) : Nat :=
  match cs[r]? with
  | none => 0
  | some c =>
    match c.slot with
    | some s => c.expert + s % 2 ^ 14 * 2 ^ 16 + 2 ^ 30 + weightOf renorm cs c * 2 ^ 32
    | none => c.expert + 2 * 2 ^ 30

/-- How many choices of an expert lists hold, delivered or dropped. -/
def tally (delivered : Bool) (e : Nat) (lists : List (List Choice)) : Nat :=
  (lists.flatten.filter fun c => c.expert == e && c.slot.isSome == delivered).length

/-- Add a count to a word of the counter buffer; a count of zero adds nothing (R201). -/
def addCount (r : Reach) (x n : Nat) : Eng Unit :=
  if n = 0 then pure ()
  else tryCatch (r.accum 9 x (leBytes 4 n)) fun e =>
    match e with
    | .fault 0 _ => pure ()
    | e => throw e

/-- The checks of a descriptor of a routing command that come before its place: DESC, FORM. -/
def rteDesc (t : Nat) (v : Desc) (form : Bool) : Eng Unit := do
  need (!v.bad true && !v.worldBad (← askDev (·.blkSecure t 4))) 0x46 0
  need form 0x42 0

/-- S lies in the tent's own scratchpad or in this device's memory (R197). -/
def scorePlace (t : Nat) (s : Desc) : Eng Unit := do
  need (!s.plot) 0x45 0
  match ← askDev (·.place s.base) with
  | .here a =>
    match regionOf a with
    | .scratch u _ =>
      need (u == t) 0x45 0
      need (← askDev fun d => s.inPad d t) 0x43 0
    | .hbm => need s.rangeOk 0x62 0
    | .lpddr => need s.rangeOk 0x62 0
    | _ => failWith 0x45 0
  | _ => failWith 0x45 0

/-- ROUTE (R197 to R201). -/
def routeWork (t : Nat) (c : Cmd) : Eng Unit := do
  let p ← askDev (·.rtePort t)
  let r ← askDev (·.rteReach t)
  let s ← readDesc p (cmdF c 32 17)
  let thresh := cmdF c 96 32
  rteDesc t s (s.fmt == 0 && s.form == 0 && s.rank == 2 && !(fp32.decode thresh).isNaN)
  let src := cmdF c 128 12
  let srcs := cmdF c 144 12 + 1
  let maxc := cmdF c 160 4 + 1
  let renorm := cmdF c 164 1 == 1
  let ct := cmdF c 64 17
  let base := cmdF c 192 64
  let n := s.dim 1
  need (decide (1 ≤ s.dim 0) && decide (s.dim 0 ≤ 65536) && decide (1 ≤ n) && decide (n ≤ 4096) &&
    decide (src < srcs)) 0x44 0
  scorePlace t s
  need (ct % 16 == 0 && decide (ct + 8 * n * maxc ≤ padLen) && base % 16 == 0) 0x43 ct
  let dir ← (List.range (s.dim 0)).mapM fun e => readDir t e
  let valid := fun e => (dir[e]?.map (·.valid)).getD false
  let quota := fun e => (dir[e]?.map (·.quota srcs)).getD 0
  let v := { r with secure := r.secure && s.worldS }.via
  let cols ← (List.range n).mapM fun q => (List.range (s.dim 0)).mapM fun e => v.get s [e, q]
  let lists := cols.map fun col => choiceList valid thresh col
  let clipped := (lists.map fun x => x.1.length - maxc).sum
  let out := allot quota src maxc (lists.map fun x => x.1.take maxc)
  out.zipIdx.forM fun (cs, q) =>
    (List.range maxc).forM fun k => padPut p (ct + 8 * (q * maxc + k)) 8 (tableEntry renorm cs k)
  let none_ := (out.filter (·.isEmpty)).length
  let lost := (out.filter fun cs => !cs.isEmpty && cs.all fun x => x.slot.isNone).length
  let all := out.flatten
  let deliv := (all.filter fun x => x.slot.isSome).length
  onDev fun d => (((d.bump (rteReg t 0x80) deliv).bump (rteReg t 0x88) (all.length - deliv)).bump
    (rteReg t 0x90) (none_ + lost)).bump (rteReg t 0x98) ((lists.map Prod.snd).sum)
  if cmdF c 165 1 = 1 then
    (all.map (·.expert)).eraseDups.forM fun e => do
      addCount r (base + 8 * e) (tally true e out)
      addCount r (base + 8 * e + 4) (tally false e out)
    addCount r (base + 524288) n
    addCount r (base + 524292) clipped
    addCount r (base + 524296) none_
    addCount r (base + 524300) lost

/-! ### Faults (R213) -/

/-- A fault of the expert unit: recorded, the unit stops, and the queue is discarded with its routing
commands; moves in flight run to completion (R260). -/
def Dev.rteFault (d : Dev) (t : Nat) (c : Cmd) (cause addr : Nat) : Dev :=
  (((d.recordFault t (rteErr t) c cause addr).modQueue t 8 fun x =>
    { x with entries := [], waiting := false, flight := x.flight.filter fun i => cmdOp i.cmd < 0xC }).modTent t
      fun x => { x with xstopped := true }).dropWaits t 12

/-- A cause found at push: the commands accepted before it still run (R100). -/
def Dev.rteRefuse (d : Dev) (t : Nat) (c : Cmd) : Dev :=
  (d.recordFault t (rteErr t) c 0x41 0).modTent t fun x => { x with xstopped := true }

/-- The push check of a routing command. -/
def rtePushCause (c : Cmd) : Nat := if reservedSet c (rteUsed (cmdOp c)) then 0x41 else 0

/-! ### Packets (R203 to R206) -/

/-- The routing header (Table 9.4). -/
structure RHdr where
  kind : Nat
  back : Bool
  grp : Nat
  rank : Nat
  fmt : Nat
  expert : Nat
  job : Nat
  epoch : Nat
  gen : Nat
  slot : Nat
  piece : Nat
  token : Nat
  ret : Nat
  len : Nat
  reserved : Bool
  deriving DecidableEq, Repr

/-- Read it from 32 bytes. -/
def rhdrOf (bs : List Byte) : RHdr :=
  let x := leAt bs 0 32
  { kind := field x 0 3, back := bitAt x 3, grp := field x 4 3, rank := field x 8 4, fmt := field x 12 4,
    expert := field x 16 16, job := field x 32 12, epoch := field x 44 4, gen := field x 48 8,
    slot := field x 64 14, piece := field x 80 12, token := field x 96 32, ret := field x 128 64,
    len := field x 192 16,
    reserved := bitAt x 7 || field x 56 8 != 0 || field x 78 2 != 0 || field x 92 4 != 0 ||
      field x 208 48 != 0 }

/-- Its 32 bytes. -/
def RHdr.bytes (h : RHdr) : List Byte :=
  leBytes 32 (h.kind % 8 + b2n h.back * 2 ^ 3 + h.grp % 8 * 2 ^ 4 + h.rank % 16 * 2 ^ 8 +
    h.fmt % 16 * 2 ^ 12 + h.expert % 2 ^ 16 * 2 ^ 16 + h.job % 2 ^ 12 * 2 ^ 32 + h.epoch % 16 * 2 ^ 44 +
    h.gen % 256 * 2 ^ 48 + h.slot % 2 ^ 14 * 2 ^ 64 + h.piece % 2 ^ 12 * 2 ^ 80 +
    h.token % 2 ^ 32 * 2 ^ 96 + h.ret % 2 ^ 64 * 2 ^ 128 + h.len % 2 ^ 16 * 2 ^ 192)

/-- Checks 1 to 3 of Table 9.5: a packet of another job, GEN or EPOCH is discarded and counted. -/
def Dev.rteStale (d : Dev) (t : Nat) (h : RHdr) : Option Dev :=
  if h.job ≠ d.job then some (d.bump (rteReg t 0xA8) 1)
  else if h.gen ≠ d.gen then some (d.bump (rteReg t 0xA0) 1)
  else if h.epoch ≠ d.epoch then some (d.bump (rteReg t 0xB0) 1)
  else none

/-- The buffer of an expert in a tent of this device is undefined (R213): its bitmap and its slot records. -/
def Dev.undefExpert (d : Dev) (t u x : Nat) : Dev :=
  let e := dirEntOf (d.rd (d.reg (rteReg t 0) + 16 * x) 16)
  if e.valid ∧ e.dev = d.devId ∧ e.tent0 ≤ u ∧ u ≤ e.tent0 + e.nt then d.undefPad u e.inOff (e.record e.cap - e.inOff) else d

/-- The combine buffer of a group is undefined. -/
def Dev.undefGroup (d : Dev) (t : Nat) (g : Combine) : Dev := d.undefPad t g.off (g.nt * g.k * g.pb)

/-- The command a fault of an arriving packet is recorded as: the opcode of its sender's command. -/
def rteArrival (op : Nat) : Cmd := BitVec.ofNat 256 op

/-- Writing an arriving dispatch: the header and payload to the slot record, then the slot's bit (R204). -/
def arriveWork (t : Nat) (h : RHdr) (body : List Byte) : Eng Unit := do
  let p ← askDev (·.rtePort t)
  let e ← readDir t h.expert
  need (h.len == e.pb) 0x4A 0
  need (e.inOff % 16 == 0) 0x43 e.inOff
  let rec_ := e.record h.slot
  need (decide (h.slot < e.cap) && decide (rec_ + 32 + e.pb ≤ padLen)) 0x43 rec_
  let wo := e.inOff + h.slot / 64 * 8
  let w ← padNat p wo 8
  need (!bitAt w (h.slot % 64)) 0x48 h.slot
  padWrite p rec_ (slice body 0 (32 + e.pb))
  padPut p wo 8 (w + 2 ^ (h.slot % 64))

/-- A dispatch packet reaches tent t of this device: the status of its acknowledgement. -/
def Dev.dispatchArrive (d : Dev) (t : Nat) (body : List Byte) : Nat × Dev :=
  let h := rhdrOf body
  match d.rteStale t h with
  | some d1 => (0, d1)
  | none =>
    match (arriveWork t h body).run { dev := d } with
    | (.ok _, s) => (0, s.dev)
    | (.error (.fault cause addr), s) =>
      (if cause = 0x60 then 1 else if cause = 0x61 then 2 else 0,
        (s.dev.undefExpert t t h.expert).rteFault t (rteArrival 0xD) cause addr)
    | (.error _, _) => (6, d)

/-- Sub-slot of token t, rank r (R206). -/
def Combine.sub (g : Combine) (tok r : Nat) : Nat := g.off + (tok * g.k + r) * g.pb

/-- A combine group. -/
def Dev.group (d : Dev) (t g : Nat) : Combine := look (fun _ => {}) (d.tent t).groups g

/-- A combine group closes and signals its peg by one (R206). -/
def Dev.closeGroup (d : Dev) (t g : Nat) : Dev :=
  (((d.setRegF (grpAddr t g) 42 1 0).modTent t fun x => { x with groups := dropAt g x.groups })).pegSig t
    (d.regF (grpAddr t g) 44 6) 1

/-- An answer reaches tent t (R206, Table 9.5). -/
def Dev.answerArrive (d : Dev) (t : Nat) (body : List Byte) : Nat × Dev :=
  let h := rhdrOf body
  match d.rteStale t h with
  | some d1 => (0, d1)
  | none =>
    let a := grpAddr t h.grp
    let g := d.group t h.grp
    let tok := h.token - g.tbase
    let sub := g.sub tok h.rank
    let good := d.regF a 42 1 == 1 && (d.regF a 43 1 == 1) == h.back && decide (g.tbase ≤ h.token) &&
      decide (tok < g.nt) && decide (h.rank < g.k) && h.ret == d.devId * 2 ^ 48 + tentMem t sub
    if !good then (0, (d.undefGroup t g).rteFault t (rteArrival 0xE) 0x49 h.grp)
    else if h.len ≠ g.pb then (0, (d.undefGroup t g).rteFault t (rteArrival 0xE) 0x4A h.len)
    else
      match (padWrite (d.rtePort t) sub (slice body 32 g.pb)).run { dev := d } with
      | (.error (.fault cause addr), s) =>
        (if cause = 0x60 then 1 else 2, (s.dev.undefGroup t g).rteFault t (rteArrival 0xE) cause addr)
      | (.error _, _) => (6, d)
      | (.ok _, s) =>
        let n := d.regF a 17 17 + 1
        let d1 := s.dev.setRegF a 17 17 n
        (0, if n = d.regF a 0 17 then d1.closeGroup t h.grp else d1)

/-- The acknowledgement of a routing packet from another device. -/
def Dev.ackRoute (d : Dev) (p : RoutePkt) (r : Nat × Dev) : Dev :=
  if r.1 = 6 then d
  else if p.src.toNat = d.devId then r.2
  else
    let h := rhdrOf p.body
    r.2.sendCompl { typ := 6, vc := 2, job := h.job, epoch := h.epoch, gen := h.gen, src := p.src.toNat,
                    tid := p.tid.toNat } r.1

/-- DISPATCH_PACKET_ARRIVE (R204): a packet of KIND 1 with its reserved fields zero. -/
def execDispatchPacketArrive (p : RoutePkt) : State → Out :=
  lift fun d =>
    let h := rhdrOf p.body
    if h.kind ≠ 1 ∨ h.reserved then d else d.ackRoute p (d.dispatchArrive p.t.toNat p.body)

/-- ANSWER_ARRIVE (R206): a packet of KIND 2. -/
def execAnswerArrive (p : RoutePkt) : State → Out :=
  lift fun d =>
    let h := rhdrOf p.body
    if h.kind ≠ 2 ∨ h.reserved then d else d.ackRoute p (d.answerArrive p.t.toNat p.body)

/-- Send a routing packet from tent t to (device, tent, scratchpad offset): to a tent of this device it is
delivered at once; to another device it is a ROUTE packet on VC2 that must be acknowledged. -/
def sendRoute (t dev u off : Nat) (h : RHdr) (payload : List Byte) : Eng Unit := do
  let self ← askDev (·.devId)
  let body := h.bytes ++ payload
  if dev = self then
    let r ← askDev fun d => if h.kind = 1 then d.dispatchArrive u body else d.answerArrive u body
    if r.1 = 6 then throw .held
    onDev fun _ => r.2
    need (r.1 == 0) (if r.1 = 1 then 0x60 else 0x61) off
  else
    need ((← askDev (·.camp)).contains dev) 0x62 off
    let x ← askDev fun d => d.newTid (.queue t 8)
    onDev fun _ => x.2.sendPkt
      { typ := 6, vc := 2, ackReq := true, worldS := d_secure x.2 t, job := h.job, epoch := h.epoch, gen := h.gen,
        dest := dev * 2 ^ 48 + tentMem u off, tid := x.1 } body
    modify fun s => { s with acks := s.acks ++ [x.1] }
where
  /-- The world of the tent's mover. -/
  d_secure (d : Dev) (t : Nat) : Bool := d.blkSecure t 4

/-! ### DISPATCH and ANSWER (R202, R205) -/

/-- Bytes of a row of a dense rank 2 view, padded to 16. -/
def rowBytes (v : Desc) : Nat :=
  let n := if v.layout = 0x10 then (v.dim 0 + 31) / 32 * (32 * fmtBits v.fmt / 8 + 1)
    else (v.dim 0 * v.bits + 7) / 8
  (n + 15) / 16 * 16

/-- Pack element bits from bit 0. -/
def packBits (w : Nat) : List Nat → Nat
  | [] => 0
  | x :: xs => x % 2 ^ w + 2 ^ w * packBits w xs

/-- Row t of a view, packed and padded with zeros to 16 bytes. -/
def readRow (v : Via) (x : Desc) (t : Nat) : Eng (List Byte) := do
  if x.layout = 0x10 then
    let blk := 32 * fmtBits x.fmt / 8
    let parts ← (List.range ((x.dim 0 + 31) / 32)).mapM fun b => do
      let es ← (List.range 32).mapM fun i => if 32 * b + i < x.dim 0 then v.get x [32 * b + i, t] else pure 0
      let sc ← v.scale x [32 * b, t]
      return leBytes blk (packBits (fmtBits x.fmt) es) ++ leBytes 1 sc
    return slice parts.flatten 0 (rowBytes x)
  else
    let es ← (List.range (x.dim 0)).mapM fun i => v.get x [i, t]
    return leBytes (rowBytes x) (packBits x.bits es)

/-- A local dense rank 2 operand of DISPATCH or ANSWER. -/
def rteLocal (t : Nat) (v : Desc) : Eng Unit := do
  rteDesc t v (v.form == 0 && v.rank == 2)
  need (← askDev fun d => v.isLocal d t) 0x45 0
  need (← askDev fun d => v.inPad d t) 0x43 0

/-- One entry of the choice table: send the piece, or zero the sub-slot. -/
def dispatchEntry (t : Nat) (c : Cmd) (v : Via) (x : Desc) (g : Combine) (tok r ent : Nat) : Eng Unit := do
  let st := field ent 30 2
  let sub := g.sub tok r
  if st = 1 then
    let p ← askDev (·.rtePort t)
    let ex := field ent 0 16
    let e ← readDir t ex
    need e.valid 0x47 ex
    need (e.pb == g.pb && decide (cmdF c 128 12 ≤ e.nt)) 0x44 ex
    let slot := field ent 16 14
    need (e.inOff % 16 == 0) 0x43 e.inOff
    need (decide (e.record slot + 32 + e.pb ≤ padLen)) 0x43 (e.record slot)
    need (decide (sub + g.pb ≤ padLen)) p.range sub
    let row ← readRow v x tok
    let d ← askDev id
    let h : RHdr := { kind := 1, back := cmdF c 148 1 == 1, grp := cmdF c 149 3, rank := r, fmt := x.fmt,
                      expert := ex, job := d.job, epoch := d.epoch, gen := d.gen, slot := slot,
                      piece := cmdF c 128 12, token := g.tbase + tok, ret := d.devId * 2 ^ 48 + tentMem t sub,
                      len := g.pb, reserved := false }
    sendRoute t e.dev (e.tent0 + cmdF c 128 12) (e.record slot) h row
  else if st = 0 ∨ st = 2 then
    padWrite (← askDev (·.rtePort t)) sub (List.replicate g.pb 0)

/-- DISPATCH (R202, R206). -/
def dispatchWork (t : Nat) (c : Cmd) : Eng Unit := do
  let p ← askDev (·.rtePort t)
  let x ← readDesc p (cmdF c 64 17)
  rteLocal t x
  let maxc := cmdF c 144 4 + 1
  let n := x.dim 1
  let ct := cmdF c 32 17
  let cmb := cmdF c 96 17
  let pb := rowBytes x
  need (decide (1 ≤ n) && decide (n ≤ 4096)) 0x44 0
  need (ct % 16 == 0 && decide (ct + 8 * n * maxc ≤ padLen) && cmb % 16 == 0 &&
    decide (cmb + n * maxc * pb ≤ padLen)) 0x43 ct
  let ents ← (List.range (n * maxc)).mapM fun i => padNat p (ct + 8 * i) 8
  let g : Combine := { off := cmb, nt := n, k := maxc, pb := pb, tbase := cmdF c 160 32 }
  let k := cmdF c 149 3
  let expect := (ents.filter fun e => field e 30 2 == 1).length
  onDev fun d =>
    (d.setReg (grpAddr t k) (expect + d.gen * 2 ^ 34 + 2 ^ 42 + cmdF c 148 1 * 2 ^ 43 + cmdF c 152 6 * 2 ^ 44)).modTent
      t fun y => { y with groups := put (fun _ => {}) y.groups k g }
  let v := { ← askDev (·.rteReach t) with secure := p.secure && x.worldS }.via
  ents.zipIdx.forM fun (e, i) => dispatchEntry t c v x g (i / maxc) (i % maxc) e

/-- The answer of one filled slot. -/
def answerSlot (t : Nat) (v : Via) (y : Desc) (e : DirEnt) (slot : Nat) : Eng Unit := do
  let p ← askDev (·.rtePort t)
  let h := rhdrOf (← padRead p (e.record slot) 32)
  let d ← askDev id
  if h.gen ≠ d.gen then onDev (·.bump (rteReg t 0xA0) 1)
  else
    let row ← readRow v y slot
    match regionOf (h.ret % 2 ^ 48) with
    | .scratch u off => sendRoute t (field h.ret 48 10) u off { h with kind := 2 } row
    | _ => failWith 0x62 h.ret

/-- ANSWER (R205): the bitmap is cleared when the command completes; its place is given back. -/
def answerWork (t : Nat) (c : Cmd) : Eng DirEnt := do
  let p ← askDev (·.rtePort t)
  let ex := cmdF c 32 16
  let y ← readDesc p (cmdF c 64 17)
  let e ← readDir t ex
  need (e.valid && e.dev == (← askDev (·.devId)) && decide (e.tent0 ≤ t) && decide (t ≤ e.tent0 + e.nt)) 0x47 ex
  rteDesc t y (y.form == 0 && y.rank == 2)
  need (rowBytes y == e.pb && y.dim 1 == e.cap) 0x44 ex
  rteLocal t y
  need (e.inOff % 16 == 0 && decide (e.inOff + 8 * e.words ≤ padLen)) 0x43 e.inOff
  let v := { ← askDev (·.rteReach t) with secure := p.secure && y.worldS }.via
  let ws ← (List.range e.words).mapM fun i => padNat p (e.inOff + 8 * i) 8
  ((List.range e.cap).filter fun s => bitAt (ws.getD (s / 64) 0) (s % 64)).forM fun s => answerSlot t v y e s
  return e

/-! ### Execution in queue 8 -/

/-- The head of queue 8 when it has an opcode and may issue: at most 8 commands are in flight (R258), and no routing
command issues that a GEN change is to discard (R209). -/
def Dev.movHead (d : Dev) (t op : Nat) : Option Cmd :=
  match d.head t 8 with
  | some c =>
    if cmdOp c = op ∧ (d.queue t 8).flight.length < 8 ∧ !(decide (0xC ≤ op) && d.expertGenClr) then some c else none
  | none => none

/-- The choice table, the combine buffer and the expert buffers of a routing command, as far as they lie on this
device, are undefined after its fault (R213). -/
def Dev.rteUndef (d : Dev) (t : Nat) (c : Cmd) : Dev :=
  if cmdOp c = 0xC then
    let s := descOf (d.rd (tentMem t (cmdF c 32 17)) 64)
    d.undefPad t (cmdF c 64 17) (8 * min 4096 (s.dim 1) * (cmdF c 160 4 + 1))
  else if cmdOp c = 0xD then
    let x := descOf (d.rd (tentMem t (cmdF c 64 17)) 64)
    let k := min 4096 (x.dim 1) * (cmdF c 144 4 + 1)
    let experts := ((List.range k).filterMap fun i =>
      let e := d.rdNat (tentMem t (cmdF c 32 17 + 8 * i)) 8
      if field e 30 2 = 1 then some (field e 0 16) else none).eraseDups
    let d1 := experts.foldl (fun (d : Dev) x =>
      d.undefExpert t ((dirEntOf (d.rd (d.reg (rteReg t 0) + 16 * x) 16)).tent0 + cmdF c 128 12) x) d
    (d1.undefPad t (cmdF c 96 17) (k * rowBytes x)).undefPad t (cmdF c 32 17) (8 * k)
  else if cmdOp c = 0xE then d.undefExpert t t (cmdF c 32 16)
  else d

/-- Run a routing command at the head: it is in flight until its packets are acknowledged. -/
def Dev.rteRun (d : Dev) (t op : Nat) (work : Cmd → Eng (List Byte)) : Dev :=
  match d.movHead t op with
  | none => d
  | some c =>
    match (work c).run { dev := d } with
    | (.ok note, s) =>
      let f := s.dev.flush (.queue t 8) { job := s.dev.job } s.out
      f.2.issue t 8 { cmd := c, descs := note, acks := s.acks ++ f.1, olds := d.wordsLost s.dev }
    | (.error (.fault cause addr), s) => (s.dev.rteUndef t c).rteFault t c cause addr
    | (.error _, _) => d

/-- ROUTE (R197). -/
def execRoute (t : TentId) : State → Out :=
  lift fun d => d.rteRun t.toNat 0xC fun c => do
    routeWork t.toNat c
    return []

/-- DISPATCH (R202): one that names an open group waits, with every command behind it (R206). -/
def execDispatch (t : TentId) : State → Out :=
  lift fun d =>
    match d.movHead t.toNat 0xD with
    | none => d
    | some c =>
      if d.regF (grpAddr t.toNat (cmdF c 149 3)) 42 1 = 1 then d
      else d.rteRun t.toNat 0xD fun c => do
        dispatchWork t.toNat c
        return []

/-- ANSWER (R205). -/
def execAnswer (t : TentId) : State → Out :=
  lift fun d => d.rteRun t.toNat 0xE fun c => do
    let e ← answerWork t.toNat c
    return leBytes 4 e.inOff ++ leBytes 4 (8 * e.words)

/-- What a routing command does when it completes: an ANSWER clears its bitmap, a DISPATCH with nothing to
wait for closes its group. -/
def Dev.rteFinish (d : Dev) (t : Nat) (i : Issued) : Dev :=
  if cmdOp i.cmd = 0xE then
    let o := leAt i.descs 0 4
    d.zero (tentMem t o) (tentMem t (o + leAt i.descs 4 4))
  else if cmdOp i.cmd = 0xD then
    let g := cmdF i.cmd 149 3
    if d.regF (grpAddr t g) 42 1 = 1 ∧ d.regF (grpAddr t g) 0 17 = 0 then d.closeGroup t g else d
  else d

/-! ### The GEN change (R209) -/

/-- Experts of a tent's directory that have an entry with some bit set. -/
def Dev.dirExperts (d : Dev) (t : Nat) : List Nat :=
  let base := d.reg (rteReg t 0)
  ((d.mem.filter fun p => decide (base ≤ p.1) && decide (p.1 < base + 2 ^ 20)).map fun p =>
    (p.1 - base) / 16).eraseDups

/-- Every expert bitmap of a tent reads zero. -/
def Dev.clearBitmaps (d : Dev) (t : Nat) : Dev :=
  (d.dirExperts t).foldl (fun d x =>
    let e := dirEntOf (d.rd (d.reg (rteReg t 0) + 16 * x) 16)
    if e.valid ∧ e.dev = d.devId ∧ e.tent0 ≤ t ∧ t ≤ e.tent0 + e.nt ∧ e.inOff + 8 * e.words ≤ padLen then
      d.zero (tentMem t e.inOff) (tentMem t (e.inOff + 8 * e.words))
    else d) d

/-- The GEN change in one tent: the routing command in progress completes, those not issued are discarded
with their pegs signalled, open groups close with their pegs, bitmaps clear. -/
def Dev.rteGenTent (d : Dev) (t : Nat) : Dev :=
  let q := d.queue t 8
  let running := q.flight.filter fun i => decide (0xC ≤ cmdOp i.cmd)
  let dropped := q.entries.filter fun c => decide (0xC ≤ cmdOp c)
  let d1 := d.modQueue t 8 fun x =>
    { x with flight := x.flight.filter (fun i => decide (cmdOp i.cmd < 0xC)),
             entries := x.entries.filter (fun c => decide (cmdOp c < 0xC)) }
  let d2 := running.foldl (fun d i => (d.rteFinish t i).cmdDone t 8 i.cmd) d1
  let d3 := dropped.foldl (fun d c => d.signal t c) d2
  let d4 := (List.range 8).foldl (fun d g => if d.regF (grpAddr t g) 42 1 = 1 then d.closeGroup t g else d) d3
  d4.clearBitmaps t

/-- Tents of this device that hold anything in queues or scratchpad. -/
def Dev.usedTents (d : Dev) : List Nat :=
  (d.liveTents ++ d.mem.filterMap fun p =>
    match regionOf p.1 with
    | .scratch t _ => some t
    | _ => none).eraseDups

/-- EXPERT_GEN_CLEAR (R209): owed since GEN changed. -/
def Dev.expertClear (d : Dev) : Dev :=
  if !d.expertGenClr then d
  else
    let d1 : Dev := d.usedTents.foldl (fun d t => d.rteGenTent t) d
    { d1 with expertGenClr := false }

/-- EXPERT_GEN_CLEAR. -/
def execExpertGenClear : State → Out := lift (·.expertClear)

end Sys2Proof.Machine
end

