-- ==== Sys2Proof/Machine/Resets.lean ====
section
/-! DEFINITION. What each reset and the strike clear (19 R424 to R428, R445, Table 19.2; 18 R411, R414,
Table 18.11). -/

namespace Sys2Proof.Machine

/-! ### The Compass's totals (R445) -/

/-- Offsets of the tent counters the Compass reads. -/
def compassOffsets : List Nat := [0x108, 0x80_0008, 0x80_0010, 0x80_0018]

/-- The tent and offset of a register of a tent's window. -/
def tentOffOf (a : Nat) : Option (Nat × Nat) :=
  if tentRegBase ≤ a ∧ a < spareRegBase + 0x1_0000_0000 then
    some ((a - tentRegBase) / 0x100_0000, (a - tentRegBase) % 0x100_0000)
  else none

/-- Where a tent counter's total lies. -/
def Dev.totalAddr (d : Dev) (t o : Nat) : Nat :=
  let n := dieReg 6 (0x1810_0000 + 32 * d.physical t)
  if o = 0x108 then n else if o = 0x80_0010 then n + 8 else if o = 0x80_0018 then n + 16
  else dieReg 6 0x1800_0020

/-- The Compass adds the rise of every tent counter since its last read. -/
def Dev.compassTotals (d : Dev) : Dev :=
  (d.regs.filterMap fun p =>
    match tentOffOf p.1 with
    | some (t, o) => if compassOffsets.contains o then some (p.1, t, o, p.2) else none
    | none => none).foldl (fun d (a, t, o, v) =>
      let last := look (fun _ => 0) d.compassRead a
      { d.bump (d.totalAddr t o) (v - last).toNat with
        compassRead := put (fun _ => 0) d.compassRead a v }) d

/-! ### Tents -/

/-- What asks for a tent to be cleared: the strike changes no CLK register (R396), a TENT reset keeps the pack
stack (R176). -/
inductive TentClear where
  | soft | strike | tent
  deriving DecidableEq, Repr

/-- Registers of a tent window that a clear keeps: what the kit writes (watch tables, TNT_TEST_CTL), and in
the strike the CLK registers. -/
def keptTentReg (why : TentClear) (o : Nat) : Bool :=
  (decide (0x50_0000 ≤ o) && decide (o < 0x60_0000)) || (decide (0x100 ≤ o) && decide (o < 0x108)) ||
    (decide (why = .strike) && decide (0x80_0000 ≤ o) && decide (o < 0x80_0020))

/-- Clear the registers, memories and read marks of the tents that a test names. -/
def Dev.wipeTentRegs (d : Dev) (which : Nat → Bool) (why : TentClear) : Dev :=
  let gone : Nat → Bool := fun a =>
    match tentOffOf a with
    | some (t, o) => which t && !keptTentReg why o
    | none => false
  let goneMem : Nat → Bool := fun a =>
    match regionOf a with
    | .scratch t _ => which t
    | .vreg t _ => which t
    | .istore t _ _ => which t
    | _ => false
  { d with
    regs := d.regs.filter fun p => !gone p.1
    mem := d.mem.filter fun p => !goneMem p.1
    bad := d.bad.filter fun a => !goneMem a
    flips := d.flips.filter fun p => !goneMem p.1
    compassRead := d.compassRead.filter fun p => !gone p.1 }

/-- What a tent keeps through a clear: its rows mapped to spares, in a TENT reset its pack stack, in the
strike its clock generator. -/
def Tent.cleared (x : Tent) (why : TentClear) : Tent :=
  { remaps := x.remaps
    stack := if why = .tent then x.stack else {}
    stretch := if why = .strike then x.stretch else 0 }

/-- Whether a tag waits for a unit of a tent that a test names. -/
def tentOwner (which : Nat → Bool) : Owner → Bool
  | .core t _ => which t
  | .queue t _ => which t
  | .pack t => which t
  | _ => false

/-- Clear the tents that a test names (Table 19.2). -/
def Dev.wipeTents (d : Dev) (which : Nat → Bool) (why : TentClear) : Dev :=
  let d1 := d.wipeTentRegs which why
  let tents : List (Nat × Tent) := d1.tents.filterMap fun (t, x) =>
    let y : Tent := if which t then x.cleared why else x
    if y = {} then none else some (t, y)
  { d1 with
    tents := tents
    stores := d1.stores.filter fun s => !which s.t
    tids := d1.tids.filter fun p => !tentOwner which p.2
    gyl := d1.gyl.filter fun m => match m with
      | .toRow _ t => !which t
      | .release _ t _ => !which t
      | _ => true }

/-! ### Device blocks -/

/-- The registers of a window at the same offset of several dies at their reset values. -/
def Dev.wipeDies (d : Dev) (dies : List Nat) (lo hi : Nat) : Dev :=
  dies.foldl (fun (d : Dev) x => d.wipeRegs (dieReg x lo) (dieReg x hi)) d

/-- Ring channels: registers and commands. -/
def Dev.wipeRings (d : Dev) : Dev :=
  let d1 := (d.wipeDies [2, 3, 4, 5] 0x600_0000 0x600_1000).wipeDies [6, 7] 0x1000_0000 0x1000_1000
  { d1 with
    rings := [], stashAcks := [], stashSeal := none, pull := none
    tids := d1.tids.filter fun p => match p.2 with
      | .ring _ _ => false
      | .stash => false
      | _ => true }

/-- The PCK registers (R193). -/
def Dev.wipePck (d : Dev) : Dev := d.wipeDies [2, 3, 4, 5] 0x800_0000 0x802_0000

/-- I/O die pegs and every counter, mask and register of the guylines; the camp tree only where `tree`. -/
def Dev.wipeSync (d : Dev) (tree : Bool) : Dev :=
  let d1 := (d.wipeDies [6, 7] 0x1100_0000 0x1100_4080).wipeDies [0, 1] 0x100_0000 0x100_8000
  let d2 : Dev := if tree then d1.wipeDies [6] 0x1200_0000 0x1200_2000
    else (List.range 16).foldl (fun (d : Dev) g =>
      (d.wipeDies [6] (0x1200_0004 + 0x100 * g) (0x1200_0008 + 0x100 * g)).setRegF
        (dieReg 6 (0x1200_0000 + 0x100 * g)) 16 1 0) d1
  { d2 with armed := [], gyl := [], gylGenClr := false }

/-- Reduction contexts that a test names: registers, state, packets. -/
def Dev.wipeCtxs (d : Dev) (which : Nat → Bool) : Dev :=
  let cs := (List.range 64).filter which
  let d1 : Dev := cs.foldl (fun (d : Dev) c => d.wipeRegs (ctxReg c 0) (ctxReg c 0x100)) d
  { d1 with
    ctxs := d1.ctxs.filter fun p => !which p.1
    waitPkts := d1.waitPkts.filter fun p => !which (leAt p 32 1 % 64)
    heldGo := d1.heldGo.filter fun g => !which (g % 64) }

/-- A job is placed on the device: it runs here or waits for the strike to end. -/
def Dev.jobPlaced (d : Dev) : Bool :=
  d.jobHere.isSome || d.owedStart.isSome || d.qm.running.any (·.devices.contains d.devId)

/-! ### SOFT, TENT (R424, R428) -/

/-- A SOFT reset: every tent, engine, mover, pack engine, adder and context; the Compass reads first. -/
def Dev.softReset (d : Dev) : Dev :=
  let d1 := ((((d.compassTotals.wipeTents (fun _ => true) .soft).wipeRings).wipePck).wipeSync true).wipeCtxs
    (fun _ => true)
  let d2 := (d1.wipeDies [6, 7] 0xE00_0010 0xE00_0020).wipeDies [6, 7] 0xE00_0100 0xE00_0140
  { d2 with packGenClr := false, expertGenClr := false, response := none }

/-- The SOFT reset of a device with a placed job makes its step CONTAINED. -/
def Dev.softResetLogged (d : Dev) : Dev :=
  let d1 := d.softReset
  if d.jobPlaced then d1.lanErr clsContained 0x10 {} else d1

/-- A TENT reset (R424): one tent, whose stack is kept. -/
def Dev.tentReset (d : Dev) (t : Nat) : Dev := d.compassTotals.wipeTents (· == t) .tent

/-! ### The canister (R411) -/

/-- The canister of a Lantern cleared to zero: the identity key, the command nonce, the SEQs accepted. -/
def Lantern.wiped (x : Lantern) : Lantern :=
  { x with keyHeld := false, lastSeq := [], nonce := [0, 0, 0, 0], busy := none }

/-- Both. -/
def Dev.wipeCanisters (d : Dev) : Dev := { d with lanA := d.lanA.wiped, lanB := d.lanB.wiped }

/-! ### Secure data (R409, R413) -/

/-- Bytes of a tent's scratchpad in secure segments, and of memory in secure regions, to zero. -/
def Dev.clearSecure (d : Dev) : Dev :=
  let sec : Nat → Bool := fun a =>
    match regionOf a with
    | .scratch t o => d.segSecure t (o / 8192)
    | .hbm => d.memSecure a 1
    | .lpddr => d.memSecure a 1
    | _ => false
  { d with mem := d.mem.filter fun p => !sec p.1, bad := d.bad.filter fun a => !sec a
           flips := d.flips.filter fun p => !(upsetSoft p.2 && sec p.1) }

/-! ### The strike (R414, Table 18.11) -/

/-- VALID and STRIKE of a region entry. -/
def Dev.strikeEntries (d : Dev) : List Nat :=
  (List.range 64).filter fun n => d.regF (rgnAddr n + 0x10) 0 1 == 1 && d.regF (rgnAddr n + 0x10) 2 1 == 1

/-- The strike starts: CANCEL, contexts of the job closed, every unit stopped, everything of Table 18.11
cleared but the regions, whose clears run one at a time. Relay contexts of other jobs stay. -/
def Dev.strike (d : Dev) : Dev :=
  let job := d.job
  let d1 := d.cancel.contextCancel
  let relays := d1.openCtxs.filter fun c => d1.ctxJob c != job
  let d2 := ((((d1.wipeTents (fun _ => true) .strike).wipeRings).wipePck).wipeSync false).wipeCtxs
    (fun c => !relays.contains c)
  let d3 := ((d2.wipeDies [6, 7] 0xE00_0010 0xE00_0030).wipeDies [6, 7] 0xE00_0100 0xE00_0140).wipeDies
    [6] 0xF00_0000 0xF00_0010
  let d4 := (d3.wipeDies [2, 3, 4, 5] 0x300 0x338).wipeDies [6] 0x1800_0010 0x1800_0018
  let rs := d4.strikeEntries
  { d4 with
    packGenClr := false, expertGenClr := false, response := none, startWait := none
    striking := some job, strikeRgn := rs, strikeCount := rs.length }.nextStrikeClear

/-- Every clear of the strike has finished. -/
def Dev.strikeCleared (d : Dev) : Bool :=
  d.striking.isSome && d.strikeRgn.isEmpty && d.clearRun.isNone && d.clearWait.isNone

end Sys2Proof.Machine
end

