-- ==== Sys2Proof/Machine/Ucie.lean ====
section
/-! DEFINITION. Die-to-die links (01 R15 to R19): frames and the modules they take, replay, retraining. -/

namespace Sys2Proof.Machine

/-- A log entry of the pair. DESIGN CHOICE, for the spec gives no cause table of block 0x0E: TAG is the module; CAUSE is
0x01 for a module out of the hash, 0x02 for a replay, 0x03 for a pair without a working module, 0x04 for a module out
until COLD; the log is that of the pair's first die, with the pair's number as unit. -/
def Dev.ucieErr (d : Dev) (pair m cls cause : Nat) : Dev :=
  d.dieErr (pairDie pair) pair 0x0E cls cause { tag := m }

/-- A pair without a working module is a DEVICE error (R19). -/
def Dev.checkPair (d : Dev) (pair : Nat) : Dev := if d.pairAlive pair then d else d.ucieErr pair 0 clsDevice 0x03

/-- The change of hash a pair is in the middle of. -/
def Dev.rehashAt (d : Dev) (pair : Nat) : Rehash := look (fun _ => {}) d.rehash pair
/-- Replace it. -/
def Dev.setRehash (d : Dev) (pair : Nat) (x : Rehash) : Dev :=
  { d with rehash := put (fun _ => {}) d.rehash pair x }

/-- The module of a set that the hash gives a destination address, by 256-byte granules (R15). -/
def hashPick (ms : List Nat) (addr : Nat) : Option Nat :=
  if ms.isEmpty then none else some (ms.getD (Config.ucieHash (addr / 256) % ms.length) 0)

/-- The module that carries a frame (R15, R18): the hash over the working modules; while frames of a module that left
the hash are owed, those go by it and new ones by the hash before, where its module still works. -/
def Dev.moduleFor (d : Dev) (pair : Nat) (dir : Bool) (f : DieFrame) : Option Nat :=
  let r := d.rehashAt pair
  if r.owed.isEmpty then hashPick (d.working pair) f.addr.toNat
  else if r.owed.find? (fun o => o.1 == dir) = some (dir, f) then hashPick (d.working pair) f.addr.toNat
  else (hashPick r.before f.addr.toNat).filter fun m => !(d.module pair m).out

/-- A module leaves the hash and retrains; its replay buffer is owed on the others (R17, R18). -/
def Dev.moduleOut (d : Dev) (pair m : Nat) : Dev :=
  let x := d.module pair m
  let r := d.rehashAt pair
  let owed := r.owed ++ (x.buf.map fun b => (b.1, b.2.2)).filter fun o => !r.owed.contains o
  if x.out then d
  else (((d.setModule pair m { x with out := true, training := true, fails := 0, buf := [] }).setRehash pair
    (if owed.isEmpty then {} else { owed := owed, before := if r.owed.isEmpty then d.working pair else r.before })).ucieErr
      pair m clsCorrected 0x01).checkPair pair

/-- The receiver takes a frame: it leaves the replay buffer, and the frames owed. -/
def Dev.frameTaken (d : Dev) (pair m : Nat) (dir : Bool) (num : Nat) (f : DieFrame) : Dev :=
  let x := d.module pair m
  let r := d.rehashAt pair
  let owed := r.owed.erase (dir, f)
  (d.setModule pair m { x with
    next := x.next.set (b2n dir) (num + 1)
    buf := x.buf.filter fun b => !(b.1 == dir && b.2.1 == num) }).setRehash pair
      (if owed.isEmpty then {} else { r with owed := owed })

/-- A frame that the receiver discards stays in the sender's replay buffer, once. -/
def Module.keep (x : Module) (dir : Bool) (num : Nat) (f : DieFrame) : Module :=
  if x.buf.any fun b => b.1 == dir && b.2.1 == num then x else { x with buf := x.buf ++ [(dir, num, f)] }

/-- D2D_FRAME_RECEIVE (R15, R16): frame `num` of the module that the hash gives it, sent in a grant of the pair's egress
(Table 16.4). The next frame with a good CRC is taken; a bad one, and every frame after it, is discarded and stays in
the sender's 64 frames until the replay reaches it, which sends what the buffer holds. A replay is counted, and a
module that replays too often leaves the hash (R17). -/
def execD2dFrameReceive (pair : BitVec 4) (dir : Bool) (num : Nat) (f : DieFrame) (crcOk : Bool) : State → Out :=
  lift fun d =>
    let pn := pair.toNat
    match d.moduleFor pn dir f with
    | none => d
    | some m =>
      let x := d.module pn m
      let want := x.next.getD (b2n dir) 0
      let kept := x.buf.filter fun b => b.1 == dir
      if num < want ∨ kept.any (fun b => b.2.1 == num && b.2.2 != f) ∨ (want < num ∧ kept.isEmpty) ∨
          (64 ≤ kept.length ∧ !(kept.any fun b => b.2.1 == num)) then d
      else
        let d0 := (d.grant (pairWatch pn dir) [if f.mesh then 1 else 0]).1
        if want < num then d0.setModule pn m (x.keep dir num f)
        else if crcOk then d0.frameTaken pn m dir num f
        else
          let d1 := (d0.setModule pn m { x.keep dir num f with replays := x.replays + 1, recent := x.recent + 1 }).ucieErr
            pn m clsCorrected 0x02
          if Config.kitReplayRate (kitSection d.kit 0xA) < x.recent + 1 then d1.moduleOut pn m else d1

/-- UCIE_LANE_PARITY_FAIL (R17): the lane is to be repaired, and its module retrains. -/
def execUcieLaneParityFail (pair : BitVec 4) (l : UcieLane) : State → Out :=
  lift fun d =>
    let pn := pair.toNat
    let mn := l.m.toNat
    if pairModules pn ≤ mn then d
    else
      let x := d.module pn mn
      (d.setModule pn mn { x with
        failing := if x.failing.contains l.lane.toNat then x.failing else x.failing ++ [l.lane.toNat] }).moduleOut pn mn

/-- A module that has trained clean: its failing lanes are repaired onto redundant ones, and it counts frames from the
start. -/
def Module.trained (x : Module) : Module :=
  { replays := x.replays, repaired := x.repaired ++ x.failing.filter fun l => !x.repaired.contains l }

/-- Every module is trained during the power-up sequence, but for those out until COLD (R17). -/
def Dev.trainModules (d : Dev) : Dev :=
  { d with ucie := d.ucie.map fun p => (p.1, if p.2.dead then p.2 else p.2.trained), rehash := [] }

/-- UCIE_RETRAIN_DONE (R17, R18): a training, in a recalibration slot of the pair's egress, ends: back in the hash when
it trained clean; after three failures in a row out until COLD. -/
def execUcieRetrainDone (pair : BitVec 4) (m : BitVec 5) (clean : Bool) : State → Out :=
  lift fun d =>
    let pn := pair.toNat
    let mn := m.toNat
    let x := d.module pn mn
    if !x.training then d
    else
      let d := (d.grant (pairWatch pn false) [2]).1
      if clean then d.setModule pn mn x.trained
      else if x.fails + 1 < 3 then d.setModule pn mn { x with fails := x.fails + 1 }
      else ((d.setModule pn mn { x with fails := 3, training := false, dead := true }).ucieErr pn mn clsCorrected
        0x04).checkPair pn

end Sys2Proof.Machine
end

