-- ==== Sys2Proof/Machine/Boot.lean ====
section
/-! DEFINITION. Boot and the resets of the whole module (18 R398, R403 to R405; 19 R424 to R427; 20 R461,
R462): choosing and applying a kit, roles, COLD, WARM, power. -/

namespace Sys2Proof.Machine

/-! ### Choosing a kit (R404) -/

/-- The slots of a Lantern: A, B. -/
def Flash.pair (f : Flash) (b : Bool) : List Byte × List Byte :=
  (f.slots.getD (2 * b2n b) [], f.slots.getD (2 * b2n b + 1) [])

/-- The slot chosen in boot step 2: of the valid ones the higher SEQUENCE, slot A on a tie. -/
def chooseSlot (f : Fuses) (s : List Byte × List Byte) (badA badB : Bool) : Option Bool :=
  match kitStep2 f s.1 && !badA, kitStep2 f s.2 && !badB with
  | true, true => some (decide (kitSequence s.1 < kitSequence s.2))
  | true, false => some false
  | false, true => some true
  | false, false => none

/-- Steps 2 and 3: a slot whose digest fails is marked invalid and the choice is made again; each slot fails
at most once. -/
def lanTry (f : Fuses) (s : List Byte × List Byte) : Nat → Lantern → Lantern
  | 0, x => x
  | n + 1, x =>
    match chooseSlot f s x.badA x.badB with
    | none => { x with kitOk := false, kit := [], role := .booting }
    | some slot =>
      let k := if slot then s.2 else s.1
      if kitDigests k then { x with kitOk := true, kit := k, slotB := slot, role := .booting }
      else lanTry f s n (if slot then { x with badB := true } else { x with badA := true })

/-- A Lantern boots through step 3; a device in END stops after step 1 (R409). -/
def lanBoot (p : Perm) (b : Bool) (x : Lantern) : Lantern :=
  let y : Lantern := { badA := x.badA, badB := x.badB }
  if p.fuses.lifecycle = 4 then y else lanTry p.fuses (p.flash.pair b) 3 y

/-- Draw a nonce from the TRNG (R410, R422). -/
def Dev.drawNonce (d : Dev) : List Word × Dev :=
  ((List.range 4).map fun i => Config.freeWord (d.fresh + i), { d with fresh := d.fresh + 4 })

/-! ### Roles (R398) -/

/-- The role of the second Lantern beside an active one. -/
def secondRole (active x : Lantern) : Lantern :=
  if !x.kitOk then { x with role := .booting }
  else if kitMeasure x.kit = kitMeasure active.kit then { x with role := .standby }
  else { x with role := .neither, kitOk := false }

/-- Roles after both have tried their flash: A active if it has a kit, else B; the other by its kit. A device
without a standby logs it; without an active Lantern it raises a DEVICE error (R404). -/
def Dev.assignRoles (d : Dev) : Dev :=
  let a := d.lanA
  let b := d.lanB
  if a.kitOk then
    let d1 := { d with lanA := { a with role := .active }, lanB := secondRole a b }
    if d1.lanB.role = .standby then d1 else d1.lanErr clsCorrected 0x01 {}
  else if b.kitOk then
    ({ d with lanB := { b with role := .active }, lanA := secondRole b a }).lanErr clsCorrected 0x01 {}
  else d.lanErr clsDevice 0x02 {}

/-! ### Applying a kit (R7, R384, R401, R403) -/

/-- Write the entries of a table, by device-local address: those that lie in the table's own registers, and of each
the fields that software may write (R2, R4). -/
def Dev.writeAll (d : Dev) (mine : Nat → Bool) (ws : List (Nat × Word)) : Dev :=
  ws.foldl (fun (d : Dev) w =>
    let a := homeOf w.1
    match regAt a with
    | some r =>
      if r.addr = a ∧ mine a then
        let m := fieldBits r.row.fields fun k => k == Acc.rw || k == Acc.rwl
        d.setReg a ((d.reg a - (d.reg a &&& m)) + (w.2.toNat &&& m))
      else d
    | none => d) d

/-- Registers of a window range of the dies from lo to hi - 1. -/
def inWindows (lo hi w0 w1 : Nat) (a : Nat) : Bool :=
  match regionOf a with
  | .dieR die o => decide (lo ≤ die) && decide (die < hi) && decide (w0 ≤ o / 0x100_0000) && decide (o / 0x100_0000 < w1)
  | _ => false

/-- The registers of the route table and the multicast table (TOPOLOGY, Table 18.6). -/
def topologyReg (a : Nat) : Bool :=
  match regionOf a with
  | .dieR die o => decide (6 ≤ die) && decide (0xC01_0000 ≤ o) && decide (o < 0xC03_0000)
  | _ => false

/-- The registers the image writes at job start (R384, R295): guyline masks, GYL_CAMP_g and the child lists, multicast
entries. -/
def imageReg (a : Nat) : Bool :=
  inWindows 0 2 1 2 a || inWindows 6 8 18 19 a ||
    (match regionOf a with
    | .dieR die o => decide (6 ≤ die) && decide (0xC02_0000 ≤ o) && decide (o < 0xC03_0000)
    | _ => false)

/-- Write a setting: an arrangement and GB_SEGS by their own rules (R34, R45), credit allocations in their link. -/
def Dev.applySetting (d : Dev) (s : Setting) : Dev :=
  match regionOf s.addr with
  | .tentR t o =>
    if o = 0 then d.arrangeWrite t s.val
    else if o = 0x14 then d.gbankWrite t s.val
    else d.setRegF s.addr s.lsb s.width s.val
  | .dieR die o =>
    match credRegOf die o with
    | some (l, hi) => d.setCredWord l hi (withField (d.credWord l hi) s.lsb s.width s.val)
    | none => d.setRegF s.addr s.lsb s.width s.val
  | _ => d

/-- Keep a setting as the last preset that lists it has it (R9). -/
def Dev.keepSetting (d : Dev) (s : Setting) : Dev :=
  { d with preset := insertAt (s.addr * 64 + s.lsb) s (dropAt (s.addr * 64 + s.lsb) d.preset) }

/-- Apply a preset (R7): every setting it lists, and no other; what it wrote is kept for R9. -/
def Dev.applyPreset (d : Dev) (ws : List Setting) : Dev :=
  ws.foldl (fun (d : Dev) s => (d.applySetting s).keepSetting s) d

/-- A setting of a kit section, or its default. -/
def kitNum (k : List Byte) (sect : Nat) (key : KitKey) (dflt : Nat) : Nat :=
  (Config.kitSetting (kitSection k sect) key).getD dflt

/-- A setting of a kit section as a preset lists it; none where the register's reset value stays. -/
def kitField (k : List Byte) (sect : Nat) (key : KitKey) (addr lsb width : Nat) : List Setting :=
  match Config.kitSetting (kitSection k sect) key with
  | some v => [⟨addr, lsb, width, v % 2 ^ width, false⟩]
  | none => []

/-- The code of an interleave of G bytes (R240). -/
def interleaveCode (g : Nat) : Nat := if g = 256 then 0 else if g = 1024 then 1 else if g = 65536 then 3 else 2

/-- The settings of a kit that name registers (R240, R396, Tables 12.13 and 19.10). -/
def kitSettings (k : List Byte) : List Setting :=
  let il := interleaveCode (kitNum k 0xA .memInterleave 4096)
  let scope := min 1 (kitNum k 0xA .memScope 0)
  let hours := kitNum k 0xA .scrubHours 24 % 256
  let rep := min 1 (kitNum k 0xA .memRepair 1)
  let fstep := (kitNum k 4 .fclkMhz 2500 - 1000) / 100 % 16
  let ctls := [2, 3, 4, 5].flatMap fun die => [2, 3, 4, 5].map fun w => dieReg die (w * 0x100_0000)
  let port (p o : Nat) : Nat := dieReg (6 + p / 12) (p % 12 * 0x100_0000 + o)
  let viol := dieReg 6 0xC00_0000
  [⟨dieReg 0 0x1500_0000, 0, 4, fstep, false⟩, ⟨dieReg 1 0x1500_0000, 0, 4, fstep, false⟩,
    ⟨dieReg 2 0, 0, 2, il, false⟩, ⟨dieReg 2 0, 2, 1, scope, false⟩, ⟨dieReg 2 0, 3, 2, il, false⟩,
    ⟨dieReg 2 0, 5, 1, scope, false⟩] ++
    (ctls.flatMap fun a => [⟨a, 0, 8, hours, false⟩, ⟨a, 8, 1, rep, false⟩]) ++
    ((List.range 24).flatMap fun p => kitField k 6 (.trailSplit p) (port p 0) 1 1) ++
    ((List.range 48).flatMap fun l => (List.range 8).flatMap fun v =>
      kitField k 6 (.trailCredits v) (port (l / 2) (0x20 + 16 * (l % 2) + 8 * (v / 4))) (16 * (v % 4)) 14) ++
    kitField k 6 .violLimit viol 0 8 ++ kitField k 6 .violWindow viol 8 10 ++ kitField k 6 .replayLimit viol 18 8 ++
    ([6, 7].flatMap fun die => kitField k 6 .mcastTimeout (dieReg die 0xC00_0004) 0 16 ++
      kitField k 6 .completionTimeout (dieReg die 0xC00_0004) 16 16) ++
    kitField k 6 .relayTimeout (dieReg 6 0x1400_0018) 0 16 ++
    ((List.range 8).flatMap fun die => kitField k 0xA .gateIdle (dieReg die 0x1800_0000) 0 8 ++
      kitField k 0xA .memPowerdownIdle (dieReg die 0x1800_0000) 8 10 ++
      kitField k 0xA .laneIdle (dieReg die 0x1800_0000) 18 10 ++ kitField k 0xA .tempWarn (dieReg die 0x1800_0004) 0 8 ++
      kitField k 0xA .recalDelta (dieReg die 0x1800_0004) 8 8) ++
    ([6, 7].flatMap fun die => kitField k 0xA .watchdogMs (dieReg die 0x1600_0104) 8 8) ++
    kitField k 0xA .compassPeriod (dieReg 6 0x1800_0008) 0 16

/-- Table 2.4: ARRANGE and GB_SEGS of the arrangement presets triplet (1), wide (2) and trio-f (3). -/
def arrangementPreset (n : Nat) : Option (Nat × Nat) :=
  match n with
  | 1 => some (0, 6)
  | 2 => some (1, 0)
  | 3 => some (2, 0)
  | _ => none

/-- The presets of a kit (R35, R263): the arrangement its PRESETS section names, and plot_wait, in every tent. -/
def kitPreset (k : List Byte) : List Setting :=
  let arr := arrangementPreset (Config.kitArrangement (kitSection k 9))
  (List.range 16384).flatMap fun t =>
    (match arr with
    | some (a, g) => [⟨tentReg t 0, 0, 3, a, false⟩, ⟨tentReg t 0x14, 0, 3, g, false⟩]
    | none => []) ++ kitField k 9 .plotWait (tentReg t 0x70_0004) 0 10

/-- LOCKED of each die after step 4 (CLK_LOCK). -/
def lockedBits (die : Nat) : Nat := if die < 2 then 7 else if die < 6 then 3 else if die = 6 then 7 else 3

/-- Every PLL locks (step 4). -/
def Dev.lockPlls (d : Dev) : Dev :=
  (List.range 8).foldl (fun (d : Dev) die => d.setRegF (dieReg die 0x1500_0004) 0 4 (lockedBits die)) d

/-- Registers the kit writes, the region table, the field row maps, the identity TOPOLOGY gives; RWL fields
locked; MODE 0 in every watch table (R384, R403, R427). -/
def Dev.applyKit (d : Dev) (flash : Flash) : Dev :=
  let k := d.kit
  let topo := d.topology
  let d0 := (d.applyPreset (kitSettings k)).writeAll topologyReg (Config.kitTables 6 topo)
  let d1 := d0.writeAll (inWindows 2 3 1 2) (Config.kitTables 8 (kitSection k 8))
  let d2 := flash.repairs.foldl (fun (d : Dev) r => match r with
    | .tent row col => d.setReg (rowMapAddr (64 * row)) (col + 2 ^ 6)
    | _ => d) d1
  let dev := Config.kitDevice topo
  let base := Config.kitBasecamps topo
  { d2 with
    devId := dev.1 % 1024
    role := if flash.roleChanged then (if dev.2 = 1 then 2 else if dev.2 = 2 then 1 else dev.2) else dev.2
    baseId := if flash.roleChanged then base.2 else base.1
    standbyId := if flash.roleChanged then base.1 else base.2
    camp := Config.kitDevices topo
    kitApplied := true
    watchKit := true
    watchTable := Config.kitWatchTable (kitSection k 7)
    watchLimit := kitNum k 7 .watchLimit 16
    watchWindow := kitNum k 7 .serviceWindow 4096 - 1
    watchService := false
    watch := [] }

/-- Presets of the kit (R7): at its application and at each job start. -/
def Dev.applyKitPresets (d : Dev) : Dev := d.applyPreset (kitPreset d.kit)

/-- Bring up the Trail links of the ports TOPOLOGY names (step 9): they train. -/
def Dev.bringUpLinks (d : Dev) : Dev :=
  (Config.kitPorts d.topology).foldl (fun (d : Dev) p =>
    if 24 ≤ p then d
    else ((d.portLinks p).foldl (fun (d : Dev) l => d.trainLink l)
      (d.setRegF (dieReg (6 + p / 12) (p % 12 * 0x100_0000)) 0 1 1))) d

/-- A live Lantern unwraps the identity key into its canister unless the debug port is unlocked (R407, R412). -/
def Lantern.unwrap (x : Lantern) (p : Perm) (debugOpen : Bool) : Lantern :=
  { x with keyHeld := p.flash.wrapped && !debugOpen && x.kitOk }

/-- The PCIe link is up (R460): LINKUP, 64 GT/s, x16 (Table 12.11). -/
def Dev.pcieUp (d : Dev) : Dev := d.setRegF (dieReg 6 0x1400_0000) 0 9 (1 + 6 * 2 + 16 * 2 ^ 4)

/-- Steps 1 to 9 of Table 18.7, after the memories and state have been cleared as the reset asks. -/
def boot (p : Perm) (d : Dev) : Perm × Dev :=
  let dp : Dev := if d.host.perst then d else d.pcieUp
  let d0 : Dev := { dp with power := .on, selfRefresh := false }.trainModules
  let d1 : Dev := { d0 with lanA := lanBoot p false d.lanA, lanB := lanBoot p true d.lanB }
  let failed (x y : Lantern) : List Nat :=
    (if !x.badA && y.badA then [1] else []) ++ (if !x.badB && y.badB then [1] else [])
  let log := failed d.lanA d1.lanA ++ failed d.lanB d1.lanB
  let p1 : Perm := { p with flash := { p.flash with lanLog := p.flash.lanLog ++ log } }
  if p.fuses.lifecycle = 4 then (p1, d1)
  else
    let d2 := d1.assignRoles
    match d2.active with
    | none => (p1, d2)
    | some _ =>
      let n := d2.drawNonce
      let d3 := ((n.2.lockPlls.applyKit p1.flash).applyKitPresets).bringUpLinks
      (p1, { d3 with
        lanA := { d3.lanA.unwrap p d.debugOpen with nonce := n.1 }
        lanB := { d3.lanB.unwrap p d.debugOpen with nonce := n.1 } })

/-! ### WARM and COLD (R424 to R427) -/

/-- Registers of the always-on logic (R426): error ring, Compass totals, counters since COLD. -/
def alwaysOnReg (a : Nat) : Bool :=
  match regionOf a with
  | .dieR die o =>
    let w := o / 0x100_0000
    let x := o % 0x100_0000
    ((die == 6 || die == 7) && w == 0x19) || (die == 6 && w == 0x18 && (x == 0x20 || decide (0x10_0000 ≤ x))) ||
      (w == 0x15 && (x == 4 || x == 8)) ||
      (decide (6 ≤ die) && decide (w < 12) && decide (0x100 ≤ x) && decide (x < 0x200)) ||
      (die == 6 && w == 0x14 && decide (0x20 ≤ x) && decide (x < 0x30)) ||
      (decide (2 ≤ die) && decide (die < 6) && decide (2 ≤ w) && decide (w ≤ 5) && decide (x < 0x128) &&
        (x == 0 || decide (0x100 ≤ x)))
  | _ => false

/-- What a WARM reset leaves: both memory tiers, the always-on logic, the pins, what repairs have used. DESIGN CHOICE:
the replay counts of the die-to-die modules and what is known of their lanes and of failed routers live through it, as
the Compass's totals do. -/
def Dev.warmCleared (d : Dev) : Dev :=
  let kept : Nat → Bool := fun a => regionOf a == .hbm || regionOf a == .lpddr
  { mem := d.mem.filter fun p => kept p.1
    bad := d.bad.filter kept
    flips := d.flips.filter fun p => kept p.1
    regs := d.regs.filter fun p => alwaysOnReg p.1
    time := d.time, fresh := d.fresh, lastRead := d.lastRead, evSeq := d.evSeq, mgmtSeq := d.mgmtSeq
    errCounts := d.errCounts, compassRead := []
    rowSaves := d.rowSaves, bankCopies := d.bankCopies, pprUsed := d.pprUsed, sparesUsed := d.sparesUsed
    bankMap := d.bankMap
    ucie := d.ucie.map fun (k, m) =>
      (k, { out := m.dead, dead := m.dead, failing := m.failing, repaired := m.repaired, replays := m.replays })
    routersOut := d.routersOut
    links := d.links.filterMap fun (k, x) =>
      let y : Link := { lanesOut := x.lanesOut, lanesBad := x.lanesBad }
      if y = {} then none else some (k, y)
    ports := d.ports, resp := d.resp
    host := { perst := d.host.perst }
    power := d.power, rstN := d.rstN, pwrGood := d.pwrGood
    alertN := d.alertN, refclk := d.refclk, tampered := d.tampered, debugOpen := d.debugOpen
    lanA := { badA := d.lanA.badA, badB := d.lanA.badB }
    lanB := { badA := d.lanB.badA, badB := d.lanB.badB }
    selfRefresh := true }

/-- What a COLD reset leaves: pins, and what repairs have used, applied again as hard repairs. -/
def Dev.coldCleared (d : Dev) : Dev :=
  { fresh := d.fresh, pprUsed := d.pprUsed, sparesUsed := d.sparesUsed, bankMap := d.bankMap, mgmtSeq := d.mgmtSeq
    host := { perst := d.host.perst }
    power := d.power, rstN := d.rstN, pwrGood := d.pwrGood
    refclk := d.refclk }

/-- The logic dies have no power: PWR_GOOD is low, or the shutdown temperature has removed it (R27, R461). -/
def Dev.dark (d : Dev) : Bool := !d.pwrGood || d.power == .logicOff

/-- A WARM reset: clear, and boot while RST_N is high. Without power nothing is there to reset. -/
def warmReset (p : Perm) (d : Dev) : Perm × Dev :=
  if d.dark then (p, d)
  else if d.rstN then boot p d.warmCleared else (p, { d.warmCleared with power := .held })

/-- COLD_RESET (R403): PWR_GOOD asserted; the boot waits for RST_N. -/
def execColdReset : State → Out :=
  liftAll fun p d =>
    if d.pwrGood then (p, d)
    else
      let d1 := { d.coldCleared with pwrGood := true }
      if d.rstN then boot p d1 else (p, { d1 with power := .held })

/-- RST_N_ASSERT (R425): self-refresh, and the module is held in WARM reset. -/
def execRstNAssert : State → Out :=
  lift fun d =>
    let d1 := { d with rstN := false }
    if d.dark then d1 else { d1.warmCleared with power := .held }

/-- RST_N_RELEASE (R424): the boot of a module held in reset. -/
def execRstNRelease : State → Out :=
  liftAll fun p d =>
    let d1 := { d with rstN := true }
    if d.power = .held then boot p d1 else (p, d1)

/-- A write to a Lantern register from the non-secure world is discarded and logged (R6). -/
def Dev.lanRefused (d : Dev) (o : Nat) : Dev := d.lanErr clsCorrected 0x06 { addr := dieReg 6 (0x1600_0000 + o) }

/-- LAN_RESET_WARM (R424): the Compass reads first (R445). -/
def execLanResetWarm (w : Writer) : State → Out :=
  asWriter w fun w => liftAll fun p d =>
    if !w.secure then (p, d.lanRefused 0x100) else warmReset p d.compassTotals

/-- SOFT_RESET (R428). -/
def execSoftReset (w : Writer) : State → Out :=
  asWriter w fun w => lift fun d => if !w.secure then d.lanRefused 0x100 else d.softResetLogged

/-- TENT_RESET (R424). -/
def execTentReset (w : Writer) (t : TentId) : State → Out :=
  asWriter w fun w => lift fun d =>
    if !w.secure then d.lanRefused 0x100
    else (d.setRegF (dieReg 6 0x1600_0100) 5 14 t.toNat).tentReset t.toNat

/-- PORT_RESET (R424). -/
def execPortReset (port : BitVec 5) (w : Writer) : State → Out :=
  asWriter w fun w => lift fun d =>
    if !w.secure then d.lanRefused 0x100
    else
      let d1 := d.setRegF (dieReg 6 0x1600_0100) 19 5 port.toNat
      if 24 ≤ port.toNat then d1 else d1.portReset port.toNat

/-- Power goes (R461): what the fuses, the flash and the pins hold is left. -/
def Dev.powerOff (d : Dev) : Dev := { d.coldCleared with pwrGood := false, power := .off }

/-- POWER_DOWN (R461). -/
def execPowerDown : State → Out := lift (·.powerOff)

/-- INPUT_UNDERVOLTAGE (R462): as if PWR_GOOD had fallen. -/
def execInputUndervoltage : State → Out := lift (·.powerOff)

end Sys2Proof.Machine
end

