-- ==== Sys2Proof/Machine/Rings.lean ====
section
/-! DEFINITION. The registers of a ring channel (11 R262): where they lie, the doorbell, enabling and
disabling. -/

namespace Sys2Proof.Machine

/-- A die that has ring channels: memory-side or I/O. -/
def ringDie (die : Nat) : Bool := decide (2 ≤ die) && decide (die < 8)

/-- EN. -/
def Dev.ringOn (d : Dev) (die ch : Nat) : Bool := d.regF (ringReg die ch 8) 0 1 == 1
/-- Entries of the ring. -/
def Dev.ringSize (d : Dev) (die ch : Nat) : Nat := 2 ^ d.regF (ringReg die ch 8) 1 4
/-- A discarded write to BASE or CTL, or to a secure register from the non-secure world. -/
def Dev.ringRefused (d : Dev) (die ch o cause : Nat) : Dev :=
  d.dieErr die ch 0x0A clsCorrected cause { addr := ringReg die ch o }

/-- A write of TAIL: entries up to the value are ready. -/
def Dev.ringTail (d : Dev) (die ch v : Nat) : Dev := d.setReg (ringReg die ch 0x10) (v % 2 ^ 32)

/-- A write of BASE: a multiple of 64; discarded and logged while EN is 1. -/
def Dev.ringBase (d : Dev) (w : Writer) (die ch v : Nat) : Dev :=
  if !w.secure then d.ringRefused die ch 0 0x31
  else if d.ringOn die ch then d.ringRefused die ch 0 0x30
  else d.setReg (ringReg die ch 0) (v / 64 * 64)

/-- A write of CTL. While EN is 1 only the write of EN = 0 acts: it disables the channel. EN = 0 clears
STOPPED and CAUSE; a SIZE outside 4 to 12 refuses EN. -/
def Dev.ringCtl (d : Dev) (w : Writer) (die ch v : Nat) : Dev :=
  let a := ringReg die ch 8
  if !w.secure then d.ringRefused die ch 8 0x31
  else if d.ringOn die ch then
    if bitAt v 0 then d.ringRefused die ch 8 0x30
    else (d.setRegF a 0 1 0).setRegF a 18 9 0
  else
    let ok := decide (4 ≤ field v 1 4) && decide (field v 1 4 ≤ 12)
    let d1 := d.setRegF a 1 17 (v / 2)
    let d2 := if bitAt v 0 then d1 else d1.setRegF a 18 9 0
    if bitAt v 0 && ok && !d2.ringStopped die ch then d2.setRegF a 0 1 1
    else if bitAt v 0 then d2.ringRefused die ch 8 0x30
    else d2

/-- RING_DOORBELL (R262). -/
def execRingDoorbell (d : BitVec 3) (ch : BitVec 4) (w : Writer) (v : Half) : State → Out :=
  asWriter w fun _ => lift fun x => if ringDie d.toNat then x.ringTail d.toNat ch.toNat v.toNat else x

/-- RING_CTL_WRITE (R262). -/
def execRingCtlWrite (d : BitVec 3) (ch : BitVec 4) (w : Writer) (base : Bool) (v : Word) : State → Out :=
  asWriter w fun w => lift fun x =>
    if !ringDie d.toNat then x
    else if base then x.ringBase w d.toNat ch.toNat v.toNat
    else x.ringCtl w d.toNat ch.toNat v.toNat

end Sys2Proof.Machine
end

