-- ==== Sys2Proof/Machine/Scout.lean ====
section
/-! DEFINITION. The Scout's selector (06_scout): the command window, NOP, SELECT, AUDIT, STEP, completion. -/

namespace Sys2Proof.Machine

/-- A selector register of a tent. -/
def sctReg (t o : Nat) : Nat := tentReg t (0x60_0000 + o)
/-- SCT_ERR. -/
def sctErr (t : Nat) : ErrPlace := ⟨sctReg t 8, 4⟩

/-- Change the selector. -/
def Dev.modSel (d : Dev) (t : Nat) (f : Selector → Selector) : Dev :=
  d.modTent t fun x => { x with sel := f x.sel }

/-- The bits each opcode uses (Table 6.3). -/
def sctUsed (op : Nat) : List (Nat × Nat) :=
  [(0, 5), (8, 6), (16, 16)] ++
    match op with
    | 1 => [(32, 17), (64, 17), (96, 17), (128, 17), (160, 3), (168, 6), (176, 16), (192, 32), (224, 32)]
    | 2 => [(32, 17), (64, 17), (160, 2), (168, 6), (176, 16), (192, 32)]
    | 3 => [(168, 6), (176, 16), (192, 32)]
    | _ => []

/-- Fields of SELECT and AUDIT. -/
structure SctCmd where
  sDesc : Nat
  lDesc : Nat
  uDesc : Nat
  mOff : Nat
  topk : Bool
  abs : Bool
  mask : Bool
  slot : Nat
  k : Nat
  thresh : Nat
  deriving DecidableEq, Repr

/-- Read them. -/
def sctOf (c : Cmd) : SctCmd :=
  { sDesc := cmdF c 32 17, lDesc := cmdF c 64 17, uDesc := cmdF c 96 17, mOff := cmdF c 128 17,
    topk := cmdF c 160 1 == 1, abs := cmdF c 161 1 == 1, mask := cmdF c 162 1 == 1, slot := cmdF c 168 6,
    k := cmdF c 176 16, thresh := cmdF c 192 32 }

/-- Checks made at submission: opcode and reserved fields; K under a threshold and THRESH under top-k are
zero (Table 6.3). -/
def sctPushCause (c : Cmd) : Nat :=
  let x := sctOf c
  let both := cmdOp c == 1 || cmdOp c == 2
  firstCause [
    (decide (3 < cmdOp c), 0x01),
    (reservedSet c (sctUsed (cmdOp c)) || (both && (if x.topk then x.thresh != 0 else x.k != 0)), 0x02)]

/-- SCT_LAYER_CTL_n; STAT at +4, TRUTH at +8, MISS at +16, EXTRA at +24. -/
def slotReg (t n : Nat) : Nat := sctReg t (0x100 + 0x20 * n)

/-- An open value in a register. -/
def Dev.undefReg (d : Dev) (a : Nat) : Dev := d.freeWord.2.setReg a d.freeWord.1.toNat

/-- The destinations of a SELECT are undefined after a fault. -/
def Dev.selectUndef (d : Dev) (t : Nat) (x : SctCmd) : Dev :=
  let at_ (o : Nat) : Desc := descOf (d.rd (tentMem t o) 64)
  let ok (v : Desc) : Bool := !v.bad false && v.isLocal d t && v.inPad d t && v.fmt == 12 && v.form == 0
  let u := at_ x.uDesc
  let l := at_ x.lDesc
  let d1 := if ok l then d.undefView l else d
  if ok u then
    let d2 := d1.undefView u
    let n := 8 * ((u.dim 0 + 63) / 64) * l.dim 1
    if x.mask then d2.undef (tentMem t x.mOff) (min n (padLen - x.mOff)) else d2
  else d1

/-- The outputs of a command that faults are undefined until the strike (R149): the lists and masks of a SELECT, the
counts of an AUDIT, the counts and the audit offset of a STEP. -/
def Dev.sctUndef (d : Dev) (t : Nat) (c : Cmd) : Dev :=
  let x := sctOf c
  let a := slotReg t x.slot
  let counts (d : Dev) : Dev := ((d.undefReg (a + 8)).undefReg (a + 16)).undefReg (a + 24)
  match cmdOp c with
  | 1 => d.selectUndef t x
  | 2 => counts d
  | 3 => (counts d).freeWord.2.setReg (a + 4) ((counts d).freeWord.1.toNat % 2 ^ 29)
  | _ => d

/-- A selector fault (R149): recorded, the selector stops, what waits is refused. -/
def Dev.sctFault (d : Dev) (t : Nat) (c : Cmd) (cause addr : Nat) : Dev :=
  ((d.sctUndef t c).recordFault t (sctErr t) c cause addr).modSel t fun s =>
    { s with running := none, issued := false, waiting := none, stopped := true }

/-- A command refused at its submission: those before it still run. -/
def Dev.sctRefuse (d : Dev) (t : Nat) (c : Cmd) (cause : Nat) : Dev :=
  ((d.sctUndef t c).recordFault t (sctErr t) c cause 0).modSel t fun s => { s with stopped := true }

/-- A store to bytes 24 to 31 of the window submits the command (R135). -/
def Dev.sctSubmit (d : Dev) (t : Nat) : Dev :=
  let s := (d.tent t).sel
  let w := look (fun _ => 0) s.window
  let c : Cmd := BitVec.ofNat 256 ((w 0).toNat + (w 1).toNat * 2 ^ 64 + (w 2).toNat * 2 ^ 128 + (w 3).toNat * 2 ^ 192)
  if s.stopped then d
  else if s.running.isSome ∧ s.waiting.isSome then
    d.sctRefuse t c 0x07
  else
    let cause := sctPushCause c
    if cause ≠ 0 then d.sctRefuse t c cause
    else if s.running.isSome then d.modSel t fun s => { s with waiting := some c }
    else d.modSel t fun s => { s with running := some c, issued := false }

/-- A store of bytes to the command window at an offset of 0 to 31. -/
def Dev.sctWindowWrite (d : Dev) (t o : Nat) (bs : List Byte) : Dev :=
  let k := o / 8
  let old := leBytes 8 (look (fun _ => 0) (d.tent t).sel.window k).toNat
  let new := (List.range 8).map fun i =>
    if o % 8 ≤ i ∧ i < o % 8 + bs.length then bs.getD (i - o % 8) 0 else old.getD i 0
  let d1 := d.modSel t fun s => { s with window := put (fun _ => 0) s.window k (BitVec.ofNat 64 (leNat new)) }
  if k = 3 then d1.sctSubmit t else d1

/-! ### Selection (R137, R138) -/

/-- A candidate: its number and key. -/
abbrev Cand := Nat × Num

/-- x ranks before y: larger key, then lower number. -/
def Cand.before (x y : Cand) : Bool := y.2.lt x.2 || (!x.2.lt y.2 && decide (x.1 < y.1))

/-- The k candidates that rank first, in ascending number. -/
def topOf (k : Nat) (xs : List Cand) : List Cand :=
  xs.filter fun x => decide ((xs.filter fun y => y.before x).length < k)

/-- The magnitude of a value. -/
def Num.mag : Num → Num
  | .fin _ m e => .fin false m e
  | .inf _ => .inf false
  | .nan s => .nan s

/-- The set that RULE chooses from one column of scores (NaN is never chosen). -/
def choose (x : SctCmd) (scores : List Num) : List Cand :=
  let cs : List Cand := scores.zipIdx.filterMap fun (v, n) =>
    if v.isNaN then none else some (n, if x.abs then v.mag else v)
  if x.topk then topOf x.k cs else cs.filter fun c => !c.2.lt (fp32.decode x.thresh)

/-- The scores of column i of S. -/
def scoreCol (v : Via) (s : Desc) (i : Nat) : Eng (List Num) :=
  (List.range (s.dim 0)).mapM fun n => do return elemNum s.fmt (← v.get s [n, i])

/-- Write a list into row i of L, or into U, padded with -1. -/
def putRow (v : Via) (l : Desc) (idx : Nat → List Nat) (xs : List Nat) : Eng Unit :=
  (List.range (l.dim 0)).forM fun j => v.put l (idx j) (xs.getD j (2 ^ 32 - 1))

/-- The selector's port (R134). -/
def Dev.sctPort (d : Dev) (t : Nat) : PadPort := ⟨t, 12, d.blkSecure t 7, 0x04, 0x20, 0x21⟩

/-- The checks of a descriptor, in the order DESC, FORM, SHAPE, LOCAL, RANGE. -/
def sctCheck (t : Nat) (v : Desc) (reading : Bool) (form shape : Bool) : Eng Unit := do
  need (!v.engineBad reading && !v.worldBad (← askDev (·.blkSecure t 7))) 0x08 0
  need form 0x03 0
  need shape 0x05 0
  need (← askDev fun d => v.isLocal d t) 0x06 0
  need (← askDev fun d => v.inPad d t) 0x04 0

/-- An index list of 32-bit signed indices. -/
def idxForm (v : Desc) (rank : Nat) : Bool := v.fmt == 12 && v.form == 0 && v.idxSigned && v.rank == rank

/-- A score tensor. -/
def scoreForm (v : Desc) : Bool := (v.fmt == 0 || v.fmt == 1) && v.form == 0 && v.rank == 2

/-- SELECT (R137, R138). -/
def selectWork (p : PadPort) (x : SctCmd) : Eng Unit := do
  need (x.topk || !(fp32.decode x.thresh).isNaN) 0x03 0
  let s ← readDesc p x.sDesc
  sctCheck p.t s true (scoreForm s) (decide (1 ≤ s.dim 0) && decide (s.dim 0 ≤ 16384))
  let l ← readDesc p x.lDesc
  sctCheck p.t l false (idxForm l 2)
    (decide (1 ≤ l.dim 0) && decide (l.dim 0 ≤ 4096) && l.dim 1 == s.dim 1)
  let u ← readDesc p x.uDesc
  sctCheck p.t u false (idxForm u 1) (decide (1 ≤ u.dim 0) && decide (u.dim 0 ≤ 16384))
  need (!x.topk || (decide (1 ≤ x.k) && decide (x.k ≤ 4096))) 0x05 0
  let w := (u.dim 0 + 63) / 64
  need (!x.mask || (x.mOff % 8 == 0 && decide (x.mOff + 8 * w * s.dim 1 ≤ padLen))) 0x04 x.mOff
  let cols ← (List.range (s.dim 1)).mapM fun i => scoreCol (padVia (p.of s)) s i
  onDev (·.bump (sctReg p.t 0x900) ((cols.map fun c => (c.filter (·.isNaN)).length).sum))
  let sets := cols.map (choose x)
  let kept := sets.map (topOf (l.dim 0))
  let rows := kept.map fun r => r.map Prod.fst
  let clip1 := ((sets.zip kept).map fun (a, b) => a.length - b.length).sum
  let votes := fun n => (rows.filter fun r => r.contains n).length
  let union := (List.range (s.dim 0)).filter fun n => 0 < votes n
  let uset := (topOf (u.dim 0) (union.map fun n => (n, ofInt (votes n) 0))).map Prod.fst
  let rows2 := rows.map fun r => r.filter fun n => uset.contains n
  let clip2 := ((rows.zip rows2).map fun (a, b) => a.length - b.length).sum
  onDev (·.bump (sctReg p.t 0x908) (clip1 + clip2))
  rows2.zipIdx.forM fun (r, i) => putRow (padVia (p.of l)) l (fun j => [j, i]) r
  putRow (padVia (p.of u)) u (fun j => [j]) uset
  if x.mask then
    rows2.zipIdx.forM fun (r, i) =>
      (List.range w).forM fun k =>
        padPut p (x.mOff + 8 * (w * i + k)) 8
          (((List.range 64).map fun b =>
            match uset[64 * k + b]? with
            | some n => if r.contains n then 2 ^ b else 0
            | none => 0).sum)

/-- AUDIT: sizes added to TRUTH, MISS and EXTRA (R143), when the slot's AUDIT_K lets any token be audited. -/
def auditWork (p : PadPort) (x : SctCmd) (audited : Bool) : Eng Unit := do
  need (x.topk || !(fp32.decode x.thresh).isNaN) 0x03 0
  let s ← readDesc p x.sDesc
  sctCheck p.t s true (scoreForm s) (decide (1 ≤ s.dim 0) && decide (s.dim 0 ≤ 16384))
  let l ← readDesc p x.lDesc
  sctCheck p.t l true (idxForm l 2)
    (decide (1 ≤ l.dim 0) && decide (l.dim 0 ≤ 4096) && l.dim 1 == s.dim 1)
  need (!x.topk || (decide (1 ≤ x.k) && decide (x.k ≤ 4096))) 0x05 0
  (if audited then List.range (s.dim 1) else []).forM fun q => do
    let truth := (choose x (← scoreCol (padVia (p.of s)) s q)).map Prod.fst
    let row ← (List.range (l.dim 0)).mapM fun j => (padVia (p.of l)).get l [j, q]
    let pred := (row.filter fun n => n != 2 ^ 32 - 1).eraseDups
    let base := sctReg p.t (0x108 + 0x20 * x.slot)
    onDev fun d => ((d.bump base truth.length).bump (base + 8)
      (truth.filter fun n => !pred.contains n).length).bump (base + 16)
      (pred.filter fun n => !truth.contains n).length

/-- The trip test at the end of an AUDIT (R144). -/
def Dev.tripTest (d : Dev) (t n : Nat) : Dev :=
  let a := slotReg t n
  let truth := d.reg (a + 8)
  let miss := d.reg (a + 16)
  let action := d.regF a 4 2
  let s := (d.tent t).sel
  if action = 0 ∨ truth < 64 * d.regF a 22 10 ∨ miss * 2 ^ 16 ≤ d.regF a 6 16 * truth ∨ s.tripped.contains n then d
  else
    let d1 := (d.bump (sctReg t 0x910) 1).modSel t fun s => { s with tripped := n :: s.tripped }
    let d2 := if bitAt action 0 then d1.setRegF (a + 4) 28 1 1 else d1
    if bitAt action 1 then
      d2.raise (t / 4096) 0 0x0103 t
        (look (fun _ => 0) s.layerId n + look (fun _ => 0) s.stepNo n * 2 ^ 16 + truth * 2 ^ 48 + miss * 2 ^ 112)
    else d2

/-- The running command of an opcode, not yet issued. -/
def Dev.sctHead (d : Dev) (t op : Nat) : Option Cmd :=
  let s := (d.tent t).sel
  if d.halted || s.issued then none
  else match s.running with
  | some c => if cmdOp c = op then some c else none
  | none => none

/-- The running command has issued. -/
def Dev.sctIssued (d : Dev) (t : Nat) : Dev := d.modSel t fun s => { s with issued := true }

/-- NOP. -/
def execScoutNop (t : TentId) : State → Out :=
  lift fun d =>
    match d.sctHead t.toNat 0 with
    | some _ => d.sctIssued t.toNat
    | none => d

/-- SELECT (R137, R138, R140): on a DENSE slot it writes nothing. -/
def execSelect (t : TentId) : State → Out :=
  lift fun d =>
    match d.sctHead t.toNat 1 with
    | none => d
    | some c =>
      let x := sctOf c
      let dense := d.regF (slotReg t.toNat x.slot + 4) 28 1 == 1
      let d0 := d.modSel t.toNat fun s => { s with denseTaken := dense }
      if dense then d0.sctIssued t.toNat
      else match (selectWork (d0.sctPort t.toNat) x).run { dev := d0 } with
      | (.ok _, s) => s.dev.sctIssued t.toNat
      | (.error (.fault cause addr), s) => s.dev.sctFault t.toNat c cause addr
      | (.error _, _) => d

/-- AUDIT (R143, R144): with AUDIT_K of 13 to 15 no token is audited, and the slot does not trip. -/
def execAudit (t : TentId) : State → Out :=
  lift fun d =>
    match d.sctHead t.toNat 2 with
    | none => d
    | some c =>
      let x := sctOf c
      let on := decide (d.regF (slotReg t.toNat x.slot) 0 4 < 13)
      match (auditWork (d.sctPort t.toNat) x on).run { dev := d } with
      | (.ok _, s) => (if on then s.dev.tripTest t.toNat x.slot else s.dev).sctIssued t.toNat
      | (.error (.fault cause addr), s) => s.dev.sctFault t.toNat c cause addr
      | (.error _, _) => d

/-- The Compass reads a register. -/
def Dev.compassReads (d : Dev) (a : Nat) : Dev :=
  { d with compassRead := put (fun _ => 0) d.compassRead a (BitVec.ofNat 64 (d.reg a)) }

/-- The Compass reads the counters of every slot of a selector (R145). -/
def Dev.compassSlots (d : Dev) (t : Nat) : Dev :=
  (List.range 64).foldl (fun (d : Dev) n =>
    ((d.compassReads (slotReg t n + 8)).compassReads (slotReg t n + 16)).compassReads (slotReg t n + 24)) d

/-- STEP (R142); the Compass reads every slot's counters before they are cleared (R145). -/
def execStep (t : TentId) : State → Out :=
  lift fun d =>
    match d.sctHead t.toNat 3 with
    | none => d
    | some c =>
      let x := sctOf c
      let n := x.slot
      let a := slotReg t.toNat n
      let k := d.regF a 0 4
      let h := Config.keyedHash (BitVec.ofNat 64 (d.reg (sctReg t.toNat 0x10))) d.job (BitVec.ofNat 64 x.thresh) x.k
      let aoff := h.toNat % 2 ^ 12 % 2 ^ k
      (((((d.compassSlots t.toNat).setReg (a + 4) (x.thresh % 2 ^ 16 + aoff * 2 ^ 16)).setReg (a + 8) 0).setReg (a + 16) 0).setReg
        (a + 24) 0).modSel t.toNat fun s =>
          { s with
            issued := true
            layerId := put (fun _ => 0) s.layerId n x.k
            stepNo := put (fun _ => 0) s.stepNo n x.thresh
            tripped := s.tripped.filter (· != n) }

/-- SCOUT_COMMAND_COMPLETE (R135): the peg is signalled and the waiting command runs. -/
def execScoutCommandComplete (t : TentId) : State → Out :=
  lift fun d =>
    let s := (d.tent t.toNat).sel
    match s.running with
    | some c =>
      if s.issued && !d.halted then
        (d.modSel t.toNat fun s => { s with running := s.waiting, waiting := none, issued := false }).signal t.toNat c
      else d
    | none => d

end Sys2Proof.Machine
end

