-- ==== Sys2Proof/Machine/Clocks.lean ====
section
/-! DEFINITION. Clocks (17 R386 to R390) and the loss of a Lantern, the first rung of the recovery ladder (19
R436, R437). -/

namespace Sys2Proof.Machine

/-! ### The loss of a Lantern (R436, R437) -/

/-- A command being checked at a Lantern is lost, and a new nonce drawn (Table 19.8). -/
def Dev.freshNonce (d : Dev) : Dev :=
  let n := d.drawNonce
  { n.2 with lanA := { n.2.lanA with nonce := n.1, busy := none }
             lanB := { n.2.lanB with nonce := n.1, busy := none } }

/-- Lantern b is lost: its cores do not run. A live standby takes the active role, the event path, the sideband
service and the Quartermaster, and the lost one restarts; without one the device has no live Lantern. -/
def Dev.loseLantern (d : Dev) (b : Bool) : Dev :=
  let x := d.lan b
  let y := d.lan (!b)
  if x.lost then d
  else if x.role = .active then
    if y.role = .standby ∧ !y.lost then
      (((d.setLan b { x with lost := true, role := .booting, barked := [] }).setLan (!b)
        { y with role := .active, missed := 0 }).freshNonce).lanErr clsCorrected 0x03 { tag := b2n b } |> fun d =>
          { d with alertN := false }
    else (d.setLan b { x with lost := true, barked := [] }).lanErr clsCorrected 0x03 { tag := b2n b }
  else (d.setLan b { x with lost := true, barked := [], role := .booting }).lanErr clsCorrected 0x03 { tag := b2n b }

/-! ### PLLs (R387, R388) -/

/-- CLK_LOCK of a die. -/
def clkLock (die : Nat) : Nat := dieReg die 0x1500_0004

/-- The PLLs of a die, by bit of CLK_LOCK; bit 3 of IOD0 is TCLK's. -/
def pllExists (die pll : Nat) : Bool :=
  if die < 2 then decide (pll < 3) else if die < 6 then decide (pll < 2)
  else if die = 6 then decide (pll < 4) else decide (pll < 2)

/-- The PCIe link is down: LINKUP, SPEED and WIDTH read 0. -/
def Dev.pcieDown (d : Dev) : Dev := d.setRegF (dieReg 6 0x1400_0000) 0 9 0

/-- A PLL loses lock: LOST, and the action of its domain. DESIGN CHOICE, for the spec gives block 0x12 no cause table:
CAUSE 0x01 and TAG = PLL, 0x02 for PCLK. -/
def Dev.pllLoss (d : Dev) (die pll : Nat) : Dev :=
  if !pllExists die pll then d
  else
    let d1 := (d.setRegF (clkLock die) pll 1 0).setRegF (clkLock die) (4 + pll) 1 1
    if 6 ≤ die ∧ pll = 1 then d1.loseLantern (die == 7)
    else if die = 6 ∧ pll = 2 then d1.pcieDown.dieErr 6 0 0x12 clsCorrected 0x02 { tag := pll }
    else if die = 6 ∧ pll = 3 then d1
    else d1.dieErr die 0 0x12 clsDevice 0x01 { tag := pll }

/-- PLL_LOCK_LOSS (R387). -/
def execPllLockLoss (die : BitVec 3) (pll : BitVec 2) : State → Out := lift (·.pllLoss die.toNat pll.toNat)

/-- Every PLL that follows REFCLK but those of ACLK. -/
def refPlls : List (Nat × Nat) :=
  [(0, 0), (0, 1), (0, 2), (1, 0), (1, 1), (1, 2), (2, 0), (2, 1), (3, 0), (3, 1), (4, 0), (4, 1), (5, 0), (5, 1),
    (6, 0), (6, 2), (6, 3), (7, 0)]

/-- REFCLK_LOSS (R388): ACLK falls back to its ring oscillator, TIME_FREE is set, every other PLL loses lock. -/
def Dev.refclkLoss (d : Dev) : Dev :=
  if !d.refclk then d
  else
    let d1 : Dev := [6, 7].foldl (fun (d : Dev) die => (d.setRegF (clkLock die) 1 1 0).setRegF (clkLock die) 8 1 1)
      { d with refclk := false }
    refPlls.foldl (fun (d : Dev) x => d.pllLoss x.1 x.2) d1

/-- REFCLK_LOSS. -/
def execRefclkLoss : State → Out := lift (·.refclkLoss)

/-- REFCLK_RETURN (R388): ACLK relocks without a step in global time; TIME_FREE stays set. -/
def execRefclkReturn : State → Out :=
  lift fun d =>
    if d.refclk then d
    else [6, 7].foldl (fun (d : Dev) die => d.setRegF (clkLock die) 1 1 1) { d with refclk := true }

/-! ### Droop stretch (R389) -/

/-- CLK_TENT_STAT of a tent. -/
def clkStat (t : Nat) : Nat := tentReg t 0x80_0000

/-- DROOP_TRIP (R389): a stretch starts unless one runs or the generator is in its hold-off. DESIGN CHOICE: a trip that
starts none is no droop event of CLK_STRETCH_EVT. -/
def execDroopTrip (t : TentId) : State → Out :=
  lift fun d =>
    let a := clkStat t.toNat
    if d.regF a 0 2 ≠ 0 then d
    else ((d.setRegF a 0 1 1).bump (tentReg t.toNat 0x80_0010) 1).modTent t.toNat fun x => { x with stretch := 64 }

/-- STRETCH_LIMIT (R389): after 64 stretched cycles the stretch ends and the hold-off begins, or, in a droop
that lasts, it goes on: each further cycle counts, with one CORRECTED event per droop (CAUSE 0x03, DESIGN CHOICE). -/
def execStretchLimit (t : TentId) (droop : Bool) : State → Out :=
  lift fun d =>
    let tn := t.toNat
    let a := clkStat tn
    let run := (d.tent tn).stretch
    if d.regF a 0 1 = 0 then d
    else
      let d1 := if run = 64 then d.bump (tentReg tn 0x80_0008) 64 else d
      if droop then
        let d2 := ((d1.bump (tentReg tn 0x80_0008) 1).bump (tentReg tn 0x80_0018) 1).modTent tn fun x =>
          { x with stretch := run + 1 }
        if run = 64 then d2.tentErr tn 0x12 clsCorrected 0x03 {} else d2
      else ((d1.setRegF a 0 1 0).setRegF a 1 1 1).modTent tn fun x => { x with stretch := 0 }

/-- STRETCH_HOLDOFF_END (R389): 64 cycles at the reference period have passed. -/
def execStretchHoldoffEnd (t : TentId) : State → Out := lift fun d => d.setRegF (clkStat t.toNat) 1 1 0

end Sys2Proof.Machine
end

