-- ==== Sys2Proof/Machine/Mgmt.lean ====
section
/-! DEFINITION. Management: the mailboxes and MSI-X messages of the host port (12 R289, R290; 15 R356, Tables
15.3 and 15.4), management packets and the signature of a CMD (18 R420), the event path (16 R383; 18 R419; 19
R442). -/

namespace Sys2Proof.Machine

/-! ### Mailboxes (R290, R356) -/

/-- n bytes of mailbox m from an offset. -/
def Dev.mailAt (d : Dev) (m o n : Nat) : Nat := leNat (lookAll byte0 d.host.mail (0x1000 * m + o) n)
/-- Write bytes of a mailbox. -/
def Dev.mailPut (d : Dev) (m o : Nat) (bs : List Byte) : Dev :=
  { d with host := { d.host with mail := putAll byte0 d.host.mail (0x1000 * m + o) bs } }
/-- LEN of a mailbox. -/
def Dev.mailLen (d : Dev) (m : Nat) : Nat := d.mailAt m 0xFF0 4
/-- Set it. -/
def Dev.setMailLen (d : Dev) (m n : Nat) : Dev := d.mailPut m 0xFF0 (leBytes 4 n)

/-- The table entry of an MSI-X vector is masked: its vector control bit 0. -/
def Dev.vectorMasked (d : Dev) (v : Nat) : Bool := bitAt (leAt (lookAll byte0 d.host.msix (16 * v) 16) 12 4) 0

/-- The pending bit of an MSI-X vector. -/
def Dev.vectorPends (d : Dev) (v : Nat) : Bool := bitAt (look byte0 d.host.pba (v / 8)).toNat (v % 8)

/-- Send MSI-X vector v: a masked table entry turns the message into its pending bit. -/
def Dev.sendVector (d : Dev) (v : Nat) : Dev :=
  if d.vectorMasked v then
    let b := look byte0 d.host.pba (v / 8)
    { d with host := { d.host with pba := put byte0 d.host.pba (v / 8) (b ||| BitVec.ofNat 8 (2 ^ (v % 8))) } }
  else { d with host := { d.host with out := d.host.out ++ [.vector v] } }

/-- A vector that waits on its mask is sent once the mask is clear. -/
def Dev.unmaskVector (d : Dev) (v : Nat) : Dev :=
  if d.vectorPends v && !d.vectorMasked v then
    let b := look byte0 d.host.pba (v / 8)
    ({ d with host := { d.host with pba := put byte0 d.host.pba (v / 8) (b ^^^ BitVec.ofNat 8 (2 ^ (v % 8))) } }).sendVector v
  else d

/-- The vector that the Quartermaster has assigned to a job's events is sent (R294): vectors 128 to 2,047. -/
def Dev.jobVector (d : Dev) (job : Nat) : Dev :=
  match Config.jobVector job with
  | some v => d.sendVector (128 + v % 1920)
  | none => d

/-- A message is written to mailbox m + 128 and its vector sent. -/
def Dev.mailSend (d : Dev) (m : Nat) (msg : List Byte) : Dev :=
  ((d.mailPut (m + 128) 0 msg).setMailLen (m + 128) msg.length).sendVector m

/-- Change the Quartermaster. -/
def Dev.modQm (d : Dev) (f : Quarter → Quarter) : Dev := { d with qm := f d.qm }

/-- TYPE of a message. -/
def msgType (msg : List Byte) : Nat := leAt msg 0 2

/-- Drop the oldest EVENT waiting for a mailbox; none where none waits. -/
def dropEvent (m : Nat) : List (Nat × List Byte) → Option (List (Nat × List Byte))
  | [] => none
  | x :: xs =>
    if x.1 = m ∧ msgType x.2 = 0x8006 then some xs else (dropEvent m xs).map (x :: ·)

/-- A message for mailbox m + 128 (R356): at once where its LEN reads 0 and nothing waits; else it waits, and
beyond 64 the oldest EVENT is dropped and counted. -/
def Dev.post (d : Dev) (m : Nat) (msg : List Byte) : Dev :=
  if d.mailLen (m + 128) = 0 ∧ !(d.qm.waiting.any (·.1 == m)) then d.mailSend m msg
  else
    d.modQm fun q =>
      let ws := q.waiting ++ [(m, msg)]
      if (ws.filter (·.1 == m)).length ≤ 64 then { q with waiting := ws }
      else
        match dropEvent m ws with
        | some rest =>
          { q with waiting := rest, dropped := put (fun _ => 0) q.dropped m (look (fun _ => 0) q.dropped m + 1) }
        | none => { q with waiting := ws }

/-- The first message that waits for a mailbox, and the rest. -/
def nextFor (m : Nat) : List (Nat × List Byte) → Option (List Byte × List (Nat × List Byte))
  | [] => none
  | x :: xs => if x.1 = m then some (x.2, xs) else (nextFor m xs).map fun r => (r.1, x :: r.2)

/-- The host has read mailbox m + 128: the next message that waits is written. -/
def Dev.mailNext (d : Dev) (m : Nat) : Dev :=
  match nextFor m d.qm.waiting with
  | some (msg, rest) => (d.modQm fun q => { q with waiting := rest }).mailSend m msg
  | none => d

/-- A device-to-host message of a job (Table 15.3). -/
def jobMessage (j : Job) (typ : Nat) (body : List Byte) : List Byte :=
  leBytes 2 typ ++ leBytes 2 0 ++ leBytes 4 j.seq ++ leBytes 4 j.ref ++ leBytes 4 j.num ++ body

/-- Post a message of a job. -/
def Dev.tellHost (d : Dev) (j : Job) (typ : Nat) (body : List Byte) : Dev :=
  d.post j.mbox (jobMessage j typ body)

/-! ### Management packets (R420) -/

/-- MSG values, in the order R420 names them. -/
def msgHeartbeat : Nat := 0
/-- TIME_SYNC. -/
def msgTimeSync : Nat := 1
/-- TIME_REPLY. -/
def msgTimeReply : Nat := 2
/-- EVENT_FWD. -/
def msgEventFwd : Nat := 3
/-- CMD. -/
def msgCmd : Nat := 4
/-- CMD_RSP. -/
def msgCmdRsp : Nat := 5

/-- Send a MGMT packet on VC7 to a device: MSG, SEQ, body. -/
def Dev.sendMgmt (d : Dev) (dev msg : Nat) (body : List Byte) : Dev :=
  { d with mgmtSeq := d.mgmtSeq + 1 }.sendPkt
    { typ := 0xA, vc := 7, mgmt := true, dest := dev * 2 ^ 48 }
    (leBytes 2 msg ++ leBytes 6 (d.mgmtSeq + 1) ++ body)

/-- Send a signed CMD: the body, then the signature block by the identity key over everything before it. -/
def Dev.sendCmd (d : Dev) (dev : Nat) (a : MgmtAct) : Dev :=
  let head := leBytes 2 msgCmd ++ leBytes 6 (d.mgmtSeq + 1)
  let body := Config.cmdBytes a
  { d with fresh := d.fresh + 1 }.sendMgmt dev msgCmd
    (body ++ slice (Config.falconSign d.fresh (Config.shake512 (head ++ body))) 0 sigLen)

/-- A signature verifies under an identity key whose digest TOPOLOGY names (R420, R438). -/
def Dev.signedByNamed (d : Dev) (digest : BitVec 512) (block : List Byte) : Bool :=
  (Config.kitIdentities d.topology).any fun k => Config.falconVerify (Config.identityKey k) digest (sigOf block)

/-! ### The event path (R383, R419, R442) -/

/-- The 64 bytes of a record as a number (Table 18.14). -/
def Event.record (e : Event) (seq : Nat) : Nat :=
  seq % 2 ^ 64 + e.time.toNat * 2 ^ 64 + e.src % 2 ^ 8 * 2 ^ 128 + e.cls % 2 ^ 8 * 2 ^ 136 +
    e.code % 2 ^ 16 * 2 ^ 144 + e.unit % 2 ^ 16 * 2 ^ 160 + e.ident % 2 ^ 16 * 2 ^ 176 +
    e.gen % 2 ^ 8 * 2 ^ 192 + e.detail % 2 ^ 256 * 2 ^ 256

/-- The register of the error ring's record n, word k, on an I/O die. -/
def errRec (die n k : Nat) : Nat := dieReg die (0x1901_0000 + 64 * n + 8 * k)
/-- CLASS of record n. -/
def Dev.errClass (d : Dev) (die n : Nat) : Nat := d.regF (errRec die n 2) 8 8

/-- Write record n. -/
def Dev.errPut (d : Dev) (die n r : Nat) : Dev :=
  (List.range 8).foldl (fun (d : Dev) k => d.setReg (errRec die n k) (r / 2 ^ (64 * k))) d

/-- The oldest CORRECTED record of a full ring, from HEAD on. -/
def Dev.oldestCorrected (d : Dev) (die : Nat) : Option Nat :=
  let head := d.regF (dieReg die 0x1900_0000) 0 10
  ((List.range 1024).map fun i => (head + i) % 1024).find? fun n => d.errClass die n == 1

/-- A record of CLASS 1 to 3 enters the error ring of an I/O die. A ring slot not yet written has CLASS 0. In a
full ring the oldest CORRECTED record is overwritten; a full ring without one keeps what it holds. -/
def Dev.errRing (d : Dev) (die cls r : Nat) : Dev :=
  let d1 := d.bump (dieReg die (0x1900_0000 + 8 * cls)) 1
  let a := dieReg die 0x1900_0000
  let head := d1.regF a 0 10
  if d1.errClass die head = 0 then (d1.errPut die head r).setRegF a 0 10 (head + 1)
  else
    match d1.oldestCorrected die with
    | some n => ((d1.errPut die n r).setRegF a 10 1 1).setRegF a 0 10 (n + 1)
    | none => d1

/-- The Quartermaster gets an event record (R416, R419): an EVENT message to the host in the mailbox of the job
the record names, unless its DONE has been sent. -/
def Dev.eventToHost (d : Dev) (r : Nat) : Dev :=
  let job := field r 176 12
  match d.qm.running.find? fun j => j.num == job && decide (j.state < 3) with
  | some j =>
    if job = 0 then d
    else ((if field r 136 8 = 1 then d.modQm fun q => { q with running := q.running.map fun k =>
        (if k.num = job then { k with corrected := k.corrected + 1 } else k) } else d).tellHost j 0x8006 (leBytes 64 r)).jobVector job
  | none => d

/-- A granted record goes on to the Quartermaster: here, or by EVENT_FWD to the basecamp. -/
def Dev.forward (d : Dev) (r : Nat) : Dev :=
  if d.role = 1 then d.eventToHost r
  else if d.baseId = d.devId then d
  else d.sendMgmt d.baseId msgEventFwd (leBytes 64 r)

/-- The oldest record of the event ring goes on, which frees its place. -/
def Dev.forwardOne (d : Dev) : Dev :=
  match d.active, d.evRing with
  | some _, r :: rest => { d with evRing := rest }.forward r
  | _, _ => d

/-- The base of the event path's watch table on the active Lantern's die (Table 16.4). -/
def eventWch (lanB : Bool) : Nat := dieReg (lanDie lanB) (0x1300_0000 + 0x1000 * 48)

/-- The oldest event of a source, and the others. -/
def takeEvent (src : Nat) : List Event → Option (Event × List Event)
  | [] => none
  | e :: es => if e.src = src then some (e, es) else (takeEvent src es).map fun r => (r.1, e :: r.2)

/-- The event ring's size (R419). -/
def evRingLen : Nat := 4096

/-- EVENT_GRANT (R383, R419): the winner's oldest event gets the next EVSEQ, and its pulse is acknowledged.
With the ring full a notice is dropped and counted; any other record stays at its source. -/
def Dev.eventGrant (d : Dev) : Dev :=
  match d.active with
  | none => d
  | some b =>
    let asking := (d.events.map (·.src)).eraseDups
    let base := eventWch b
    let g := d.grant base asking
    match g.2 with
    | none => d
    | some src =>
      match takeEvent src d.events with
      | none => d
      | some (e, rest) =>
        let full := decide (evRingLen ≤ d.evRing.length)
        if full && e.cls != 0 then d
        else
          let d1 := g.1
          let seq := d1.evSeq + 1
          let pulses := if rest.any (·.src == src) then d1.pulses else d1.pulses.filter (· != src)
          let d2 : Dev := { d1 with events := rest, pulses := pulses, evSeq := seq }
          let r := e.record seq
          let d3 := if 1 ≤ e.cls ∧ e.cls ≤ 3 then (d2.errRing 6 e.cls r).errRing 7 e.cls r else d2
          if full then d3.bump (dieReg (lanDie b) 0x1600_0050) 1
          else { d3 with evRing := d3.evRing ++ [r] }

/-- EVENT_GRANT. -/
def execEventGrant : State → Out := lift (·.eventGrant)

end Sys2Proof.Machine
end

