-- ==== Sys2Proof/Machine/Manifest.lean ====
section
/-! DEFINITION. The manifest (15 R357 to R359, Tables 15.5 to 15.8): its header, its fields, the values each
field may take, and the presets it makes (00 R7; 06 R147; 07 R171; 08 R192; 09 R214; 13 R321; 14 R327). -/

namespace Sys2Proof.Machine

/-- A field: TAG and value. -/
abbrev MField := Nat × List Byte

/-- The NFIELD fields that fill a list of bytes exactly; padding to a multiple of 4 is zero. -/
def fieldsOf : Nat → List Byte → Option (List MField)
  | 0, bs => if bs.isEmpty then some [] else none
  | n + 1, bs =>
    let len := leAt bs 2 2
    let room := (len + 3) / 4 * 4
    if bs.length < 4 + room ∨ !allZero (slice bs (4 + len) (room - len)) then none
    else (fieldsOf n (bs.drop (4 + room))).map ((leAt bs 0 2, slice bs 4 len) :: ·)

/-- The fields of a manifest. -/
def mfields (m : List Byte) : Option (List MField) := fieldsOf (leAt m 6 2) (m.drop 64)

/-- The value of a field, or its default. -/
def mval (fs : List MField) (tag : Nat) (dflt : List Byte) : List Byte :=
  ((fs.find? fun f => f.1 == tag).map Prod.snd).getD dflt

/-- A field as a number. -/
def mnum (fs : List MField) (tag dflt : Nat) : Nat :=
  ((fs.find? fun f => f.1 == tag).map fun f => leNat f.2).getD dflt

/-! ### Real values -/

/-- A binary64 that is no NaN, as an integer that orders as the values do. -/
def f64Key (x : Nat) : Option Int :=
  if field x 52 11 = 2047 ∧ field x 0 52 ≠ 0 then none
  else if bitAt x 63 then some (-(Int.ofNat (field x 0 63))) else some (Int.ofNat (field x 0 63))

/-- a ≤ x for a binary64 x. -/
def f64Ge (x a : Nat) : Bool :=
  match f64Key x, f64Key a with
  | some k, some l => decide (l ≤ k)
  | _, _ => false
/-- x ≤ a. -/
def f64Le (x a : Nat) : Bool := f64Ge a x
/-- 1 as a binary64. -/
def f64One : Nat := 0x3FF0_0000_0000_0000
/-- 100. -/
def f64Hundred : Nat := 0x4059_0000_0000_0000
/-- 0 < x. -/
def f64Pos (x : Nat) : Bool := f64Key x != none && !f64Le x 0
/-- 0 ≤ x ≤ 1. -/
def f64Unit (x : Nat) : Bool := f64Ge x 0 && f64Le x f64One

/-- Of a binary64 from 0 to 100: min(65,535, round(x × 655.36)) (R147). -/
def missLimit (x : Nat) : Nat :=
  let e := field x 52 11
  let m := if e = 0 then field x 0 52 else field x 0 52 + 2 ^ 52
  let sh := (if e = 0 then 1 else e) + 16
  let num := m * 2 ^ sh
  let den := 100 * 2 ^ 1075
  min 65535 ((2 * num + den) / (2 * den))

/-! ### update_groups (Table 15.6, R327) -/

/-- The patterns of a record: NPAT lengths of 1 to 255 with their characters fill PLEN bytes. -/
def patternsOk : Nat → List Byte → Bool
  | 0, bs => bs.isEmpty
  | n + 1, bs =>
    let len := leAt bs 0 1
    decide (1 ≤ len) && decide (len + 1 ≤ bs.length) && ((bs.drop 1).take len).all (fun c => decide (c.toNat < 128)) &&
      patternsOk n (bs.drop (len + 1))

/-- The records of a sequence of bytes; none where one breaks its form. -/
def groupRecords : Nat → List Byte → Option (List (List Byte))
  | 0, _ => none
  | fuel + 1, bs =>
    if bs.isEmpty then some []
    else
      let plen := leAt bs 70 2
      let size := (72 + plen + 7) / 8 * 8
      let rule := leAt bs 64 1
      let rnd := leAt bs 67 1
      if bs.length < size ∨ !patternsOk (leAt bs 68 2) (slice bs 72 plen) ∨
          !allZero (slice bs (72 + plen) (size - 72 - plen)) ∨ (3 < rule ∧ rule ≠ 255) ∨ 1 < leAt bs 66 1 ∨
          (7 < rnd ∧ rnd ≠ 255) then none
      else (groupRecords fuel (bs.drop size)).map (bs.take size :: ·)

/-- The update_groups values of a manifest, in order. -/
def groupValues (fs : List MField) : List (List Byte) := (fs.filter fun f => f.1 == 0x0E02).map Prod.snd

/-- The records of a manifest: the first value carries the count and 3 zero bytes. -/
def groupsOf (fs : List MField) : Option (List (List Byte)) :=
  match groupValues fs with
  | [] => some []
  | v :: vs =>
    if v.length < 4 ∨ !allZero (slice v 1 3) then none
    else
      let bs := v.drop 4 ++ vs.flatten
      match groupRecords (bs.length + 1) bs with
      | some rs => if rs.length % 256 = leAt v 0 1 then some rs else none
      | none => none

/-- R327 for a record: EPS1, EPS2, CLIPD, VCLIP, B1. -/
def groupOk (rule0 : Nat) (r : List Byte) : Bool :=
  let rule := if leAt r 64 1 = 255 then rule0 else leAt r 64 1
  (1 < rule || f64Pos (leAt r 24 8)) && (rule != 2 || f64Pos (leAt r 32 8)) && f64Pos (leAt r 40 8) &&
    f64Pos (leAt r 48 8) && f64Unit (leAt r 16 8)

/-- B2 of update_b2_schedule lies in 0 to 1: constant b, or 1 - t^-p for steps t from 1. -/
def b2Ok (v : List Byte) : Bool :=
  if v.isEmpty then true
  else if leAt v 0 1 = 0 then f64Unit (leAt v 8 8) else f64Ge (leAt v 8 8) 0

/-! ### Fields and their values (Tables 15.6, 15.7) -/

/-- Powers of two. -/
def pow2 (n : Nat) : Bool := decide (0 < n) && 2 ^ Nat.log2 n == n

/-- Pairs of base and end in MiB: within one tier, in order. -/
def regionPairs (v : List Byte) : List (Nat × Nat) :=
  (List.range (v.length / 8)).map fun i => (leAt v (8 * i) 4 * 2 ^ 20, leAt v (8 * i + 4) 4 * 2 ^ 20)

/-- A declared region. -/
def declaredOk (r : Nat × Nat) : Bool :=
  decide (r.1 < r.2) && (decide (r.2 ≤ hbmEnd) || (decide (lpBase ≤ r.1) && decide (r.2 ≤ lpEnd)))

/-- A field's tag is known and its value within its range. -/
def fieldOk (f : MField) : Bool :=
  let v := f.2
  let n := leNat v
  let enum (k : Nat) : Bool := v.length == 1 && decide (n < k)
  let count (lo hi : Nat) : Bool := v.length == 4 && decide (lo ≤ n) && decide (n ≤ hi)
  let real : Bool := v.length == 8 && f64Key n != none
  match f.1 with
  | 0x0301 => enum 2
  | 0x0501 => enum 2
  | 0x0601 => enum 4
  | 0x0602 => v.length == 1 && (decide (n ≤ 12) || n == 255)
  | 0x0603 => v.length == 8 && f64Ge n 0 && f64Le n f64Hundred
  | 0x0604 => enum 3
  | 0x0701 => enum 2
  | 0x0702 => v.length == 8
  | 0x0801 => count 16 1152 && n % 16 == 0
  | 0x0802 => count 0 3072 && n % 16 == 0
  | 0x0803 => v.length == 2 && decide (leAt v 0 1 ≤ 15) && decide (leAt v 1 1 ≤ 15)
  | 0x0804 => enum 3
  | 0x0805 => enum 3
  | 0x0901 => v.length == 4
  | 0x0902 => count 1 16
  | 0x0903 => real
  | 0x0904 => enum 2
  | 0x0905 => count 1 4096
  | 0x0D01 => enum 2
  | 0x0D02 => enum 3
  | 0x0D03 => count 0 15
  | 0x0D04 => count 1 8
  | 0x0D05 => count 0 254
  | 0x0D06 => enum 2
  | 0x0D07 => count 1 255
  | 0x0E01 => enum 3
  | 0x0E02 => true
  | 0x0E03 => v.length == 4 && pow2 (leAt v 0 2) && pow2 (leAt v 2 2) && decide (leAt v 0 2 * leAt v 2 2 ≤ 4096)
  | 0x0E04 => v.length == 28 && decide (leAt v 0 1 < 2) && allZero (slice v 1 3)
  | 0x0E05 => v.length == 16 && decide (leAt v 0 1 < 2) && allZero (slice v 1 7)
  | 0x0E06 => real
  | 0x0E07 => enum 2
  | 0x0F01 => count 1 1024
  | 0x0F02 => v.length == 4
  | 0x0F03 => v.length == 4
  | 0x0F04 => count 0 3
  | 0x0F05 => v.length % 8 == 0 && decide (v.length ≤ 8 * 30) && (regionPairs v).all declaredOk
  | 0x0F06 => v.length == 16
  | 0x0F07 => v.length == 16
  | 0x0F08 => v.length == 32
  | 0x0F09 => enum 3
  | 0x0F0A => v.length == 4
  | 0x1201 => v.length == 32
  | _ => false

/-- The fields the attestation report measures (R80, R132, R147, R171, R192, R214, R321, R337), with the
encoding of each one's default. -/
def measuredFields : List MField :=
  let c := leBytes 4
  [(0x0301, [0]), (0x0501, [0]), (0x0601, [0]), (0x0602, [255]), (0x0603, leBytes 8 0), (0x0604, [0]),
    (0x0701, [0]), (0x0702, leBytes 8 0), (0x0801, c 256), (0x0802, c 512), (0x0803, [0, 0]), (0x0804, [0]),
    (0x0805, [0]), (0x0901, c 0), (0x0902, c 1), (0x0903, leBytes 8 0), (0x0904, [0]), (0x0905, c 1),
    (0x0D01, [0]), (0x0D02, [0]), (0x0D03, c 1), (0x0D04, c 2), (0x0D05, c 140), (0x0D06, [0]), (0x0D07, c 20),
    (0x0E01, [1]), (0x0E02, []), (0x0E03, leBytes 2 64 ++ leBytes 2 64), (0x0E04, leBytes 28 0),
    (0x0E05, leBytes 16 0), (0x0E06, leBytes 8 0), (0x0E07, [0])]

/-! ### The checks of a SUBMIT (R359, Table 15.8) -/

/-- FORMAT: the header, the fields, each tag once but update_groups. -/
def manifestForm (m : List Byte) (ref : Nat) : Bool :=
  decide (64 ≤ m.length) && leAt m 0 4 == 0x5446_4E4D && leAt m 4 2 == 1 && leAt m 8 4 == m.length &&
    leAt m 12 4 == ref && allZero (slice m 28 4) &&
    (match mfields m with
      | none => false
      | some fs =>
        fs.all fieldOk && (groupsOf fs).isSome &&
          (let once := (fs.map Prod.fst).filter (· != 0x0E02)
          once.eraseDups.length == once.length))

/-- The fields of a manifest whose form holds. -/
def fieldsIn (m : List Byte) : List MField := (mfields m).getD []

/-- UPDATE: R327, and the digest of R338. -/
def updateOk (fs : List MField) (image : List Byte) : Bool :=
  let rs := (groupsOf fs).getD []
  decide (rs.length ≤ 256) && rs.all (groupOk (mnum fs 0x0E01 1)) && b2Ok (mval fs 0x0E05 []) &&
    Config.shake256 (groupValues fs).flatten == Config.imageGroups image

/-- STRICT: R80 and R146. -/
def strictOk (fs : List MField) (image : List Byte) : Bool :=
  mnum fs 0x0301 0 == 0 || (Config.imageStrict image && mnum fs 0x0604 0 != 1)

/-! ### Presets at job start (R7) -/

/-- The settings that a manifest and an image make the preset of a job write, and no others: selector and vector seeds,
the slots the program uses, the routing directory, RDX_CTL (R147, R171, R214, R321); the pack's are `packPreset`. -/
def jobPreset (fs : List MField) (image : List Byte) : List Setting :=
  let seed := mnum fs 0x0702 0
  let audit := mnum fs 0x0602 255
  let layer := (if audit = 255 then 15 else audit) + mnum fs 0x0604 0 * 2 ^ 4 +
    missLimit (mnum fs 0x0603 0) * 2 ^ 6 + 16 * 2 ^ 22
  let tents := (List.range 16384).flatMap fun t =>
    [⟨tentReg t 0x60_0010, 0, 64, seed, false⟩, ⟨tentReg t 0x30_0018, 0, 64, seed, false⟩,
      ⟨tentReg t 0x70_0800, 0, 64, Config.imageDirectory image, false⟩] ++
      ((Config.imageSlots image).filter (· < 64)).map fun n => ⟨tentReg t (0x60_0100 + 0x20 * n), 0, 32, layer, false⟩
  let rdx := mnum fs 0x0D07 20 + 100 * 2 ^ 8 + 50 * 2 ^ 16
  tents ++ [⟨dieReg 6 0xE00_0004, 0, 24, rdx, false⟩, ⟨dieReg 7 0xE00_0004, 0, 24, rdx, false⟩]

/-- The pack settings of a manifest (Table 8.8), in the order they are written: SHARE, bases, CTL. -/
def packPreset (fs : List MField) (image : List Byte) : List (Nat × Word) :=
  let water := mval fs 0x0803 [0, 0]
  let high := if leNat water = 0 then 12 else leAt water 0 1
  let low := if leNat water = 0 then 4 else leAt water 1 1
  let b := Config.packBases image
  [(4, BitVec.ofNat 64 (mnum fs 0x0801 256 / 16 + mnum fs 0x0802 512 / 16 * 2 ^ 8)), (8, BitVec.ofNat 64 b.1),
    (16, BitVec.ofNat 64 b.2), (0, BitVec.ofNat 64 (1 + high * 2 ^ 1 + low * 2 ^ 5))]

end Sys2Proof.Machine
end

