-- ==== Sys2Proof/Machine/GroupTable.lean ====
section
/-! DEFINITION. The group table of a step (14 R326, R337, Tables 14.2, 14.3, 14.6): every FP32 word computed in
binary64 from the manifest and the step number, and rounded once. -/

namespace Sys2Proof.Machine

/-! ### binary64 -/

/-- binary64 (IEEE 754-2019). -/
def fp64 : FFmt := ⟨11, 52, 1023, .ieee⟩

/-- A value as binary64 bits, in RNE. -/
def bits64 (x : Num) : Nat := (fp64.narrow .rne 0 false x).1
/-- The value of binary64 bits. -/
def num64 (x : Nat) : Num := fp64.decode x
/-- A natural number as binary64 bits. -/
def nat64 (n : Nat) : Nat := bits64 (.fin false n 0)
/-- a + b. -/
def add64 (a b : Nat) : Nat := bits64 ((num64 a).add .rne (num64 b)).1
/-- a - b. -/
def sub64 (a b : Nat) : Nat := bits64 ((num64 a).add .rne (num64 b).neg).1
/-- a × b. -/
def mul64 (a b : Nat) : Nat := bits64 ((num64 a).mul (num64 b)).1
/-- a / b. -/
def div64 (a b : Nat) : Nat := bits64 ((num64 a).div (num64 b)).1
/-- a < b. -/
def lt64 (a b : Nat) : Bool := (num64 a).lt (num64 b)
/-- -a. -/
def neg64 (a : Nat) : Nat := a ^^^ 2 ^ 63
/-- π as binary64. -/
def pi64 : Nat := 0x4009_21FB_5444_2D18
/-- The FP32 word of a binary64, rounded once in RNE. -/
def word32 (a : Nat) : Nat := (fp32.narrow .rne 0 false (num64 a)).1

/-! ### Schedules (Table 14.6) -/

/-- LR at step t of a group's lr: constant, or linear_warmup_cosine (warmup, total, floor). -/
def lrAt (schedule : List Byte) (lr t : Nat) : Nat :=
  if leAt schedule 0 1 = 0 then lr
  else
    let warmup := leAt schedule 4 8
    let total := leAt schedule 12 8
    let floor_ := leAt schedule 20 8
    let x := nat64 t
    if lt64 x warmup then div64 (mul64 lr x) warmup
    else if lt64 x total then
      let angle := div64 (mul64 pi64 (sub64 x warmup)) (sub64 total warmup)
      add64 floor_ (div64 (mul64 (sub64 lr floor_) (add64 f64One (Config.cos64 angle))) (nat64 2))
    else floor_

/-- B2 at step t: constant b, or 1 - t^-p. -/
def b2At (schedule : List Byte) (t : Nat) : Nat :=
  let v := leAt schedule 8 8
  if leAt schedule 0 1 = 0 then v else sub64 f64One (Config.pow64 (nat64 t) (neg64 v))

/-! ### The table -/

/-- A group's entry at step t (Table 14.3), for the record of the group and the FR and FC of its parameters. -/
def groupEntry (fs : List MField) (r : List Byte) (frl fcl t : Nat) : List Byte :=
  let rule := if leAt r 64 1 = 255 then mnum fs 0x0E01 1 else leAt r 64 1
  let rnd := if leAt r 67 1 = 255 then (if mnum fs 0x0701 0 = 0 then 0 else 4) else leAt r 67 1
  let lr := lrAt (mval fs 0x0E04 []) (leAt r 0 8) t
  let b1 := leAt r 16 8
  let b2 := b2At (mval fs 0x0E05 []) t
  let omb2 := sub64 f64One b2
  let corr (b : Nat) : Nat := sub64 f64One (Config.pow64 b (nat64 t))
  leBytes 4 (rule % 4 + leAt r 65 1 % 16 * 2 ^ 2 + leAt r 66 1 % 2 * 2 ^ 6 + rnd % 8 * 2 ^ 7 + frl % 16 * 2 ^ 10 +
      fcl % 16 * 2 ^ 14) ++
    ([lr, mul64 lr (leAt r 8 8), b1, sub64 f64One b1, b2, div64 omb2 (nat64 (2 ^ fcl)), div64 omb2 (nat64 (2 ^ frl)),
      mul64 omb2 (leAt r 24 8), leAt r 40 8, leAt r 48 8, leAt r 56 8, omb2, div64 lr (corr b1),
      div64 f64One (corr b2), leAt r 32 8].flatMap fun x => leBytes 4 (word32 x))

/-- The group table of a job at a step (Table 14.2): the header, and 256 entries, those not in use zero. -/
def groupTable (fs : List MField) (image : List Byte) (t : Nat) : List Byte :=
  let rs := (groupsOf fs).getD []
  let es := (Config.imageEntries image).take 256
  leBytes 4 0x5444_5055 ++ leBytes 4 t ++ leBytes 4 0x3F80_0000 ++ leBytes 1 (es.length - 1) ++ leBytes 51 0 ++
    (es.flatMap fun e => groupEntry fs (rs.getD e.1 []) e.2.1 e.2.2 t) ++ leBytes (64 * (256 - es.length)) 0

end Sys2Proof.Machine
end

