-- ==== Sys2Proof/Machine/Stash.lean ====
section
/-! DEFINITION. The stash (15 R351 to R354): slots, the checkpoint of a step, the copy to the buddy, the restore from
a home slot or from the buddy's; the group table of a step (14 R326, R337). -/

namespace Sys2Proof.Machine

/-! ### Slots (R352) -/

/-- Base and size of a stash slot: home 0 and 1, buddy 0 and 1. -/
def Dev.stashSlot (d : Dev) (i : Nat) : Nat × Nat :=
  let size := Config.kitStashGib d.kit * 2 ^ 30 / 4
  (Config.kitStashBase d.kit + i * size, size)

/-- JOB, STEP, BYTES and STATE of a slot header's bytes (MAGIC first). -/
def stashHdrOf (h : List Byte) : Nat × Nat × Nat × Nat :=
  if leAt h 0 4 = 0x4853_5453 then (leAt h 4 4, leAt h 12 4, leAt h 16 8, leAt h 24 4) else (0, 0, 0, 0)

/-- Those of a slot of this device. -/
def Dev.stashHdr (d : Dev) (i : Nat) : Nat × Nat × Nat × Nat := stashHdrOf (d.rd (d.stashSlot i).1 64)

/-- A header that a complete checkpoint of a job's step has. -/
def stashIs (job step : Nat) (h : Nat × Nat × Nat × Nat) : Bool := h.1 == job && h.2.1 == step && h.2.2.2 == 2

/-- A complete slot of a job's checkpoint of a step, among some slots. -/
def Dev.stashFind (d : Dev) (slots : List Nat) (job step : Nat) : Option Nat :=
  slots.find? fun i => stashIs job step (d.stashHdr i)

/-- The newest step of which a home slot of a job is complete; 0 with none. -/
def Dev.stashNewest (d : Dev) (job : Nat) : Nat :=
  [0, 1].foldl (fun m i =>
    let h := d.stashHdr i
    if h.1 = job ∧ h.2.2.2 = 2 then max m h.2.1 else m) 0

/-- The stash slots of a job are cleared. -/
def Dev.stashClear (d : Dev) (job : Nat) : Dev :=
  (List.range 4).foldl (fun (d : Dev) i =>
    if job ≠ 0 ∧ (d.stashHdr i).1 = job then d.zero (d.stashSlot i).1 ((d.stashSlot i).1 + (d.stashSlot i).2)
    else d) d

/-! ### The step (R326, R337) -/

/-- The group table of a step, and UPD_STEP after it (R337). -/
def Dev.updStep (d : Dev) (j : Job) (step : Nat) : Dev :=
  let at_ := Config.imageGtab j.image
  (((d.wrB at_ (groupTable (fieldsIn j.manifest) j.image step)).setReg (dieReg 6 0xF00_0000) at_).setReg
    (dieReg 6 0xF00_0008) (step % 2 ^ 32))

/-! ### Taking a checkpoint (R351, R352) -/

/-- Bytes of a checkpoint: the step number and the contents the image's plan names. -/
def checkpointLen (image : List Byte) : Nat := 8 + ((Config.imageState image).map Prod.snd).sum

/-- The checkpoint of a step, as the device holds it. -/
def Dev.checkpoint (d : Dev) (image : List Byte) (step : Nat) : List Byte :=
  leBytes 8 step ++ (Config.imageState image).flatMap fun r => d.rd r.1 r.2

/-- A slot header: MAGIC, JOB, POS, STEP, BYTES, STATE. -/
def stashHeader (job pos step bytes state : Nat) : List Byte :=
  leBytes 4 0x4853_5453 ++ leBytes 4 job ++ leBytes 4 pos ++ leBytes 4 step ++ leBytes 8 bytes ++ leBytes 4 state ++
    leBytes 36 0

/-- The checkpoint of step s is due: s is a multiple of stash_interval, which is not 0. -/
def stashDue (j : Job) (s : Nat) : Bool :=
  let n := mnum (fieldsIn j.manifest) 0x0F03 5
  n != 0 && s % n == 0

/-- The home slot of a job's next checkpoint: 0 and 1 in turn, from 0. -/
def Dev.nextHome (d : Dev) (job : Nat) : Nat :=
  let step (i : Nat) : Nat := if (d.stashHdr i).1 = job then (d.stashHdr i).2.1 else 0
  if step 1 < step 0 then 1 else 0

/-- Pieces of at most 4,096 bytes with their offsets. -/
def pieces : Nat → Nat → List Byte → List (Nat × List Byte)
  | 0, _, _ => []
  | k + 1, o, bs => if bs.isEmpty then [] else (o, bs.take 4096) :: pieces k (o + 4096) (bs.drop 4096)

/-- What a stash copy carries: VC5, in the secure world (R262, R352). -/
def stashCarry (job : Nat) : Carry := { vc := 5, secure := true, job := job }

/-- The copy to the buddy's slot: the header with STATE 1, the data; STATE 2 follows the last acknowledgement. -/
def Dev.buddyCopy (d : Dev) (job to_ : Nat) (header data : List Byte) : Dev :=
  let ws := (0, header) :: (pieces (data.length / 4096 + 1) 0 data).map fun p => (64 + p.1, p.2)
  let sent := ws.foldl (fun (x : List Nat × Dev) w =>
    let y := x.2.sendWrite .stash (stashCarry job) none (to_ + w.1) w.2
    (x.1 ++ [y.1], y.2)) ([], d)
  { sent.2 with stashAcks := sent.1, stashSeal := some (to_ + 24, job) }

/-- A write of the buddy copy is acknowledged; one that failed leaves the slot at STATE 1. -/
def Dev.stashWritten (d : Dev) (tid status : Nat) : Dev :=
  if !d.stashAcks.contains tid then d
  else if status ≠ 0 then { d with stashAcks := [], stashSeal := none }
  else
    let d1 := { d with stashAcks := d.stashAcks.filter (· != tid) }
    match d1.stashAcks, d1.stashSeal with
    | [], some (x, job) => ({ d1 with stashSeal := none }.sendWrite .stash (stashCarry job) none x (leBytes 4 2)).2
    | _, _ => d1

/-- This device's checkpoint of the job's step: the home copy, and the copy to the buddy. -/
def Dev.stashStep (d : Dev) (j : Job) (image : List Byte) (pos buddy : Nat) : Dev :=
  let data := d.checkpoint image j.step
  let i := d.nextHome j.num
  let home := (d.stashSlot i).1
  let away := (d.stashSlot (2 + i)).1
  let header (state : Nat) : List Byte := stashHeader j.num pos j.step data.length state
  let d1 := d.wrB home (header 2 ++ data)
  if buddy = d.devId then d1.wrB away (header 2 ++ data)
  else d1.buddyCopy j.num (buddy * 2 ^ 48 + away) (header 1) data

/-! ### Restoring one (R351, R354) -/

/-- Put a checkpoint's contents where the image's plan has them. -/
def putState : List (Nat × Nat) → List Byte → Dev → Dev
  | [], _, d => d
  | r :: rs, bs, d => putState rs (bs.drop r.2) (d.wrB r.1 (slice bs 0 r.2))

/-- A checkpoint read back: the state, the copies rebuilt from it, the table of its step. -/
def Dev.putCheckpoint (d : Dev) (j : Job) (image bytes : List Byte) : Dev :=
  ((putState (Config.imageState image) (bytes.drop 8) d).placeAll (Config.rebuiltCopies image bytes)).updStep
    { j with image := image } j.step

/-- Restore from a slot of this device, among some. -/
def Dev.restoreFrom (d : Dev) (j : Job) (image : List Byte) (slots : List Nat) : Dev :=
  match d.stashFind slots j.num j.step with
  | none => d.updStep { j with image := image } j.step
  | some i => d.putCheckpoint j image (d.rd ((d.stashSlot i).1 + 64) (d.stashHdr i).2.2.1)

/-- Ask a buddy for the headers of its two buddy slots. -/
def Dev.pullStart (d : Dev) (j : Job) (buddy : Nat) : Dev :=
  let ask (d : Dev) (i : Nat) : Nat × Dev :=
    d.sendRead .stash (stashCarry j.num) (buddy * 2 ^ 48 + (d.stashSlot i).1) 64
  let a := ask d 2
  let b := ask a.2 3
  { b.2 with pull := some { job := j, buddy := buddy, wants := [(a.1, 2), (b.1, 3)] } }

/-- Ask for the contents of the slot found: pieces of at most 4,096 bytes. -/
def Dev.pullData (d : Dev) (p : Pull) (slot bytes : Nat) : Dev :=
  let at_ := p.buddy * 2 ^ 48 + (d.stashSlot slot).1 + 64
  let asked := (List.range ((bytes + 4095) / 4096)).foldl (fun (x : List (Nat × Nat) × Dev) k =>
    let o := 4096 * k
    let y := x.2.sendRead .stash (stashCarry p.job.num) (at_ + o) (min 4096 (bytes - o))
    (x.1 ++ [(y.1, o)], y.2)) ([], d)
  { asked.2 with pull := some { p with found := true, wants := asked.1 } }

/-- A READ of a restore is answered. A header names the checkpoint or not; without one the step starts from what
stands in memory. -/
def Dev.stashRead (d : Dev) (image : Job → List Byte) (tid status : Nat) (data : List Byte) : Dev :=
  match d.pull with
  | none => d
  | some p =>
    match p.wants.find? (·.1 == tid) with
    | none => d
    | some (_, o) =>
      let q : Pull := { p with wants := p.wants.filter (·.1 != tid) }
      let over_ (d : Dev) : Dev := { d with pull := none }
      if status ≠ 0 then (over_ d).lanErr clsContained 0x11 { tag := p.buddy }
      else if !p.found then
        let h := stashHdrOf data
        if stashIs p.job.num p.job.step h then d.pullData q o h.2.2.1
        else if q.wants.isEmpty then (over_ d).updStep { p.job with image := image p.job } p.job.step
        else { d with pull := some q }
      else
        let got := insertAt o data q.got
        if q.wants.isEmpty then (over_ d).putCheckpoint p.job (image p.job) (got.map Prod.snd).flatten
        else { d with pull := some { q with got := got } }

end Sys2Proof.Machine
end

