-- ==== Sys2Proof/Machine/Jobs.lean ====
section
/-! DEFINITION. The Quartermaster (15 R352 to R361; 18 R414 to R418, R422; 19 R441): messages of the host,
placement, the strike and start of a job, attestation reports, cancellation, replay, the loss of a device. -/

namespace Sys2Proof.Machine

/-- The writer an access of the Quartermaster's Lantern carries. -/
def lanWriter : Writer := ⟨.lantern false, true⟩

/-- The Quartermaster runs here: the basecamp, with an active Lantern. -/
def Dev.qmHere (d : Dev) : Bool := d.role == 1 && d.active.isSome

/-! ### Starting a job on this device (R361, R415, R422) -/

/-- The parts of a range outside a list of ranges. -/
def outside (r : Nat × Nat) : List (Nat × Nat) → List (Nat × Nat)
  | [] => if r.1 < r.2 then [r] else []
  | x :: xs => (rangeMinus r.1 r.2 x.1 x.2).flatMap fun p => outside p xs

/-- The frozen base region. -/
def Dev.baseRegion (d : Dev) : Nat × Nat :=
  let b := Config.kitBaseRegion d.kit
  (b.1 * 2 ^ 20, b.2 * 2 ^ 20)

/-- The region table of a job (R415): base, end and CTL of each entry. -/
def Dev.jobRegions (d : Dev) (declared : List (Nat × Nat)) : List (Nat × Nat × Nat) :=
  let open_ := declared ++ [d.baseRegion]
  (declared.map fun r => (r.1, r.2, 5)) ++
    ((outside (0, hbmEnd) open_ ++ outside (lpBase, lpEnd) open_).map fun r => (r.1, r.2, 3))

/-- Write the region table (R239): an entry that lets go of nothing secure is in force at once; what stops being secure
is cleared, and an entry that lets go of some waits for that clear. -/
def Dev.writeRegions (d : Dev) (es : List (Nat × Nat × Nat)) : Dev :=
  let entry (n : Nat) : Nat × Nat × Nat := es.getD n (0, 0, 0)
  let after : Dev := (List.range 64).foldl (fun (d : Dev) n => d.setRgn n (entry n)) d
  let lowered : Nat → Bool := fun a =>
    (regionOf a == .hbm || regionOf a == .lpddr) && d.memSecure a 1 && !after.memSecure a 1
  let d1 : Dev := { d with
    mem := d.mem.filter fun p => !lowered p.1
    bad := d.bad.filter fun a => !lowered a
    flips := d.flips.filter fun p => !(upsetSoft p.2 && lowered p.1)
    lowering := [] }
  (List.range 64).foldl (fun (d : Dev) n =>
    if (d.rgnLost n (entry n)).isEmpty then d.setRgn n (entry n) else d.rgnWait n (entry n)) d1

/-- The image with the logical position in each of its camp addresses replaced by a device ID (R360). -/
def relocate (image : List Byte) (devices : List Nat) : List Byte :=
  (Config.imageRelocs image).foldl (fun bs o =>
    if bs.length < o + 8 then bs
    else
      let x := leAt bs o 8
      bs.take o ++ leBytes 8 (withField x 48 10 (devices.getD (field x 48 10) 0)) ++ bs.drop (o + 8)) image

/-- The keyed digest of the frozen base, read once (R361). -/
def Dev.baseDigest (d : Dev) : BitVec 256 :=
  let r := d.baseRegion
  Config.baseDigest ((d.mem.filter fun p => decide (r.1 ≤ p.1) && decide (p.1 < r.2)).map fun p => (p.1 - r.1, p.2))

/-- Camp time (R421). -/
def Dev.campTime (d : Dev) : Word := d.time + BitVec.ofNat 64 (d.reg (dieReg 6 0x1600_0040))

/-- The pack registers of a job's preset (R192), written in turn in every memory-side die. Bits [8:0] of PCK_CTL, all of
the others, are its settings. -/
def Dev.applyPackPreset (d : Dev) (ws : List (Nat × Word)) : Dev :=
  [0, 1, 2, 3].foldl (fun (d : Dev) m =>
    ws.foldl (fun (d : Dev) w =>
      (d.packConfigWrite m lanWriter w.1 w.2.toNat).keepSetting
        ⟨dieReg (2 + m) (0x800_0000 + w.1), 0, if w.1 = 0 then 9 else if w.1 = 4 then 16 else 64, w.2.toNat, false⟩) d) d

/-- A job starts on this device, its region table in force: base check, firmware, image, presets, tally keys, group
table of its first step. -/
def Dev.startRest (d1 : Dev) (j : Job) (k1 k2 : Word) : Dev :=
  let fs := fieldsIn j.manifest
  let image := relocate j.image j.devices
  let found := d1.baseDigest
  let d2 := (d1.placeAll (Config.kitFirmware (kitSection d1.kit 3))).placeAll (Config.imagePlacement image)
  let d3 := (d2.writeAll imageReg (Config.imageWrites image)).applyKitPresets
  let d4 := (d3.applyPreset (jobPreset fs image)).applyPackPreset (packPreset fs image)
  let d5 : Dev := [6, 7].foldl (fun (d : Dev) die =>
    (d.setReg (dieReg die 0xE00_0020) k1.toNat).setReg (dieReg die 0xE00_0028) k2.toNat) d4
  let d6 := d5.updStep { j with image := image } 1
  { d6 with
    jobHere := some { j with image := image, baseFound := found.toNat }
    jobStart := d1.campTime }

/-- A job starts on this device: JOB and the region table; the rest at once, or when the clears that the table asks for
have ended (R239). -/
def Dev.startHere (d : Dev) (j : Job) (k1 k2 : Word) : Dev :=
  let fs := fieldsIn j.manifest
  let d1 := (d.jobWrite lanWriter j.num).writeRegions (d.jobRegions (regionPairs (mval fs 0x0F05 [])))
  if d1.lowering.isEmpty then d1.startRest j k1 k2 else { d1 with startWait := some (j, k1, k2) }

/-! ### Restores (R351, R354) -/

/-- Restore this device to the job's step: from a home slot, or from the buddy slot of the device that the lost
device's copy went to. A device that has still to start the job does so first. -/
def Dev.restoreHere (d : Dev) (j : Job) (buddy : Option Nat) : Dev :=
  let image := relocate j.image j.devices
  match buddy with
  | none => d.restoreFrom j image [0, 1]
  | some b =>
    if d.owedStart.isSome || d.startWait.isSome then { d with owedRestore := some (j, b) }
    else if b = d.devId then d.restoreFrom j image [2, 3]
    else d.pullStart j b

/-- The end of a strike (R414): it is counted, JOB becomes 0, its record is written; evacuations put off run
with no state copied (R435); a start that waited goes on. -/
def strikeComplete (p : Perm) (d : Dev) : Perm × Dev :=
  if !d.strikeCleared then (p, d)
  else
    let n := p.flash.strikes + 1
    let later := d.evacLater.filter fun t => !d.rowMapped t
    let p1 : Perm := { p with flash := { p.flash with
      strikes := n, repairs := p.flash.repairs ++ later.map fun t => .tent (t / 64) (t % 64) } }
    let d1 : Dev := later.foldl (fun (d : Dev) t => d.setReg (rowMapAddr t) (t % 64 + 2 ^ 6)) d
    let d2 : Dev := { d1.setRegF identAddr 0 24 0 with
      striking := none, evacLater := [], strikeRec := [n, d.strikeCount, b2n d.tampered], jobHere := none,
      owedStart := none, owedRestore := none }
    match d.owedStart, d.owedRestore with
    | some (j, _, k1, k2), some (j1, b) => (p1, (d2.startHere j k1 k2).restoreHere j1 (some b))
    | some (j, _, k1, k2), none => (p1, d2.startHere j k1 k2)
    | none, _ => (p1, d2)

/-- REGION_LOWER_DONE (R239): the new entry comes into force on all four dies; after the last that a start waits for, the
start goes on, and with it a restore that waits. -/
def execRegionLowerDone (n : BitVec 6) : State → Out :=
  lift fun d =>
    let d1 := d.regionLowerDone n.toNat
    match d1.startWait with
    | none => d1
    | some (j, k1, k2) =>
      if d1.lowering.isEmpty then
        let d2 := { d1 with startWait := none, owedRestore := none }.startRest j k1 k2
        match d1.owedRestore with
        | some (j1, b) => d2.restoreHere j1 (some b)
        | none => d2
      else d1

/-- STRIKE_COMPLETE (R414). -/
def execStrikeComplete : State → Out := liftAll strikeComplete

/-! ### Reports (R417, R418) -/

/-- A report entry: TYPE, LEN, the value padded to 8 bytes. -/
def reportEntry (typ : Nat) (v : List Byte) : List Byte :=
  leBytes 2 typ ++ leBytes 2 v.length ++ slice v 0 ((v.length + 7) / 8 * 8)

/-- The value of a setting in force. -/
def Dev.settingNow (d : Dev) (s : Setting) : Nat :=
  match regionOf s.addr with
  | .dieR die o =>
    match credRegOf die o with
    | some (l, hi) => field (d.credWord l hi) s.lsb s.width
    | none => d.regF s.addr s.lsb s.width
  | _ => d.regF s.addr s.lsb s.width

/-- Registers with a setting that an expert-level write has reached since the last preset that lists it and that differs
from it now (R9, R418), and their values. -/
def Dev.diverged (d : Dev) : List (Nat × Word) :=
  ((d.preset.filter fun p => p.2.hand && d.settingNow p.2 != p.2.val).map fun p => p.2.addr).eraseDups.map fun a =>
    (a, BitVec.ofNat 64 (d.reg a))

/-- The entries of this device's report (Table 18.13). -/
def reportEntries (p : Perm) (d : Dev) (j : Job) : List (List Byte) :=
  let k := d.kit
  let fs := fieldsIn j.manifest
  let field_ (f : MField) : List (List Byte) :=
    if f.1 = 0x0E02 then (groupValues fs).map fun v => reportEntry 5 (leBytes 2 f.1 ++ v)
    else [reportEntry 5 (leBytes 2 f.1 ++ mval fs f.1 f.2)]
  let dv := d.diverged
  [reportEntry 1 (leBytes 64 (kitMeasure k).toNat)] ++
    ((kitDir k).map fun s => reportEntry 2 (leBytes 2 s.typ ++ leBytes 6 0 ++ leBytes 64 s.digest.toNat)) ++
    [reportEntry 3 (leBytes 64 (Config.shake512 j.image).toNat),
      reportEntry 4 (leBytes 64 (Config.shake512 j.manifest).toNat)] ++
    measuredFields.flatMap field_ ++
    ((dv.take 256).map fun x => reportEntry 6 (leBytes 8 (d.ownAddr x.1) ++ leBytes 8 x.2.toNat)) ++
    (if 256 < dv.length then [reportEntry 7 (leBytes 8 (dv.length - 256))] else []) ++
    [reportEntry 8 (leBytes 32 j.baseFound),
      reportEntry 9 ((d.strikeRec.map fun x => leBytes 8 x).flatten),
      reportEntry 0xA (leBytes 64 (Config.shake512 p.flash.pubKey).toNat)]

/-- The attestation report of this device (R417): signed unless R407 forbids it. -/
def attReport (p : Perm) (d : Dev) (j : Job) : List Byte :=
  let es := reportEntries p d j
  let unsigned := d.debugOpen || !((d.active.map fun b => (d.lan b).keyHeld).getD false)
  let flags := b2n d.tampered + 2 * b2n d.debugOpen + 4 * d.regF (dieReg 6 0x1500_0004) 8 1 + 8 * b2n unsigned
  let body := leBytes 4 0x5454_5441 ++ leBytes 2 1 ++ leBytes 2 es.length ++ leBytes 8 p.fuses.uid.toNat ++
    leBytes 8 p.flash.strikes ++ [BitVec.ofNat 8 p.fuses.lifecycle, BitVec.ofNat 8 flags] ++ leBytes 2 j.num ++
    leBytes 4 0 ++ slice (mval (fieldsIn j.manifest) 0x1201 []) 0 32 ++ leBytes 8 d.jobStart.toNat ++
    leBytes 8 d.campTime.toNat ++ leBytes 48 0 ++ es.flatten
  body ++ (if unsigned then leBytes sigLen 0
    else slice (Config.falconSign d.fresh (Config.shake512 body)) 0 sigLen)

/-- Where the Quartermaster writes reports: a multiple of 64 in the LPDDR5X tier. -/
def Dev.reportBase (d : Dev) : Nat := lpBase + Config.reportPlace d.fresh % (lpEnd - lpBase) / 64 * 64

/-- The reports of a job, which the members are asked for: a 16-byte count, then one per position, each padded to 64 bytes; the Nat is where. -/
def writeReports (p : Perm) (d : Dev) (j : Job) : Dev × Nat :=
  let reps := j.devices.zipIdx.map fun (dev, i) =>
    if dev = d.devId then attReport p d (d.jobHere.getD j) else Config.remoteReport (d.fresh + 1 + i)
  let bytes := leBytes 16 j.devices.length ++ reps.flatMap fun r => slice r 0 ((r.length + 63) / 64 * 64)
  let d := (j.devices.filter (· != d.devId)).foldl (fun (d : Dev) x => d.sendCmd x (.report j)) d
  let a := d.reportBase
  ({ d.wrB a bytes with fresh := d.fresh + 1 + j.devices.length }, a)

/-! ### The Quartermaster's acts -/

/-- An act on a device of a job: here, or by a CMD. -/
def Dev.actOn (d : Dev) (dev : Nat) (here : Dev → Dev) (a : MgmtAct) : Dev :=
  if dev = d.devId then here d else d.sendCmd dev a

/-- The buddy of a device (R353): the next live worker after it in the worker order, itself with no other. -/
def Dev.buddyOf (d : Dev) (dev : Nat) : Nat :=
  let ws := (Config.kitPool d.topology).1
  let i := ws.findIdx (· == dev)
  ((ws.drop (i + 1) ++ ws.take i).find? fun x => !d.qm.lost.contains x).getD dev

/-- The job's step begins on this device: group table, UPD_STEP, and the checkpoint that is due (R337, R351). -/
def Dev.beginHere (d : Dev) (j : Job) (pos buddy : Nat) : Dev :=
  let image := relocate j.image j.devices
  let d1 := d.updStep { j with image := image } j.step
  if stashDue j j.step then d1.stashStep j image pos buddy else d1

/-- The job's step begins on every device of it. -/
def Dev.beginStep (d : Dev) (j : Job) : Dev :=
  j.devices.zipIdx.foldl (fun (d : Dev) x =>
    let b := d.buddyOf x.1
    d.actOn x.1 (·.beginHere j x.2 b) (.beginStep j x.2 b)) d

/-- The job is over on this device: its stash slots are cleared (R352), and the device is free of it. -/
def Dev.releaseHere (d : Dev) (num : Nat) : Dev :=
  let d1 := d.stashClear num
  if (d.jobHere.map (·.num)) = some num then { d1 with jobHere := none } else d1

/-- Blocks that a context's overflow list names with SOURCE 1, each once. -/
def Dev.markedBlocks (d : Dev) (c : Nat) : List Nat :=
  let at_ := d.reg (ctxReg c 0x38)
  match d.memHere at_ 16 with
  | none => []
  | some a =>
    ((List.range (min (d.rdNat a 4) (d.reg (ctxReg c 0x40)))).filterMap fun i =>
      let e := d.rdNat (a + 16 + 8 * i) 8
      if field e 40 1 = 1 then some (field e 0 32) else none).eraseDups

/-- Before the replay of a step: A[b] rises by reduce_raise, to 254 at most, for every block marked (R313). -/
def Dev.raiseMarked (d : Dev) (j : Job) : Dev :=
  let up := mnum (fieldsIn j.manifest) 0x0D04 2
  ((List.range 64).filter fun c => d.ctxJob c == j.num).foldl (fun (d : Dev) c =>
    (d.markedBlocks c).foldl (fun (d : Dev) b =>
      match d.memHere (d.reg (ctxReg c 0x20) + b) 1 with
      | none => d
      | some a => let x := d.rdNat a 1; if x < 254 then d.wrNat a 1 (min 254 (x + up)) else d) d) d

/-- Change a running job. -/
def Dev.modJob (d : Dev) (num : Nat) (f : Job → Job) : Dev :=
  d.modQm fun q => { q with running := q.running.map fun j => if j.num = num then f j else j }

/-- CANCEL on every device of a job (R298, R361). -/
def Dev.cancelJob (d : Dev) (j : Job) : Dev :=
  j.devices.foldl (fun (d : Dev) x => d.actOn x (·.cancel) .cancel) d

/-- The result address of a job: a camp address on position 0. -/
def jobResult (j : Job) : Nat :=
  j.devices.getD 0 0 * 2 ^ 48 + leAt (mval (fieldsIn j.manifest) 0x0F07 []) 0 8 % 2 ^ 48

/-- DONE with a status: reports are written, and the job waits for RELEASE. A job that never got devices has
nothing to report. -/
def jobDone (p : Perm) (d : Dev) (j : Job) (status : Nat) : Dev :=
  let r := if j.devices.isEmpty then (d, 0) else writeReports p d j
  let d1 := { r.1 with fresh := r.1.fresh + 1 }
  let att := if j.devices.isEmpty then 0 else d.ownAddr r.2
  (d1.tellHost j 0x8004 ([BitVec.ofNat 8 status] ++ leBytes 7 0 ++ leBytes 8 (jobResult j) ++
    leBytes 8 (Config.reportPlace r.1.fresh) ++ leBytes 8 att)).modJob j.num fun j => { j with state := 3 }

/-- The message of a type in mailbox m, where the Quartermaster runs and the doorbell has rung. -/
def Dev.inbound (d : Dev) (m typ : Nat) : Option (List Byte) :=
  let msg := lookAll byte0 d.host.mail (0x1000 * m) (min (d.mailLen m) 0xFF0)
  if d.qmHere ∧ d.qm.rung.contains m ∧ d.mailLen m ≠ 0 ∧ msgType msg = typ then some (slice msg 0 0x50) else none

/-- The message has been read: LEN becomes 0 (R356). -/
def Dev.takeMail (d : Dev) (m : Nat) : Dev :=
  (d.setMailLen m 0).modQm fun q => { q with rung := q.rung.filter (· != m) }

/-- REFUSED with a reason, logged (R359). -/
def Dev.refuseJob (d : Dev) (j : Job) (reason : Nat) : Dev :=
  (d.tellHost j 0x8002 [BitVec.ofNat 8 reason]).modQm fun q => { q with refusals := q.refusals ++ [(j.ref, reason)] }

/-- n bytes at a camp address of this device's memory, as the Lantern reads them. -/
def Dev.lanRead (d : Dev) (x n : Nat) : Option (List Byte) :=
  match d.memHere x n with
  | some a =>
    let r := d.memRead ⟨.io, 0, true⟩ a n
    if r.1.status = 0 then some r.1.data else none
  | none => none

/-- The workers that exist (R353). -/
def Dev.workers (d : Dev) : List Nat :=
  (Config.kitPool d.topology).1.filter fun x => !d.qm.lost.contains x && !d.qm.badBase.contains x
/-- Devices of running jobs. -/
def Dev.taken (d : Dev) : List Nat := d.qm.running.flatMap (·.devices)
/-- Free workers. -/
def Dev.freeWorkers (d : Dev) : List Nat := d.workers.filter fun x => !d.taken.contains x
/-- Free reserves. -/
def Dev.freeReserves (d : Dev) : List Nat :=
  (Config.kitPool d.topology).2.filter fun x =>
    !d.qm.lost.contains x && !d.qm.badBase.contains x && !d.taken.contains x

/-- The first placement of a job among some devices (R360). -/
def placement (fs : List MField) (image : List Byte) (among : List Nat) : Option (List Nat) :=
  let n := mnum fs 0x0F01 1
  if n = 1 then among.head?.map fun x => [x]
  else (Config.imageSets image).find? fun s => s.length == n && s.all among.contains

/-- The reason a manifest is refused for (Table 15.8), in the table's order; 0 for none. -/
def Dev.refusal (d : Dev) (j : Job) : Nat :=
  let fs := fieldsIn j.manifest
  if !manifestForm j.manifest j.ref then 1
  else if leAt j.manifest 24 4 ≠ j.image.length ∨
      leAt j.manifest 32 32 ≠ (Config.shake256 j.image).toNat then 2
  else if !strictOk fs j.image then 3
  else if !updateOk fs j.image then 4
  else if d.halted || d.tampered || (placement fs j.image d.workers).isNone then 5
  else if Config.kitStashGib d.kit * 2 ^ 30 / 4 < 64 + checkpointLen j.image then 7
  else if 16384 ≤ d.qm.queue.length then 8
  else 0

/-- SUBMIT (R356, R359): the manifest and the image are read from the basecamp's memory. -/
def Dev.submit (d : Dev) (m : Nat) : Dev :=
  match d.inbound m 1 with
  | none => d
  | some msg =>
    let manifest := (d.lanRead (leAt msg 16 8) (leAt msg 24 4)).getD []
    let image := (d.lanRead (leAt manifest 16 8) (leAt manifest 24 4)).getD []
    let j : Job := { ref := leAt msg 8 4, mbox := m, seq := leAt msg 4 4, manifest := manifest, image := image }
    let d1 := d.takeMail m
    let why := d.refusal j
    if why ≠ 0 then d1.refuseJob j why
    else
      (d1.modQm fun q => { q with queue := q.queue ++ [j] }).tellHost j 0x8001 (leBytes 4 d.qm.queue.length)

/-- SUBMIT. -/
def execSubmit (m : BitVec 7) : State → Out := lift (·.submit m.toNat)

/-- HOST_CANCEL (R361): a queued job leaves the queue, a running one is cancelled; DONE CANCELLED. -/
def hostCancel (p : Perm) (d : Dev) (m : Nat) : Dev :=
  match d.inbound m 2 with
  | none => d
  | some msg =>
    let d1 := d.takeMail m
    let ref := leAt msg 8 4
    match d1.qm.queue.find? (·.ref == ref), d1.qm.running.find? (fun j => j.ref == ref && decide (j.state ≠ 3)) with
    | some j, _ => jobDone p (d1.modQm fun q => { q with queue := q.queue.filter (·.ref != ref) }) j 1
    | none, some j => jobDone p (d1.cancelJob j) j 1
    | none, none => d1

/-- HOST_CANCEL. -/
def execHostCancel (m : BitVec 7) : State → Out := liftP fun p d => hostCancel p d m.toNat

/-- STATUS of a job (Table 15.4): state, queue position, step, EVENTs dropped since the last STATUS. -/
def Dev.sendStatus (d : Dev) (m seq : Nat) (j : Job) (state pos : Nat) : Dev :=
  let lost := look (fun _ => 0) d.qm.dropped m
  (d.modQm fun q => { q with dropped := put (fun _ => 0) q.dropped m 0 }).post m
    (jobMessage { j with seq := seq } 0x8005
      ([BitVec.ofNat 8 state] ++ leBytes 3 0 ++ leBytes 4 pos ++ leBytes 4 j.step ++ leBytes 4 lost))

/-- STATE of a running job as STATUS tells it. -/
def statusOf (j : Job) : Nat := if j.state = 4 then 1 else j.state

/-- STATUS of every job of a JOBREF (0: of the whole queue). -/
def Dev.statusAll (d : Dev) (m seq ref : Nat) : Dev :=
  let d1 : Dev := (d.qm.running.filter fun j => ref == 0 || j.ref == ref).foldl
    (fun (d : Dev) j => d.sendStatus m seq j (statusOf j) 0) d
  (d.qm.queue.zipIdx.filter fun x => ref == 0 || x.1.ref == ref).foldl
    (fun (d : Dev) x => d.sendStatus m seq x.1 0 x.2) d1

/-- QUERY (R356). -/
def execQuery (m : BitVec 7) : State → Out :=
  lift fun d =>
    match d.inbound m.toNat 3 with
    | none => d
    | some msg => (d.takeMail m.toNat).statusAll m.toNat (leAt msg 4 4) (leAt msg 8 4)

/-- A placed job whose input is in place runs from its first step. -/
def Dev.loadedJobs (d : Dev) (ref : Nat) : Dev :=
  let starts : Job → Bool := fun j => j.ref == ref && j.state == 1
  let run (j : Job) : Job := if starts j then { j with state := 2, step := 1 } else j
  let due := (d.qm.running.filter fun j => starts j && stashDue j 1).map run
  due.foldl (fun (d : Dev) j => d.beginStep j) (d.modQm fun q => { q with running := q.running.map run })

/-- LOADED (R361): the input is in place, and the steps run; the first one's group table stands since the start
(R337). -/
def execLoaded (m : BitVec 7) : State → Out :=
  lift fun d =>
    match d.inbound m.toNat 4 with
    | none => d
    | some msg => (d.takeMail m.toNat).loadedJobs (leAt msg 8 4)

/-- HOST_RELEASE (R361): the job's devices are free, its stash slots cleared there and on their buddies. -/
def execHostRelease (m : BitVec 7) : State → Out :=
  lift fun d =>
    match d.inbound m.toNat 5 with
    | none => d
    | some msg =>
      let ref := leAt msg 8 4
      let d1 := d.takeMail m.toNat
      match d1.qm.running.find? fun j => j.ref == ref && j.state == 3 with
      | none => d1
      | some j =>
        let d2 : Dev := (j.devices ++ j.devices.map d1.buddyOf).eraseDups.foldl (fun (d : Dev) x =>
          d.actOn x (·.releaseHere j.num) (.release j.num)) d1
        d2.modQm fun q => { q with running := q.running.filter (·.num != j.num) }

/-- HOLD (R356). -/
def execHold (m : BitVec 7) : State → Out :=
  lift fun d =>
    match d.inbound m.toNat 6 with
    | none => d
    | some msg => (d.takeMail m.toNat).modQm fun q => { q with hold := leAt msg 16 1 == 1 }

/-! ### Restores and reserves (R351, R354) -/

/-- The step of the last checkpoint that serves every device of a job. -/
def Dev.restoreStep (d : Dev) (j : Job) : Nat :=
  if j.devices = [d.devId] then d.stashNewest j.num else Config.remoteStep d.fresh

/-- A device takes its new place: JOB and image as at a start, then the re-shard. -/
def Dev.reshardHere (d : Dev) (j : Job) : Dev :=
  let image := relocate j.image j.devices
  let d1 := (d.placeAll (Config.imagePlacement image)).setRegF identAddr 26 1 1
  { d1 with jobHere := some { j with image := image, baseFound := (d.jobHere.map (·.baseFound)).getD 0 } }

/-- The reserve that takes a lost place: a job of one device takes any free worker too. -/
def Dev.reserveFor (d : Dev) (j : Job) : Option Nat :=
  d.freeReserves.head?.orElse fun _ => if j.devices.length = 1 then d.freeWorkers.head? else none

/-- A job's lost position passes to a reserve: wake, strike, base check and start there; relocation, re-shard and
restore on the others. -/
def Dev.takeOver (d : Dev) (j : Job) (dev reserve : Nat) : Dev :=
  let step := d.restoreStep j
  let j1 := { j with devices := j.devices.map fun x => if x = dev then reserve else x,
                     step := step, replays := 0, needsReserve := false }
  let k1 := Config.freeWord (d.fresh + 1)
  let k2 := Config.freeWord (d.fresh + 2)
  let d0 := { d with fresh := d.fresh + 3 }
  let pos := j.devices.findIdx (· == dev)
  let d1 := if reserve = d.devId then
      { d0.strike with owedStart := some (j1, pos, k1, k2), jobHere := some j1 }
    else ((d0.sendCmd reserve (.wakePartner reserve)).sendCmd reserve .strike).sendCmd reserve (.start j1 pos k1 k2)
  let d2 : Dev := j1.devices.zipIdx.foldl (fun (d : Dev) x =>
    let from_ := if x.1 = reserve then some (d0.buddyOf dev) else none
    let d' := if x.1 = reserve then d else d.actOn x.1 (·.reshardHere j1) (.reshard j1 x.2)
    d'.actOn x.1 (·.restoreHere j1 from_) (.restore j1 from_)) d1
  d2.modJob j.num fun _ => j1

/-- A job that waits for a reserve, its lost device, and a reserve that is free now (R355). -/
def Dev.waitingTakeOver (d : Dev) : Option (Job × Nat × Nat) :=
  match d.qm.running.find? (·.needsReserve) with
  | some j =>
    match j.devices.find? d.qm.lost.contains, d.reserveFor j with
    | some x, some r => some (j, x, r)
    | _, _ => none
  | none => none

/-! ### JOB_START (R360, R361) -/

/-- The next JOB number in turn that no running job holds. -/
def Dev.nextJobNum (d : Dev) : Nat :=
  (((List.range 4095).map fun i => (d.qm.lastNum + i) % 4095 + 1).find? fun n =>
    !(d.qm.running.any (·.num == n))).getD 1

/-- The digest of a device's frozen base. -/
def Dev.digestOf (d : Dev) (dev i : Nat) : BitVec 256 :=
  if dev = d.devId then d.baseDigest else Config.remoteDigest (d.fresh + i)

/-- A job whose devices are struck: base check, then the start on every device, then PLACED. -/
def Dev.finishStart (d : Dev) (j : Job) : Dev :=
  let fs := fieldsIn j.manifest
  let want := mval fs 0x0F08 []
  let wrong := (j.devices.zipIdx.filter fun x => !want.isEmpty && (d.digestOf x.1 x.2).toNat != leNat want).map Prod.fst
  let d1 := { d with fresh := d.fresh + j.devices.length }
  if !wrong.isEmpty then
    { (d1.refuseJob j 6).modQm fun q =>
        { q with running := q.running.filter (·.num != j.num), badBase := q.badBase ++ wrong } with jobHere := none }
  else
    let k1 := Config.freeWord d1.fresh
    let k2 := Config.freeWord (d1.fresh + 1)
    let d2 := { d1 with fresh := d1.fresh + 2 }
    let j1 := { j with state := 1, start := d2.campTime.toNat }
    let d3 : Dev := j.devices.zipIdx.foldl (fun (d : Dev) x =>
      d.actOn x.1 (·.startHere j1 k1 k2) (.start j1 x.2 k1 k2)) d2
    (d3.modJob j.num fun _ => j1).tellHost j1 0x8003
      (leBytes 2 (j.devices.getD 0 0) ++ leBytes 2 j.devices.length)

/-- JOB_START: a job that waits for a reserve takes one that has become free; a job placed whose strike has ended
goes on; else the head of the queue is placed and struck. -/
def Dev.jobStartStep (d : Dev) : Dev :=
  if !d.qmHere || d.halted then d
  else match d.waitingTakeOver with
  | some (j, x, r) => d.takeOver j x r
  | none =>
    match d.qm.running.find? (·.state == 4) with
    | some j => if d.striking.isSome then d else d.finishStart j
    | none =>
      match d.qm.queue with
      | [] => d
      | j :: rest =>
        if d.qm.hold then d
        else
          match placement (fieldsIn j.manifest) j.image d.freeWorkers with
          | none => d
          | some devs =>
            let n := d.nextJobNum
            let j1 := { j with num := n, state := 4, devices := devs }
            let d1 := d.modQm fun q => { q with queue := rest, running := q.running ++ [j1], lastNum := n }
            let d2 : Dev := devs.foldl (fun (d : Dev) x => d.actOn x (·.strike) .strike) d1
            if devs.contains d.devId then d2 else d2.finishStart j1

/-- JOB_START. -/
def execJobStart : State → Out := lift (·.jobStartStep)

/-! ### The end of a job (R361, R441) -/

/-- A running job by number. -/
def Dev.runningJob (d : Dev) (num : Nat) : Option Job :=
  if d.qmHere then d.qm.running.find? fun j => j.num == num && j.state == 2 else none

/-- Held tiles end the job (R330): update_nonfinite = stop. -/
def stopsHeld (j : Job) : Bool := mnum (fieldsIn j.manifest) 0x0E07 0 == 1

/-- The NaN words of the tile record of the step that ends (R330): on this device from its memory, where the image's
plan has the record; of a job on other devices a free value. -/
def Dev.heldTiles (d : Dev) (j : Job) : Nat :=
  if j.devices = [d.devId] then
    let r := Config.imageTiles j.image
    ((List.range r.2).filter fun i =>
      let w := d.rdNat (r.1 + 4 * i) 4
      field w 23 8 == 255 && field w 0 23 != 0).length
  else Config.remoteHeld d.fresh

/-- JOB_COMPLETE (R361): DONE OK; NONFINITE where the last step held a tile under update_nonfinite = stop. -/
def execJobComplete (job : BitVec 12) (nonfinite : Bool) : State → Out :=
  liftP fun p d =>
    match d.runningJob job.toNat with
    | none => d
    | some j =>
      let j1 := { j with step := mnum (fieldsIn j.manifest) 0x0F02 0 }
      jobDone p (d.modJob j.num fun _ => j1) j1 (if nonfinite && stopsHeld j then 2 else 0)

/-- DEADLINE_EXPIRY (R361). -/
def execDeadlineExpiry (job : BitVec 12) : State → Out :=
  liftP fun p d =>
    match d.runningJob job.toNat with
    | none => d
    | some j => if mnum (fieldsIn j.manifest) 0x0F0A 0 = 0 then d else jobDone p (d.cancelJob j) j 5

/-- CONTAINED_REPLAY (R441): CANCEL; replay of the step, marked blocks raised (R313), or, once its sweep has begun,
of the last checkpoint's; after replay_limit replays DONE FAILED. -/
def containedReplay (p : Perm) (d : Dev) (job : Nat) : Dev :=
  match d.runningJob job with
  | none => d
  | some j =>
    let d1 := d.cancelJob j
    if Config.kitReplayLimit d.kit ≤ j.replays then jobDone p d1 j 3
    else
      let swept := Config.sweepBegun d1.fresh
      let d2 := { d1 with fresh := d1.fresh + 1 }
      let step := if swept then d2.restoreStep j else j.step
      let j1 := { j with replays := j.replays + 1, step := step }
      let d3 := { d2.modJob j.num fun _ => j1 with fresh := d2.fresh + 1 }
      if swept then j.devices.foldl (fun (d : Dev) x => d.actOn x (·.restoreHere j1 none) (.restore j1 none)) d3
      else j.devices.foldl (fun (d : Dev) x => d.actOn x (·.raiseMarked j1) (.raiseMarked j1)) d3

/-- CONTAINED_REPLAY. -/
def execContainedReplay (job : BitVec 12) : State → Out := liftP fun p d => containedReplay p d job.toNat

/-! ### Tallies (R317) -/

/-- The place of the first member of a ring whose RX is not the TX of the member before it. -/
def ringMismatch (ts : List (List Nat)) : Option Nat :=
  (List.range ts.length).find? fun i =>
    let mine := ts.getD i []
    let prev := ts.getD ((i + ts.length - 1) % ts.length) []
    mine.drop 2 != prev.take 2

/-- The sums of all members differ. -/
def sumMismatch (ts : List (List Nat)) : Bool :=
  let s (k : Nat) : Nat := (ts.map fun t => t.getD k 0).sum % 2 ^ 64
  s 0 != s 2 || s 1 != s 3

/-- The Quartermaster compares the tallies of a completed context: always, or where a member met trouble on a link or a
reserve took over meanwhile, as tally_check says. The tallies of members at other devices, and their troubles, are
free values. A mismatch is logged with the first pair's later member (DESIGN CHOICE: cause 0x30 of block 0x0D) and makes
the step CONTAINED. -/
def Dev.compareTally (d : Dev) (r : TallyRec) : Dev :=
  match d.qm.running.find? fun j => j.num == r.job with
  | none => d
  | some j =>
    let always := mnum (fieldsIn j.manifest) 0x0D06 0 == 1
    let d1 := { d with fresh := d.fresh + 1 + r.members }
    if !(always || r.suspect || Config.remoteTrouble d.fresh) then d1
    else
      let ts := (List.range r.members).map fun i =>
        if i = r.pos then r.tally else (List.range 4).map fun k => Config.remoteTally (d.fresh + 1 + i) k % 2 ^ 64
      let bad := if r.ring then ringMismatch ts else if sumMismatch ts then some 0 else none
      match bad with
      | none => d1
      | some i => (d1.dieErr 6 0 0x0D clsContained 0x30 { tag := i, spec := r.step }).asJob r.job

/-- Every tally noted is compared. -/
def Dev.compareTallies (d : Dev) : Dev :=
  let rs := d.qm.tallies
  let d1 := d.modQm fun q => { q with tallies := [] }
  if d.qmHere then rs.foldl (fun (d : Dev) r => d.compareTally r) d1 else d1

/-! ### Steps that end of themselves (R326, R361) -/

/-- A job whose next step can begin: it runs, has a step left, and waits for no reserve. -/
def canAdvance (j : Job) : Bool :=
  j.state == 2 && !j.needsReserve && decide (j.step < mnum (fieldsIn j.manifest) 0x0F02 0)

/-- At a tick, the running job drawn ends its step and begins the next; no draw is made with no job that can. The held
tiles of the step enter its report, and end the job under update_nonfinite = stop (R330). -/
def Dev.jobSteps (d : Dev) (p : Perm) : Dev :=
  if !d.qmHere || !d.qm.running.any canAdvance then d
  else
    let num := Config.stepEnds d.fresh
    let d1 := { d with fresh := d.fresh + 1 }
    match d.qm.running.find? fun j => canAdvance j && j.num == num with
    | none => d1
    | some j =>
      let n := d1.heldTiles j
      let j0 := { j with held := j.held + n, replays := 0 }
      let d2 := ({ d1 with fresh := d1.fresh + 1 }).modJob num fun _ => j0
      if 0 < n ∧ stopsHeld j then jobDone p d2 j0 2
      else
        let j1 := { j0 with step := j.step + 1 }
        (d2.modJob num fun _ => j1).beginStep j1

/-! ### The loss of a device (R354, R355) -/

/-- DEVICE_LOSS (R354, R355): the device leaves the pool; its job is cancelled elsewhere and taken over, or
waits, or ends LOST. -/
def deviceLoss (p : Perm) (d : Dev) (dev : Nat) : Dev :=
  if !d.qmHere then d
  else
    let d1 := if d.qm.lost.contains dev then d else d.modQm fun q => { q with lost := q.lost ++ [dev] }
    match d1.qm.running.find? fun j => j.devices.contains dev && decide (j.state ≠ 3) with
    | none => d1
    | some j =>
      let rest := { j with devices := j.devices.filter (· != dev) }
      let e : Event := ⟨8, clsDevice, 0x0413, 6, j.num, 0, d.time, dev⟩
      let d2 := ((d1.cancelJob rest).tellHost j 0x8006 (leBytes 64 (e.record d.evSeq))).jobVector j.num
      match d2.reserveFor j with
      | some r => d2.takeOver j dev r
      | none =>
        if mnum (fieldsIn j.manifest) 0x0F09 0 = 2 then jobDone p d2 rest 4
        else d2.modJob j.num fun j => { j with needsReserve := true }

/-- DEVICE_LOSS. -/
def execDeviceLoss (dev : BitVec 10) : State → Out := liftP fun p d => deviceLoss p d dev.toNat

end Sys2Proof.Machine
end

