-- ==== Sys2Proof/Machine/Lantern.lean ====
section
/-! DEFINITION. Signed commands, the life-cycle, tamper (18 R405, R407 to R413). -/

namespace Sys2Proof.Machine

/-! ### A signed command (Table 18.10) -/

/-- TYPE of a blob. -/
def blobType (b : List Byte) : Nat := leAt b 4 1
/-- PLEN. -/
def blobPlen (b : List Byte) : Nat := leAt b 6 2
/-- The payload. -/
def blobPayload (b : List Byte) : List Byte := slice b 64 (blobPlen b)

/-- The format of a blob: RESULT 6 where it fails. -/
def blobForm (b : List Byte) : Bool :=
  leAt b 0 4 == 0x4443_4E4C && decide (1 ≤ blobType b) && decide (blobType b ≤ 5) && decide (leAt b 5 1 ≤ 1) &&
    decide (blobPlen b ≤ 8192) && (blobType b == 1 || leAt b 48 1 == 0) && allZero (slice b 49 15) &&
    b.length == 64 + blobPlen b + sigLen

/-- The bytes at a camp address in non-secure memory of this device that a blob takes. -/
def Dev.readBlob (d : Dev) (x : Nat) : List Byte :=
  let get (n : Nat) : List Byte :=
    match d.memHere x n with
    | some a => if d.memSecure a n ∨ d.badIn a n then [] else d.rd a n
    | none => []
  let h := get 64
  if h.isEmpty then [] else get (64 + blobPlen h + sigLen)

/-- A RESULT, and a new nonce (R410). -/
def Dev.cmdResult (d : Dev) (b : Bool) (result : Nat) : Dev :=
  let n := d.drawNonce
  n.2.setLan b { n.2.lan b with busy := none, result := result, nonce := n.1 }

/-- A write of LAN_CMD_ADDR of Lantern b: the active Lantern copies the blob; one whose format fails is refused
at once. While BUSY it is discarded; so is a write to a Lantern that is not active. -/
def Dev.lanCmdAddr (d : Dev) (b : Bool) (x : Nat) : Dev :=
  if d.active ≠ some b ∨ (d.lan b).busy.isSome then d
  else
    let blob := d.readBlob x
    if blobForm blob then d.setLan b { d.lan b with busy := some blob } else d.cmdResult b 6

/-- The key of a signer: the vendor's, or the owner's in force. -/
def Dev.signerKey (d : Dev) (f : Fuses) (owner : Bool) : Option (List Byte) :=
  let keys := kitSection d.kit 1
  let k := if owner then slice keys 1793 1793 else keys.take 1793
  if owner then (if f.owner = some (Config.shake512 k) then some k else none)
  else if Config.shake512 k = f.vroot then some k else none

/-- A transition of Table 18.9: its signers (vendor, owner). -/
def transition (src dst : Nat) : Option (Bool × Bool) :=
  if src = 4 ∨ 4 < src then none
  else if dst = 4 then some (true, src == 2)
  else match src, dst with
  | 0, 1 => some (true, false)
  | 1, 2 => some (true, false)
  | 2, 3 => some (true, true)
  | 3, 2 => some (true, false)
  | _, _ => none

/-- The signer is allowed for TYPE in the present state. A transition is one of Table 18.9, its fuse rows still
have room, and OWNER_3 is not used up. For the other types the vendor is allowed, and in FIELD the owner in force
but for CERT. -/
def signerAllowed (f : Fuses) (blob : List Byte) : Bool :=
  let owner := leAt blob 5 1 == 1
  match blobType blob with
  | 1 =>
    let dst := leAt blob 48 1
    (match transition f.lifecycle dst with
      | some (v, o) => if owner then o else v
      | none => false) &&
      decide (f.lcLog.length < 16) && !(f.lifecycle == 3 && dst == 2 && decide (4 ≤ f.owners.length))
  | 4 => !owner && decide (f.lifecycle < 4)
  | _ => decide (f.lifecycle < 4) && (!owner || f.lifecycle == 2)

/-- Payload lengths of the types that have a fixed one. -/
def payloadOk (blob : List Byte) : Bool :=
  match blobType blob with
  | 1 =>
    if leAt blob 48 1 = 2 then blobPlen blob == 64 else blobPlen blob == 0
  | 2 => blobPlen blob == 0
  | 3 => blobPlen blob == 0
  | 5 => blobPlen blob == 13
  | _ => true

/-- The checks of R410, in order: the RESULT, 0 for accepted. -/
def Dev.checkBlob (d : Dev) (p : Perm) (b : Bool) (blob : List Byte) : Nat :=
  let f := p.fuses
  let x := d.lan b
  let signed := Config.shake512 (blob.take 64 ++ blobPayload blob)
  let block := slice blob (64 + blobPlen blob) sigLen
  if !payloadOk blob then 6
  else if leAt blob 8 8 ≠ f.uid.toNat then 3
  else if slice blob 16 32 ≠ x.nonce.flatMap (fun w => leBytes 8 w.toNat) then 2
  else if d.tampered || !signerAllowed f blob then 4
  else match d.signerKey f (leAt blob 5 1 == 1) with
    | none => 4
    | some k =>
      if !Config.falconVerify k signed (sigOf block) then 1
      else if blobType blob = 1 ∧ d.jobPlaced then 5
      else 0

/-- Process the command of a TYPE that the active Lantern holds: refused with its RESULT, or acted on. -/
def signedCommand (typ : Nat) (act : Perm → Dev → List Byte → Perm × Dev) (p : Perm) (d : Dev) : Perm × Dev :=
  match d.active with
  | none => (p, d)
  | some b =>
    match (d.lan b).busy with
    | none => (p, d)
    | some blob =>
      if blobType blob ≠ typ then (p, d)
      else
        let r := d.checkBlob p b blob
        if r ≠ 0 then (p, d.cmdResult b r) else act p (d.cmdResult b 0) blob

/-! ### Life-cycle (R408, R409, R412) -/

/-- The fuses after a transition (Table 18.9): owners, revocations, LC_LOG. -/
def Fuses.moved (f : Fuses) (dst : Nat) (payload : List Byte) : Fuses :=
  let g : Fuses := match dst with
    | 2 => { f with owners := f.owners ++ [BitVec.ofNat 512 (leAt payload 0 64)] }
    | 3 => { f with revoked := f.revoked ++ [f.ownerSlot] }
    | _ => f
  { g with lcLog := f.lcLog ++ [dst] }

/-- The flash after a transition: the identity key at the transition into PROVISIONED, its erasure and that of
the kit slots in END, the log. -/
def Flash.moved (f : Flash) (dst : Nat) (draw : Nat) : Flash :=
  let g : Flash := match dst with
    | 1 => { f with pubKey := Config.drawKey draw, wrapped := true }
    | 4 => { f with wrapped := false, slots := [[], [], [], []] }
    | _ => f
  { g with log := f.log ++ [0x80 + dst] }

/-- LIFECYCLE (R409): wipe, clear, burn, log, WARM reset. -/
def doLifecycle (p : Perm) (d : Dev) (blob : List Byte) : Perm × Dev :=
  let dst := leAt blob 48 1
  let d1 := d.wipeCanisters.clearSecure
  warmReset ⟨p.fuses.moved dst (blobPayload blob), p.flash.moved dst d1.fresh⟩
    { d1.compassTotals with fresh := d1.fresh + 1 }

/-- LIFECYCLE. -/
def execLifecycle : State → Out := liftAll (signedCommand 1 doLifecycle)

/-- DEBUG (R407, R411): the debug port is unlocked until COLD; the canisters are wiped. -/
def doDebug (p : Perm) (d : Dev) (_ : List Byte) : Perm × Dev :=
  (p, { d.wipeCanisters with debugOpen := true }.freshNonce)

/-- DEBUG. -/
def execDebug : State → Out := liftAll (signedCommand 2 doDebug)

/-- KSVN (R405): bits burned up to the KSVN of the kit in force. -/
def doKsvn (p : Perm) (d : Dev) (_ : List Byte) : Perm × Dev :=
  ({ p with fuses := { p.fuses with ksvn := max p.fuses.ksvn (leAt d.kit 16 1) } }, d)

/-- KSVN. -/
def execKsvn : State → Out := liftAll (signedCommand 3 doKsvn)

/-- CERT (R410): the vendor certificate of the identity key. -/
def doCert (p : Perm) (d : Dev) (blob : List Byte) : Perm × Dev :=
  ({ p with flash := { p.flash with cert := blobPayload blob } }, d)

/-- CERT. -/
def execCert : State → Out := liftAll (signedCommand 4 doCert)

/-- A kit image in slot s of Lantern b's flash. -/
def Flash.setSlot (f : Flash) (b s : Bool) (image : List Byte) : Flash :=
  { f with slots := f.slots.set (2 * b2n b + b2n s) image }

/-- SLOT (R434): the image at the payload's camp address is verified and written to the named slot of both
flashes; one that is not valid is refused. -/
def doSlot (p : Perm) (d : Dev) (blob : List Byte) : Perm × Dev :=
  let v := blobPayload blob
  let image := (d.lanRead (leAt v 0 8) (leAt v 8 4)).getD []
  let s := leAt v 12 1 == 1
  if leAt v 12 1 ≤ 1 ∧ kitValid p.fuses image then
    ({ p with flash := (p.flash.setSlot false s image).setSlot true s image }, d)
  else
    (p, match d.active with
      | some b => d.setLan b { d.lan b with result := 6 }
      | none => d)

/-- KIT_SLOT_SWAP. -/
def execKitSlotSwap : State → Out := liftAll (signedCommand 5 doSlot)

/-! ### Tamper (R413) -/

/-- Tamper: canisters wiped, secure data cleared, TAMPERED, logged, DEVICE. A strike in progress ends without
being counted. Without power nothing is there to notice it (R454). -/
def doTamper (p : Perm) (d : Dev) : Perm × Dev :=
  if d.power = .off then (p, d) else
  let d1 : Dev := { d.wipeCanisters.clearSecure with
    tampered := true, alertN := false, striking := none, strikeRgn := [], owedStart := none, startWait := none,
    owedRestore := none }
  ({ p with flash := { p.flash with log := p.flash.log ++ [0xFF] } }, d1.lanErr clsDevice 0x05 {})

/-- TAMPER. -/
def execTamper : State → Out := liftAll doTamper

end Sys2Proof.Machine
end

