-- ==== Sys2Proof/Machine/Service.lean ====
section
/-! DEFINITION. Live service, the bivouac, the recovery ladder, the Compass, SMBus (19 R429 to R445; 20 R456,
R457; 01 R27). -/

namespace Sys2Proof.Machine

/-! ### Tent evacuation (R47, R435) -/

/-- ECC units of a tent's scratchpad and vector registers that cannot be copied. -/
def Dev.badOf (d : Dev) (t : Nat) : List Nat :=
  d.bad.filter fun a => decide (tentMem t 0 ≤ a) && decide (a < tentMem t 0x2_0000)

/-- TENT_EVACUATION: the Compass reads; the tent's state goes to the row's spare, an uncorrectable word as zero
with the job step CONTAINED; the row map is written with FUSED 0 and listed. A tent of a row that another evacuation has
mapped meanwhile is a DEVICE error (R31). The spare starts with its own rows
and counters. -/
def tentEvacuation (p : Perm) (d : Dev) (t : Nat) : Perm × Dev :=
  if !d.evacWait.contains t then (p, d)
  else if d.rowMapped t then
    (p, { d with evacWait := d.evacWait.filter (· != t) }.tentErr t 1 clsDevice 0x19 {})
  else
    let d0 := d.compassTotals
    let lost := d0.badOf t
    let d1 : Dev := lost.foldl (fun (d : Dev) a => d.zero a (a + unitLen a)) d0
    let d2 := ((d1.setReg (rowMapAddr t) (t % 64 + 2 ^ 6)).wipeRegs (tentReg t 0x100) (tentReg t 0x110)).wipeRegs
      (tentReg t 0x80_0000) (tentReg t 0x80_0020)
    let gone : Nat → Bool := fun a => compassOffsets.any fun o => a == tentReg t o
    let d3 : Dev := { d2.modTent t fun x => { x with remaps := [], shadowRow := none, stretch := 0 } with
      evacWait := d.evacWait.filter (· != t)
      compassRead := d2.compassRead.filter fun x => !gone x.1 }
    let d4 := if lost.isEmpty then d3 else d3.tentErr t 1 clsContained 0x18 {}
    ({ p with flash := { p.flash with repairs := p.flash.repairs ++ [.tent (t / 64) (t % 64)] } }, d4)

/-- TENT_EVACUATION (R435). -/
def execTentEvacuation (t : TentId) : State → Out := liftAll fun p d => tentEvacuation p d t.toNat

/-- EVAC_QUIESCE_TIMEOUT (R435): the evacuation asked for first is put off to the next strike; CONTAINED. -/
def execEvacQuiesceTimeout : State → Out :=
  lift fun d =>
    match d.evacWait with
    | [] => d
    | t :: rest => { d with evacWait := rest, evacLater := d.evacLater ++ [t] }.tentErr t 1 clsContained 0x18 {}

/-- LAN_RESET.EVAC (R435). -/
def Dev.evacWrite (d : Dev) (t : Nat) : Dev := d.askEvacuation t

/-! ### The bivouac (R429 to R432) -/

/-- LAN_SVC. -/
def svcAddr : Nat := dieReg 6 0x1600_0104

/-- Registers that the bivouac keeps: the always-on logic and the Lanterns (windows 22 to 25). -/
def bivKept (a : Nat) : Bool :=
  alwaysOnReg a ||
    (match regionOf a with
    | .dieR die o => decide (6 ≤ die) && decide (0x1600_0000 ≤ o) && decide (o < 0x1A00_0000)
    | _ => false)

/-- Every link of a port that was enabled is down. -/
def Dev.linksDown (d : Dev) : Dev :=
  (List.range 48).foldl (fun (d : Dev) l => if d.linkState l = 0 then d else d.stopLink l 4) d

/-- Entry: work stops, memory in self-refresh, PRESENCE on every sideband, power off. Refused, with BIV_ERR, with
a job placed, on the basecamp and its standby, and where a running job has no other route. -/
def Dev.bivEnter (d : Dev) : Dev :=
  if d.power ≠ .on then d
  else
    let d0 := { d with fresh := d.fresh + 1 }
    if d.jobPlaced || d.role == 1 || d.role == 2 || Config.soleRoute d.fresh then d0.setRegF svcAddr 3 1 1
    else
      let d1 := d0.softReset.linksDown
      let d2 : Dev := { d1 with regs := d1.regs.filter fun x => bivKept x.1, power := .bivouac, selfRefresh := true }
      (List.range 24).foldl (fun (d : Dev) p =>
        d.sendSb p 0x01 (leBytes 2 d.devId ++ [BitVec.ofNat 8 p, 0, BitVec.ofNat 8 d.role,
          BitVec.ofNat 8 (lanCode d.lanA + 4 * lanCode d.lanB)])) d2

/-- BIV_ENTER (R429). -/
def execBivEnter (w : Writer) : State → Out :=
  asWriter w fun w => lift fun d => if !w.secure then d.lanRefused 0x104 else d.bivEnter

/-- A wake event (R431): ignored outside the bivouac. -/
def Dev.wakeEvent (d : Dev) : Dev := if d.power = .bivouac then { d with power := .waking } else d

/-- BIV_WAKE (R431). -/
def execBivWake (w : Writer) : State → Out :=
  asWriter w fun w => lift fun d => if !w.secure then d.lanRefused 0x104 else d.wakeEvent

/-- WAKE_N (R431). -/
def execWakeN : State → Out := lift (·.wakeEvent)

/-- WAKE on a sideband (R431). -/
def execWake (port : BitVec 5) (f : SbFrame) : State → Out :=
  lift fun d => d.sbTake port.toNat 0x02 f fun d => (d.passFrame port.toNat f).wakeEvent

/-- BIVOUAC_WAKE_DONE (R431, Table 19.3): PLLs locked, modules trained with their lane repairs, memory out of self-refresh, kit registers, region table and row maps
reapplied, RWL locked, MODE 0, links training. -/
def execBivouacWakeDone : State → Out :=
  liftP fun p d =>
    if d.power ≠ .waking then d
    else ((({ d with power := .on, selfRefresh := false }.trainModules.lockPlls).applyKit p.flash).applyKitPresets).bringUpLinks

/-! ### Handover and the ladder (R434, R436, R437, R440) -/

/-- The active Lantern hands its role to the standby and comes back by R398. -/
def Dev.handover (d : Dev) (lanB : Bool) : Dev :=
  let x := d.lan lanB
  let y := d.lan (!lanB)
  if d.active ≠ some lanB ∨ y.role ≠ .standby ∨ y.lost then d
  else
    let y1 := { y with role := .active, missed := 0 }
    (((d.setLan (!lanB) y1).setLan lanB (secondRole y1 x)).freshNonce)

/-- HANDOVER (R434). -/
def execHandover (w : Writer) (lanB : Bool) : State → Out :=
  asWriter w fun w => lift fun d => if !w.secure then d.lanRefused 0x104 else d.handover lanB

/-- The watch table of the part a recalibration retrains, and its recalibration requester (Table 16.4). -/
def recalWatch : Recal → Nat × Nat
  | .hbm ch => (dieReg (2 + ch.toNat / 96) (0x700_0000 + 0x1000 * (ch.toNat % 96)), 8)
  | .lpddr ch => (dieReg (2 + ch.toNat / 24 % 4) (0x700_0000 + 0x1000 * (96 + ch.toNat % 24)), 8)
  | .ucie pair _ => (pairWatch pair.toNat false, 2)
  | .trail l => (dieReg (linkDie l.toNat) (0x1300_0000 + 0x1000 * (l.toNat % 24)), 8)

/-- RECALIBRATION (R434): the part retrains in the recalibration slots: its requester is granted. -/
def execRecalibration (part : Recal) : State → Out :=
  lift fun d => (d.grant (recalWatch part).1 [(recalWatch part).2]).1

/-- WATCHDOG_FIRST (R436): the core is interrupted. -/
def execWatchdogFirst (lanB : Bool) (core : BitVec 2) : State → Out :=
  lift fun d =>
    let x := d.lan lanB
    if x.lost ∨ x.barked.contains core.toNat then d
    else d.setLan lanB { x with barked := x.barked ++ [core.toNat] }

/-- WATCHDOG_SECOND (R436): after the first, the core is reset and its Lantern is lost. -/
def execWatchdogSecond (lanB : Bool) (core : BitVec 2) : State → Out :=
  lift fun d => if (d.lan lanB).barked.contains core.toNat then d.loseLantern lanB else d

/-- The standby Lantern that runs. -/
def Dev.standby (d : Dev) : Option Bool :=
  if d.lanA.role = .standby ∧ !d.lanA.lost then some false
  else if d.lanB.role = .standby ∧ !d.lanB.lost then some true else none

/-- HEARTBEAT_LOSS (R436): ten heartbeats of the standby unanswered. -/
def execHeartbeatLoss : State → Out :=
  lift fun d =>
    match d.standby with
    | some b => if 10 ≤ (d.lan b).missed then d.loseLantern (!b) else d
    | none => d

/-- HEARTBEAT_SEND (R436, R440): the standby Lantern's, counted until answered; the basecamp's, with its
journal. -/
def execHeartbeatSend : State → Out :=
  lift fun d =>
    let d1 := match d.standby with
      | some b => d.setLan b { d.lan b with missed := (d.lan b).missed + 1 }
      | none => d
    if d1.qmHere ∧ d1.standbyId ≠ d1.devId then
      d1.sendMgmt d1.standbyId msgHeartbeat (Config.journalBytes d1.qm.queue d1.qm.running)
    else d1

/-- A Lantern restarts (R398, R437): it boots from its flash, and takes the active role if no other holds it. -/
def lanternReturn (p : Perm) (d : Dev) (b : Bool) : Perm × Dev :=
  let x := lanBoot p b (d.lan b)
  let n := d.drawNonce
  let y := { x.unwrap p d.debugOpen with nonce := n.1 }
  if d.active = some (!b) then
    let z := secondRole (d.lan (!b)) y
    let d1 := n.2.setLan b z
    (p, if z.role = .standby then d1 else d1.lanErr clsCorrected 0x01 {})
  else if !y.kitOk then (p, n.2.setLan b y)
  else
    let o := n.2.lan (!b)
    let d1 := (n.2.setLan b { y with role := .active }).setLan (!b)
      { o with role := if o.lost then .booting else o.role }
    if d.kitApplied then (p, d1)
    else (p, ((d1.lockPlls.applyKit p.flash).applyKitPresets).bringUpLinks)

/-- LOST_LANTERN_RETURN (R437): a Lantern lost while the other is active comes back. -/
def execLostLanternReturn : State → Out :=
  liftAll fun p d =>
    match d.active with
    | none => (p, d)
    | some b => if (d.lan (!b)).lost then lanternReturn p d (!b) else (p, d)

/-- LANTERN_RECOVERY_TIMEOUT (R437): with no live Lantern, the device is lost. -/
def execLanternRecoveryTimeout : State → Out :=
  lift fun d => if d.active.isSome then d else d.lanErr clsDevice 0x07 {}

/-- STANDBY_BASECAMP_TAKEOVER (R440). -/
def standbyTakeover (p : Perm) (d : Dev) : Perm × Dev :=
  if d.role ≠ 2 ∨ d.active = none then (p, d)
  else
    let d1 : Dev := { d with role := 1, baseId := d.devId, standbyId := d.baseId }
    let d2 : Dev := (d1.qm.running.filter (·.state == 2)).foldl (fun (d : Dev) j => containedReplay p d j.num) d1
    let d3 : Dev := d2.qm.running.foldl (fun (d : Dev) j => d.sendStatus j.mbox j.seq j (statusOf j) 0) d2
    let d4 : Dev := d3.qm.queue.zipIdx.foldl (fun (d : Dev) x => d.sendStatus x.1.mbox x.1.seq x.1 0 x.2) d3
    ({ p with flash := { p.flash with roleChanged := true } }, d4.lanErr clsCorrected 0x08 {})

/-- STANDBY_BASECAMP_TAKEOVER. -/
def execStandbyBasecampTakeover : State → Out := liftAll standbyTakeover

/-! ### The recovery responder (R438, R439) -/

/-- LAN_STATUS of a Lantern. -/
def Dev.lanStatus (d : Dev) (b : Bool) : Nat :=
  let x := d.lan b
  lanCode x + 4 * b2n x.kitOk + 8 * b2n x.slotB + 16 * b2n d.kitApplied + 32 * b2n d.tampered +
    64 * b2n d.debugOpen

/-- Bytes of a recovery command: the header alone for STATUS, with a signature block for the others. -/
def recoverLen (bs : List Byte) : Nat := if leAt bs 0 1 = 0 then 64 else 64 + sigLen

/-- The command is accepted: UID, and for any action but STATUS the nonce and a signature by a named key. -/
def Dev.recoverOk (d : Dev) (p : Perm) (c : List Byte) : Bool :=
  decide (leAt c 0 1 ≤ 6) && leAt c 8 8 == p.fuses.uid.toNat &&
    (leAt c 0 1 == 0 ||
      (slice c 16 32 == d.resp.nonce.flatMap (fun w => leBytes 8 w.toNat) &&
        d.signedByNamed (Config.shake512 (c.take 64)) (slice c 64 sigLen))) &&
    (leAt c 0 1 != 6 || (decide (leAt c 50 1 ≤ 1) && decide (leAt c 51 1 ≤ 1) && decide (leAt c 52 4 ≤ 125_829_120)))

/-- The responder draws a new nonce after every command. -/
def Dev.respNonce (d : Dev) : Dev :=
  let n := d.drawNonce
  { n.2 with resp := { n.2.resp with nonce := n.1 } }

/-- RECOVER (R438): a fragment; a whole command is checked, and an accepted one stands ready. -/
def recover (p : Perm) (d : Dev) (port : Nat) (f : SbFrame) : Dev :=
  if d.power = .off ∨ d.power = .logicOff ∨ (d.resp.load.map (·.port)) = some port then d
  else d.sbTake port 0x10 f fun d =>
    let bs := look (fun _ => []) d.resp.frags port ++ f.payload
    if bs.length < recoverLen bs then
      { d with resp := { d.resp with frags := put (fun _ => []) d.resp.frags port bs } }
    else
      let c := bs.take (recoverLen bs)
      let ok := d.recoverOk p c
      ({ d with resp := { d.resp with
        frags := put (fun _ => []) d.resp.frags port []
        ready := if ok then some (port, c) else none } }).respNonce

/-- RECOVER. -/
def execRecover (port : BitVec 5) (f : SbFrame) : State → Out :=
  liftP fun p d => recover p d port.toNat f

/-- Carry out the ready command of an action that came through a port. -/
def recoverAct (action port : Nat) (act : Perm → Dev → List Byte → Perm × Dev) (p : Perm) (d : Dev) : Perm × Dev :=
  match d.resp.ready with
  | none => (p, d)
  | some (q, c) =>
    if q ≠ port ∨ leAt c 0 1 ≠ action then (p, d)
    else act p { d with resp := { d.resp with ready := none } } c

/-- The last 8 error records of IOD0's ring, newest first. -/
def Dev.lastErrors (d : Dev) : List Byte :=
  (List.range 8).flatMap fun i =>
    let n := (d.regF (dieReg 6 0x1900_0000) 0 10 + 1023 - i) % 1024
    (List.range 8).flatMap fun k => leBytes 8 (d.reg (errRec 6 n k))

/-- Send a recovery answer in fragments of 240 bytes. -/
def Dev.sendFragments (d : Dev) (port typ : Nat) (bs : List Byte) : Dev :=
  (List.range ((bs.length + 239) / 240)).foldl (fun (d : Dev) i => d.sendSb port typ ((bs.drop (240 * i)).take 240)) d

/-- RECOVER_STATUS (R438). -/
def execRecoverStatus (port : BitVec 5) : State → Out :=
  liftAll (recoverAct 0 port.toNat fun p d _ =>
    (p, d.sendFragments port.toNat 0x11 (leBytes 4 (d.lanStatus false) ++ leBytes 4 (d.lanStatus true) ++
      d.lastErrors ++ d.resp.nonce.flatMap fun w => leBytes 8 w.toNat)))

/-- A Lantern is reset: what it held as the active one passes on, and it restarts. -/
def resetLantern (b : Bool) (p : Perm) (d : Dev) (_ : List Byte) : Perm × Dev :=
  lanternReturn p (d.loseLantern b) b

/-- RESET_LANTERN_A (R438). -/
def execResetLanternA (port : BitVec 5) : State → Out := liftAll (recoverAct 1 port.toNat (resetLantern false))

/-- RESET_LANTERN_B (R438). -/
def execResetLanternB (port : BitVec 5) : State → Out := liftAll (recoverAct 2 port.toNat (resetLantern true))

/-- RECOVER_WARM (R438). -/
def execRecoverWarm (port : BitVec 5) : State → Out :=
  liftAll (recoverAct 3 port.toNat fun p d _ => warmReset p d)

/-- RECOVER_WAKE (R438). -/
def execRecoverWake (port : BitVec 5) : State → Out :=
  liftAll (recoverAct 4 port.toNat fun p d _ => (p, d.wakeEvent))

/-- RECOVER_LOST (R438): all job work stops, as a DEVICE error stops it. -/
def execRecoverLost (port : BitVec 5) : State → Out :=
  liftAll (recoverAct 5 port.toNat fun p d _ => (p, d.lanErr clsDevice 0x07 {}))

/-- RECOVER_KIT (R439): the load starts; a Lantern that is active is not the one such a load is for. -/
def execRecoverKit (port : BitVec 5) : State → Out :=
  liftAll (recoverAct 6 port.toNat fun p d c =>
    let k : KitLoad := { lanB := leAt c 50 1 == 1, slotB := leAt c 51 1 == 1, length := leAt c 52 4, port := port.toNat }
    (p, { d with resp := { d.resp with load := some k } }))

/-- The slot's mark, judged afresh. -/
def Lantern.mark (x : Lantern) (slotB bad : Bool) : Lantern :=
  if slotB then { x with badB := bad } else { x with badA := bad }

/-- The load ends: the bytes stand in the slot; a valid slot is applied as at boot, another is marked. -/
def kitLoadEnd (p : Perm) (d : Dev) (k : KitLoad) : Perm × Dev :=
  let p1 : Perm := { p with flash := p.flash.setSlot k.lanB k.slotB k.got }
  let ok := decide (k.got.length = k.length) && kitValid p.fuses k.got
  let d1 := { d with resp := { d.resp with load := none } }
  let d2 := d1.setLan k.lanB ((d1.lan k.lanB).mark k.slotB !ok)
  if ok ∧ d2.active ≠ some k.lanB then lanternReturn p1 d2 k.lanB else (p1, d2)

/-- KIT_LOAD_FRAME (R439): image bytes of the sender, up to LENGTH. -/
def kitLoadFrame (p : Perm) (d : Dev) (port : Nat) (f : SbFrame) : Perm × Dev :=
  match d.resp.load with
  | none => (p, d)
  | some k =>
    if k.port ≠ port then (p, d)
    else if sbBad f then (p, d.bump (linkCnt (2 * port) 0x50) 1)
    else if f.typ.toNat ≠ 0x10 then (p, d)
    else
      let k1 := { k with got := (k.got ++ f.payload).take k.length }
      if k1.got.length < k1.length then (p, { d with resp := { d.resp with load := some k1 } })
      else kitLoadEnd p d k1

/-- KIT_LOAD_FRAME. -/
def execKitLoadFrame (port : BitVec 5) (f : SbFrame) : State → Out :=
  liftAll fun p d => kitLoadFrame p d port.toNat f

/-- KIT_LOAD_TIMEOUT (R439): the slot is invalid. -/
def execKitLoadTimeout : State → Out :=
  liftAll fun p d =>
    match d.resp.load with
    | none => (p, d)
    | some k =>
      let d1 := { d with resp := { d.resp with load := none } }
      ({ p with flash := p.flash.setSlot k.lanB k.slotB k.got }, d1.setLan k.lanB ((d1.lan k.lanB).mark k.slotB true))

/-! ### Management messages (R420, R421) -/

/-- The packet of a message leaves the link it came through, where one brought it. -/
def Dev.takeMgmt (d : Dev) (src : Nat) (body : List Byte) : Dev :=
  match (List.range 48).find? fun l =>
      (d.link l).inbox.any fun k => (hdrOf k).typ == 0xA && (hdrOf k).src == src && payloadOf k == body with
  | none => d
  | some l =>
    match (d.link l).inbox.find? fun k => (hdrOf k).typ == 0xA && (hdrOf k).src == src && payloadOf k == body with
    | some k => d.consume l k
    | none => d

/-- Act on a message of a MSG value: the payload is MSG, SEQ and the rest. -/
def Dev.mgmtTake (d : Dev) (src msg : Nat) (body : List Byte) (act : Dev → List Byte → Dev) : Dev :=
  if leAt body 0 2 ≠ msg then d else act (d.takeMgmt src body) (body.drop 8)

/-- HEARTBEAT (R436, R440): the device's own, answered by the active Lantern; the basecamp's, whose journal the
standby basecamp keeps. -/
def execHeartbeat (src : BitVec 10) (body : List Byte) : State → Out :=
  lift fun d => d.mgmtTake src.toNat msgHeartbeat body fun d rest =>
    if src.toNat = d.devId then
      match d.active, d.standby with
      | some _, some b => d.setLan b { d.lan b with missed := 0 }
      | _, _ => d
    else if d.role = 2 ∧ src.toNat = d.baseId then
      let j := Config.journalOf rest
      d.modQm fun q => { q with queue := j.1, running := j.2 }
    else d

/-- TIME_SYNC (R421): this Lantern asks the basecamp; the basecamp answers with its camp time. -/
def execTimeSync (src : BitVec 10) (body : List Byte) : State → Out :=
  lift fun d => d.mgmtTake src.toNat msgTimeSync body fun d rest =>
    if src.toNat = d.devId then
      if d.baseId = d.devId ∨ d.active = none then d else d.sendMgmt d.baseId msgTimeSync (leBytes 8 d.time.toNat)
    else if d.role = 1 ∧ d.active.isSome then
      d.sendMgmt src.toNat msgTimeReply (slice rest 0 8 ++ leBytes 8 d.campTime.toNat)
    else d

/-- TIME_REPLY (R421): the offset from the round trip, the path taken as symmetric; it is slewed to. -/
def execTimeReply (src : BitVec 10) (body : List Byte) : State → Out :=
  lift fun d => d.mgmtTake src.toNat msgTimeReply body fun d rest =>
    if src.toNat = d.baseId ∧ d.devId ≠ d.baseId then
      let sent : Int := leAt rest 0 8
      let base : Int := leAt rest 8 8
      let now : Int := d.time.toNat
      { d with campTarget := base + (now - sent) / 2 - now }
    else d

/-- EVENT_FWD (R419, R420): a record of another device reaches the Quartermaster. -/
def execEventFwd (src : BitVec 10) (body : List Byte) : State → Out :=
  lift fun d => d.mgmtTake src.toNat msgEventFwd body fun d rest =>
    if d.qmHere then d.eventToHost (leNat (slice rest 0 64)) else d

/-- What a CMD asks for. -/
def Dev.cmdAct (d : Dev) : MgmtAct → Dev
  | .none => d
  | .strike => d.strike
  | .start j pos k1 k2 =>
    if d.striking.isSome then { d with owedStart := some (j, pos, k1, k2) } else d.startHere j k1 k2
  | .cancel => d.cancel
  | .reshard j _ => d.reshardHere j
  | .restore j buddy => d.restoreHere j buddy
  | .beginStep j pos buddy => d.beginHere j pos buddy
  | .raiseMarked j => d.raiseMarked j
  | .release job => d.releaseHere job
  | .bivouac => d.bivEnter
  | .report _ => d
  | .wakePartner dev =>
    match (List.range 24).find? fun p => d.regF (linkStatus (2 * p)) 7 10 == dev && d.regF (linkStatus (2 * p)) 23 1 == 1 with
    | some p => d.sendSb p 0x02 []
    | none => d
  | .recoverPartner dev c =>
    match (List.range 24).find? fun p => d.regF (linkStatus (2 * p)) 7 10 == dev && d.regF (linkStatus (2 * p)) 23 1 == 1 with
    | some p => d.sendFragments p 0x10 c
    | none => d

/-- What the answer to a CMD carries: the attestation report that DONE asks of a member (R9, R417). -/
def cmdAnswer (p : Perm) (d : Dev) : MgmtAct → List Byte
  | .report j => attReport p d (d.jobHere.getD j)
  | _ => []

/-- CMD (R420): accepted under a named key and a rising SEQ, which the canister keeps; another is discarded and
logged. DESIGN CHOICE: the CMD_RSP repeats SEQ, then what the act answers, in packets of up to 2,048 bytes of it. -/
def execCmd (src : BitVec 10) (body : List Byte) : State → Out :=
  liftP fun p d =>
    if leAt body 0 2 ≠ msgCmd then d
    else
      let d0 := d.takeMgmt src.toNat body
      match d0.active with
      | none => d0
      | some b =>
        let x := d0.lan b
        let seq := leAt body 2 6
        let signed := body.take (body.length - sigLen)
        let ok := d0.signedByNamed (Config.shake512 signed) (body.drop signed.length) &&
          decide (look (fun _ => 0) x.lastSeq src.toNat < seq)
        if !ok then d0.lanErr clsCorrected 0x04 { tag := src.toNat }
        else
          let d1 := d0.setLan b { x with lastSeq := put (fun _ => 0) x.lastSeq src.toNat seq }
          let act := Config.cmdAct (signed.drop 8)
          let d2 := d1.cmdAct act
          let answer := cmdAnswer p d2 act
          (List.range (answer.length / 2048 + 1)).foldl (fun (d : Dev) i =>
            d.sendMgmt src.toNat msgCmdRsp (leBytes 6 seq ++ slice answer (2048 * i)
              (min 2048 (answer.length - 2048 * i)))) { d2 with fresh := d2.fresh + 1 }

/-- CMD_RSP (R420): it changes no state. -/
def execCmdRsp (src : BitVec 10) (body : List Byte) : State → Out :=
  lift fun d => d.mgmtTake src.toNat msgCmdRsp body fun d _ => d

/-! ### The Compass, power, SMBus (R433, R443, R445, R456, R457, R27) -/

/-- Registers of 64 bits, one after another. -/
def Dev.words (d : Dev) (as : List Nat) : List Byte := as.flatMap fun a => leBytes 8 (d.reg a)

/-- The tents and spare tents of the device, by tent number. -/
def allTents : List Nat := List.range 16640

/-- The droop section (Table 19.9): CLK_STRETCH_EVT and CLK_LONG_DROOP of every tent. -/
def Dev.droopSection (d : Dev) : List Byte :=
  d.words (allTents.flatMap fun t => [tentReg t 0x80_0010, tentReg t 0x80_0018])

/-- The memory-error section: CORR, UNCORR, ODECC, ROWS and BANKS of every controller. -/
def Dev.memSection (d : Dev) : List Byte :=
  d.words ((List.range 16).flatMap fun k =>
    (List.range 5).map fun i => dieReg (2 + k / 4) ((2 + k % 4) * 0x100_0000 + 0x100 + 8 * i))

/-- The Expert and Scout section: the MOV_X counters (R215) and the SCT counters (R148) of every tent. -/
def Dev.expertSection (d : Dev) : List Byte :=
  d.words (allTents.flatMap fun t =>
    ((List.range 7).map fun i => tentReg t (0x70_0880 + 8 * i)) ++
      ((List.range 64).flatMap fun n => (List.range 3).map fun i => slotReg t n + 8 + 8 * i) ++
      ((List.range 3).map fun i => tentReg t (0x60_0900 + 8 * i)))

/-- The link counters: the replays of every die-to-die module (R16), which follow the margins. -/
def Dev.linkCounters (d : Dev) : List Byte :=
  (List.range 13).flatMap fun p => (List.range (pairModules p)).flatMap fun m => leBytes 8 (d.module p m).replays

/-- The sections of a report, in the order of Table 19.9: what the sensors give, and what registers hold. DESIGN CHOICE:
the spec gives the sections no layout; counters stand as 64-bit words in ascending order of unit and address. -/
def Dev.sections (d : Dev) (x : Sensed) : List Byte :=
  x.dieTemp ++ x.memTemp ++ d.droopSection ++ x.energy ++ (x.margins ++ d.linkCounters) ++ d.memSection ++
    d.expertSection ++ x.regulators

/-- The header of a report: MAGIC, global time, JOB, byte count (R443). -/
def Dev.reportHead (d : Dev) (n : Nat) : List Byte :=
  leBytes 4 0x5053_4D43 ++ leBytes 4 0 ++ leBytes 8 d.time.toNat ++ leBytes 4 d.job ++ leBytes 4 (64 + n) ++ leBytes 40 0

/-- The Compass has a report: kept for SMBus, and written at CMP_REPORT_BASE where it is not zero. -/
def Dev.putReport (d : Dev) (rep : List Byte) : Dev :=
  let d2 := { d with report := rep }
  let x := d2.reg (dieReg 6 0x1800_0010)
  if x = 0 then d2
  else match d2.memHere x rep.length with
  | some a => (d2.memWrite ⟨.io, d2.job, false⟩ a rep).2
  | none => d2

/-- COMPASS_REPORT (R443): totals; a header and one section per row of Table 19.9. -/
def execCompassReport (x : Sensed) : State → Out :=
  lift fun d =>
    let d1 := d.compassTotals
    let body := d1.sections x
    d1.putReport (d1.reportHead body.length ++ body)

/-- TEMP_WARN (R433, R456): one CORRECTED event per crossing, and ALERT_N low. -/
def execTempWarn (part : BitVec 6) (above : Bool) : State → Out :=
  lift fun d =>
    let n := part.toNat
    if !above then { d with warm := d.warm.filter (· != n) }
    else if d.warm.contains n then d
    else { d.dieErr 6 0 0x14 clsCorrected 0x01 { tag := n } with warm := d.warm ++ [n], alertN := false }

/-- A block has nothing queued, in flight or waited for. -/
def Dev.blockIdle (d : Dev) (t b : Nat) : Bool :=
  if b < 4 then !(d.core t b).running
  else
    let q := d.queue t (b - 4)
    q.entries.isEmpty && q.flight.isEmpty && !q.waiting

/-- CLOCK_GATE (R433): an idle S-core (0 to 3) or the engine of queue q (4 + q) gates its clock. -/
def execClockGate (t : TentId) (blk : BitVec 4) : State → Out :=
  lift fun d =>
    let tn := t.toNat
    let b := blk.toNat
    if 14 ≤ b ∨ (d.tent tn).gated.contains b ∨ !d.blockIdle tn b ∨
        d.regF (dieReg (tn / 8192) 0x1800_0000) 0 8 = 0 then d
    else d.modTent tn fun x => { x with gated := x.gated ++ [b] }

/-- MEMORY_POWER_DOWN (R433): an idle channel. -/
def execMemoryPowerDown (ch : BitVec 9) : State → Out :=
  lift fun d =>
    let c := ch.toNat
    let die := if c < 384 then 2 + c / 96 else 2 + (c - 384) / 24
    if 480 ≤ c ∨ d.memDown.contains c ∨ d.regF (dieReg die 0x1800_0000) 8 10 = 0 then d
    else { d with memDown := d.memDown ++ [c] }

/-- SMBUS_BLOCK_READ (R443, R457): 32-byte page n of the latest report; zeros until a Lantern runs. -/
def execSmbusBlockRead (n : BitVec 8) : State → Out :=
  lift fun d =>
    if d.power = .off then d
    else { d with smbus := if d.active.isSome then slice d.report (32 * n.toNat) 32 else List.replicate 32 0 }

/-- ALERT_CLEAR (R456). -/
def execAlertClear : State → Out := lift fun d => { d with alertN := true }

/-- SHUTDOWN_TEMPERATURE (R27): a DEVICE error, which enters the error rings, and the logic loses power.
DESIGN CHOICE, for the spec gives block 0x14 no cause table: CAUSE 0x02, and the part in TAG. -/
def execShutdownTemperature (part : BitVec 6) : State → Out :=
  lift fun d =>
    let e : Event := ⟨10, clsDevice, 0x0414, 6, d.job + d.epoch * 2 ^ 12, d.gen, d.time, 2 + part.toNat * 2 ^ 16⟩
    let r := e.record (d.evSeq + 1)
    let d1 := ({ d with evSeq := d.evSeq + 1 }.errRing 6 clsDevice r).errRing 7 clsDevice r
    { d1.warmCleared with mem := [], bad := [], flips := [], power := .logicOff, alertN := false, selfRefresh := false }

end Sys2Proof.Machine
end

