-- ==== Sys2Proof/Machine/Vector.lean ====
section
/-! DEFINITION. The vector engine (07_vector_engine): push and issue checks, LOAD, STORE, RECIPE, REDUCE,
WAIT, NOP, completion. -/

namespace Sys2Proof.Machine

/-! ### Command fields -/

/-- A vector register of a tent. -/
def vecReg (t o : Nat) : Nat := tentReg t (0x30_0000 + o)
/-- VEC_ERR. -/
def vecErr (t : Nat) : ErrPlace := ⟨vecReg t 8, 5⟩
/-- Address of element e of the group that starts at register v (R150, R151). -/
def vecElem (t v e : Nat) : Nat := tentMem t (0x1_8000 + 4 * (256 * v + e))

/-- The bits each opcode uses (Tables 7.2, 7.6, 7.7). -/
def vecUsed (op : Nat) : List (Nat × Nat) :=
  [(0, 5), (8, 6), (16, 16)] ++
    match op with
    | 1 => [(32, 17), (64, 32), (96, 12), (112, 5), (120, 3), (126, 1)]
    | 2 => [(32, 17), (64, 32), (96, 12), (112, 5), (120, 6), (128, 17)]
    | 3 => [(32, 7), (40, 12), (56, 12), (72, 32), (104, 6), (112, 6), (120, 6), (128, 128)]
    | 4 => [(32, 4), (40, 12), (56, 12), (72, 5), (80, 5), (88, 5)]
    | 5 => [(32, 16)]
    | _ => []

/-- Rounding mode of a code (Table 7.2). -/
def rndOf (n : Nat) : Rnd :=
  match n with
  | 0 => .rne | 1 => .rtz | 2 => .rdn | 3 => .rup | _ => .sr

/-- Fields of LOAD and STORE. -/
structure VMem where
  desc : Nat
  elem : Nat
  count : Nat
  vr : Nat
  rnd : Nat
  inf : Bool
  expm : Nat
  bits : Bool
  mark : Nat
  deriving DecidableEq, Repr

/-- Read them. -/
def vmemOf (c : Cmd) : VMem :=
  { desc := cmdF c 32 17, elem := cmdF c 64 32, count := cmdF c 96 12 + 1, vr := cmdF c 112 5,
    rnd := cmdF c 120 3, inf := cmdF c 123 1 == 1, expm := cmdF c 124 2, bits := cmdF c 126 1 == 1,
    mark := cmdF c 128 17 }

/-- COUNT and ROWLEN of RECIPE and REDUCE. -/
def vecCount (c : Cmd) : Nat := cmdF c 40 12 + 1
/-- ROWLEN. -/
def vecRow (c : Cmd) : Nat := cmdF c 56 12 + 1

/-- A register group: first register, elements. -/
abbrev Group := Nat × Nat

/-- Registers a group spans. -/
def groupRegs (g : Group) : List Nat := (List.range ((g.2 + 255) / 256)).map (g.1 + ·)
/-- A group passes v31 (R151). -/
def groupBad (g : Group) : Bool := decide (g.1 + (g.2 + 255) / 256 > 32)
/-- Two groups share a register. -/
def groupsMeet (x y : Group) : Bool := (groupRegs x).any fun r => (groupRegs y).contains r

/-- ⌈a / b⌉. -/
def ceilDiv (a b : Nat) : Nat := (a + b - 1) / b

/-- Enabled inputs of a RECIPE: mode and group (R163). -/
def recipeIns (c : Cmd) : List (Nat × Group) :=
  (List.range 4).filterMap fun i =>
    let b := cmdB c (9 + i) 1
    let n := match field b 5 2 with
      | 1 => ceilDiv (vecCount c) (vecRow c)
      | 2 => min (vecRow c) (vecCount c)
      | _ => vecCount c
    if bitAt b 7 then some (field b 5 2, field b 0 5, n) else none

/-- Enabled outputs. -/
def recipeOuts (c : Cmd) : List Group :=
  (List.range 3).filterMap fun j =>
    let b := cmdB c (13 + j) 1
    if bitAt b 5 then some (field b 0 5, vecCount c) else none

/-- Result elements of a REDUCE. -/
def reduceLen (c : Cmd) : Nat := if cmdF c 35 1 = 1 then vecRow c else ceilDiv (vecCount c) (vecRow c)

/-- Groups a command reads. -/
def vecReads (c : Cmd) : List Group :=
  match cmdOp c with
  | 2 => [((vmemOf c).vr, (vmemOf c).count)]
  | 3 => (recipeIns c).map Prod.snd
  | 4 => [(cmdF c 72 5, vecCount c)] ++ (if cmdF c 32 3 = 1 then [(cmdF c 80 5, vecCount c)] else [])
  | _ => []

/-- Groups it writes. -/
def vecWrites (c : Cmd) : List Group :=
  match cmdOp c with
  | 1 => [((vmemOf c).vr, (vmemOf c).count)]
  | 3 => recipeOuts c
  | 4 => [(cmdF c 88 5, reduceLen c)]
  | _ => []

/-- Two groups among the outputs overlap. -/
def pairsMeet : List Group → Bool
  | [] => false
  | g :: gs => gs.any (groupsMeet g) || pairsMeet gs

/-- R164 and R165: overlapping groups. -/
def vecHazard (c : Cmd) : Bool :=
  match cmdOp c with
  | 3 =>
    pairsMeet (recipeOuts c) ||
      (recipeOuts c).any fun o => (recipeIns c).any fun (m, i) => groupsMeet o i && !(m == 0 && i.1 == o.1)
  | 4 => (vecReads c).any fun i => (vecWrites c).any (groupsMeet i)
  | _ => false

/-- Checks of a push (Table 7.11). -/
def vecPushCause (c : Cmd) : Nat :=
  let op := cmdOp c
  firstCause [
    (decide (5 < op), 0x01),
    (reservedSet c (vecUsed op) ||
      (match op with
        | 1 => decide (4 < (vmemOf c).rnd)
        | 2 => decide (4 < (vmemOf c).rnd) || (vmemOf c).expm == 3
        | 3 => decide (4 < cmdF c 36 3) || (List.range 4).any fun i => field (cmdB c (9 + i) 1) 5 2 == 3
        | 4 => decide (5 < cmdF c 32 3) || (cmdF c 32 3 != 1 && cmdF c 80 5 != 0)
        | _ => false), 0x02),
    (op == 5 && cmdWaitN c == 0, 0x07),
    ((vecReads c ++ vecWrites c).any groupBad, 0x09),
    (vecHazard c, 0x0A)]

/-- Pipe of an opcode: 1 memory, 2 compute, 0 none. -/
def vecPipe (op : Nat) : Nat := if op = 1 ∨ op = 2 then 1 else if op = 3 ∨ op = 4 then 2 else 0

/-- R154: the head may issue beside the commands in flight. -/
def vecMayIssue (c : Cmd) (flight : List Issued) : Bool :=
  flight.all fun x =>
    (vecPipe (cmdOp c) == 0 || vecPipe (cmdOp x.cmd) != vecPipe (cmdOp c)) &&
      (vecReads c).all (fun g => !(vecWrites x.cmd).any (groupsMeet g)) &&
      (vecWrites c).all (fun g => !(vecWrites x.cmd ++ vecReads x.cmd).any (groupsMeet g))

/-! ### Registers -/

/-- Errors strike elements of the register file (R152): each shows when its element is next read, by the engine or
through the tent window. -/
def Dev.vecStruck (d : Dev) (t : Nat) (find : List (BitVec 13 × EccFind)) : Dev :=
  find.foldl (fun (d : Dev) p => d.upset (vecElem t 0 p.1.toNat) (eccUpset p.2)) d

/-- Read element e of a group; the fault position is the element. An access from outside that is not complete shows
the old or the new element (R152). -/
def vget (t v e : Nat) : Eng Nat := do
  let a := vecElem t v e
  onDev (·.meet a 4)
  need (!(← askDev (·.badIn a 4))) 0x20 e
  let m ← askDev (·.rdMixed a 4)
  onDev fun _ => m.2
  return leNat m.1

/-- Write element e of a group. -/
def vput (t v e x : Nat) : Eng Unit := onDev (·.wrNat (vecElem t v e) 4 x)

/-- An open 32-bit value. -/
def freshHalf : Eng Nat := do
  let r ← askDev (·.freeWord)
  onDev fun _ => r.2
  return r.1.toNat % 2 ^ 32

/-- The 16-bit value of SR (R73, R162). -/
def srOf (t addr idx : Nat) : Eng Nat :=
  askDev fun d =>
    (Config.keyedHash (BitVec.ofNat 64 (d.reg (vecReg t 0x18))) d.job (BitVec.ofNat 64 (d.ownAddrOf addr)) idx).toNat
      % 2 ^ 16

/-- FP32 narrowing of the vector engine: underflow is detected after rounding (R161). -/
def vround (f : FFmt) (r : Rnd) (sr : Nat) (inf : Bool) (x : Num) : Nat × Nat := f.narrowWith false r sr inf x

/-! ### LOAD and STORE (R156 to R158) -/

/-- Index vector of a linear index. -/
def unlinear : List Nat → Nat → List Nat
  | [], _ => []
  | n :: ns, k => (k % n) :: unlinear ns (k / n)

/-- The operand's checks (R156): DESC, FORM, LOCAL, SHAPE, RANGE. A descriptor fault is that of an engine, so a layout
that only movers take is DESC (Table 11.2). -/
def vecOperand (p : PadPort) (m : VMem) (store : Bool) : Eng Desc := do
  let v ← readDesc p m.desc
  need (!v.engineBad (!store) && !v.worldBad p.secure) 0x08 m.desc
  let bi := isBi v.fmt
  need (!v.plot && v.form == 0 && (v.layout == 0 || v.layout == 0x10) && !(store && v.accum) &&
    v.fmt != 13 && (m.expm == 0 || bi)) 0x03 m.desc
  need (← askDev fun d => v.isLocal d p.t) 0x06 m.desc
  let bl := blockLen v.fmt
  let d0 := v.dim 0
  let whole := (List.range m.count).all fun e =>
    let x := m.elem + e
    let row := x / d0 * d0
    let b := x % d0 / bl * bl
    decide (m.elem ≤ row + b) && decide (row + min d0 (b + bl) ≤ m.elem + m.count)
  need (decide (m.elem + m.count ≤ v.count) && (!store || bl == 0 || whole)) 0x05 m.desc
  need (← askDev fun d => v.inPad d p.t) 0x04 m.desc
  return v

/-- The FP32 or INT32 bits that a LOAD gives for one element (R157). -/
def loadElem (fmt bits sc : Nat) (r : Rnd) (sr : Nat) : Option (Nat × Nat) :=
  if fmt = 0 ∨ fmt = 9 ∨ fmt = 12 then some (bits, 0)
  else if fmt = 8 then some (unsigned 32 (signed 8 bits), 0)
  else if fmt = 1 then some (bits * 2 ^ 16, 0)
  else
    let x := elemScaled fmt bits sc
    let y := vround fp32 r sr false x
    if isBi fmt then some y
    else match x with
    | .fin .. => if fp32.decode y.1 |>.isFin then (if y.2 = 0 then some (y.1, 0) else none) else none
    | _ => some (y.1, 0)

/-- LOAD. -/
def loadWork (p : PadPort) (c : Cmd) : Eng Unit := do
  let m := vmemOf c
  let t := p.t
  if m.bits then do
    need (m.desc % 8 == 0) 0x04 m.desc
    (List.range m.count).forM fun e => do
      let k := m.elem + e
      let b ← padNat p (m.desc + k / 8) 1
      vput t m.vr e (field b (k % 8) 1)
  else do
    let v ← vecOperand p m false
    let via := padVia (p.of v)
    (List.range m.count).forM fun e => do
      let idx := unlinear v.extent (m.elem + e)
      let bits ← via.get v idx
      let sc ← via.scale v idx
      let sr ← if m.rnd = 4 then srOf t (vecElem t m.vr e) (m.elem + e) else pure 0
      match loadElem v.fmt bits sc (rndOf m.rnd) sr with
      | some r => do
        flag r.2
        vput t m.vr e r.1
      | none => do
        -- no FP32 value is equal to it: the spec states no result
        let x ← freshHalf
        vput t m.vr e x

/-- Largest of a list of exponents. -/
def maxInt : List Int → Option Int
  | [] => none
  | x :: xs =>
    match maxInt xs with
    | none => some x
    | some y => some (max x y)

/-- floor(log2(amax)) of a block; none for a block of zeros. -/
def blockLog (xs : List Num) : Option Int :=
  maxInt (xs.filterMap fun x => if x.isZero || !x.isFin then none else some x.ilog2)

/-- emax of an MX format (R75). -/
def mxEmax (f : Nat) : Int := if f = 5 then 8 else if f = 6 then 15 else 2

/-- The scale byte of an MX block (R75). -/
def mxScale (f : Nat) (xs : List Num) : Nat :=
  if xs.any fun x => !x.isFin then 255
  else match blockLog xs with
  | none => 0x7F
  | some l => (l - mxEmax f + 127).toNat

/-- The exponent byte of a BI block (R75). -/
def biExp (xs : List Num) : Nat :=
  if xs.any fun x => !x.isFin then 255
  else match blockLog xs with
  | none => 0
  | some l => min 254 (l + 128).toNat

/-- INVALID for an infinity in a block. -/
def infFlag (xs : List Num) : Nat :=
  flagIf (xs.any fun x => match x with
    | .inf _ => true
    | _ => false) fInvalid

/-- The bits of a non-block element that a STORE writes (R158). -/
def storeElem (fmt bits : Nat) (r : Rnd) (sr : Nat) (inf : Bool) : Nat × Nat :=
  match fmt with
  | 0 => (bits, 0)
  | 9 => (bits, 0)
  | 12 => (bits, 0)
  | 8 =>
    let x := signed 32 bits
    if x > 127 then (0x7F, fOverflow) else if x < -128 then (0x80, fOverflow) else (unsigned 8 x, 0)
  | f => vround (elemFmt f) r sr inf (fp32.decode bits)

/-- STORE. -/
def storeWork (p : PadPort) (c : Cmd) : Eng Unit := do
  let m := vmemOf c
  let t := p.t
  let r := rndOf m.rnd
  let v ← vecOperand p m true
  let q := p.of v
  let via := (padVia q).whole
  let srAt (idx : List Nat) (k : Nat) : Eng Nat :=
    if m.rnd = 4 then srOf t (v.at_ ((v.places idx).headD 0 / 8)) k else pure 0
  let bl := blockLen v.fmt
  if bl = 0 then
    (List.range m.count).forM fun e => do
      let idx := unlinear v.extent (m.elem + e)
      let x ← vget t m.vr e
      let y := storeElem v.fmt x r (← srAt idx (m.elem + e)) m.inf
      flag y.2
      via.put v idx y.1
  else
    -- block by block: heads are the elements whose place in their block is 0
    let heads := (List.range m.count).filter fun e => (m.elem + e) % v.dim 0 % bl == 0
    heads.forM fun h => do
      let i0 := (m.elem + h) % v.dim 0
      let n := min bl (v.dim 0 - i0)
      let raw ← (List.range n).mapM fun i => vget t m.vr (h + i)
      let xs := raw.map fp32.decode
      let idxOf (i : Nat) : List Nat := unlinear v.extent (m.elem + h + i)
      if isMx v.fmt then do
        let sc := mxScale v.fmt xs
        flag (infFlag xs)
        via.putScale v (idxOf 0) sc
        (xs.zip raw).zipIdx.forM fun ((x, _), i) => do
          let f := elemFmt v.fmt
          if sc = 255 then via.put v (idxOf i) (b2n x.isNeg * 2 ^ (f.eb + f.mb))
          else do
            let y := vround f r (← srAt (idxOf i) (m.elem + h + i)) false (x.scale (127 - (sc : Int)))
            flag y.2
            via.put v (idxOf i) y.1
        if v.layout = 0x10 then
          ((List.range 32).filter fun i => n ≤ i).forM fun i => via.put v ((i0 + i) :: (idxOf 0).drop 1) 0
      else do
        let given ← via.scale v (idxOf 0)
        let ex := if m.expm = 1 then given else biExp xs
        if m.expm ≠ 1 then do
          flag (infFlag xs)
          via.putScale v (idxOf 0) ex
        if m.expm ≠ 2 then do
          let outs ← xs.zipIdx.mapM fun (x, i) => do
            if ex = 255 then return (⟨0, 0, false, true⟩ : BiOut)
            else return narrowBi v.fmt ex r (← srAt (idxOf i) (m.elem + h + i)) x
          flag (orAll (outs.map (·.flags)))
          outs.zipIdx.forM fun (o, i) => via.put v (idxOf i) (unsigned (if v.fmt = 10 then 32 else 16) o.m)
          if m.expm = 1 then do
            if outs.any (·.nonfinite) then via.putScale v (idxOf 0) 255
            if outs.any (·.mark) then
              match v.scalePlace (idxOf 0) with
              | some o => padPut q (m.mark + (o - v.metaOff).toNat) 1 1
              | none => pure ()
  via.fin

/-! ### RECIPE (R159 to R163) -/

/-- A step word (Table 7.3). -/
structure VStep where
  opc : Nat
  dst : Nat
  a : Nat
  b : Nat
  c : Nat
  fmt : Nat
  deriving DecidableEq, Repr

/-- Read it. -/
def vstepOf (w : Nat) : VStep := ⟨field w 0 6, field w 6 4, field w 10 6, field w 16 6, field w 22 6, field w 28 4⟩

/-- Operands of a step operation; none for an invalid one (Table 7.5). -/
def stepArity (opc : Nat) : Option Nat :=
  if opc = 4 ∨ opc = 0x0F then some 3
  else if (1 ≤ opc ∧ opc ≤ 3) ∨ opc = 5 ∨ opc = 8 ∨ opc = 9 ∨ (0x0C ≤ opc ∧ opc ≤ 0x0E) ∨
      (0x18 ≤ opc ∧ opc ≤ 0x23) ∨ opc = 0x27 then some 2
  else if opc = 6 ∨ opc = 7 ∨ opc = 0x0A ∨ opc = 0x0B ∨ (0x10 ≤ opc ∧ opc ≤ 0x16) ∨
      (0x24 ≤ opc ∧ opc ≤ 0x26) ∨ opc = 0x28 ∨ opc = 0x29 then some 1
  else none

/-- An operand code that the command's inputs allow. -/
def operandOk (ins : List Bool) (x : Nat) : Bool :=
  decide (x < 29) && !(decide (8 ≤ x) && decide (x < 12) && !ins.getD (x - 8) false)

/-- A step is well formed for the enabled inputs and outputs. -/
def stepOk (ins outs : List Bool) (s : VStep) : Bool :=
  match stepArity s.opc with
  | none => false
  | some n =>
    operandOk ins s.a && (if 2 ≤ n then operandOk ins s.b else s.b == 27) &&
      (if 3 ≤ n then operandOk ins s.c else s.c == 27) && decide (s.dst < 11) &&
      !(decide (8 ≤ s.dst) && !outs.getD (s.dst - 8) false) &&
      (if s.opc = 0x26 then s.fmt == 1 || s.fmt == 2 || s.fmt == 3 || s.fmt == 4 || s.fmt == 7 else s.fmt == 0)

/-- The steps before the first END. -/
def stepsOf : List Nat → List VStep
  | [] => []
  | w :: ws => if field w 0 6 = 0 then [] else vstepOf w :: stepsOf ws

/-- The canonical NaN result (R161). -/
def vnan : Nat := 0x7FC0_0000

/-- Round a floating result: a NaN is 0x7FC0_0000. -/
def vres (r : Rnd) (sr : Nat) (x : Num × Nat) : Nat × Nat :=
  if x.1.isNaN then (vnan, x.2)
  else
    let y := vround fp32 r sr false x.1
    (y.1, x.2 ||| y.2)

/-- IEEE 754-2019 minimum and maximum of two values that are not NaN. -/
def minMaxBits (mx : Bool) (a b : Nat) : Nat :=
  let x := fp32.decode a
  let y := fp32.decode b
  let less := x.lt y || (x.isZero && y.isZero && x.isNeg && !y.isNeg)
  if less then (if mx then b else a) else (if mx then a else b)

/-- Value and flags of one step, given the 32-bit operands, the rounding mode and SR value, the RAND value
(R160, R161, R167). -/
def stepValue (s : VStep) (r : Rnd) (sr rand a b c : Nat) : Nat × Nat :=
  let x := fp32.decode a
  let y := fp32.decode b
  let z := fp32.decode c
  let ia := signed 32 a
  let ib := signed 32 b
  let i32 (v : Int) : Nat × Nat := (unsigned 32 v, 0)
  let nan2 := x.isNaN || y.isNaN
  match s.opc with
  | 0x01 => if nan2 then (vnan, 0) else vres r sr (x.add r y)
  | 0x02 => if nan2 then (vnan, 0) else vres r sr (x.add r y.neg)
  | 0x03 => if nan2 then (vnan, 0) else vres r sr (x.mul y)
  | 0x04 =>
    if nan2 || z.isNaN then (vnan, 0)
    else
      let p := x.mul y
      if p.1.isNaN then (vnan, p.2)
      else vres r sr (p.1.add r z)
  | 0x05 => if nan2 then (vnan, 0) else vres r sr (x.div y)
  | 0x06 => if x.isNaN then (vnan, 0) else vres r sr x.sqrt
  | 0x07 => if x.isNaN then (vnan, 0) else vres r sr x.rsqrt
  | 0x08 => if nan2 then (vnan, 0) else (minMaxBits false a b, 0)
  | 0x09 => if nan2 then (vnan, 0) else (minMaxBits true a b, 0)
  | 0x0A => (a % 2 ^ 31, 0)
  | 0x0B => (a ^^^ 2 ^ 31, 0)
  | 0x0C => (b2n (!nan2 && x.lt y), 0)
  | 0x0D => (b2n (!nan2 && !y.lt x), 0)
  | 0x0E => (b2n (!nan2 && !x.lt y && !y.lt x), 0)
  | 0x0F => (if a ≠ 0 then b else c, 0)
  | 0x18 => i32 (ia + ib)
  | 0x19 => i32 (ia - ib)
  | 0x1A => i32 (ia * ib)
  | 0x1B => (a &&& b, 0)
  | 0x1C => (a ||| b, 0)
  | 0x1D => (a ^^^ b, 0)
  | 0x1E => (a * 2 ^ (b % 32) % 2 ^ 32, 0)
  | 0x1F => (a / 2 ^ (b % 32), 0)
  | 0x20 => i32 (ia / 2 ^ (b % 32))
  | 0x21 => i32 (min ia ib)
  | 0x22 => i32 (max ia ib)
  | 0x23 => (b2n (decide (ia < ib)), 0)
  | 0x24 =>
    match x with
    | .nan _ => (0, fInvalid)
    | .inf neg => (if neg then 2 ^ 31 else 2 ^ 31 - 1, fInvalid)
    | .fin neg m e =>
      let k : Nat := (-e).toNat
      let n : Nat := if 0 ≤ e then m * 2 ^ e.toNat else roundShift r sr neg m k
      let v := sgnInt neg n
      if v > 2 ^ 31 - 1 then (2 ^ 31 - 1, fInvalid)
      else if v < -(2 ^ 31) then (2 ^ 31, fInvalid)
      else (unsigned 32 v, flagIf (decide (e < 0) && decide (m % 2 ^ k ≠ 0)) fInexact)
  | 0x25 => vres r sr (ofInt ia 0, 0)
  | 0x26 =>
    let f := elemFmt s.fmt
    match x with
    | .nan _ => (vnan, 0)
    | .inf neg => if f.kind = .ieee then (fp32.infBits neg, 0) else (vnan, fInvalid)
    | v =>
      let q := vround f r sr false v
      ((fp32.narrowWith false .rne 0 false (f.decode q.1)).1, q.2)
  | 0x27 => if x.isNaN then (vnan, 0) else vres r sr (x.scale (max (-1000) (min 1000 ib)), 0)
  | 0x28 =>
    match x with
    | .fin _ 0 _ => i32 (-127)
    | .fin _ m e => i32 (e + (bitLen m : Int) - 1)
    | _ => (128, 0)
  | 0x29 => (rand, 0)
  | op => funcStep op a

/-- What a recipe carries from step to step: temporaries, outputs. -/
structure VState where
  temps : List Nat
  outs : List Nat
  deriving DecidableEq, Repr

/-- One element's fixed operands: the inputs read, the command's immediates, the slot's constants, e, ROWLEN. -/
structure VElem where
  ins : List Nat
  imms : List Nat
  consts : List Nat
  e : Nat
  row : Nat
  deriving DecidableEq, Repr

/-- Value of an operand code (Table 7.4). -/
def operandOf (v : VElem) (s : VState) (x : Nat) : Nat :=
  if x < 8 then s.temps.getD x 0
  else if x < 12 then v.ins.getD (x - 8) 0
  else if x < 16 then v.imms.getD (x - 12) 0
  else if x < 24 then v.consts.getD (x - 16) 0
  else if x = 24 then v.e
  else if x = 25 then v.e / v.row
  else if x = 26 then v.e % v.row
  else if x = 28 then 0x3F80_0000
  else 0

/-- Run the steps on one element; k is the step number. -/
def runSteps (t : Nat) (r : Nat) (v : VElem) (outRegs : List (Option Nat)) :
    Nat → List VStep → VState → Eng VState
  | _, [], s => pure s
  | k, st :: rest, s => do
    let a := operandOf v s st.a
    let b := operandOf v s st.b
    let c := operandOf v s st.c
    let grp := if 8 ≤ st.dst then (outRegs.getD (st.dst - 8) none).getD 0
      else ((outRegs.filterMap id).head?).getD 0
    let sr ← if r = 4 then srOf t (vecElem t grp v.e) k else pure 0
    let rand ← askDev fun d =>
      (Config.keyedHash (BitVec.ofNat 64 (d.reg (vecReg t 0x18))) d.job
        (BitVec.ofInt 64 (signed 32 a)) v.e).toNat % 2 ^ 32
    let y := stepValue st (rndOf r) sr rand a b c
    flag y.2
    let s' : VState := if 8 ≤ st.dst then { s with outs := setNth s.outs (st.dst - 8) y.1 }
      else { s with temps := setNth s.temps st.dst y.1 }
    runSteps t r v outRegs (k + 1) rest s'

/-- RECIPE. -/
def recipeWork (t : Nat) (c : Cmd) : Eng Unit := do
  let slot := cmdF c 32 4
  let words ← (List.range 40).mapM fun i => askDev (·.reg (vecReg t (0x1000 + 0xA0 * slot + 4 * i)))
  let steps := stepsOf (words.take 32)
  let inEn := (List.range 4).map fun i => bitAt (cmdB c (9 + i) 1) 7
  let outEn := (List.range 3).map fun j => bitAt (cmdB c (13 + j) 1) 5
  let bad := steps.findIdx? fun s => !stepOk inEn outEn s
  need bad.isNone 0x0B (bad.getD 0)
  let row := vecRow c
  let outRegs := (List.range 3).map fun j =>
    let b := cmdB c (13 + j) 1
    if bitAt b 5 then some (field b 0 5) else none
  (List.range (vecCount c)).forM fun e => do
    let ins ← (List.range 4).mapM fun i => do
      let b := cmdB c (9 + i) 1
      if bitAt b 7 then
        vget t (field b 0 5) (match field b 5 2 with
          | 1 => e / row
          | 2 => e % row
          | _ => e)
      else pure 0
    let v : VElem :=
      { ins := ins, imms := (List.range 4).map fun k => cmdB c (16 + 4 * k) 4, consts := words.drop 32,
        e := e, row := row }
    let s ← runSteps t (cmdF c 36 3) v outRegs 0 steps ⟨List.replicate 8 0, List.replicate 3 0⟩
    outRegs.zipIdx.forM fun (o, j) =>
      match o with
      | some reg => vput t reg e (s.outs.getD j 0)
      | none => pure ()

/-! ### REDUCE (R165, R166) -/

/-- Largest power of two below n. -/
def halfPow (n : Nat) : Nat := 2 ^ (bitLen (n - 1) - 1)

/-- The tree of R166; the fuel is the length of the list. -/
def redTree {α : Type} (op : α → α → α) (dflt : α) : Nat → List α → α
  | 0, xs => xs.headD dflt
  | k + 1, xs =>
    if xs.length ≤ 1 then xs.headD dflt
    else
      let h := halfPow xs.length
      op (redTree op dflt k (xs.take h)) (redTree op dflt k (xs.drop h))

/-- A floating term with the flags gathered so far. -/
abbrev FTerm := Nat × Nat

/-- FP32 addition in RNE, NaN as R161. -/
def fadd (x y : FTerm) : FTerm :=
  let r := stepValue ⟨1, 0, 0, 0, 0, 0⟩ .rne 0 0 x.1 y.1 0
  (r.1, x.2 ||| y.2 ||| r.2)

/-- MAX or MIN of two terms. -/
def fmm (opc : Nat) (x y : FTerm) : FTerm :=
  let r := stepValue ⟨opc, 0, 0, 0, 0, 0⟩ .rne 0 0 x.1 y.1 0
  (r.1, x.2 ||| y.2 ||| r.2)

/-- Reduce a list for an OPR. -/
def reduceList (opr : Nat) (xs ys : List Nat) : Nat × Nat :=
  let n := xs.length
  let f := xs.map fun x => ((x, 0) : FTerm)
  match opr with
  | 0 => redTree fadd (0, 0) n f
  | 1 =>
    redTree fadd (0, 0) n ((xs.zip ys).map fun (x, y) => stepValue ⟨3, 0, 0, 0, 0, 0⟩ .rne 0 0 x y 0)
  | 2 => redTree (fmm 9) (0, 0) n f
  | 3 => redTree (fmm 8) (0, 0) n f
  | 4 => redTree (fmm 9) (0, 0) n (xs.map fun x => (x % 2 ^ 31, 0))
  | _ =>
    let s := (xs.map (signed 32)).foldl (· + ·) 0
    if s > 2 ^ 31 - 1 then (2 ^ 31 - 1, fOverflow)
    else if s < -(2 ^ 31) then (2 ^ 31, fOverflow)
    else (unsigned 32 s, 0)

/-- REDUCE. -/
def reduceWork (t : Nat) (c : Cmd) : Eng Unit := do
  let n := vecCount c
  let row := vecRow c
  need (n % row == 0) 0x05 0
  let opr := cmdF c 32 3
  let xs ← (List.range n).mapM fun e => vget t (cmdF c 72 5) e
  let ys ← if opr = 1 then (List.range n).mapM fun e => vget t (cmdF c 80 5) e else pure []
  let pick (zs : List Nat) (k : Nat) : List Nat :=
    if cmdF c 35 1 = 1 then (List.range (n / row)).map fun i => zs.getD (i * row + k) 0
    else (List.range row).map fun i => zs.getD (k * row + i) 0
  (List.range (reduceLen c)).forM fun k => do
    let r := reduceList opr (pick xs k) (pick ys k)
    flag r.2
    vput t (cmdF c 88 5) k r.1

/-! ### Issue and completion -/

/-- The vector engine's port. -/
def Dev.vecPort (d : Dev) (t : Nat) : PadPort := ⟨t, 12, d.blkSecure t 7, 0x04, 0x20, 0x21⟩

/-- Open bytes at a camp address, as far as it names the tent's own scratchpad. -/
def Dev.undefOwn (d : Dev) (t x n : Nat) : Dev :=
  match d.ownOff t x with
  | some o => if o < padLen then d.undef (tentMem t o) (min n (padLen - o)) else d
  | none => d

/-- What a STORE of elements of a view may write: the elements, the scale or exponent bytes of their blocks, the mark
bytes that EXPM 1 sets. -/
def Dev.storeUndef (d : Dev) (t : Nat) (m : VMem) (v : Desc) : Dev :=
  (List.range m.count).foldl (fun (d : Dev) e =>
    let i := unlinear v.extent (m.elem + e)
    let d1 := if m.expm = 2 then d
      else (v.places i).foldl (fun (d : Dev) p => d.undefOwn t (v.at_ (p / 8)) (placeBytes v)) d
    match v.scalePlace i with
    | none => d1
    | some o =>
      let d2 := d1.undefOwn t (v.at_ o) 1
      let k := m.mark + (o - v.metaOff).toNat
      if m.expm = 1 ∧ k < padLen then d2.undef (tentMem t k) 1 else d2) d

/-- The register groups and scratchpad destinations of a faulted command are undefined (R170). -/
def Dev.vecUndef (d : Dev) (t : Nat) (c : Cmd) : Dev :=
  let d1 := (vecWrites c).foldl (fun d g => d.undef (vecElem t g.1 0) (4 * g.2)) d
  if cmdOp c = 2 then
    let m := vmemOf c
    let v := descOf (d.rd (tentMem t m.desc) 64)
    if m.desc % 64 = 0 ∧ m.desc + 64 ≤ padLen ∧ !v.engineBad false ∧ !v.plot ∧ v.form = 0 then d1.storeUndef t m v else d1
  else d1

/-- The head of queue 7 with an opcode, when it may issue. -/
def Dev.vecHead (d : Dev) (t op : Nat) : Option Cmd :=
  match d.head t 7 with
  | some c => if cmdOp c = op ∧ vecMayIssue c (d.queue t 7).flight then some c else none
  | none => none

/-- Issue the head and do its work. -/
def Dev.vecRun (d : Dev) (t op : Nat) (find : List (BitVec 13 × EccFind)) (work : PadPort → Cmd → Eng Unit) : Dev :=
  match d.vecHead t op with
  | none => d
  | some c =>
    let d0 := d.vecStruck t find
    match (work (d0.vecPort t) c).run { dev := d0 } with
    | (.ok _, s) => s.dev.issue t 7 { cmd := c, flags := s.flags, olds := d0.wordsLost s.dev }
    | (.error (.fault cause addr), s) =>
      (((s.dev.vecUndef t c).runFault t 7 (vecErr t) c cause addr).setReg (vecReg t 0x10) addr)
    | (.error _, _) => d

/-- LOAD (R157). -/
def execVecLoad (t : TentId) : State → Out := lift fun d => d.vecRun t.toNat 1 [] loadWork
/-- STORE (R158). -/
def execVecStore (t : TentId) (find : List (BitVec 13 × EccFind)) : State → Out :=
  lift fun d => d.vecRun t.toNat 2 find storeWork
/-- RECIPE (R163). -/
def execRecipe (t : TentId) (find : List (BitVec 13 × EccFind)) : State → Out :=
  lift fun d => d.vecRun t.toNat 3 find fun p c => recipeWork p.t c
/-- REDUCE (R166). -/
def execVecReduce (t : TentId) (find : List (BitVec 13 × EccFind)) : State → Out :=
  lift fun d => d.vecRun t.toNat 4 find fun p c => reduceWork p.t c

/-- WAIT (R153). -/
def execVecWait (t : TentId) : State → Out :=
  lift fun d =>
    match d.vecHead t.toNat 5 with
    | none => d
    | some c => d.placeWait t.toNat 7 c

/-- NOP (R153). -/
def execVecNop (t : TentId) : State → Out :=
  lift fun d =>
    match d.vecHead t.toNat 0 with
    | none => d
    | some c => d.issue t.toNat 7 { cmd := c }

/-- A command is counted, and the cycles its head waited on R154: a free value, which timing decides. -/
def Dev.vecDone (d : Dev) (t : Nat) : Dev :=
  ({ d with fresh := d.fresh + 1 }.bump (vecReg t 0x20) 1).bump (vecReg t 0x28) (Config.stallSteps d.fresh)

/-- A command in flight completes: flags, counts, SIG; its pipe and registers are free (R154, R167). -/
def execVecCommandComplete (t : TentId) (i : Nat) : State → Out :=
  lift fun d =>
    match d.completing t.toNat 7 i with
    | none => d
    | some x =>
      (((d.retire t.toNat 7 i).orReg (vecReg t.toNat 4) x.flags).vecDone t.toNat).signal t.toNat x.cmd

end Sys2Proof.Machine
end

