-- ==== Sys2Proof/Machine/Bus.lean ====
section
/-! DEFINITION. Accesses to register windows (R3 to R6, Table 0.3): what a read of each register shows, the
world and lock checks, what a write of each register does; the access to any address of this device that
masters outside the engines use; REGISTER_WRITE, PEG_SIG, MESH_PORT_ACCESS (R4, R48, R363). -/

namespace Sys2Proof.Machine

/-! ### What a register shows (R36 to R445) -/

/-- BUSY of a queue: a command is queued or in progress. -/
def Queue.busy (x : Queue) : Bool := !x.entries.isEmpty || !x.flight.isEmpty

/-- The common part of an engine's STATUS: BUSY, QDEPTH, WAITING, STOPPED. -/
def Dev.queueStatus (d : Dev) (t q : Nat) : Nat :=
  let x := d.queue t q
  b2n x.busy + 2 * x.entries.length + 64 * b2n x.waiting + 128 * b2n x.stopped

/-- OP of the first command in flight that a test names; 0 if none. -/
def Dev.flightOp (d : Dev) (t q : Nat) (is : Nat → Bool) : Nat :=
  match (d.queue t q).flight.find? fun i => is (cmdOp i.cmd) with
  | some i => cmdOp i.cmd
  | none => 0

/-- A routing opcode (R211). -/
def isRouting (op : Nat) : Bool := decide (12 ≤ op)

/-- Registers of a tent that show what its blocks do. -/
def Dev.viewTent (d : Dev) (t o raw : Nat) : Nat :=
  if 0x10_0000 ≤ o ∧ o < 0x10_0600 ∧ o % 0x100 = 0 then
    let a := (o - 0x10_0000) / 0x100
    d.queueStatus t a + 256 * b2n (d.turning t a)
  else if o = 0x20_0000 then d.queueStatus t 6 + 256 * d.flightOp t 6 fun _ => true
  else if o = 0x30_0000 then
    d.queueStatus t 7 + 256 * d.flightOp t 7 (fun op => vecPipe op == 1) +
      4096 * d.flightOp t 7 fun op => vecPipe op == 2
  else if o = 0x60_0000 then
    let s := (d.tent t).sel
    b2n s.running.isSome + 2 * b2n s.waiting.isSome + 4 * b2n s.stopped + 8 * b2n s.denseTaken
  else if o = 0x70_0000 then
    let x := d.queue t 8
    let feeds := queueDepth 8 - x.entries.length - d.queueFree t 8
    b2n (x.busy || feeds != 0) + 2 * (x.entries.length + feeds) + 128 * b2n x.waiting + 256 * b2n x.stopped + 512 * x.flight.length
  else if o = 0x70_0808 then
    let opens := (List.range 8).map fun g => 2 ^ (3 + g) * b2n (d.regF (grpAddr t g) 42 1 == 1)
    b2n (d.flightOp t 8 isRouting != 0) + 2 * b2n (d.tent t).xstopped + 4 * b2n d.expertGenClr + opens.sum
  else raw

/-- PCK_STATUS, PCK_FRAMES_n and PCK_BYTES_n of memory-side die m (R193). -/
def Dev.viewPck (d : Dev) (m o raw : Nat) : Nat :=
  if o = 0x800_0018 then
    let mine := d.tents.filter fun p => p.1 / 4096 == m
    b2n (mine.any fun p =>
        !(look (fun _ => ({} : Queue)) p.2.queues 9).flight.isEmpty || p.2.stack.spilling || p.2.stack.refilling) +
      2 * b2n d.packGenClr + 4 * b2n (mine.any fun p => p.2.stack.stopped)
  else if 0x801_0000 ≤ o ∧ o < 0x801_8000 then
    let x := (d.tent (4096 * m + (o - 0x801_0000) / 8)).stack
    if o % 8 = 0 then x.frames.length % 2 ^ 16 + 2 ^ 16 * ((x.frames.filter (·.spilled)).length % 2 ^ 16)
    else (x.frames.map (·.size)).sum / 64 % 2 ^ 28 + 2 ^ 31 * b2n x.stopped
  else raw

/-- ROW_SAVE and BANK_COPY of the controller of a memory-side die whose window a register lies in (R227, R228). -/
def Dev.viewMem (d : Dev) (die o raw : Nat) : Nat :=
  let w := o / 0x100_0000
  if 2 ≤ w ∧ w ≤ 5 ∧ o % 0x100_0000 = 0 then
    let key := 4 * die + (w - 2)
    withField (withField raw 9 1 (b2n (d.rowSaves.any fun x => x.key == key))) 10 1 (b2n (d.bankCopies.any fun x => x.key == key))
  else d.viewPck (die - 2) o raw

/-- LAN and SEC registers (R423, R444). -/
def Dev.viewLan (d : Dev) (p : Perm) (b : Bool) (o raw : Nat) : Nat :=
  let x := d.lan b
  match o with
  | 0x1600_0000 => d.lanStatus b
  | 0x1600_0010 => b2n x.busy.isSome + 2 * x.result
  | 0x1600_0020 => (x.nonce.getD 0 0).toNat
  | 0x1600_0028 => (x.nonce.getD 1 0).toNat
  | 0x1600_0030 => (x.nonce.getD 2 0).toNat
  | 0x1600_0038 => (x.nonce.getD 3 0).toNat
  | 0x1600_0040 => d.reg (dieReg 6 0x1600_0040)
  | 0x1600_0048 => d.campTime.toNat
  | 0x1600_0104 =>
    withField (withField (d.reg svcAddr) 2 1 (b2n (d.power == Power.bivouac || d.power == Power.waking))) 5 1
      (b2n (!d.evacWait.isEmpty))
  | 0x1700_0000 => p.fuses.lifecycle % 8 + 8 * (p.fuses.ownerSlot % 4) + 32 * (p.fuses.ksvn % 128)
  | 0x1700_0008 => p.flash.strikes
  | 0x1700_0010 => p.fuses.uid.toNat
  | _ => raw

/-- What a read of the register whose home address is a shows, its write-only fields apart. -/
def Dev.viewReg (d : Dev) (p : Perm) (a : Nat) : Nat :=
  let raw := d.reg a
  match wchBaseOf a with
  | some b => d.viewWch b (a - b) raw
  | none =>
  match regionOf a with
  | .tentR t o => d.viewTent t o raw
  | .dieR die o =>
    match credRegOf die o with
    | some (l, hi) => d.credWord l hi
    | none =>
    if die < 2 then
      match gylRegOf a with
      | .pitchCnt g q => withField raw 8 7 (d.pitchTarget g q)
      | _ => if o = 0x1500_0010 then d.time.toNat else raw
    else if o = 0x1500_0010 then d.time.toNat
    else if die < 6 then d.viewMem die o raw
    else if 0x1600_0000 ≤ o ∧ o < 0x1800_0000 then d.viewLan p (die == 7) o raw
    else match gylRegOf a with
      | .devCnt g => withField raw 8 5 (d.devTarget g)
      | _ => if die = 6 ∧ o = 0x1400_0000 then withField raw 9 1 (b2n (d.role == 1)) else raw
  | _ => raw

/-! ### Checks (R4 to R6) -/

/-- The writer's world reaches the register (R6, R169, R371, R466). -/
def Dev.regWorldOk (d : Dev) (w : Writer) (r : RegAt) : Bool :=
  let t := match regionOf r.addr with
    | .tentR t _ => t
    | _ => 0
  match r.row.world with
  | .free => true
  | .secure => w.secure
  | .score => w.secure || !d.blkSecure t r.index
  | .vector => w.secure || !d.blkSecure t 7
  | .secureOrDebug => w.secure || w.who == Master.debug

/-- The block of Table 19.7 that owns a window of a die. -/
def dieBlk (die win : Nat) : Nat :=
  if win = 21 then 0x12 else if win = 24 then 0x14
  else if die < 2 then (if win = 0 then 1 else if win = 1 then 0x10 else 0x11)
  else if die < 6 then
    (if win < 2 then 7 else if win < 5 then 8 else if win = 5 then 9 else if win = 6 then 0x0A
      else if win = 8 then 6 else 0x11)
  else if win < 13 then 0x0C
  else match win with
    | 14 => 0x0D
    | 15 => 0x0E
    | 16 => 0x0A
    | 17 => 0x0F
    | 18 => 0x10
    | 19 => 0x11
    | 20 => 0x15
    | _ => 0x13

/-- The writer is an S-core, whose refusal is its own fault record (R39, R464). -/
def isScore (w : Writer) : Bool :=
  match w.who with
  | .score _ _ => true
  | _ => false

/-- A refused access is logged by the block that owns the register (R5, R6): cause 0x17 and the requester in the tent's
log (R464), 0x06 for a world and 0x07 for a lock elsewhere; the writer's world in the block-specific bytes. DESIGN
CHOICE: an S-core's write of a locked field, which R5 has logged and R464 gives no cause, is logged as 0x17 too. -/
def Dev.regRefused (d : Dev) (w : Writer) (a : Nat) (lock : Bool) : Dev :=
  let i : ErrInfo := { addr := a, spec := b2n w.secure }
  match regionOf a with
  | .tentR t o =>
    if isScore w && !lock then d
    else if 0x50_0000 ≤ o ∧ o < 0x60_0000 then d.tentErr t 0x11 clsCorrected (if lock then 0x07 else 0x06) i
    else d.tentErr t 1 clsCorrected 0x17 { i with op := padReqOf w t }
  | .istore t _ _ => if isScore w then d else d.tentErr t 1 clsCorrected 0x17 { i with op := padReqOf w t }
  | .dieR die o => d.dieErr die 0 (dieBlk die (o / 0x100_0000)) clsCorrected (if lock then 0x07 else 0x06) i
  | _ => d.dieErr 6 0 0x13 clsCorrected 0x06 i

/-! ### Writes -/

/-- A field after a write of v to the bits of a mask (Table 0.3). -/
def fieldAfter (locked : Bool) (mask v old : Nat) (f : Field) : Nat :=
  let m := (2 ^ f.width - 1) * 2 ^ f.lsb
  let k := m &&& mask
  let put := old - (old &&& k) + (v &&& k)
  match f.acc with
  | .rw => put
  | .ro => old
  | .wo => old
  | .w1c => old - (old &&& v &&& k)
  | .w1s => old
  | .rwl => if locked then old else put

/-- The effect of a write by the access types alone: bits that set an action have none here. -/
def Dev.plainWrite (d : Dev) (r : RegAt) (mask v : Nat) : Dev :=
  d.setReg r.addr (r.row.fields.foldl (fieldAfter d.kitApplied mask v) (d.reg r.addr))

/-- A write of LAN_RESET (R424, R428, R435): the numbers first, then each reset asked; WARM last. -/
def Dev.lanResetWrite (d : Dev) (v : Nat) : Dev :=
  let t := field v 5 14
  let p := field v 19 5
  let d1 := if bitAt v 2 then d.tentReset t else d
  let d2 := if bitAt v 3 && decide (p < 24) then d1.portReset p else d1
  let d3 := if bitAt v 4 then d2.evacWrite t else d2
  let d4 := if bitAt v 1 then d3.softResetLogged else d3
  { d4 with warmAsked := d4.warmAsked || bitAt v 0 }

/-- A write of LAN_SVC of a Lantern: BIV_ENTER, BIV_WAKE, HANDOVER. -/
def Dev.lanSvcWrite (d : Dev) (lanB : Bool) (v : Nat) : Dev :=
  let d1 := if bitAt v 0 then d.bivEnter else d
  let d2 := if bitAt v 1 then d1.wakeEvent else d1
  if bitAt v 4 then d2.handover lanB else d2

/-- A write of RDX_IDENT (R298, R319): with CANCEL or RESHARD set it is that action and leaves JOB. -/
def Dev.identWrite (d : Dev) (w : Writer) (mask v : Nat) : Dev :=
  let d1 := if bitAt v 24 then d.cancel else d
  let d2 := if bitAt v 25 then d1.setRegF identAddr 26 1 1 else d1
  if bitAt v 24 || bitAt v 25 || mask % 2 ^ 12 == 0 then d2 else d2.jobWrite w (v % 2 ^ 12)

/-- A write of a context register (R304, R418): while the context is open only GO acts. -/
def Dev.ctxWrite (d : Dev) (w : Writer) (r : RegAt) (o mask v : Nat) (die : Nat) : Dev :=
  let c := 32 * (die - 6) + o / 0x100 % 32
  let go := o % 0x100 == 0 && bitAt v 0
  if d.ctxState c ≠ 0 then
    if go then d.ctxGo c w.secure
    else d.dieErr die 0 0x0D clsCorrected 0x32 { tag := c, addr := r.addr }
  else
    let d1 := d.plainWrite r mask v
    if go then d1.ctxGo c w.secure else d1

/-- PCI_WIN_BASE and PCI_REGWIN_SEL hold addresses of their rule (R290); others are discarded and counted. -/
def pciRule (o v : Nat) : Bool :=
  if o = 8 then v % 2 ^ 30 == 0
  else v % 0x100_0000 == 0 && decide (tentRegBase ≤ v % 2 ^ 48) && decide (v % 2 ^ 48 < lanternBase)

/-- PCI_REFUSED. -/
def pciRefusedAddr : Nat := dieReg 6 0x1400_0028

/-- A write of a PCI register. -/
def Dev.pciWrite (d : Dev) (r : RegAt) (o mask v : Nat) : Dev :=
  if (o = 8 ∨ o = 0x10) ∧ !pciRule o v then d.bump pciRefusedAddr 1 else d.plainWrite r mask v

/-- A write of a register of a tent, its checks done: v is the whole register with the bytes not written as
they read, `o` the register's offset in the window; `bs` are the bytes written, from byte `lo`. The number is the
status: 5 is a decode fault. -/
def Dev.writeTentReg (d : Dev) (w : Writer) (r : RegAt) (t o mask v lo : Nat) (bs : List Byte) : Nat × Dev :=
  if o = 0 then (0, d.arrangeWrite t v)
  else if o = 0x10 then (0, d.segWorldWrite t w v)
  else if o = 0x14 then (0, d.gbankWrite t v)
  else if o = 0x18 then (0, d.blkWorldWrite t w v)
  else if 0x20 ≤ o ∧ o < 0x30 then (0, d.coreCtlWrite t r.index v)
  else if 0x40_0000 ≤ o ∧ o < 0x40_0400 then
    (0, if o % 16 = 8 then d.pegSet w r.addr (v % 2 ^ 32) else d)
  else if 0x40_0400 ≤ o ∧ o < 0x40_0440 then
    let own := match w.who with
      | .score u _ => u.toNat == t
      | _ => false
    (if own then 0 else 5, if isScore w && !own then d else d.gylArrive t w r.index v)
  else if 0x60_0040 ≤ o ∧ o < 0x60_0060 then (0, d.sctWindowWrite t (o - 0x60_0040 + lo) bs)
  else (0, d.plainWrite r mask v)

/-- A write of a register of a die, its checks done. -/
def Dev.writeDieReg (d : Dev) (w : Writer) (r : RegAt) (die o mask v : Nat) : Dev :=
  let win := o / 0x100_0000
  let x := o % 0x100_0000
  if win = 21 ∨ win = 24 then d.plainWrite r mask v
  else if die < 2 then
    if win = 1 then (if x < 0x4000 then d.gylMaskWrite w r.addr v else d.gylCountWrite w r.addr v)
    else d.plainWrite r mask v
  else if die < 6 then
    if win = 0 ∧ x = 0x110 then
      let d1 := d.plainWrite r mask v
      if bitAt v 0 then d1.clearGo w else d1
    else if win = 1 then
      let k := if x % 0x20 = 0 then 0 else if x % 0x20 = 8 then 1 else 2
      let old := d.rgnWritten r.index k
      d.regionWrite w r.index k ((old - (old &&& mask)) + (v &&& mask))
    else if win = 6 then
      match x % 0x100 with
      | 0 => d.ringBase w die r.index v
      | 8 => d.ringCtl w die r.index v
      | 0x10 => d.ringTail die r.index v
      | _ => d
    else if win = 8 ∧ x < 0x18 then d.packConfigWrite (die - 2) w x v
    else d.plainWrite r mask v
  else if win < 12 ∧ 0x20 ≤ x ∧ x < 0x40 then
    match credRegOf die o with
    | some (l, hi) =>
      if d.kitApplied then d
      else d.setCredWord l hi ((d.credWord l hi - (d.credWord l hi &&& mask)) + (v &&& mask))
    | none => d
  else if win < 12 ∧ x = 0 then
    let p := 12 * (die - 6) + win
    let on := d.regF r.addr 0 1
    let d1 := d.plainWrite r mask v
    let d2 := if d1.regF r.addr 0 1 = on then d1 else d1.portEnable p (on == 0)
    let d3 := if bitAt v 2 then d2.endQuarantine p else d2
    if bitAt v 3 then d3.retrainPort p else d3
  else match win with
    | 14 =>
      if x = 0 then d.identWrite w mask v
      else if 0x1_0000 ≤ x then d.ctxWrite w r o mask v die
      else d.plainWrite r mask v
    | 16 =>
      match x % 0x100 with
      | 0 => d.ringBase w die r.index v
      | 8 => d.ringCtl w die r.index v
      | 0x10 => d.ringTail die r.index v
      | _ => d
    | 17 =>
      if 0x4000 ≤ x then d.plainWrite r mask v
      else match x % 16 with
      | 8 => d.pegSet w r.addr (v % 2 ^ 32)
      | 12 => d.pegArm w die r.index (v % 2 ^ 32)
      | _ => d
    | 18 =>
      match gylRegOf r.addr with
      | .devCnt _ => d.gylCountWrite w r.addr v
      | .force => d.gylForce w v
      | _ => d.gylMaskWrite w r.addr v
    | 20 => d.pciWrite r x mask v
    | 22 =>
      if x = 8 then d.lanCmdAddr (die == 7) v
      else if x = 0x100 then (d.plainWrite r mask v).lanResetWrite v
      else if x = 0x104 then (d.plainWrite r mask v).lanSvcWrite (die == 7) v
      else d.plainWrite r mask v
    | _ => d.plainWrite r mask v

/-- A write of a watch-table register, its checks done. -/
def Dev.writeWch (d : Dev) (w : Writer) (b o v : Nat) : Dev :=
  if o = 0 then d.wchModeWrite w b v
  else if o < 0x200 then d.wchSlotWrite w b ((o - 0x100) / 4) v
  else if o < 0x300 then d.wchReqWrite w b ((o - 0x200) / 4) v
  else d

/-- A write of bytes `bs` from byte lo of a register: world, lock, then its effect (R4 to R6). Status 0, 2 for a
world refusal, 5 for a decode fault. -/
def Dev.regWrite (d : Dev) (w : Writer) (r : RegAt) (lo : Nat) (bs : List Byte) : Nat × Dev :=
  if !d.regWorldOk w r then (2, d.regRefused w r.addr false)
  else
    let mask := (2 ^ (8 * bs.length) - 1) * 2 ^ (8 * lo)
    let now := match wchBaseOf r.addr with
      | some b => d.baseWch b (r.addr - b) (d.reg r.addr)
      | none => d.reg r.addr
    let keep := now &&& fieldBits r.row.fields (fun k => k == Acc.rw || k == Acc.rwl)
    let v := keep - (keep &&& mask) + leNat bs * 2 ^ (8 * lo)
    let d1 := if d.kitApplied && (fieldBits r.row.fields (· == Acc.rwl) &&& mask) != 0 then
      d.regRefused w r.addr true else d
    match wchBaseOf r.addr with
    | some b => (0, d1.writeWch w b (r.addr - b) v)
    | none =>
      match regionOf r.addr with
      | .tentR t o =>
        let x := d1.writeTentReg w r t o mask v lo bs
        (x.1, x.2.noteHand (r.addr + lo) bs.length)
      | .dieR die o => (0, (d1.writeDieReg w r die o mask v).noteHand (r.addr + lo) bs.length)
      | _ => (0, d1)

/-- The worse of two statuses: a decode fault, then a refusal. -/
def worse (a b : Nat) : Nat := if a = 5 ∨ b = 5 then 5 else if a = 0 then b else a

/-- Write bytes to a register window, register by register; bytes of no register are ignored. -/
def Dev.winWrite (d : Dev) (w : Writer) (a : Nat) : Nat → List Byte → Nat × Dev
  | 0, _ => (0, d)
  | _, [] => (0, d)
  | k + 1, bs =>
    match regAt a with
    | some r =>
      let lo := homeOf a - r.addr
      let n := min bs.length (r.row.bytes - lo)
      let x := d.regWrite w r lo (bs.take n)
      let y := x.2.winWrite w (a + n) k (bs.drop n)
      (worse x.1 y.1, y.2)
    | none => d.winWrite w (a + 1) k (bs.drop 1)

/-- A peg target lies in [a, a + n) (R363). -/
def hitsPeg (a n : Nat) : Bool := (List.range ((a % 4 + n + 3) / 4)).any fun i => pegTargetOf (a / 4 * 4 + 4 * i) != PegTarget.none

/-- A write of a register window: a 4-byte write to a peg target signals it, one of any other size is a decode
fault (R363). -/
def Dev.windowWrite (d : Dev) (w : Writer) (a : Nat) (bs : List Byte) : Nat × Dev :=
  if hitsPeg a bs.length then
    if bs.length = 4 ∧ a % 4 = 0 then
      let src := match w.who with
        | .device id => id.toNat
        | _ => d.devId
      (0, d.signalHere 6 src a (leNat bs) 66)
    else (5, d)
  else d.winWrite w a bs.length bs

/-- A write at an address of this device that is neither memory nor a scratchpad: register windows, instruction
stores (R40), Lantern space (R399), all of it secure world only (Table 2.10, R6). DESIGN CHOICE: the control registers
of a Lantern, of which the spec lists none, are like the bytes of no register of any other window: a write changes
nothing, and a read is open. -/
def Dev.busWrite (d : Dev) (w : Writer) (a : Nat) (bs : List Byte) : Nat × Dev :=
  match regionOf a with
  | .tentR _ _ => d.windowWrite w a bs
  | .dieR _ _ => d.windowWrite w a bs
  | .istore t n o =>
    (if d.coreWorldOk t n w then 0 else 2,
      if isScore w && !d.coreWorldOk t n w then d else d.storeWrite t n w o bs)
  | .lanSram _ _ => if w.secure then (0, d.wrB a bs) else (2, d.regRefused w a false)
  | .canister _ => (2, d.regRefused w a false)
  | .lanCtl _ _ => if w.secure then (0, d) else (2, d.regRefused w a false)
  | _ => (5, d)

/-! ### Reads -/

/-- Read one register's bytes: its write-only fields read zero; a refused read is zero and logged. -/
def Dev.regRead (d : Dev) (p : Perm) (w : Writer) (r : RegAt) (lo n : Nat) : Answer × Dev :=
  if !d.regWorldOk w r then (⟨2, List.replicate n 0⟩, d.regRefused w r.addr false)
  else
    let v := d.viewReg p r.addr
    let wo := fieldBits r.row.fields (· == Acc.wo)
    (⟨0, leBytes n ((v - (v &&& wo)) / 2 ^ (8 * lo))⟩, d)

/-- Read n bytes of a register window; bytes of no register are open. -/
def Dev.winRead (d : Dev) (p : Perm) (w : Writer) (a : Nat) : Nat → Nat → Answer × Dev
  | 0, _ => (⟨0, []⟩, d)
  | k + 1, n =>
    if n = 0 then (⟨0, []⟩, d)
    else match regAt a with
    | some r =>
      let lo := homeOf a - r.addr
      let m := min n (r.row.bytes - lo)
      let x := d.regRead p w r lo m
      let y := x.2.winRead p w (a + m) k (n - m)
      (⟨worse x.1.status y.1.status, x.1.data ++ y.1.data⟩, y.2)
    | none =>
      let f := d.freeBytes 1
      let y := f.2.winRead p w (a + 1) k (n - 1)
      (⟨y.1.status, f.1 ++ y.1.data⟩, y.2)

/-- A read of a register window: a read of a peg target is a decode fault (R363); RDX_FENCE_n, which its own
chapter also gives as a readable count, is read. -/
def Dev.windowRead (d : Dev) (p : Perm) (w : Writer) (a n : Nat) : Answer × Dev :=
  let barred := (List.range ((a % 4 + n + 3) / 4)).any fun i =>
    match pegTargetOf (a / 4 * 4 + 4 * i) with
    | .none => false
    | .fence _ => false
    | _ => true
  if barred then (⟨5, List.replicate n 0⟩, d) else d.winRead p w a n n

/-- A read at an address of this device that is neither memory nor a scratchpad. -/
def Dev.busRead (d : Dev) (p : Perm) (w : Writer) (a n : Nat) : Answer × Dev :=
  let refused : Answer := ⟨2, List.replicate n 0⟩
  match regionOf a with
  | .tentR _ _ => d.windowRead p w a n
  | .dieR _ _ => d.windowRead p w a n
  | .istore t k _ => if d.coreWorldOk t k w then (⟨0, d.rd a n⟩, d) else (refused, d.regRefused w a false)
  | .lanSram _ _ => if w.secure then (⟨0, d.rd a n⟩, d) else (refused, d.regRefused w a false)
  | .canister _ => (refused, d.regRefused w a false)
  | .lanCtl _ _ =>
    if w.secure then
      let f := d.freeBytes n
      (⟨0, f.1⟩, f.2)
    else (refused, d.regRefused w a false)
  | _ => (⟨5, List.replicate n 0⟩, d)

/-! ### Any address of this device -/

/-- Log a scratchpad access refused or uncorrectable, for a requester other than an S-core of the tent. -/
def Dev.padLog (d : Dev) (req t o cause : Nat) : Dev :=
  if req < 4 then d else d.tentErr t 1 clsContained cause { op := req, addr := o }

/-- Read n bytes at an address of this device, by any master: status and data (Table 10.4). -/
def Dev.readHere (d : Dev) (p : Perm) (w : Writer) (a n : Nat) (job : Option Nat := none) : Answer × Dev :=
  let zero : List Byte := List.replicate n 0
  match regionOf a with
  | .hbm => if inTier a n then d.memRead (d.memReqFor w job) a n else (⟨5, zero⟩, d)
  | .lpddr => if inTier a n then d.memRead (d.memReqFor w job) a n else (⟨5, zero⟩, d)
  | .scratch t o =>
    let req := padReqOf w t
    if padLen < o + n then (⟨5, zero⟩, d)
    else if !w.secure && d.touchesSecure t o n then (⟨2, zero⟩, d.padLog req t o 0x16)
    else
      let d := d.meet a n
      if d.badIn a n then
        let f := d.rdOpen a n
        (⟨1, f.1⟩, f.2.padLog req t o 0x14)
      else (⟨0, d.rd a n⟩, d)
  | .vreg t o =>
    if 0x8000 < o + n then (⟨5, zero⟩, d)
    else if !w.secure && d.blkSecure t 7 then (⟨2, zero⟩, d.padLog (padReqOf w t) t (0x1_8000 + o) 0x16)
    else
      let d := d.meet a n
      if d.badIn a n then
        let f := d.rdOpen a n
        (⟨1, f.1⟩, f.2)
      else
        let m := d.rdMixed a n
        (⟨0, m.1⟩, m.2)
  | _ => d.busRead p w a n

/-- Write bytes at an address of this device, by any master: the status. -/
def Dev.writeHere (d : Dev) (w : Writer) (a : Nat) (bs : List Byte) (job : Option Nat := none) : Nat × Dev :=
  let n := bs.length
  match regionOf a with
  | .hbm => if inTier a n then d.memWrite (d.memReqFor w job) a bs else (5, d)
  | .lpddr => if inTier a n then d.memWrite (d.memReqFor w job) a bs else (5, d)
  | .scratch t o =>
    let req := padReqOf w t
    if padLen < o + n then (5, d)
    else if !w.secure && d.touchesSecure t o n then (2, d.padLog req t o 0x16)
    else
      let r := (d.meetParts a n).wr a bs
      if r.2 then (1, r.1.padLog req t o 0x14) else (0, r.1)
  | .vreg t o =>
    if 0x8000 < o + n then (5, d)
    else if !w.secure && d.blkSecure t 7 then (2, d.padLog (padReqOf w t) t (0x1_8000 + o) 0x16)
    else
      let r := (d.meetParts a n).wr a bs
      (b2n r.2, r.1)
  | _ => d.busWrite w a bs

/-- An access touches a segment that is being cleared, and is held (R44). -/
def Dev.heldHere (d : Dev) (a n : Nat) : Bool :=
  match regionOf a with
  | .scratch t o => d.touchesClearing t o n
  | _ => false

/-- An access of a master is held: by a segment that is being cleared, or for want of a way (R19, R30). -/
def Dev.heldFor (d : Dev) (m : Master) (read : Bool) (a n : Nat) : Bool := d.heldHere a n || d.cutOff m read a n

/-! ### Accesses that may start a WARM reset -/

/-- The WARM reset that an access has asked for (R424, R445). -/
def settle (x : Perm × Dev) : Perm × Dev :=
  if x.2.warmAsked then warmReset x.1 { x.2.compassTotals with warmAsked := false } else x

/-- A command whose accesses may reach registers. -/
def liftBus (f : Perm → Dev → Dev) : State → Out := liftAll fun p d => settle (p, f p d)

/-- REGISTER_WRITE (R4): its access type, RWL locks and world checks; the status goes to the writer. An address
that decodes to nothing writes nothing. -/
def Dev.registerWrite (d : Dev) (a : WAccess) : Dev :=
  match d.place a.addr.toNat with
  | .here x =>
    match regionOf x with
    | .hbm => d
    | .lpddr => d
    | .scratch _ _ => d
    | .vreg _ _ => d
    | _ =>
      let r := d.busWrite a.by_ x a.data
      { r.2 with response := some (a.by_.who, ⟨r.1, []⟩) }
  | _ => d

/-- REGISTER_WRITE (R4). -/
def execRegisterWrite (a : WAccess) : State → Out :=
  asWriter a.by_ fun w => liftBus fun _ d => d.registerWrite { a with by_ := w }

/-- PEG_SIG (R363): a 4-byte write to a peg target. -/
def execPegSig (w : Writer) (addr : Word) (v : Half) : State → Out :=
  asWriter w fun w => lift fun d =>
    match d.place addr.toNat with
    | .here a =>
      if pegTargetOf a != PegTarget.none && a % 4 == 0 then (d.windowWrite w a (leBytes 4 v.toNat)).2 else d
    | _ => d

/-- Length and address of an access. -/
def accAddr : Access → Nat
  | .write a => a.addr.toNat
  | .read a => a.addr.toNat

/-- Bytes of an access. -/
def accLen : Access → Nat
  | .write a => a.data.length
  | .read a => a.len

/-- Who makes an access. -/
def accWho : Access → Writer
  | .write a => a.by_
  | .read a => a.by_

/-- The access made as another writer. -/
def accAs (x : Access) (w : Writer) : Access :=
  match x with
  | .write a => .write { a with by_ := w }
  | .read a => .read { a with by_ := w }

/-- An access reads. -/
def accReads : Access → Bool
  | .write _ => false
  | .read _ => true

/-- MESH_PORT_ACCESS (R48): an access of 64 bytes or less to a tent's scratchpad, vector registers or register
window, with the world it carries; findings of the word code at each 16-byte word it reads. -/
def Dev.meshAccess (d : Dev) (p : Perm) (t : Nat) (x : Access) (find : List (BitVec 17 × EccFind)) : Dev :=
  match d.place (accAddr x) with
  | .here a =>
    let mine := match regionOf a with
      | .scratch u _ => u == t
      | .vreg u _ => u == t
      | .tentR u _ => u == t
      | .istore u _ _ => u == t
      | _ => false
    let from_ := d.nodeOf (accWho x).who
    if !mine || decide (64 < (accLen x)) || d.heldFor (accWho x).who (accReads x) a (accLen x) then d
    else
      let d := match from_ with
        | some y => d.seamGrant y (d.tentNode t) 0
        | none => d
      let d1 := find.foldl (fun (d : Dev) f => d.upset (tentMem t f.1.toNat) (eccUpset f.2)) d
      match x with
      | .write q =>
        let r := d1.writeHere q.by_ a q.data
        { r.2 with response := some (q.by_.who, ⟨r.1, []⟩) }
      | .read q =>
        let r := d1.readHere p q.by_ a q.len
        { r.2 with response := some (q.by_.who, r.1) }
  | _ => d

/-- MESH_PORT_ACCESS (R48). -/
def execMeshPortAccess (t : TentId) (a : Access) (find : List (BitVec 17 × EccFind)) : State → Out :=
  asWriter (accWho a) fun w => liftP fun p d => d.meshAccess p t.toNat (accAs a w) find

end Sys2Proof.Machine
end

