-- ==== Sys2Proof/Machine/Sparse.lean ====
section
/-! DEFINITION. Sparse operands whole (R61, R122, R123, R127, R128): decoding of ragged rows and of a run in
any form, and the encoders of the four forms. -/

namespace Sys2Proof.Machine

/-! ### Ragged rows -/

/-- The elements of a row (list position, index, value) kept in order: an empty or out-of-range position is
skipped with its value and has no effect on the order; one that is not above the last kept is a violation. -/
def raggedWalk (signed_ : Bool) (f ext : Nat) : Option Nat → List (Nat × Nat × Nat) → Held
  | _, [] => {}
  | prev, (k, x, v) :: rest =>
    match idxClass signed_ ext x with
    | .empty => raggedWalk signed_ f ext prev rest
    | .outOfRange =>
      Held.join { outRange := 1, first := some (true, k) } (raggedWalk signed_ f ext prev rest)
    | .valid p =>
      if (match prev with
        | some q => decide (q < p)
        | none => true) then
        Held.join { items := [(p, v)] } (raggedWalk signed_ f ext (some p) rest)
      else
        Held.join { viols := 1, dropped := b2n (!isZeroBits f v), first := some (false, k) }
          (raggedWalk signed_ f ext prev rest)

/-- Decode one row of a ragged operand. A row whose offset lies below that of the row before it, or a last row
whose end lies below its offset, reads as empty (Table 5.6). -/
def Via.raggedRun (v : Via) (d : Desc) (run : Nat) : Eng Held := do
  let off ← v.nat d (d.metaOff + 4 * run) 4
  let prev ← if run = 0 then pure 0 else v.nat d (d.metaOff + 4 * (run - 1)) 4
  let next ← v.nat d (d.metaOff + 4 * (run + 1)) 4
  if off < prev ∨ (run + 1 = d.runs ∧ next < off) then
    return { viols := 1, first := some (false, run) }
  else
    let e := eBytes d.fmt
    let xs ← (List.range (next - off)).mapM fun i => do
      let x ← v.nat d (d.metaOff + 4 * (d.runs + 1) + 4 * (off + i)) 4
      let b ← v.nat d (e * (off + i)) e
      return (off + i, x, b)
    return raggedWalk d.idxSigned d.fmt (d.dim 0) none xs

/-- Decode one run of an operand in its form; N:8 slots that hold zero are not held (R61). -/
def Via.run (v : Via) (d : Desc) (run : Nat) : Eng Held :=
  match d.form with
  | 1 => v.bbmRun d run
  | 2 => v.n8Run d run
  | 3 => v.raggedRun d run
  | _ => v.denseRun d run

/-! ### Encoders (R122, R61) -/

/-- The items of group g of w positions, counted from its first. -/
def groupItems (w g : Nat) (xs : List (Nat × Nat)) : List (Nat × Nat) :=
  (xs.filter fun p => p.1 / w == g).map fun p => (p.1 % w, p.2)

/-- A packed BBM group: bitmap, values, zero bytes to a multiple of 8. -/
def bbmBytes (e : Nat) (xs : List (Nat × Nat)) : List Byte :=
  leBytes 8 ((xs.map fun p => 2 ^ p.1).sum) ++ (xs.map fun p => leBytes e p.2).flatten ++
    List.replicate ((8 - e * xs.length % 8) % 8) 0

/-- Write the groups of a BBM tensor from an offset, group k on. -/
def Via.putBbmFrom (v : Via) (d : Desc) : Nat → Nat → List (List (Nat × Nat)) → Eng Unit
  | _, _, [] => pure ()
  | off, k, xs :: rest => do
    let bs := bbmBytes (eBytes d.fmt) xs
    v.wr (d.at_ off) bs
    v.wr (d.at_ (d.metaOff + 4 * k : Nat)) (leBytes 4 off)
    v.putBbmFrom d (off + bs.length) (k + 1) rest

/-- Write a BBM tensor from its runs. -/
def Via.putBbm (v : Via) (d : Desc) (rs : List (List (Nat × Nat))) : Eng Unit :=
  v.putBbmFrom d 0 0 (rs.flatMap fun xs => (List.range d.groups).map fun g => groupItems 64 g xs)

/-- The slots of an N:8 group: its items, and zeros at the lowest unused positions. -/
def n8Slots (n : Nat) (xs : List (Nat × Nat)) : List (Nat × Nat) :=
  let held := fun i => xs.find? fun p => p.1 == i
  let spare := ((List.range 8).filter fun i => (held i).isNone).take (n - xs.length)
  (List.range 8).filterMap fun i =>
    match held i with
    | some p => some p
    | none => if spare.contains i then some (i, 0) else none

/-- Write an N:8 tensor from its runs, at most N items to a group. -/
def Via.putN8 (v : Via) (d : Desc) (rs : List (List (Nat × Nat))) : Eng Unit :=
  let gs := rs.flatMap fun xs => (List.range d.groups).map fun g => groupItems 8 g xs
  let e := eBytes d.fmt
  gs.zipIdx.forM fun (xs, k) => do
    let ss := n8Slots d.n xs
    ss.zipIdx.forM fun (p, s) => v.wr (d.at_ ((k * d.n + s) * e : Nat)) (leBytes e p.2)
    v.wr (d.at_ (d.metaOff + 2 * k : Nat)) (leBytes 2 ((ss.zipIdx.map fun (p, s) => p.1 * 8 ^ s).sum))

/-- Write a ragged tensor from its rows, value k on. -/
def Via.putRaggedFrom (v : Via) (d : Desc) : Nat → Nat → List (List (Nat × Nat)) → Eng Unit
  | k, r, [] => v.wr (d.at_ (d.metaOff + 4 * r : Nat)) (leBytes 4 k)
  | k, r, xs :: rest => do
    v.wr (d.at_ (d.metaOff + 4 * r : Nat)) (leBytes 4 k)
    let e := eBytes d.fmt
    xs.zipIdx.forM fun (p, i) => do
      v.wr (d.at_ (d.metaOff + 4 * (d.runs + 1) + 4 * (k + i) : Nat)) (leBytes 4 p.1)
      v.wr (d.at_ (e * (k + i) : Nat)) (leBytes e p.2)
    v.putRaggedFrom d (k + xs.length) (r + 1) rest

/-- Write a dense tensor: +0 at every empty position (R123). -/
def Via.putDense (v : Via) (d : Desc) (rs : List (List (Nat × Nat))) : Eng Unit := do
  v.pad d
  (indices d.extent).forM fun i =>
    let run := linear (d.extent.drop 1) (i.drop 1)
    v.put d i (((rs.getD run []).find? fun p => p.1 == i.getD 0 0).map Prod.snd |>.getD 0)

/-- Write a tensor in its descriptor's form. -/
def Via.encode (v : Via) (d : Desc) (rs : List (List (Nat × Nat))) : Eng Unit :=
  match d.form with
  | 1 => v.putBbm d rs
  | 2 => v.putN8 d rs
  | 3 => v.putRaggedFrom d 0 0 rs
  | _ => v.putDense d rs

/-- The value bytes in use of a sparse operand, as offsets from BASE and lengths, and the length of its metadata:
what a copy of it carries (R257). -/
def Via.sparseUsed (v : Via) (d : Desc) : Eng (List (Nat × Nat) × Nat) := do
  let e := eBytes d.fmt
  match d.form with
  | 1 =>
    let parts ← (List.range (d.runs * d.groups)).mapM fun k => do
      let off ← v.nat d (d.metaOff + 4 * k) 4
      if off % 8 ≠ 0 ∨ d.sparseBytes < off + 8 then return (0, 0)
      let bm ← v.nat d off 8
      let n := 8 + ((List.range 64).filter fun i => bitAt bm i).length * e
      return (off, min ((n + 7) / 8 * 8) (d.sparseBytes - off))
    return (parts, d.metaBytes)
  | 2 => return ([(0, d.sparseBytes)], d.metaBytes)
  | _ =>
    let n ← v.nat d (d.metaOff + 4 * d.runs) 4
    let m := min n (d.runs * d.dim 0)
    return ([(0, m * e)], 4 * (d.runs + 1) + 4 * m)

end Sys2Proof.Machine
end

