-- ==== Sys2Proof/Machine/Views.lean ====
section
/-! DEFINITION. Views opened for a command: a plain view, or the blocks of a plot table that a command
touches (R246, R250 to R254), element by element, and the address ranges of a view (R249). -/

namespace Sys2Proof.Machine

/-- Cause codes for what a plot table or a view breaks. -/
structure PlotCauses where
  desc : Nat
  hdr : Nat
  entry : Nat
  shape : Nat
  stale : Nat
  decode : Nat
  range : Nat
  deriving DecidableEq, Repr

/-- A view in use: its descriptor, its plot header, and for each block touched the view of the block at its
owner with the bytes its elements touch there, none when the block is ZERO. -/
structure View where
  desc : Desc
  hdr : Option PlotHdr := none
  blocks : List (Nat × Option (Desc × Int × Int)) := []
  deriving DecidableEq, Repr

/-- Read and check the header of a plot table, and the box (R250, R59). -/
def readHdr (v : Via) (k : PlotCauses) (d : Desc) : Eng PlotHdr := do
  let h := plotHdrOf (← v.rd d.base 64)
  need (h.ok d) k.hdr d.base
  need (h.boxOk d) k.shape d.base
  need (blockLen d.fmt == 0 || d.dim 0 % blockLen d.fmt == 0 || d.origin 0 + d.dim 0 == h.gdim.getD 0 0)
    k.desc d.base
  return h

/-- The camp address of the entry of a block. -/
def Desc.entryAt (d : Desc) (idx : Nat) : Nat := d.base + 64 + 32 * idx

/-- Forget answered reads of other devices that meet [x, x + n): they must be made again. -/
def forget (x n : Nat) : Eng Unit :=
  modify fun s => { s with stage := s.stage.filter fun p =>
    !(decide (p.1 < x + n) && decide (x < p.1 + p.2.length)) }

/-- The bytes of an entry: as the command first read them (R252), else as they lie now. -/
def entryBytes (v : Via) (a : Nat) : Eng (List Byte) := do
  match (← get).stage.find? fun p => p.1 == a && p.2.length == 32 with
  | some p => return p.2
  | none => v.rd a 32

/-- Read and check an entry, once per command (R252); a MOVING one holds the command and is read again (R253). -/
def readEnt (v : Via) (k : PlotCauses) (d : Desc) (p : PlotAt) : Eng PlotEnt := do
  let a := d.entryAt p.idx
  let bs ← entryBytes v a
  let e := plotEntOf bs
  need (e.ok p) k.entry a
  if e.moving then
    forget a 32
    throw (.moving a)
  if !(← get).stage.any fun q => q.1 == a && q.2.length == 32 then
    modify fun s => { s with stage := s.stage ++ [(a, bs)] }
  return e

/-- The blocks of the elements in the order they are first touched. -/
def touched (h : PlotHdr) (d : Desc) (is : List (List Nat)) : List PlotAt :=
  is.foldl (fun ps i =>
    let p := plotResolve h d i
    if ps.any fun q => q.idx == p.idx then ps else ps ++ [p]) []

/-- How versions are recorded and checked (R254): VREC, VCHK, and how the version log is read and written at the
place of a block, counted in ascending block index. -/
structure VerLog where
  rec_ : Bool := false
  chk : Bool := false
  rd : Nat → Eng Nat
  wr : Nat → Nat → Eng Unit

/-- No version log. -/
def noLog : VerLog := { rd := fun _ => pure 0, wr := fun _ _ => pure () }

/-- The owner at which a block is read: its version checked against the log and recorded (R254); `prev` is run
when the block is read at PREV_OWNER. -/
def ownerOfRead (k : PlotCauses) (l : VerLog) (prev : Eng Unit) (d : Desc) (n : Nat) (p : PlotAt) (e : PlotEnt) :
    Eng Nat := do
  if l.chk then
    let want ← l.rd n
    if e.version = want then
      if l.rec_ then l.wr n e.version
      return e.owner
    else if e.version = (want + 1) % 2 ^ 32 ∧ e.hasPrev then
      prev
      if l.rec_ then l.wr n e.version
      return e.prev
    else failWith k.stale (d.entryAt p.idx)
  else
    if l.rec_ then l.wr n e.version
    return e.owner

/-- Open a view for the elements in the list, given as box indices. -/
def openView (v : Via) (k : PlotCauses) (l : VerLog) (prev : Eng Unit) (d : Desc) (is : List (List Nat)) :
    Eng View := do
  if d.plot then
    let h ← readHdr v k d
    let ps := touched h d is
    let bs ← ps.mapM fun p => do
      let e ← readEnt v k d p
      let n := (ps.filter fun q => q.idx < p.idx).length
      let o ← ownerOfRead k l (if e.zero then pure () else prev) d n p e
      if e.zero then return (p.idx, none)
      else
        let b := blockView d o p.x
        let s := b.touch ((is.map (plotResolve h d)).filterMap fun q => if q.idx = p.idx then some q.j else none)
        need (b.spanOk s) k.decode o
        return (p.idx, some (b, s.1, s.2))
    return { desc := d, hdr := some h, blocks := bs }
  else
    need d.rangeOk k.decode d.base
    return { desc := d }

/-- Where an element of an opened view lies: the view that holds it, none for a ZERO block, and its index there. -/
def View.find (w : View) (i : List Nat) : Option Desc × List Nat :=
  match w.hdr with
  | none => (some w.desc, i)
  | some h =>
    let p := plotResolve h w.desc i
    (((w.blocks.find? fun b => b.1 == p.idx).bind fun b => b.2.map Prod.fst), p.j)

/-- Read an element: zero in a ZERO block. -/
def View.get (w : View) (v : Via) (i : List Nat) : Eng Nat :=
  match w.find i with
  | (some d, j) => v.get d j
  | (none, _) => pure 0

/-- Read the scale or exponent byte of an element's block: in a ZERO block 0x7F for MX, 0 for BI (R253). -/
def View.scale (w : View) (v : Via) (i : List Nat) : Eng Nat :=
  match w.find i with
  | (some d, j) => v.scale d j
  | (none, _) => pure (if isMx w.desc.fmt then 0x7F else 0)

/-- Write an element; a write to a ZERO block faults. -/
def View.put (w : View) (v : Via) (k : PlotCauses) (i : List Nat) (x : Nat) : Eng Unit :=
  match w.find i with
  | (some d, j) => v.put d j x
  | (none, _) => failWith k.entry w.desc.base

/-- Write the scale or exponent byte of an element's block. -/
def View.putScale (w : View) (v : Via) (k : PlotCauses) (i : List Nat) (x : Nat) : Eng Unit :=
  match w.find i with
  | (some d, j) => v.putScale d j x
  | (none, _) => failWith k.entry w.desc.base

/-- Zero the padding of the layout: of the view, or of each block that a short last MX block ends. -/
def View.pad (w : View) (v : Via) : Eng Unit :=
  match w.hdr with
  | none => v.pad w.desc
  | some _ => w.blocks.forM fun b =>
    match b.2 with
    | some x => v.pad x.1
    | none => pure ()

/-- The ranges of addresses a view may touch: device, first byte, first byte beyond. -/
def View.ranges (w : View) (self : Nat) : List (Nat × Nat × Nat) :=
  let one (d : Desc) (s : Int × Int) : Nat × Nat × Nat :=
    let dev := if bitAt d.base 58 then self else field d.base 48 10
    let lo : Int := (d.base % 2 ^ 48 : Nat)
    (dev, (lo + s.1).toNat, (lo + s.2).toNat)
  match w.hdr with
  | none => [one w.desc w.desc.span]
  | some _ => w.blocks.filterMap fun b => b.2.map fun x => one x.1 x.2

/-- Elements that padding of layout 0x10 adds to short last blocks, in a view or in the blocks of a plot table. -/
def View.padElems (w : View) : Nat :=
  let one (d : Desc) : Nat := if d.layout = 0x10 ∧ d.dim 0 % 32 ≠ 0 then d.runs * (32 - d.dim 0 % 32) else 0
  match w.hdr with
  | none => one w.desc
  | some _ => (w.blocks.filterMap fun b => b.2.map fun x => one x.1).sum

/-- Two sets of ranges meet on one device (R249). -/
def viewsMeet (xs ys : List (Nat × Nat × Nat)) : Bool :=
  xs.any fun a => ys.any fun b => a.1 == b.1 && decide (a.2.1 < b.2.2) && decide (b.2.1 < a.2.2)

/-- Representative indices of the blocks of a block format in a view: one element of each block. -/
def Desc.scaleHeads (d : Desc) : List (List Nat) := d.blockHeads

/-- The source frame header of a view in layout 0x20: MAGIC, and LEN0 covering the view (Table 11.2). -/
def frameOk (v : Via) (d : Desc) : Eng Bool := do
  if d.layout ≠ 0x20 then return true
  let h ← v.rd d.base 64
  return leAt h 0 4 == 0x4B43_4150 && decide ((d.dim 0 * d.bits + 7) / 8 ≤ leAt h 12 4)

/-- Open bytes over the elements and scales of a destination view: a plain one, or the blocks of a plot table of this
device that a box names. -/
def Dev.undefDest (d : Dev) (v : Desc) : Dev :=
  if !v.plot then d.undefView v
  else match d.place v.base with
  | .here a =>
    let h := plotHdrOf (d.rd a 64)
    if !h.ok v || !h.boxOk v then d
    else (touched h v (indices v.extent)).foldl (fun (d : Dev) p =>
      let e := plotEntOf (d.rd (a + 64 + 32 * p.idx) 32)
      if !e.ok p || e.zero then d
      else
        let mine := ((indices v.extent).map (plotResolve h v)).filterMap fun q =>
          if q.idx = p.idx then some q.j else none
        d.undefSome (blockView v e.owner p.x) mine mine) d
  | _ => d

end Sys2Proof.Machine
end

