-- ==== Sys2Proof/Machine/Mover.lean ====
section
/-! DEFINITION. The movers (11 R255 to R263, R467, 12 R281): the tent mover on queue 8, the ring channels of the
memory-side and I/O dies, MOVE, FILL, their faults, plot waits, multicast at its root. -/

namespace Sys2Proof.Machine

/-! ### Writes that arrive from elsewhere -/

/-- Write bytes at an address of this device as a packet asks: replacing, or adding in a format (R230, R248). -/
def Dev.landWrite (d : Dev) (w : Writer) (accum : Option Nat) (a : Nat) (bs : List Byte) (job : Option Nat := none) :
    Nat × Dev :=
  match accum with
  | none => d.writeHere w a bs job
  | some fmt =>
    match regionOf a with
    | .hbm => if inTier a bs.length then d.memAccum (d.memReqFor w job) fmt a bs else (5, d)
    | .lpddr => if inTier a bs.length then d.memAccum (d.memReqFor w job) fmt a bs else (5, d)
    | .scratch t o => d.padAccum t w.secure fmt o bs
    | _ => (3, d)

/-! ### Which mover -/

/-- The causes of Table 11.9 for accesses. -/
def movCauses : Causes :=
  { range := 0x04, uncorr := 0x20, refused := 0x21, decode := 0x22, sat := 0x23, format := 0x24, form := 0x03 }

/-- And for views. -/
def movPlot : PlotCauses :=
  { desc := 0x08, hdr := 0x10, entry := 0x10, shape := 0x05, stale := 0x12, decode := 0x22, range := 0x04 }

/-- A tent mover register. -/
def movReg (t o : Nat) : Nat := tentReg t (0x70_0000 + o)
/-- Where the tent mover records a fault. -/
def movErr (t : Nat) : ErrPlace := ⟨movReg t 8, 0x0A⟩

/-- The master a mover is. -/
def movMaster : MoverId → Master
  | .tent t => .mover t
  | .ring d ch => .ring d ch

/-- Who waits for its packets. -/
def movOwner : MoverId → Owner
  | .tent t => .queue t.toNat 8
  | .ring d ch => .ring d.toNat ch.toNat

/-- Key of a ring channel. -/
def ringKey (die ch : Nat) : Nat := die * 16 + ch

/-- The queue of a mover: queue 8, or the flight of a ring channel. -/
def Dev.movQueue (d : Dev) : MoverId → Queue
  | .tent t => d.queue t.toNat 8
  | .ring die ch => look (fun _ => {}) d.rings (ringKey die.toNat ch.toNat)

/-- Change it. -/
def Dev.modMov (d : Dev) (m : MoverId) (f : Queue → Queue) : Dev :=
  match m with
  | .tent t => d.modQueue t.toNat 8 f
  | .ring die ch =>
    { d with rings := put (fun _ => {}) d.rings (ringKey die.toNat ch.toNat) (f (d.movQueue m)) }

/-- The world of a mover (R406, R262). -/
def Dev.movSecure (d : Dev) : MoverId → Bool
  | .tent t => d.blkSecure t.toNat 4
  | .ring die ch => d.ringSecure die.toNat ch.toNat

/-- The JOB its traffic carries. -/
def Dev.movJob (d : Dev) : MoverId → Nat
  | .tent _ => d.job
  | .ring die ch => d.ringJob die.toNat ch.toNat

/-- The Trail VC of a MOVE (Table 11.7); a FILL uses VC5. -/
def cmdVc (c : Cmd) : Nat := if cmdOp c = 1 ∧ cmdF c 104 3 ≠ 0 then cmdF c 104 3 else 5

/-- The reach of a mover in a world. -/
def Dev.movReach (d : Dev) (p : Perm) (m : MoverId) (secure : Bool) : Reach :=
  let w : Writer := ⟨movMaster m, secure⟩
  { own := match m with
      | .tent t => some t.toNat
      | .ring _ _ => none
    req := 4, secure := secure, mem := d.memReq w, c := movCauses,
    busRd := fun d a n => d.busRead p w a n, busWr := fun d a bs => d.busWrite w a bs }

/-- The tent mover's port to its scratchpad. -/
def Dev.movPort (d : Dev) (t : Nat) : PadPort := ⟨t, 4, d.blkSecure t 4, 0x04, 0x20, 0x21⟩

/-- TRL_MC_CHAN_n of a ring channel of an I/O die. -/
def mcChan (die ch : Nat) : Nat := dieReg die (0xC03_0000 + 16 * ch)

/-- The multicast group of the MOVEs of a ring channel, when they multicast (R281). -/
def Dev.mcGroup (d : Dev) : MoverId → Option Nat
  | .ring die ch =>
    if 6 ≤ die.toNat ∧ bitAt (d.reg (mcChan die.toNat ch.toNat)) 0 then
      some (d.regF (mcChan die.toNat ch.toNat) 1 8)
    else none
  | _ => none

/-- The entry of a multicast group is in force. -/
def Dev.mcValid (d : Dev) (grp : Nat) : Bool := bitAt (d.reg (dieReg 6 (0xC02_0000 + 8 * grp))) 59

/-! ### The work of MOVE (R257) -/

/-- The surroundings of a mover command: the mover, its world, fuses and flash for register reads, whether it
multicasts. -/
structure MovEnv where
  m : MoverId
  p : Perm
  secure : Bool
  mc : Bool
  /-- The multicast group is in force (Table 12.9). -/
  mcOk : Bool := true

/-- The reach for an operand. -/
def MovEnv.reach (e : MovEnv) (v : Desc) : Eng Reach := askDev (·.movReach e.p e.m v.worldS)

/-- Access to a source. -/
def MovEnv.src (e : MovEnv) (v : Desc) : Eng Via := do return (← e.reach v).via

/-- Access to a destination: with ACCUM its writes add; a multicast collects them for the device-local part of
their address. -/
def MovEnv.dst (e : MovEnv) (v : Desc) : Eng Via := do
  let r ← e.reach v
  let acc := if v.accum then some v.fmt else none
  if e.mc then
    return { rd := fun x n => do
               let ws := (← get).out
               return (List.range n).map fun i => overlay ws (x + i) 0
             wr := fun x bs => remoteWrite v.worldS acc x bs }
  else if v.accum then return r.accVia v.fmt
  else return r.via

/-- A view of the tent mover's own scratchpad. -/
def MovEnv.ownPad (e : MovEnv) (v : Desc) : Eng Bool :=
  match e.m with
  | .tent t => askDev fun d => v.isLocal d t.toNat && v.inPad d t.toNat
  | .ring _ _ => pure false

/-- WORLD before DESC (R243). -/
def movDescs (e : MovEnv) (reads writes : List Desc) : Eng Unit := do
  need (!(reads ++ writes).any fun v => v.worldBad e.secure) 0x0A 0
  need (!(reads.any fun v => v.bad true) && !(writes.any fun v => v.bad false)) 0x08 0

/-- An ACCUM destination that R248 refuses. -/
def accumBad (v : Desc) : Bool := v.accum && (accBytes v.fmt == 0 || v.layout != 0 || v.form != 0)

/-- Layouts 0x01 and 0x04: only a destination in the tent mover's own scratchpad (R257). -/
def movLayouts (e : MovEnv) (s d : Desc) : Eng Unit := do
  let pad ← e.ownPad d
  need (s.layout != 1 && s.layout != 4 && (pad || (d.layout != 1 && d.layout != 4))) 0x06 0

/-- A BBM view in memory, whose memory-side die converts (R236, R257). -/
def bbmInMemory (v : Desc) : Bool :=
  v.form == 1 && match regionOf (v.base % 2 ^ 48) with
    | .hbm => true
    | .lpddr => true
    | _ => false

/-- The forms of the two ends agree, or one converts (R257). -/
def movForms (s d : Desc) : Bool :=
  s.fmt == d.fmt && !accumBad d &&
    ((s.form == d.form && (s.form != 2 || s.n == d.n)) || (s.form == 0 && bbmInMemory d) ||
      (bbmInMemory s && d.form == 0))

/-- A gradient-pair write needs a BA array and a BW array in force (R174). -/
def pairOk (e : MovEnv) (v : Desc) : Eng Bool :=
  if v.layout ≠ 4 then pure true
  else match e.m with
  | .tent t => askDev fun d =>
      ((d.arrays t.toNat).any fun a => d.arrayRole t.toNat a == 1) && (d.bwArray t.toNat).isSome
  | .ring _ _ => pure false

/-- The version log of a MOVE (R254). -/
def movLog (e : MovEnv) (c : Cmd) : Eng VerLog :=
  match e.m with
  | .ring _ _ => pure noLog
  | .tent t => do
    let p ← askDev (·.movPort t.toNat)
    let o := cmdF c 128 17
    return { rec_ := cmdF c 96 1 == 1, chk := cmdF c 97 1 == 1
             rd := fun n => padNat p (o + 4 * n) 4
             wr := fun n v => padPut p (o + 4 * n) 4 v }

/-- Bump a counter of the tent mover. -/
def MovEnv.bump (e : MovEnv) (o n : Nat) : Eng Unit :=
  match e.m with
  | .tent t => onDev (·.bump (movReg t.toNat o) n)
  | .ring _ _ => pure ()

/-- Narrow accesses of a side (R259). -/
def narrow (v : Desc) : Nat :=
  if v.layout = 0 ∧ v.form = 0 ∧ !v.plot ∧ v.stride 0 ≠ 1 then v.count else 0

/-- Bytes a dense destination takes: elements, padding of its layout, scales; `pads` counts the missing elements of
short MX blocks, which a MOVE writes as zero and a FILL leaves. -/
def writtenBytes (v : Desc) (pads : Nat) : Nat :=
  (if v.packedBytes ≠ 0 then v.packedBytes else ((v.count + pads) * v.bits + 7) / 8) + v.blockHeads.length

/-- Copy every element, then every scale, in ascending linear index (R247). -/
def copyDense (vs vd : Via) (s d : View) : Eng Unit := do
  d.pad vd
  (indices d.desc.extent).forM fun i => do d.put vd movPlot i (← s.get vs i)
  d.desc.scaleHeads.forM fun i => do d.putScale vd movPlot i (← s.scale vs i)
  vd.fin

/-- The non-zeros of each run of a dense view. -/
def denseItems (vs : Via) (s : View) : Eng (List (List (Nat × Nat))) :=
  (indices (s.desc.extent.drop 1)).mapM fun r => do
    let xs ← (List.range (s.desc.dim 0)).mapM fun i => do return (i, ← s.get vs (i :: r))
    return xs.filter fun p => !isZeroBits s.desc.fmt p.2

/-- Expand a BBM source (R236): violations are counted at its memory-side die; with STRICT it answers FORMAT. -/
def expandBbm (vs vd : Via) (s : Desc) (d : View) : Eng Unit := do
  let hs ← (List.range s.runs).mapM fun r => vs.run s r
  let all := hs.foldl Held.join {}
  let here := (← askDev (·.place s.base)) |> fun p => match p with
    | .here a => if regionOf a = .hbm ∨ regionOf a = .lpddr then some a else none
    | _ => none
  match here with
  | none => pure ()
  | some a =>
    if all.first.isSome ∧ s.strict then onDev fun x => x.msdEvent ⟨.bbm, x.job, s.worldS⟩ 3 (a / 64 * 64)
    else onDev fun x =>
      let die := (x.memLoc a).die
      (x.bump (dieReg die 0x320) all.viols).bump (dieReg die 0x328) all.dropped
  if all.first.isSome ∧ s.strict then failWith 0x24 s.base
  d.pad vd
  (indices d.desc.extent).forM fun i =>
    let run := linear (d.desc.extent.drop 1) (i.drop 1)
    let xs := (hs.map (·.items)).getD run []
    d.put vd movPlot i (((xs.find? fun p => p.1 == i.getD 0 0).map Prod.snd).getD 0)
  vd.fin

/-- Copy a sparse operand whole (R257). -/
def copySparse (vs vd : Via) (s d : Desc) : Eng Nat := do
  let u ← vs.sparseUsed s
  u.1.forM fun x => do if x.2 ≠ 0 then vd.wr (d.at_ x.1) (← vs.rd (s.at_ x.1) x.2)
  if u.2 ≠ 0 then vd.wr (d.at_ d.metaOff) (← vs.rd (s.at_ s.metaOff) u.2)
  vd.fin
  return (u.1.map Prod.snd).sum + u.2

/-- The destination as a multicast takes it: the device ID is ignored (R281). -/
def mcDesc (mc : Bool) (v : Desc) : Desc := if mc then { v with base := 2 ^ 58 + v.base % 2 ^ 48 } else v

/-- Open a destination: a multicast checks only its range. -/
def openDst (e : MovEnv) (vd : Via) (d : Desc) : Eng View :=
  if e.mc then do
    need (!d.plot && d.rangeOk) 0x22 d.base
    return { desc := d }
  else openView vd movPlot noLog (pure ()) d (indices d.extent)

/-- MOVE of a source to a destination. -/
def moveWork (e : MovEnv) (c : Cmd) (s d0 : Desc) : Eng Unit := do
  let d := mcDesc e.mc d0
  let log ← movLog e c
  need (!(log.rec_ || log.chk) || cmdF c 128 17 % 4 == 0) 0x04 (cmdF c 128 17)
  movDescs e [s] [d]
  movLayouts e s d
  need (s.rank == d.rank && s.extent == d.extent) 0x05 0
  need (movForms s d) 0x03 0
  need (← pairOk e d) 0x13 0
  if d.count ≠ 0 then
    need (e.mcOk || !e.mc) 0x22 d.base
    let vs ← e.src s
    let vd ← e.dst d
    need (← frameOk vs s) 0x08 s.base
    let ws ← openView vs movPlot log (e.bump 0x40 1) s (indices s.extent)
    let wd ← openDst e vd d
    let self ← askDev (·.devId)
    need (e.mc || !viewsMeet (ws.ranges self) (wd.ranges self)) 0x09 d.base
    if s.form = 0 ∧ d.form = 0 then
      copyDense vs vd ws wd
      e.bump 0x28 (writtenBytes d wd.padElems)
      e.bump 0x30 (narrow s + narrow d)
    else if s.form = 0 then
      let rs ← denseItems vs ws
      vd.encode d rs
      vd.fin
      e.bump 0x28 (d.metaBytes + (rs.map fun xs =>
        ((List.range d.groups).map fun g => (bbmBytes (eBytes d.fmt) (groupItems 64 g xs)).length).sum).sum)
      e.bump 0x30 (narrow s)
    else if d.form = 0 then
      expandBbm vs vd s wd
      e.bump 0x28 (writtenBytes d wd.padElems)
      e.bump 0x30 (narrow d)
    else
      let n ← copySparse vs vd s d
      e.bump 0x28 n

/-- FILL (R467): elements take the low bits of VALUE; scales 0x7F, exponents 0. -/
def fillWork (e : MovEnv) (c : Cmd) (d : Desc) : Eng Unit := do
  movDescs e [] [d]
  need (d.layout == 0) 0x06 0
  need (d.form == 0 && !accumBad d) 0x03 0
  if d.count ≠ 0 then
    let vd ← e.dst d
    let wd ← openDst e vd d
    (indices d.extent).forM fun i => wd.put vd movPlot i (cmdF c 128 32 % 2 ^ d.bits)
    d.scaleHeads.forM fun i => wd.putScale vd movPlot i (if isMx d.fmt then 0x7F else 0)
    vd.fin
    e.bump 0x28 (writtenBytes d 0)
    e.bump 0x30 (narrow d)

/-- The work of a command with its descriptors as copied at issue: source, destination. -/
def movWork (e : MovEnv) (i : Issued) : Eng Unit :=
  if cmdOp i.cmd = 1 then moveWork e i.cmd (descOf i.descs) (descOf (i.descs.drop 64))
  else fillWork { e with mc := false } i.cmd (descOf (i.descs.drop 64))

/-! ### Faults (R260) -/

/-- A fault of the tent mover: recorded, the mover stops, the commands not issued are discarded; those in flight
go on. -/
def Dev.movFaultTent (d : Dev) (t : Nat) (c : Cmd) (cause addr : Nat) : Dev :=
  ((((d.recordFault t (movErr t) c cause addr).setReg (movReg t 0x10) addr).modQueue t 8 fun x =>
    { x with stopped := true, entries := [], waiting := false })).dropWaits t 12

/-- A fault of a ring channel: it stops, records the cause and raises a Lantern event (Table 18.15); the job is
the JOB of its control register. -/
def Dev.movFaultRing (d : Dev) (die ch : Nat) (c : Cmd) (cause addr : Nat) : Dev :=
  let job := d.ringJob die ch
  (((d.setRegF (ringReg die ch 8) 18 9 (1 + 2 * cause)).dieErr die ch 0x0A clsContained cause
    { op := cmdOp c, tag := cmdTag c, addr := addr }).asJob job).raise (srcOfDie die) 0 0x0202 (die + ch * 256)
      (ch + cause * 256) |>.asJob job

/-- A fault of a mover. -/
def Dev.movFault (d : Dev) (m : MoverId) (c : Cmd) (cause addr : Nat) : Dev :=
  match m with
  | .tent t => d.movFaultTent t.toNat c cause addr
  | .ring die ch => d.movFaultRing die.toNat ch.toNat c cause addr

/-- Command k in flight faults: it leaves the flight, its destination is undefined. -/
def Dev.movFail (d : Dev) (m : MoverId) (k cause addr : Nat) : Dev :=
  match (d.movQueue m).flight[k]? with
  | none => d
  | some i =>
    let d1 := d.modMov m fun x => { x with flight := dropNth x.flight k }
    (d1.undefDest (descOf (i.descs.drop 64))).movFault m i.cmd cause addr

/-! ### Multicast at the root (R281 to R283) -/

/-- Send the writes of a multicast MOVE as MCAST packets of one transfer; deliver locally when LOCAL is set. The
tag of the transfer holds the MOVE until it completes. -/
def Dev.mcSend (d : Dev) (die ch grp : Nat) (ws : List OutW) : List Nat × Dev :=
  match ws with
  | [] => ([], d)
  | _ =>
    let t := d.newTid (.ring die ch)
    let pkts := ws.zipIdx.map fun (w, i) => mkPkt
      { typ := 5, vc := 6, worldS := w.secure, accum := w.accum.isSome, fmt := w.accum.getD 0,
        ackReq := i + 1 == ws.length, job := d.ringJob die ch, epoch := d.epoch, gen := d.gen,
        dest := d.devId * 2 ^ 48 + w.addr % 2 ^ 48, src := d.devId, tid := t.1, aux := grp } w.data
    let d1 := pkts.foldl (fun (x : Dev) p => x.branchCopy none p (d.mcLinks grp)) t.2
    let e := d.reg (dieReg 6 (0xC02_0000 + 8 * grp))
    let here := bitAt e 59 && bitAt e 48
    let r := if here then ws.foldl (fun (x : Bool × Dev) w =>
        let y := x.2.landWrite ⟨.ring (BitVec.ofNat 3 die) (BitVec.ofNat 4 ch), w.secure⟩ w.accum (w.addr % 2 ^ 48)
          w.data
        (x.1 && y.1 == 0, y.2)) (true, d1) else (false, d1)
    let x : Mcast := ⟨t.1, die, ch, grp, field e 49 10 + 1, if r.1 then [d.devId] else [], [], false⟩
    ([t.1], ({ r.2 with mcasts := r.2.mcasts ++ [x] }).noteSent)

/-- The completion record (Table 12.7). -/
def mcRecord (x : Mcast) (time : Nat) : List Byte :=
  leBytes 2 x.ok.length ++ leBytes 1 (b2n (decide (x.ok.length < x.expect))) ++ leBytes 5 0 ++ leBytes 8 time ++
    leBytes 128 ((x.ok.map fun k => 2 ^ k).sum)

/-- The transfer ends: its record is written, then its MOVE may complete. -/
def Dev.mcFinish (d : Dev) (x : Mcast) : Dev :=
  let m : MoverId := .ring (BitVec.ofNat 3 x.die) (BitVec.ofNat 4 x.ch)
  let rec_ := d.reg (dieReg x.die (0xC03_0008 + 16 * x.ch)) / 16 * 16
  let bs := mcRecord x d.time.toNat
  let d0 := ({ d with mcasts := d.mcasts.filter fun y => y.tid != x.tid }.dropTid x.tid)
  let w : Writer := ⟨movMaster m, true⟩
  let r : List Nat × Dev := match d0.place rec_ with
    | .here a => ([], (d0.writeHere w a bs).2)
    | .remote _ _ =>
      let y := d0.sendWrite (.ring x.die x.ch) { secure := true, job := d0.ringJob x.die x.ch } none rec_ bs
      ([y.1], y.2)
    | .bad => ([], d0)
  r.2.modMov m fun q => { q with flight := q.flight.map fun i =>
    (if i.acks.contains x.tid then { i with acks := i.acks.filter (· != x.tid) ++ r.1 } else i) }

/-- The transfer ends when every target has completed. -/
def Dev.mcCheck (d : Dev) (tid : Nat) : Dev :=
  match d.mcasts.find? fun y => y.tid == tid with
  | some x => if x.expect ≤ x.ok.length then d.mcFinish x else d
  | none => d

/-! ### Issue and run -/

/-- The push check of queue 8 for the opcodes that are not routing (Table 11.9). -/
def movPushCause (c : Cmd) : Nat :=
  let op := cmdOp c
  let used := [(0, 5), (8, 6), (16, 16)] ++
    match op with
    | 1 => [(32, 17), (64, 17), (96, 3), (104, 3), (128, 17)]
    | 2 => [(64, 17), (98, 1), (128, 32)]
    | 3 => [(32, 16)]
    | _ => []
  let vc := cmdF c 104 3
  firstCause [
    (decide (4 ≤ op ∧ op ≤ 11) || op == 15, 0x01),
    (reservedSet c used || (op == 1 && (vc == 1 || vc == 2 || vc == 6 || vc == 7)), 0x02),
    (op == 3 && cmdWaitN c == 0, 0x07)]

/-- The check of a ring entry's command when it is read. -/
def ringCause (c : Cmd) : Nat :=
  let op := cmdOp c
  let used := [(0, 5), (8, 6), (16, 16), (192, 64)] ++
    match op with
    | 1 => [(98, 1), (104, 3)]
    | 2 => [(98, 1), (128, 32)]
    | _ => []
  let vc := cmdF c 104 3
  firstCause [
    (decide (2 < op), 0x01),
    (reservedSet c used || (op == 1 && (vc == 1 || vc == 2 || vc == 6 || vc == 7)), 0x02)]

/-- FENCE of a MOVE or FILL. -/
def cmdFence (c : Cmd) : Bool := cmdF c 98 1 == 1

/-- Read the two descriptors a command of the tent mover names; a FILL has no source. -/
def tentDescs (t : Nat) (c : Cmd) : Eng (List Byte) := do
  let p ← askDev (·.movPort t)
  let one (o : Nat) : Eng (List Byte) := do
    need (o % 64 == 0 && decide (o + 64 ≤ padLen)) 0x04 o
    padRead p o 64
  let s ← if cmdOp c = 1 then one (cmdF c 32 17) else pure (List.replicate 64 0)
  return s ++ (← one (cmdF c 64 17))

/-- The entry a ring channel reads next. -/
def ringEntry (p : Perm) (m : MoverId) (die ch : Nat) : Eng (List Byte) := do
  let r ← askDev fun d => d.movReach p m (d.ringSecure die ch)
  let x ← askDev fun d => d.reg (ringReg die ch 0) + 160 * (d.reg (ringReg die ch 0xC) % d.ringSize die ch)
  match ← askDev (·.place x) with
  | .here _ => r.read x 160
  | _ => failWith 0x22 x

/-- A ring channel has an entry to read: enabled, not stopped, HEAD not at TAIL, fewer than 8 in flight. -/
def Dev.ringReady (d : Dev) (m : MoverId) (die ch : Nat) : Bool :=
  !d.halted && d.ringOn die ch && !d.ringStopped die ch && decide (d.reg (ringReg die ch 0xC) ≠ d.reg (ringReg die ch 0x10)) &&
    decide ((d.movQueue m).flight.length < 8)

/-- The command at the head of a ring and its 160 bytes; an entry that cannot be read, or that fails its check,
stops the channel. -/
def Dev.ringHead (d : Dev) (p : Perm) (m : MoverId) (die ch : Nat) : Option (Cmd × List Byte) × Dev :=
  if !d.ringReady m die ch then (none, d)
  else match (ringEntry p m die ch).run { dev := d } with
  | (.ok bs, s) =>
    let c : Cmd := BitVec.ofNat 256 (leAt bs 0 32)
    let cause := ringCause c
    if cause = 0 then (some (c, bs), s.dev) else (none, s.dev.movFaultRing die ch c cause 0)
  | (.error (.fault cause addr), s) => (none, s.dev.movFaultRing die ch 0 cause addr)
  | (.error _, _) => (none, d)

/-- The next command of a mover with an opcode, put in flight with its descriptors; none when it may not issue
(R258). -/
def Dev.movIssue (d : Dev) (p : Perm) (m : MoverId) (op : Nat) : Option Dev × Dev :=
  match m with
  | .tent t =>
    match d.movHead t.toNat op with
    | none => (none, d)
    | some c =>
      if cmdFence c ∧ (d.movQueue m).flight ≠ [] then (none, d)
      else match (tentDescs t.toNat c).run { dev := d } with
      | (.ok bs, s) => (some (s.dev.issue t.toNat 8 { cmd := c, descs := bs, done := false }), d)
      | (.error (.fault cause addr), s) => (none, s.dev.movFaultTent t.toNat c cause addr)
      | (.error _, _) => (none, d)
  | .ring die ch =>
    match d.ringHead p m die.toNat ch.toNat with
    | (none, d1) => (none, d1)
    | (some (c, bs), d1) =>
      if cmdOp c ≠ op ∨ (cmdFence c ∧ (d.movQueue m).flight ≠ []) then (none, d)
      else
        let a := ringReg die.toNat ch.toNat 0xC
        (some ((d1.setReg a ((d1.reg a + 1) % 2 ^ 32)).modMov m fun x =>
          { x with flight := x.flight ++ [{ cmd := c, descs := bs.drop 32, done := false }] }), d)

/-- Run command k in flight from its start with the answers it has. -/
def Dev.movRun (d : Dev) (p : Perm) (m : MoverId) (k : Nat) : Dev :=
  match (d.movQueue m).flight[k]? with
  | none => d
  | some i =>
    let grp := if cmdOp i.cmd = 1 then d.mcGroup m else none
    let e : MovEnv := ⟨m, p, d.movSecure m, grp.isSome, d.mcValid (grp.getD 0)⟩
    let carry : Carry := { vc := cmdVc i.cmd, job := d.movJob m }
    let send : Dev → List OutW → List Nat × Dev := fun d ws =>
      match m, grp with
      | .ring die ch, some g => d.mcSend die.toNat ch.toNat g ws
      | _, _ => d.flush (movOwner m) carry ws
    let store : Issued → Dev → Dev := fun j d =>
      d.modMov m fun x => { x with flight := setNth x.flight k j }
    let d1 := d.runIssued (movOwner m) carry i none send store (fun cause addr d => d.movFail m k cause addr) (movWork e i)
    match (d1.movQueue m).flight[k]? with
    | some j => j.acks.foldl Dev.mcCheck d1
    | none => d1

/-- A command in flight with an opcode whose work may go on: not done, no read outstanding, not MOVING. -/
def Dev.movRetry (d : Dev) (m : MoverId) (op : Nat) : Option Nat :=
  (d.movQueue m).flight.findIdx? fun i =>
    (cmdOp i.cmd == op) && !i.done && i.want.isNone && !i.moving

/-- MOVE or FILL: a command held or answered goes on; else the next one of the mover issues and runs. -/
def Dev.movExec (d : Dev) (p : Perm) (m : MoverId) (op : Nat) : Dev :=
  if d.halted then d
  else match d.movRetry m op with
  | some k => d.movRun p m k
  | none =>
    match d.movIssue p m op with
    | (some d1, _) => d1.movRun p m ((d1.movQueue m).flight.length - 1)
    | (none, d1) => d1

/-- A mover row names a ring channel of a die that has them, or a tent. -/
def movNamed : MoverId → Bool
  | .tent _ => true
  | .ring die _ => ringDie die.toNat

/-- MOVE (R257). -/
def execMove (m : MoverId) : State → Out :=
  liftBus fun p d => if movNamed m then d.movExec p m 1 else d

/-- FILL (R467). -/
def execFill (m : MoverId) : State → Out :=
  liftBus fun p d => if movNamed m then d.movExec p m 2 else d

/-- MOVER_NOP (R256): it issues after every earlier command has completed. -/
def execMoverNop (m : MoverId) : State → Out :=
  liftBus fun p d =>
    if !movNamed m || d.halted || !(d.movQueue m).flight.isEmpty then d
    else match m with
    | .tent t =>
      match d.movHead t.toNat 0 with
      | some c => d.issue t.toNat 8 { cmd := c }
      | none => d
    | .ring die ch =>
      match d.ringHead p m die.toNat ch.toNat with
      | (some (c, _), d1) =>
        if cmdOp c ≠ 0 then d
        else
          let a := ringReg die.toNat ch.toNat 0xC
          (d1.setReg a ((d1.reg a + 1) % 2 ^ 32)).modMov m fun x => { x with flight := x.flight ++ [{ cmd := c }] }
      | (none, d1) => d1

/-- MOVER_WAIT (R256): it issues after every earlier command has completed, and holds queue 8. -/
def execMoverWait (t : TentId) : State → Out :=
  lift fun d =>
    match d.movHead t.toNat 3 with
    | some c => if (d.queue t.toNat 8).flight.isEmpty then d.placeWait t.toNat 8 c else d
    | none => d

/-- Command i of a mover completes: its work is done and its writes at other devices are acknowledged (R258). A
ring channel's SIG signals the peg at DONE. -/
def Dev.movComplete (d : Dev) (m : MoverId) (k : Nat) : Dev :=
  if d.halted then d
  else match (d.movQueue m).flight[k]? with
  | none => d
  | some i =>
    if !i.done || !i.acks.isEmpty then d
    else
      let d1 := d.modMov m fun x => { x with flight := dropNth x.flight k }
      match m with
      | .tent t => (if 0xC ≤ cmdOp i.cmd then d1.rteFinish t.toNat i else d1).cmdDone t.toNat 8 i.cmd
      | .ring _ _ => if cmdSig i.cmd then d1.signalCamp (cmdB i.cmd 24 8) 1 ⟨d1.movJob m, d1.epoch, d1.gen⟩ else d1

/-- MOVER_COMMAND_COMPLETE (R258). -/
def execMoverCommandComplete (m : MoverId) (i : Nat) : State → Out := lift (·.movComplete m i)

/-- PLOT_MOVING_REREAD (R253): the entry is read again; MOV_PLOT_WAITS counts it. -/
def Dev.plotReread (d : Dev) (p : Perm) (m : MoverId) (k : Nat) : Dev :=
  if d.halted then d
  else match (d.movQueue m).flight[k]? with
  | some i =>
    if !i.moving then d
    else
      let d1 := match m with
        | .tent t => d.bump (movReg t.toNat 0x38) 1
        | .ring _ _ => d
      (d1.modMov m fun x => { x with flight := setNth x.flight k { i with moving := false } }).movRun p m k
  | none => d

/-- PLOT_MOVING_REREAD. -/
def execPlotMovingReread (m : MoverId) (i : Nat) : State → Out := liftBus fun p d => d.plotReread p m i

/-- PLOT_BUSY_TIMEOUT (R253): an entry still MOVING after PLOT_WAIT µs; the address is the entry's. -/
def execPlotBusyTimeout (m : MoverId) (i : Nat) : State → Out :=
  lift fun d =>
    match (d.movQueue m).flight[i]? with
    | some x => if x.moving && !d.halted then d.movFail m i 0x11 x.movingAt else d
    | none => d

end Sys2Proof.Machine
end

