-- ==== Sys2Proof/Machine/Forage.lean ====
section
/-! DEFINITION. The Forage engine (05 R108 to R132): its push and issue checks, GATHER, SCATTER, FEED, MERGE,
INTERSECT, CONVERT, SPPROD, index semantics, violations, faults. -/

namespace Sys2Proof.Machine

/-- A Forage register of a tent. -/
def forReg (t o : Nat) : Nat := tentReg t (0x20_0000 + o)
/-- Where the engine records a fault. -/
def forErr (t : Nat) : ErrPlace := ⟨forReg t 8, 3⟩

/-- The causes of Table 5.8 for accesses. -/
def forCauses : Causes :=
  { range := 0x04, uncorr := 0x20, refused := 0x21, decode := 0x22, sat := 0x23, format := 0x24, form := 0x03 }

/-- And for views; a plot table that breaks its rules is a descriptor fault. -/
def forPlot : PlotCauses :=
  { desc := 0x08, hdr := 0x08, entry := 0x08, shape := 0x05, stale := 0x08, decode := 0x22, range := 0x04 }

/-! ### Push checks (R114, Table 5.8) -/

/-- Fields in use of a command (Table 5.3, Table 5.4). -/
def forUsed (c : Cmd) : List (Nat × Nat) :=
  [(0, 5), (8, 6), (16, 16)] ++
    match cmdOp c with
    | 1 => [(32, 17), (96, 17), (128, 17), (160, 3)]
    | 2 => [(32, 17), (96, 17), (128, 17), (160, 3)]
    | 3 => [(32, 17), (64, 17), (96, 17), (168, 2)]
    | 4 => [(32, 17), (64, 17), (96, 17), (168, 2)]
    | 5 => [(32, 17), (96, 17), (168, 2)] ++ (if cmdF c 169 1 = 1 then [(128, 17)] else [])
    | 6 => [(32, 17), (64, 17), (96, 17), (192, 17)]
    | 7 => [(32, 17), (96, 17), (128, 17), (160, 3)]
    | 8 => [(32, 16)]
    | _ => []

/-- The push check of queue 6. -/
def forPushCause (c : Cmd) : Nat :=
  let op := cmdOp c
  firstCause [
    (decide (8 < op), 0x01),
    (reservedSet c (forUsed c) || ((op == 3 || op == 4) && cmdF c 168 2 == 3), 0x02),
    (op == 8 && cmdWaitN c == 0, 0x07)]

/-! ### Operands -/

/-- The tent, fuses and flash for register reads, the command, and FOR_CTL as it was when the command issued. -/
structure ForEnv where
  t : Nat
  p : Perm
  c : Cmd
  ctl : Nat

/-- The writer the engine is, in a world. -/
def forWriter (t : Nat) (secure : Bool) : Writer := ⟨.forage (BitVec.ofNat 14 t), secure⟩

/-- The reach of the engine in a world. -/
def Dev.forReach (d : Dev) (p : Perm) (t : Nat) (secure : Bool) : Reach :=
  let w := forWriter t secure
  { own := some t, req := 11, secure := secure, mem := d.memReq w, c := forCauses,
    busRd := fun d a n => d.busRead p w a n, busWr := fun d a bs => d.busWrite w a bs }

/-- Access to an operand in the world of its descriptor: a local one only within the scratchpad (RANGE, Table 5.8). -/
def ForEnv.via (e : ForEnv) (v : Desc) : Eng Via := do
  let r ← askDev (·.forReach e.p e.t v.worldS)
  if ← askDev fun d => v.isLocal d e.t then return (padVia { r.pad e.t with range := 0x04 }).whole else return r.via

/-- Descriptor faults: of operands read, and of those written (R115), by the engine itself or for FEED by the tent
mover. -/
def ForEnv.descs (e : ForEnv) (reads writes : List Desc) (feed : Bool := false) : Eng Unit := do
  let secure ← askDev (·.blkSecure e.t 6)
  need (!((reads ++ writes).any fun v => v.worldBad secure) && !(reads.any fun v => v.engineBad true) &&
    !(writes.any fun v => if feed then v.bad false else v.engineBad false)) 0x08 0

/-- Operands marked local lie in the tent's own window (R115). -/
def ForEnv.locals (e : ForEnv) (vs : List Desc) : Eng Unit := do
  need (← askDev fun d => vs.all fun v => v.isLocal d e.t) 0x06 0

/-- The bounding range of every local operand read, and of every dense one written, lies in the scratchpad (R246); a
sparse result faults where it passes the end (R122). -/
def ForEnv.pads (e : ForEnv) (reads writes : List Desc) : Eng Unit :=
  (reads ++ writes.filter fun v => v.form == 0).forM fun v => do
    let o ← askDev fun d => (d.ownOff e.t v.base).getD 0
    need (← askDev fun d => v.inPad d e.t) 0x04 o

/-- A format an engine other than a mover takes (Table 3.1). -/
def notRaw (v : Desc) : Bool := v.fmt != 13

/-- Frame headers of operands in layout 0x20. -/
def ForEnv.frames (e : ForEnv) (vs : List Desc) : Eng Unit :=
  vs.forM fun v => do need (← frameOk (← e.via v) v) 0x08 v.base

/-! ### Indices and violations (R127, R128) -/

/-- Count what a decoder or encoder found, or fault when the data's descriptor has STRICT; the first count of a
command raises a Lantern event when VIOL_EVT is set. -/
def ForEnv.tally (e : ForEnv) (strict : Bool) (h : Held) : Eng Unit :=
  match h.first with
  | none => pure ()
  | some (isIdx, pos) => do
    if strict then failWith (if isIdx then 0x10 else 0x11) pos
    let fl := (← get).flags
    if fl &&& (fFormat ||| fIndexRange) = 0 then
      onDev fun d => if bitAt e.ctl 1 then d.raise (e.t / 4096) 0 0x0102 e.t pos else d
    onDev fun d => ((d.bump (forReg e.t 0x28) h.outRange).bump (forReg e.t 0x30) h.viols).bump (forReg e.t 0x38) h.dropped
    flag (flagIf (h.viols ≠ 0) fFormat ||| flagIf (h.outRange ≠ 0) fIndexRange)

/-- The slice numbers an index list names against an extent: none where it reads as empty. -/
def ForEnv.indexList (e : ForEnv) (x : Desc) (extent : Nat) : Eng (List (Option Nat)) := do
  let v ← e.via x
  let ws ← (List.range (x.dim 0)).mapM fun i => v.get x [i]
  let cs := ws.map (idxClass x.idxSigned extent)
  cs.zipIdx.forM fun (c, i) =>
    if c = .outOfRange then e.tally x.strict { outRange := 1, first := some (true, i) } else pure ()
  return cs.map fun c =>
    match c with
    | .valid k => some k
    | _ => none

/-- A repeat filter serves an index: newest first, the last eight distinct ones (R110). -/
def filterStep (f : List Repeat) (r : Repeat) : List Repeat :=
  (r :: f.filter fun x => x.idx != r.idx).take 8

/-- The G-core that list position j is dealt to: units of 64 positions (R112). -/
def gCore (j : Nat) : Nat := j / 64 % 24

/-- The entry of a G-core's filter for an index. -/
def ForEnv.repeatOf (e : ForEnv) (j v : Nat) : Eng (Option Repeat) :=
  askDev fun d => (look (fun _ => []) (d.tent e.t).filters (gCore j)).find? fun r => r.idx == v

/-- The filter of a G-core takes an entry as its newest. -/
def ForEnv.keepRepeat (e : ForEnv) (j : Nat) (r : Repeat) : Eng Unit :=
  onDev (·.modTent e.t fun x =>
    { x with filters := put (fun _ => []) x.filters (gCore j) (filterStep (look (fun _ => []) x.filters (gCore j)) r) })

/-! ### GATHER, FEED, SCATTER (R116 to R118, R126) -/

/-- Indices of slice v of an extent along dimension g. -/
def sliceOf (ext : List Nat) (g v : Nat) : List (List Nat) := (indices (ext.set g 1)).map fun (i : List Nat) => i.set g v

/-- One element of each block of a slice. -/
def Desc.sliceHeads (d : Desc) (g v : Nat) : List (List Nat) :=
  ({ d with dims := d.dims.set g 1 } : Desc).blockHeads.map fun (i : List Nat) => i.set g v

/-- The dimensions of `whole` and of `listed` agree, dimension g of `listed` being the length of the list. -/
def sliceShape (whole listed : Desc) (g len : Nat) : Bool :=
  whole.rank == listed.rank && decide (g < listed.rank) && listed.dim g == len &&
    ((List.range listed.rank).all fun k => k == g || whole.dim k == listed.dim k) &&
    (blockLen listed.fmt == 0 || g != 0)

/-- An index list: local INDEX32 of rank 1. -/
def listForm (x : Desc) : Bool := x.fmt == 12 && x.form == 0

/-- Copy slice i of one view to slice j of another, elements then scales. -/
def copySlice (vs vd : Via) (s d : View) (g i j : Nat) : Eng Unit := do
  (sliceOf s.desc.extent g i).forM fun k => do d.put vd forPlot (k.set g j) (← s.get vs k)
  (s.desc.sliceHeads g i).forM fun k => do d.putScale vd forPlot (k.set g j) (← s.scale vs k)

/-- The elements of slice i of a view, then its scale bytes. -/
def readSlice (vs : Via) (s : View) (g i : Nat) : Eng (List Nat) := do
  let es ← (sliceOf s.desc.extent g i).mapM fun k => s.get vs k
  let ss ← (s.desc.sliceHeads g i).mapM fun k => s.scale vs k
  return es ++ ss

/-- Write them as slice j. -/
def writeSlice (vd : Via) (d : View) (g j : Nat) (xs : List Nat) : Eng Unit := do
  let es := sliceOf d.desc.extent g j
  es.zipIdx.forM fun (k, n) => d.put vd forPlot k (xs.getD n 0)
  (d.desc.sliceHeads g j).zipIdx.forM fun (k, n) => d.putScale vd forPlot k (xs.getD (es.length + n) 0)

/-- Bytes of the elements of a slice. -/
def sliceBytes (d : Desc) (g : Nat) : Nat := (prod (d.extent.set g 1) * d.bits + 7) / 8

/-- One gathered index: from its G-core's repeat filter when that holds it, a slice of at most 64 bytes as first
fetched, a larger one from the output position where the G-core first wrote it; else from the table (R110). -/
def gatherOne (e : ForEnv) (vs vd : Via) (wa wc : View) (g v j : Nat) : Eng Unit := do
  if !bitAt e.ctl 0 then copySlice vs vd wa wc g v j
  else
    let small := decide (sliceBytes wc.desc g ≤ 64)
    match ← e.repeatOf j v with
    | some r =>
      onDev (·.bump (forReg e.t 0x48) 1)
      if small then writeSlice vd wc g j r.slice else copySlice vd vd wc wc g r.pos j
      e.keepRepeat j r
    | none =>
      let xs ← readSlice vs wa g v
      writeSlice vd wc g j xs
      e.keepRepeat j ⟨v, if small then xs else [], j⟩

/-- Write a zero slice: +0, MX scales 0x7F, BI exponents 0. -/
def zeroSlice (vd : Via) (d : View) (g j : Nat) : Eng Unit := do
  (sliceOf d.desc.extent g j).forM fun k => d.put vd forPlot k 0
  (d.desc.sliceHeads g j).forM fun k => d.putScale vd forPlot k (if isMx d.desc.fmt then 0x7F else 0)

/-- GATHER and FEED: slice i of C takes slice X[i] of A. -/
def gatherWork (e : ForEnv) (feed : Bool) (a c x : Desc) : Eng Unit := do
  let g := cmdF e.c 160 3
  e.descs [a, x] [c] feed
  e.locals (if feed then [a, c, x] else [c, x])
  need (listForm x && a.fmt == c.fmt && notRaw a && a.form == 0 && c.form == 0 && !c.accum &&
    (!feed || ((c.layout == 1 || c.layout == 2) && decide (1 ≤ c.fmt) && decide (c.fmt ≤ 8)))) 0x03 0
  need (x.rank == 1 && sliceShape a c g (x.dim 0)) 0x05 0
  e.pads (if feed then [a, x] else [x]) [c]
  if c.count ≠ 0 ∧ a.count ≠ 0 ∨ a.dim g = 0 ∧ c.count ≠ 0 then
    e.frames [a]
    let xs ← e.indexList x (a.dim g)
    let vs ← e.via a
    let vd ← e.via c
    let wa ← openView vs forPlot noLog (pure ()) a ((xs.filterMap id).flatMap fun v => sliceOf a.extent g v)
    let wc : View := { desc := c }
    wc.pad vd
    xs.zipIdx.forM fun (o, j) =>
      match o with
      | some v => gatherOne e vs vd wa wc g v j
      | none => zeroSlice vd wc g j
    vd.fin

/-- A plain SCATTER: slice X[i] of C takes slice i of A, in list order. -/
def scatterWork (e : ForEnv) (a c x : Desc) : Eng Unit := do
  let g := cmdF e.c 160 3
  need (listForm x && a.fmt == c.fmt && notRaw a && a.form == 0 && c.form == 0) 0x03 0
  need (x.rank == 1 && sliceShape c a g (x.dim 0)) 0x05 0
  e.pads [a, x] []
  if a.count ≠ 0 then
    e.frames [a]
    let xs ← e.indexList x (c.dim g)
    let vs ← e.via a
    let vd ← e.via c
    let wa : View := { desc := a }
    let wc ← openView vd forPlot noLog (pure ()) c ((xs.filterMap id).flatMap fun v => sliceOf c.extent g v)
    xs.zipIdx.forM fun (o, i) =>
      match o with
      | some v => copySlice vs vd wa wc g i v
      | none => pure ()
    vd.fin

/-- Sum of the elements at one place, in list order: FP32 in RNE, or exact for INT32 (R118). -/
def runSum (int32 : Bool) (fmt : Nat) : List Nat → (Int × Nat) × Nat
  | [] => ((0, 0), 0)
  | x :: xs =>
    if int32 then ((((x :: xs).map (signed 32)).sum, 0), 0)
    else
      let w := fun b => (toFp32 (elemNum fmt b)).1
      let r := xs.foldl (fun (s : Nat × Nat) b =>
        let y := addFp32 s.1 (w b)
        (y.1, s.2 ||| y.2)) (w x, 0)
      ((0, r.1), r.2)

/-- Add a sum to an element of a local C: rounded to its format, INT32 saturating. -/
def addLocal (fmt old : Nat) (s : Int × Nat) : Nat × Nat :=
  if fmt = 9 then
    let v := signed 32 old + s.1
    if v > 2 ^ 31 - 1 then (2 ^ 31 - 1, fOverflow) else if v < -(2 ^ 31) then (2 ^ 31, fOverflow) else (unsigned 32 v, 0)
  else
    let y := ((elemNum fmt old).add .rne (fp32.decode s.2))
    let r := (elemFmt fmt).narrow .rne 0 false y.1
    (r.1, y.2 ||| r.2)

/-- Distinct valid indices of a chunk, ascending. -/
def chunkIndices (xs : List (Option Nat × Nat)) : List Nat :=
  ((xs.filterMap Prod.fst).eraseDups).mergeSort (· ≤ ·)

/-- SCATTER with ACCUM: chunk by chunk, each distinct index once (R118). -/
def scatterAddWork (e : ForEnv) (a c x : Desc) : Eng Unit := do
  let g := cmdF e.c 160 3
  let isLoc ← askDev fun d => c.isLocal d e.t
  need (listForm x && a.form == 0 && c.form == 0 && c.layout == 0 &&
    (if isLoc then c.fmt == 0 || c.fmt == 1 || c.fmt == 2 || c.fmt == 9 else c.fmt == 0) &&
    (if c.fmt = 9 then a.fmt == 9 else decide (a.fmt ≤ 4))) 0x03 0
  need (x.rank == 1 && sliceShape c a g (x.dim 0)) 0x05 0
  e.pads [a, x] (if isLoc then [c] else [])
  if a.count ≠ 0 then
    e.frames [a]
    let xs ← e.indexList x (c.dim g)
    let vs ← e.via a
    let r ← askDev (·.forReach e.p e.t c.worldS)
    let vc ← e.via c
    let wc ← openView vc forPlot noLog (pure ()) c ((xs.filterMap id).flatMap fun v => sliceOf c.extent g v)
    (List.range ((xs.length + 4095) / 4096)).forM fun k => do
      let chunk := (xs.zipIdx.drop (4096 * k)).take 4096
      (chunkIndices chunk).forM fun v => do
        let ps := (chunk.filter fun q => q.1 == some v).map Prod.snd
        let slice := (sliceOf c.extent g v).forM fun i => do
          let ys ← ps.mapM fun p => vs.get a (i.set g p)
          let s := runSum (c.fmt == 9) a.fmt ys
          flag s.2
          if isLoc then
            let o := addLocal c.fmt (← wc.get vc i) s.1
            flag o.2
            wc.put vc forPlot i o.1
          else wc.put (r.accVia 0) forPlot i s.1.2
        slice
        if isLoc then vc.fin else (r.accVia 0).fin
        -- one ACCUM write per slice per chunk, one for each contiguous stretch of it (R118)
        modify fun s => { s with cut := true }

/-! ### MERGE and INTERSECT (R119 to R122) -/

/-- Sum of two values held at a position, in FP32, narrowed to C's format; an INT8 sum outside the format is an
open value. -/
def mergeAdd (fa fc x y : Nat) : Eng Nat := do
  if fa = 8 then
    let s := signed 8 x + signed 8 y
    if -128 ≤ s ∧ s ≤ 127 then return unsigned 8 s
    else
      let f ← askDev (·.freeBytes 1)
      onDev fun _ => f.2
      return leNat f.1
  else
    let s := addFp32 (toFp32 (elemNum fa x)).1 (toFp32 (elemNum fa y)).1
    flag s.2
    if fc = 0 then return s.1
    else
      let r := (elemFmt fc).narrow .rne 0 false (fp32.decode s.1)
      flag r.2
      return r.1

/-- A value held by one operand only, in C's format: FP32 holds it exactly. -/
def widen (fa fc x : Nat) : Nat := if fa ≠ fc ∧ fc = 0 then (toFp32 (elemNum fa x)).1 else x

/-- The value at a position. -/
def atPos (xs : List (Nat × Nat)) (p : Nat) : Option Nat := (xs.find? fun q => q.1 == p).map Prod.snd

/-- One pair of runs merged: every position held by either. -/
def mergeRun (mode fa fc ext : Nat) (xs ys : List (Nat × Nat)) : Eng (List (Nat × Nat)) := do
  let out ← (List.range ext).mapM fun p => do
    match atPos xs p, atPos ys p with
    | some x, some y =>
      let v ← if mode = 0 then mergeAdd fa fc x y else pure (if mode = 1 then x else y)
      return some (p, v)
    | some x, none => return some (p, widen fa fc x)
    | none, some y => return some (p, widen fa fc y)
    | none, none => return none
  return out.filterMap id

/-- One pair of runs intersected. -/
def intersectRun (mode fa fc : Nat) (xs ys : List (Nat × Nat)) : Eng (List (Nat × Nat)) := do
  let out ← xs.mapM fun (p, x) => do
    match atPos ys p with
    | none => return none
    | some y =>
      if mode = 2 then
        let m := (elemNum fa x).mul (elemNum fa y)
        let r := (elemFmt fc).narrow .rne 0 false m.1
        flag (m.2 ||| r.2)
        return some (p, r.1)
      else return some (p, if mode = 0 then x else y)
  return out.filterMap id

/-- Forms and formats of MERGE and INTERSECT. -/
def pairForms (merge : Bool) (mode : Nat) (a b c : Desc) : Bool :=
  a.form == b.form && a.fmt == b.fmt && sparseFmt a.fmt && a.n == b.n &&
    c.form == (if a.form = 3 then 3 else 1) && !c.accum &&
    (if merge then c.fmt == a.fmt || (mode == 0 && a.fmt != 8 && c.fmt == 0)
      else if mode = 2 then (a.fmt == 3 || a.fmt == 4) && (c.fmt == 0 || c.fmt == 1) else c.fmt == a.fmt)

/-- MERGE and INTERSECT: run by run. -/
def pairWork (e : ForEnv) (merge : Bool) (a b c : Desc) : Eng Unit := do
  let mode := cmdF e.c 168 2
  e.descs [a, b] [c]
  e.locals [a, b, c]
  need (pairForms merge mode a b c) 0x03 0
  need (a.extent == b.extent && a.extent == c.extent) 0x05 0
  e.pads [a, b] []
  if c.count ≠ 0 then
    e.frames [a, b]
    let va ← e.via a
    let vb ← e.via b
    let rs ← (List.range a.runs).mapM fun r => do
      let ha ← va.run a r
      e.tally a.strict ha
      let hb ← vb.run b r
      e.tally b.strict hb
      if merge then mergeRun mode a.fmt c.fmt (a.dim 0) ha.items hb.items
      else intersectRun mode a.fmt c.fmt ha.items hb.items
    let vc ← e.via c
    vc.encode c rs
    vc.fin

/-! ### CONVERT (R123, R124) -/

/-- Order of magnitude for PRUNE: a NaN is largest. -/
def pruneKey (f x : Nat) : Nat :=
  if f = 8 then (signed 8 x).natAbs
  else if (elemNum f x).isNaN then 2 ^ fmtBits f
  else x % 2 ^ (fmtBits f - 1)

/-- Insert by falling key, the lower position first on a tie. -/
def insertKey (f : Nat) (x : Nat × Nat) : List (Nat × Nat) → List (Nat × Nat)
  | [] => [x]
  | y :: ys => if pruneKey f y.2 < pruneKey f x.2 then x :: y :: ys else y :: insertKey f x ys

/-- The N items of a group of eight that an N:8 encoder keeps. -/
def keepN (prune : Bool) (f n : Nat) (xs : List (Nat × Nat)) : List (Nat × Nat) :=
  if prune then
    let best := (xs.foldl (fun l x => insertKey f x l) []).take n
    xs.filter fun x => best.contains x
  else xs.take n

/-- Fit one run to an N:8 C: what is kept, and what was pruned. -/
def fitN8 (e : ForEnv) (c : Desc) (run : Nat) (xs : List (Nat × Nat)) : Eng (List (Nat × Nat)) := do
  let prune := cmdF e.c 168 1 == 1
  let gs ← (List.range c.groups).mapM fun g => do
    let mine := xs.filter fun p => p.1 / 8 == g
    let kept := keepN prune c.fmt c.n mine
    let lost := mine.length - kept.length
    if lost ≠ 0 then
      if prune then onDev (·.bump (forReg e.t 0x40) lost)
      else e.tally c.strict { viols := 1, dropped := lost, first := some (false, run * c.groups + g) }
    return kept
  return gs.flatten

/-- LIST: the positions of the non-zeros of each run (R124). -/
def writeLists (e : ForEnv) (x : Desc) (rs : List (List (Nat × Nat))) : Eng Unit := do
  let v ← e.via x
  rs.zipIdx.forM fun (xs, r) => do
    if x.dim 0 < xs.length then e.tally x.strict { viols := 1, first := some (false, r) }
    (List.range (x.dim 0)).forM fun i =>
      v.put x [i, r] (match xs[i]? with
        | some p => p.1
        | none => 2 ^ 32 - 1)
  v.fin

/-- CONVERT: the non-zeros of A in the form of C. -/
def convertWork (e : ForEnv) (a c x : Desc) : Eng Unit := do
  let list := cmdF e.c 169 1 == 1
  e.descs [a] (if list then [c, x] else [c])
  e.locals (if list then [a, c, x] else [a, c])
  need (a.fmt == c.fmt && sparseFmt a.fmt && !c.accum &&
    (!list || (listForm x && !x.accum))) 0x03 0
  need (a.extent == c.extent && (!list || (x.rank == 2 && x.idxSigned && x.dim 1 == c.runs))) 0x05 0
  e.pads [a] (if list then [c, x] else [c])
  if c.count ≠ 0 ∧ (!list ∨ x.count ≠ 0) then
    e.frames [a]
    let va ← e.via a
    let rs ← (List.range a.runs).mapM fun r => do
      let h ← va.run a r
      e.tally a.strict h
      let xs := h.items.filter fun p => !isZeroBits a.fmt p.2
      if c.form = 2 then fitN8 e c r xs else return xs
    let vc ← e.via c
    vc.encode c rs
    vc.fin
    if list then writeLists e x rs

/-! ### SPPROD (R125) -/

/-- One lane: the matched products of two runs in ascending position. -/
def lane (fa fb : Nat) (xs ys : List (Nat × Nat)) : FLane × Nat :=
  xs.foldl (fun (l : FLane × Nat) p =>
    match atPos ys p.1 with
    | some y =>
      let r := l.1.addProd (elemNum fa p.2) (elemNum fb y)
      (r.1, l.2 ||| r.2)
    | none => l) ({}, 0)

/-- Write one output to BI24 against the exponent its block had: container, exponent byte, mark byte. -/
def outBi (e : ForEnv) (v : Via) (c : Desc) (ex : Nat) (i j : Nat) (l : FLane) : Eng Unit := do
  if ex = 255 then v.put c [j, i] 0
  else
    let o := narrowBi 10 ex .rne 0 l.value
    flag o.flags
    v.put c [j, i] (unsigned 32 o.m)
    if o.nonfinite then v.putScale c [j, i] 0xFF
    else if o.mark || l.sat then
      let blk := j / 64 + (c.dim 0 + 63) / 64 * i
      padPut ⟨e.t, 11, c.worldS, 0x04, 0x20, 0x21⟩ (cmdF e.c 192 17 + blk) 1 1

/-- SPPROD. -/
def spprodWork (e : ForEnv) (a b c : Desc) : Eng Unit := do
  e.descs [a, b] [c]
  e.locals [a, b, c]
  need ((a.fmt == 3 || a.fmt == 4) && (b.fmt == 3 || b.fmt == 4) && a.form != 3 && b.form != 3 && c.form == 0 &&
    (c.fmt == 0 || c.fmt == 1 || c.fmt == 10) && !c.accum) 0x03 0
  need (a.rank == 2 && b.rank == 2 && c.rank == 2 && a.dim 0 == b.dim 0 && c.dim 0 == b.dim 1 && c.dim 1 == a.dim 1)
    0x05 0
  e.pads [a, b] [c]
  if a.count ≠ 0 ∧ b.count ≠ 0 then
    e.frames [a, b]
    let va ← e.via a
    let vb ← e.via b
    let vc ← e.via c
    let as ← (List.range (a.dim 1)).mapM fun r => do
      let h ← va.run a r
      e.tally a.strict h
      return h.items
    let bs ← (List.range (b.dim 1)).mapM fun r => do
      let h ← vb.run b r
      e.tally b.strict h
      return h.items
    let exps ← (List.range (c.dim 1)).mapM fun i =>
      (List.range ((c.dim 0 + 63) / 64)).mapM fun k => vc.scale c [64 * k, i]
    vc.pad c
    as.zipIdx.forM fun (xs, i) =>
      bs.zipIdx.forM fun (ys, j) => do
        let l := lane a.fmt b.fmt xs ys
        flag l.2
        if l.1.sat ∧ l.1.kinds = 0 then onDev (·.bump (forReg e.t 0x50) 1)
        if c.fmt = 10 then outBi e vc c ((exps.getD i []).getD (j / 64) 0) i j l.1
        else
          let r := (elemFmt c.fmt).narrow .rne 0 false l.1.value
          flag r.2
          vc.put c [j, i] r.1
    vc.fin

/-! ### Execution -/

/-- The descriptor offsets a command names: A, B, C, X; none where it names none. -/
def forDescOffs (c : Cmd) : List (Option Nat) :=
  let a := some (cmdF c 32 17)
  let b := some (cmdF c 64 17)
  let r := some (cmdF c 96 17)
  let x := some (cmdF c 128 17)
  match cmdOp c with
  | 3 => [a, b, r, none]
  | 4 => [a, b, r, none]
  | 5 => [a, none, r, if cmdF c 169 1 = 1 then x else none]
  | 6 => [a, b, r, none]
  | _ => [a, none, r, x]

/-- Read the descriptors of a command when it issues (R115). -/
def forDescs (t : Nat) (c : Cmd) : Eng (List Byte) := do
  let p ← askDev fun d => (⟨t, 11, d.blkSecure t 6, 0x04, 0x20, 0x21⟩ : PadPort)
  let parts ← (forDescOffs c).mapM fun o =>
    match o with
    | none => pure (List.replicate 64 (0 : Byte))
    | some o => do
      need (o % 64 == 0 && decide (o + 64 ≤ padLen)) 0x04 o
      padRead p o 64
  return parts.flatten

/-- The work of a command with its descriptors. -/
def forWork (e : ForEnv) (ds : List Byte) : Eng Unit := do
  let a := descOf ds
  let b := descOf (ds.drop 64)
  let c := descOf (ds.drop 128)
  let x := descOf (ds.drop 192)
  match cmdOp e.c with
  | 1 => gatherWork e false a c x
  | 2 =>
    e.descs [a, x] [c]
    e.locals [a, x]
    if c.accum then scatterAddWork e a c x else scatterWork e a c x
  | 3 => pairWork e true a b c
  | 4 => pairWork e false a b c
  | 5 => convertWork e a c x
  | 6 => spprodWork e a b c
  | _ => gatherWork e true a c x

/-- C's descriptor as its scratchpad holds it, for a fault that is met before the descriptors are read. -/
def Dev.forResult (d : Dev) (t : Nat) (c : Cmd) (ds : List Byte) : Desc :=
  if ds ≠ [] then descOf (ds.drop 128)
  else
    let o := cmdF c 96 17
    if o % 64 = 0 ∧ o + 64 ≤ padLen then descOf (d.rd (tentMem t o) 64) else descOf []

/-- The mark bytes of an SPPROD whose fault leaves them open. -/
def Dev.undefMarks (d : Dev) (t : Nat) (c : Cmd) (v : Desc) : Dev :=
  if cmdOp c = 6 ∧ v.fmt = 10 then
    let o := cmdF c 192 17
    let n := min ((v.dim 0 + 63) / 64 * v.dim 1) (padLen - o)
    d.undef (tentMem t o) n
  else d

/-- A fault at issue or run (R129): C and every destination that a well-formed descriptor names are undefined, the
queue is discarded, FOR_ERR_POS names the place of an index, a violation or a range. -/
def Dev.forFault (d : Dev) (t : Nat) (c : Cmd) (ds : List Byte) (cause addr : Nat) : Dev :=
  let r := d.forResult t c ds
  let x := descOf (ds.drop 192)
  let d1 := if r.bad false then d else (d.undefDest r).undefMarks t c r
  let d2 := if cmdOp c = 5 ∧ cmdF c 169 1 = 1 ∧ !x.bad false then d1.undefDest x else d1
  let d3 := if cause = 4 ∨ cause = 0x10 ∨ cause = 0x11 then d2.setReg (forReg t 0x10) addr else d2
  d3.runFault t 6 (forErr t) c cause addr

/-- Run the command in flight from its start with the answers it has. -/
def Dev.forRun (d : Dev) (p : Perm) (t : Nat) (i : Issued) : Dev :=
  let o : Owner := .queue t 6
  let k : Carry := { job := d.job }
  let store : Issued → Dev → Dev := fun j d => d.modQueue t 6 fun x => { x with flight := [j] }
  d.runIssued o k i (some 64) (fun d ws => d.flush o k ws) store
    (fun cause addr d => d.forFault t i.cmd i.descs cause addr) (forWork ⟨t, p, i.cmd, i.ctl⟩ i.descs)

/-- A Forage command leaves the queue: the repeat filters are emptied (R110). -/
def Dev.forIssue (d : Dev) (t : Nat) (i : Issued) : Dev := (d.issue t 6 i).modTent t fun x => { x with filters := [] }

/-- Acknowledgements make room for more of the writes of the command in flight (R111). -/
def Dev.forMore (d : Dev) (t : Nat) : Dev :=
  match (d.queue t 6).flight with
  | i :: _ =>
    let n := 64 - i.acks.length
    if i.outs.isEmpty then d
    else
      let f := d.flush (.queue t 6) { job := d.job } (i.outs.take n)
      f.2.modQueue t 6 fun x => { x with flight := [{ i with acks := i.acks ++ f.1, outs := i.outs.drop n }] }
  | [] => d

/-- ACCUM of the result of a command that has not issued, as its descriptor reads now. -/
def Dev.headAccum (d : Dev) (t : Nat) (c : Cmd) : Bool :=
  let o := cmdF c 96 17
  decide (o + 64 ≤ padLen) && (descOf (d.rd (tentMem t o) 64)).accum

/-- A Forage row: the command in flight goes on, or the head with its opcode, and for a SCATTER its ACCUM, issues
once the one before has completed. A FEED needs an entry of the mover's queue (R126). -/
def Dev.forExec (d : Dev) (p : Perm) (t op : Nat) (accum : Option Bool := none) : Dev :=
  if d.halted then d
  else match (d.queue t 6).flight with
  | i :: _ =>
    let acc := (descOf (i.descs.drop 128)).accum
    if cmdOp i.cmd = op ∧ (accum.getD acc == acc) ∧ !i.done ∧ i.want.isNone then
      d.forRun p t { i with moving := false }
    else d
  | [] =>
    match d.head t 6 with
    | none => d
    | some c =>
      let acc := d.headAccum t c
      if cmdOp c ≠ op ∨ accum.getD acc ≠ acc ∨ (op = 7 ∧ d.queueFree t 8 = 0) then d
      else match (forDescs t c).run { dev := d } with
      | (.ok ds, s) =>
        let i : Issued := { cmd := c, descs := ds, done := false, ctl := d.reg (forReg t 0xC) }
        (s.dev.forIssue t i).forRun p t i
      | (.error (.fault cause addr), s) => s.dev.forFault t c [] cause addr
      | (.error _, _) => d

/-- GATHER (R116). -/
def execGather (t : TentId) : State → Out := liftBus fun p d => d.forExec p t.toNat 1
/-- SCATTER (R117). -/
def execScatter (t : TentId) : State → Out :=
  liftBus fun p d => d.forExec p t.toNat 2 (some false)
/-- SCATTER with ACCUM (R118). -/
def execScatterAdd (t : TentId) : State → Out :=
  liftBus fun p d => d.forExec p t.toNat 2 (some true)
/-- MERGE (R120). -/
def execMerge (t : TentId) : State → Out := liftBus fun p d => d.forExec p t.toNat 3
/-- INTERSECT (R121). -/
def execIntersect (t : TentId) : State → Out := liftBus fun p d => d.forExec p t.toNat 4
/-- CONVERT (R123). -/
def execConvert (t : TentId) : State → Out := liftBus fun p d => d.forExec p t.toNat 5
/-- SPPROD (R125). -/
def execSpprod (t : TentId) : State → Out := liftBus fun p d => d.forExec p t.toNat 6
/-- FEED (R126). -/
def execFeed (t : TentId) : State → Out := liftBus fun p d => d.forExec p t.toNat 7

/-- NOP (R113). -/
def execForageNop (t : TentId) : State → Out :=
  lift fun d =>
    match d.head t.toNat 6 with
    | some c => if cmdOp c = 0 ∧ (d.queue t.toNat 6).flight.isEmpty then d.forIssue t.toNat { cmd := c } else d
    | none => d

/-- WAIT (R113). -/
def execForageWait (t : TentId) : State → Out :=
  lift fun d =>
    match d.head t.toNat 6 with
    | some c => if cmdOp c = 8 ∧ (d.queue t.toNat 6).flight.isEmpty then d.placeWait t.toNat 6 c else d
    | none => d

/-- The steps in which ENCODE stalled are counted when a command ends (R109): a free value, which timing decides. -/
def Dev.forStalls (d : Dev) (t : Nat) (c : Cmd) : Dev :=
  if cmdOp c = 0 then d
  else { d with fresh := d.fresh + 1 }.bump (forReg t 0x58) (Config.stallSteps d.fresh)

/-- The command in flight completes: its work is done and its writes at other devices are acknowledged (R113). -/
def Dev.forComplete (d : Dev) (t : Nat) : Dev :=
  match d.completing t 6 0 with
  | none => d
  | some i =>
    if !i.done || !i.acks.isEmpty || !i.outs.isEmpty then d
    else (((d.retire t 6 0).orReg (forReg t 4) i.flags).forStalls t i.cmd).cmdDone t 6 i.cmd

/-- FORAGE_COMMAND_COMPLETE (R113). -/
def execForageCommandComplete (t : TentId) : State → Out := lift (·.forComplete t.toNat)

end Sys2Proof.Machine
end

