-- ==== Sys2Proof/Machine/HostPort.lean ====
section
/-! DEFINITION. The host bridge (12 R289 to R294, 20 R460): BAR accesses served here or relayed over Trail, held
operations, mailboxes, doorbells, relay timeouts, the resets of the host port. -/

namespace Sys2Proof.Machine

/-- The host as a writer: always non-secure (R291). -/
def hostWriter : Writer := ⟨.host, false⟩

/-- Something leaves for the host. -/
def Dev.toHost (d : Dev) (x : HostOut) : Dev := { d with host := { d.host with out := d.host.out ++ [x] } }

/-- Relayed writes not acknowledged. -/
def Dev.writesOut (d : Dev) : Bool := d.host.relays.any (·.write)

/-- Bytes of an operation. -/
def opLen : PadOp → Nat
  | .read n => n
  | .write bs => bs.length

/-! ### Configuration space (R289)

The spec lists what the port uses of PCI Express and leaves the layout to the base specification: PRESUMED, a type 0
header, power management at 0x40, MSI-X at 0x50, PCI Express at 0x70, Advanced Error Reporting at 0x100. -/

/-- What bits of a byte of the configuration space the host can write. -/
def cfgMask (o : Nat) : Nat :=
  -- Command, cache line, the three 64-bit BARs (64 MiB, 1 MiB, 64 GiB), interrupt line, PMCSR.PowerState, MSI-X control,
  -- Device Control, Link Control, the AER masks and severities
  if o = 4 then 0x46 else if o = 5 then 0x05 else if o = 0x0C then 0xFF
  else if o = 0x13 then 0xFC else if 0x14 ≤ o ∧ o < 0x18 then 0xFF
  else if o = 0x1A then 0xF0 else if o = 0x1B ∨ (0x1C ≤ o ∧ o < 0x20) then 0xFF
  else if o = 0x24 then 0xF0 else if 0x25 ≤ o ∧ o < 0x28 then 0xFF
  else if o = 0x3C then 0xFF else if o = 0x44 then 0x03 else if o = 0x53 then 0xC0
  else if o = 0x78 then 0xFF else if o = 0x79 then 0x7F else if o = 0x80 then 0x43
  else if 0x108 ≤ o ∧ o < 0x110 ∨ 0x114 ≤ o ∧ o < 0x118 then 0xFF else 0

/-- Bits of a byte that are cleared by writing one: the AER status registers. -/
def cfgW1c (o : Nat) : Nat := if 0x104 ≤ o ∧ o < 0x108 ∨ 0x110 ≤ o ∧ o < 0x114 then 0xFF else 0

/-- What a byte of the configuration space reads where nothing has written it (Table 12.11): class code 0x12_0000,
type 0 header; BAR0 64-bit non-prefetchable, BAR2 the same, BAR4 64-bit prefetchable; D0; 2,048 MSI-X vectors, table at
BAR0 0x1_0000, pending bits at BAR0 0x1_8000; endpoint, Function Level Reset, Max Payload up to 512 bytes; reads of
512 bytes asked. Identification numbers are the free Config.pciId. -/
def cfgReset (o : Nat) : Byte :=
  BitVec.ofNat 8 (match o with
    | 0x06 => 0x10
    | 0x0B => 0x12
    | 0x10 => 0x04
    | 0x18 => 0x04
    | 0x20 => 0x0C
    | 0x34 => 0x40
    | 0x40 => 0x01
    | 0x41 => 0x50
    | 0x42 => 0x03
    | 0x50 => 0x11
    | 0x51 => 0x70
    | 0x52 => 0xFF
    | 0x53 => 0x07
    | 0x56 => 0x01
    | 0x59 => 0x80
    | 0x5A => 0x01
    | 0x70 => 0x10
    | 0x72 => 0x02
    | 0x74 => 0x02
    | 0x77 => 0x10
    | 0x79 => 0x20
    | 0x100 => 0x01
    | 0x102 => 0x02
    | o => if o < 4 ∨ (0x2C ≤ o ∧ o < 0x30) ∨ o = 8 then Config.pciId o else 0)

/-- A write of the configuration space. -/
def Dev.cfgWrite (d : Dev) (o : Nat) (bs : List Byte) : Dev :=
  bs.zipIdx.foldl (fun (d : Dev) (b, i) =>
    let a := o + i
    let old := (look cfgReset d.host.cfg a).toNat
    let m := cfgMask a
    let v := (old &&& (255 ^^^ m) ||| b.toNat &&& m) &&& (255 ^^^ (b.toNat &&& cfgW1c a))
    { d with host := { d.host with cfg := put cfgReset d.host.cfg a (BitVec.ofNat 8 v) } }) d

/-- An error of the port is reported in the AER uncorrectable status (Table 12.11): the bit of the base
specification. -/
def Dev.aer (d : Dev) (bit : Nat) : Dev :=
  let a := 0x104 + bit / 8
  let b := look cfgReset d.host.cfg a ||| BitVec.ofNat 8 (2 ^ (bit % 8))
  { d with host := { d.host with cfg := put cfgReset d.host.cfg a b } }

/-- The configuration space after a reset of the port: the AER status survives a hot or Function Level Reset. -/
def Dev.cfgCleared (d : Dev) (sticky : Bool) : Dev :=
  { d with host := { d.host with cfg := if sticky then d.host.cfg.filter fun x => cfgW1c x.1 != 0 else [] } }

/-- A BAR address that decodes to nothing (R291): Unsupported Request, or the write is discarded. -/
def Dev.hostNothing (d : Dev) (op : PadOp) : Dev :=
  let d1 := (d.bump pciRefusedAddr 1).aer 20
  match op with
  | .read _ => d1.toHost (.completion 1 [])
  | .write _ => d1

/-- Complete a read with bytes, or discard a write. -/
def Dev.hostZero (d : Dev) (op : PadOp) : Dev :=
  match op with
  | .read n => d.toHost (.completion 0 (List.replicate n 0))
  | .write _ => d

/-- An access at an address of this device (R291): a refused read is zero. -/
def Dev.hostLocal (d : Dev) (p : Perm) (a : Nat) (op : PadOp) : Dev :=
  match op with
  | .read n =>
    let r := d.readHere p hostWriter a n
    if r.1.status = 5 then r.2.hostNothing op
    else r.2.toHost (.completion 0 (if r.1.status = 2 then List.replicate n 0 else r.1.data))
  | .write bs =>
    let r := d.writeHere hostWriter a bs
    if r.1 = 5 then r.2.bump pciRefusedAddr 1 else r.2

/-- Relay an access to another device with MGMT set. -/
def Dev.hostRelay (d : Dev) (x vc : Nat) (op : PadOp) : Dev :=
  let c : Carry := { vc := vc, mgmt := true }
  let r := match op with
    | .read n => d.sendRead .host c x n
    | .write bs => d.sendWrite .host c none x bs
  let w := match op with
    | .read _ => false
    | .write _ => true
  { r.2 with host := { r.2.host with relays := r.2.host.relays ++
      [{ tid := r.1, write := w, addr := BitVec.ofNat 64 x, len := opLen op }] } }

/-- An access at a camp address on a VC. -/
def Dev.hostCamp (d : Dev) (p : Perm) (x vc : Nat) (op : PadOp) : Dev :=
  match d.place x with
  | .bad => d.hostNothing op
  | .here a => d.hostLocal p a op
  | .remote _ _ => d.hostRelay x vc op

/-- Read or write bytes of a byte space of the host port. -/
def bytesOp (m : List (Nat × Byte)) (o : Nat) : PadOp → List Byte × List (Nat × Byte)
  | .read n => (lookAll byte0 m o n, m)
  | .write bs => ([], putAll byte0 m o bs)

/-- A doorbell (R290, R294): a Quartermaster event, where the Quartermaster runs; discarded on the standby. -/
def Dev.ring (d : Dev) (m : Nat) : Dev :=
  if 128 ≤ m ∨ !d.qmHere then d
  else (d.modQm fun q => { q with rung := if q.rung.contains m then q.rung else q.rung ++ [m] }).raise (srcOfDie 6) 0
    0x0301 6 m

/-- A write of LEN by the host: 0 in a device-to-host mailbox lets the next message in (R356). -/
def Dev.lenWritten (d : Dev) (m v : Nat) : Dev :=
  let d1 := d.setMailLen m v
  if 128 ≤ m ∧ v = 0 then d1.mailNext (m - 128) else d1

/-- A write at BAR2 offset `off` of n bytes touches the 4-byte register at offset o of mailbox m. -/
def mailHits (off n m o : Nat) : Bool := decide (off < 0x1000 * m + o + 4) && decide (0x1000 * m + o < off + n)

/-- The mailboxes a write of BAR2 touches. -/
def mailsOf (off n : Nat) : List Nat :=
  ((List.range (n / 0x1000 + 2)).map fun i => off / 0x1000 + i).filter fun m => decide (m < 256) && decide (0x1000 * m < off + n)

/-- What a write of BAR2 does in one mailbox: message bytes are stored, then LEN takes effect, then DOORBELL. -/
def Dev.mailWrite (d : Dev) (off : Nat) (bs : List Byte) (m : Nat) : Dev :=
  let base := 0x1000 * m
  let mine : List (Nat × Byte) := bs.zipIdx.filterMap fun (b, i) =>
    if base ≤ off + i ∧ off + i < base + 0xFF4 then some (off + i - base, b) else none
  let d1 := mine.foldl (fun (d : Dev) x => d.mailPut m x.1 [x.2]) d
  let d2 := if mailHits off bs.length m 0xFF0 then d1.lenWritten m (d1.mailLen m) else d1
  let bell := leNat ((List.range 4).map fun i =>
    if off ≤ base + 0xFF8 + i then bs.getD (base + 0xFF8 + i - off) 0 else 0)
  if mailHits off bs.length m 0xFF8 ∧ bell = 1 then d2.ring m else d2

/-- An access of BAR2: message bytes, LEN, DOORBELL. -/
def Dev.bar2 (d : Dev) (off : Nat) (op : PadOp) : Dev :=
  match op with
  | .read n =>
    d.toHost (.completion 0 ((List.range n).map fun i =>
      if (off + i) % 0x1000 < 0xFF4 then look byte0 d.host.mail (off + i) else 0))
  | .write bs => (mailsOf off bs.length).foldl (fun (d : Dev) m => d.mailWrite off bs m) d

/-- Where an access of a BAR leads: a camp address and its VC; none for what the port itself holds. -/
def Dev.barTarget (d : Dev) (bar off : Nat) : Option (Nat × Nat) :=
  if bar = 4 then some (d.reg (dieReg 6 0x1400_0008) + off, 5)
  else if bar = 0 ∧ 0x100_0000 ≤ off ∧ off < 0x200_0000 then
    some (d.reg (dieReg 6 0x1400_0010) + (off - 0x100_0000), 7)
  else if bar = 0 ∧ off < 0x1_0000 then some (2 ^ 58 + dieReg 6 (0x1400_0000 + off), 7)
  else none

/-- An access of a BAR, its order settled (Table 12.12). -/
def Dev.barAccess (d : Dev) (p : Perm) (bar off : Nat) (op : PadOp) : Dev :=
  match d.barTarget bar off with
  | some (x, vc) => d.hostCamp p x vc op
  | none =>
    if bar = 2 then d.bar2 off op
    else if bar = 0 ∧ 0x1_0000 ≤ off ∧ off < 0x1_8000 then
      let r := bytesOp d.host.msix (off - 0x1_0000) op
      let d1 := { d with host := { d.host with msix := r.2 } }
      match op with
      | .read _ => d1.toHost (.completion 0 r.1)
      | .write bs =>
        let v := (off - 0x1_0000) / 16
        ((List.range (bs.length / 16 + 2)).map fun i => v + i).foldl (fun (d : Dev) v => d.unmaskVector v) d1
    else if bar = 0 ∧ 0x1_8000 ≤ off ∧ off < 0x1_8100 then
      match op with
      | .read n => d.toHost (.completion 0 (lookAll byte0 d.host.pba (off - 0x1_8000) n))
      | .write _ => d
    else d.hostZero op

/-- What must wait for every earlier host write (R292): reads, and writes that touch a DOORBELL, PCI_WIN_BASE or
PCI_REGWIN_SEL, by whichever window they reach it. -/
def Dev.ordered (d : Dev) (bar off : Nat) (op : PadOp) : Bool :=
  match op with
  | .read _ => true
  | .write bs =>
    if bar = 2 then (mailsOf off bs.length).any fun m => mailHits off bs.length m 0xFF8
    else match d.barTarget bar off with
    | some (x, _) =>
      match d.place x with
      | .here a => decide (a < dieReg 6 0x1400_0018) && decide (dieReg 6 0x1400_0008 < a + bs.length)
      | _ => false
    | none => false

/-- The PCIe link is up (R387, R460): the port is out of reset, and LINKUP reads 1. -/
def Dev.pcieRuns (d : Dev) : Bool := !d.host.perst && d.regF (dieReg 6 0x1400_0000) 0 1 == 1

/-- The host port takes accesses: its link is up, no Function Level Reset waits. -/
def Dev.hostOpen (d : Dev) : Bool := d.pcieRuns && !d.host.flr

/-- An access of the host to this device finds no way from IOD0 (R14, R19). -/
def Dev.hostCutOff (d : Dev) (bar off : Nat) (op : PadOp) : Bool :=
  match d.barTarget bar off with
  | some (x, _) =>
    match d.place x with
    | .here a => d.cutOff .host (match op with | .read _ => true | .write _ => false) a (opLen op)
    | _ => false
  | none => false

/-- Hold an operation. -/
def Dev.hold (d : Dev) (h : HeldHost) : Dev := { d with host := { d.host with held := d.host.held ++ [h] } }

/-- An access longer than Table 12.11 allows: it is malformed, and only reported. -/
def hostTooLong : PadOp → Bool
  | .read n => decide (4096 < n)
  | .write bs => decide (512 < bs.length)

/-- An access of a BAR: refused before the device is autonomous (R460), held where its order asks. -/
def Dev.hostAccess (d : Dev) (p : Perm) (bar off : Nat) (op : PadOp) : Dev :=
  if !d.hostOpen then d
  else if hostTooLong op then d.aer 18
  else if !d.kitApplied then d.hostNothing op
  else if !d.host.held.isEmpty || (d.writesOut && d.ordered bar off op) || d.hostCutOff bar off op then d.hold (.access bar off op)
  else d.barAccess p bar off op

/-- The held operations that may go on do so, in order (R292). -/
def Dev.hostDrain (d : Dev) (p : Perm) : Nat → Dev
  | 0 => d
  | k + 1 =>
    match d.host.held with
    | [] => d
    | h :: rest =>
      let wait := match h with
        | .access bar off op => (d.writesOut && d.ordered bar off op) || d.hostCutOff bar off op
        | .doorbell _ => d.writesOut
      if wait then d
      else
        let d1 := { d with host := { d.host with held := rest } }
        match h with
        | .access bar off op => (d1.barAccess p bar off op).hostDrain p k
        | .doorbell m => (d1.ring m).hostDrain p k

/-- Every held operation that may go on. -/
def Dev.hostGo (d : Dev) (p : Perm) : Dev := d.hostDrain p d.host.held.length

/-- A configuration request of the host arrives at the port (R289); PCIE_CONFIG_REQUEST completes it. -/
def Dev.askConfig (d : Dev) (off : Nat) (op : PadOp) : Dev :=
  if d.pcieRuns then { d with host := { d.host with asked := d.host.asked ++ [(off % 4096, op)] } } else d

/-- HOST_BAR_ACCESS (R291). DESIGN CHOICE: `bar` = 7, which names no BAR, is the configuration space, for
PCIE_CONFIG_REQUEST has no operands. -/
def execHostBarAccess (bar : BitVec 3) (off : BitVec 36) (op : PadOp) : State → Out :=
  liftBus fun p d => if bar = 7 then d.askConfig off.toNat op else d.hostAccess p bar.toNat off.toNat op

/-- DOORBELL (R290, R292). -/
def Dev.doorbell (d : Dev) (m : Nat) : Dev :=
  if !d.hostOpen || !d.kitApplied then d
  else if d.writesOut || !d.host.held.isEmpty then d.hold (.doorbell m)
  else d.ring m

/-- DOORBELL. -/
def execDoorbell (m : BitVec 8) : State → Out := lift (·.doorbell m.toNat)

/-- MAILBOX_LEN_WRITE (R356). -/
def execMailboxLenWrite (m : BitVec 7) : State → Out :=
  lift fun d => if d.hostOpen && d.kitApplied then d.lenWritten (m.toNat + 128) 0 else d

/-! ### Relayed accesses -/

/-- A relayed access is over; a Function Level Reset that waited for the last of them ends (R294). -/
def Dev.relayOver (d : Dev) (tid : Nat) : Dev :=
  let rs := d.host.relays.filter fun r => r.tid != tid
  { d with host := { d.host with relays := rs, flr := d.host.flr && !rs.isEmpty } }

/-- A relayed read is answered: bytes; a refused one reads zero; one that decodes to nothing there is an
Unsupported Request. -/
def Dev.relayRead (d : Dev) (tid status : Nat) (data : List Byte) : Dev :=
  match d.host.relays.find? fun r => r.tid == tid && !r.write with
  | none => d
  | some r =>
    let d1 := d.relayOver tid
    if d.host.flr then d1
    else if status = 5 then d1.hostNothing (.read r.len)
    else d1.toHost (.completion 0 (if status = 2 then List.replicate r.len 0 else data))

/-- A relayed write is acknowledged; one that decodes to nothing there is counted. -/
def Dev.relayWrote (d : Dev) (tid status : Nat) : Dev :=
  if d.host.relays.any fun r => r.tid == tid && r.write then
    let d1 := d.relayOver tid
    if status = 5 then d1.bump pciRefusedAddr 1 else d1
  else d

/-- RELAY_TIMEOUT (R293): a read completes with Completer Abort and is counted; a write is given up. -/
def Dev.relayTimeout (d : Dev) (tid : Nat) : Dev :=
  match d.host.relays.find? fun r => r.tid == tid with
  | none => d
  | some r =>
    let d1 := (d.dropTid tid).relayOver tid
    if r.write then d1
    else
      let d2 := (d1.bump (dieReg 6 0x1400_0020) 1).aer 15
      if d.host.flr then d2 else d2.toHost (.completion 2 [])

/-- RELAY_TIMEOUT. -/
def execRelayTimeout (tid : BitVec 16) : State → Out :=
  liftBus fun p d => (d.relayTimeout tid.toNat).hostGo p

/-! ### Resets of the host port -/

/-- What every reset of the host port clears (R294): mailboxes, the MSI-X table, PCI_WIN_BASE, PCI_REGWIN_SEL, what
was held. -/
def Dev.hostCleared (d : Dev) : Dev :=
  let d1 := (d.setReg (dieReg 6 0x1400_0008) 0).setReg (dieReg 6 0x1400_0010) 0
  { d1 with host := { d1.host with mail := [], msix := [], pba := [], held := [], asked := [] } }

/-- The tags of relayed accesses are forgotten. -/
def Dev.dropRelays (d : Dev) : Dev :=
  { d.host.relays.foldl (fun (d : Dev) r => d.dropTid r.tid) d with host := { d.host with relays := [], flr := false } }

/-- FUNCTION_LEVEL_RESET (R294): it waits for the relayed accesses. -/
def execFunctionLevelReset : State → Out :=
  lift fun d =>
    if d.host.perst then d
    else
      let d1 := d.hostCleared.cfgCleared true
      { d1 with host := { d1.host with flr := !d1.host.relays.isEmpty } }

/-- PERST_N_ASSERT (R23): the host port is held in reset. -/
def execPerstNAssert : State → Out :=
  lift fun d =>
    let d1 := (d.hostCleared.dropRelays.cfgCleared false).pcieDown
    { d1 with host := { d1.host with perst := true } }

/-- PERST_N_DEASSERT (R460): the port trains, where the module has power. -/
def execPerstNDeassert : State → Out :=
  lift fun d =>
    let d1 := { d with host := { d.host with perst := false } }
    if d.power = .on ∧ d.host.perst then d1.pcieUp else d1

/-- PCIE_HOT_RESET (R289): the host port only. -/
def execPcieHotReset : State → Out :=
  lift fun d => if d.host.perst then d else d.hostCleared.dropRelays.cfgCleared true

/-- The oldest configuration request. DESIGN CHOICE: where the host has given none, it asks for the first four bytes,
the identification that a host polls for. -/
def HostPort.request (x : HostPort) : Nat × PadOp := x.asked.headD (0, .read 4)

/-- PCIE_CONFIG_REQUEST (R289, R460): the oldest request completes, a read or write of the configuration space; with
Request Retry Status, and no effect, until the device is autonomous. -/
def execPcieConfigRequest : State → Out :=
  lift fun d =>
    if !d.pcieRuns then d
    else
      let r := d.host.request
      let d1 := { d with host := { d.host with asked := d.host.asked.drop 1 } }
      if !d.kitApplied then d1.toHost .configRetry
      else match r.2 with
      | .read n => d1.toHost (.configDone (lookAll cfgReset d.host.cfg r.1 n))
      | .write bs => (d1.cfgWrite r.1 bs).toHost (.configDone [])

end Sys2Proof.Machine
end

