-- ==== Sys2Proof/Machine/Trail.lean ====
section
/-! DEFINITION. Packets that arrive at their device (12 R276 to R283, R287; 16 R370): writes, reads and their
answers, completions, multicast, NAKs, PEG packets. -/

namespace Sys2Proof.Machine

/-! ### Answers and failures reach who waits -/

/-- The cause of an engine for a status other than OK. -/
def rteCause (status : Nat) : Nat := if status = 1 then 0x60 else if status = 2 then 0x61 else 0x62

/-- The S-core fault of a status (R39): uncorrectable, refused, decode. -/
def coreCause (status : Nat) : Nat := if status = 1 then 0x06 else if status = 2 then 0x05 else 0x04

/-- The command at a place in a queue's flight fails with a status at an address. -/
def Dev.queueFail (d : Dev) (t q k status addr : Nat) : Dev :=
  match (d.queue t q).flight[k]? with
  | none => d
  | some i =>
    if q = 6 then d.forFault t i.cmd i.descs (forCauses.of status) addr
    else if q = 8 ∧ 0xC ≤ cmdOp i.cmd then (d.rteUndef t i.cmd).rteFault t i.cmd (rteCause status) addr
    else if q = 8 then d.movFail (.tent (BitVec.ofNat 14 t)) k (movCauses.of status) addr
    else d

/-- A posted store that another device has taken or refused: one with a status other than OK is a fault of its
S-core with the store's program counter (R38, R39). -/
def Dev.storeDone (d : Dev) (tid status : Nat) : Dev :=
  match d.stores.find? fun s => s.tid == some tid with
  | none => d
  | some s =>
    let d1 := { d with stores := d.stores.filter fun x => x.seq != s.seq }
    if status = 0 then d1
    else d1.coreFault s.t s.core (coreCause status) (0x24 + Nat.log2 s.data.length) s.addr.toNat s.pc

/-- The mover a ring channel is. -/
def ringMover (die ch : Nat) : MoverId := .ring (BitVec.ofNat 3 die) (BitVec.ofNat 4 ch)

/-- Position in a flight of the command that waits for a read tag, or for an acknowledgement tag. -/
def waitsRead (tid : Nat) (i : Issued) : Bool :=
  match i.want with
  | some w => w.1 == tid
  | none => false

/-- A read answer is stored with the command that asked for it. -/
def Issued.answered (i : Issued) (data : List Byte) : Issued :=
  match i.want with
  | some w => { i with stage := i.stage ++ [(w.2.1, data)], want := none }
  | none => i

/-- Camp address of the read a command waits for. -/
def Issued.wantAddr (i : Issued) : Nat :=
  match i.want with
  | some w => w.2.1
  | none => 0

/-- A load of an S-core is answered. -/
def Dev.coreAnswer (d : Dev) (t n status : Nat) (data : List Byte) : Dev :=
  let c := d.core t n
  match c.wait with
  | .load rd size addr none => d.setCore t n { c with wait := .load rd size addr (some ⟨status, data⟩) }
  | _ => d

/-- The answer of a READ of this device: status and bytes (R278). -/
def Dev.readAnswer (d : Dev) (tid status : Nat) (data : List Byte) : Dev :=
  match d.ownerOf tid with
  | none => d
  | some o =>
    let d := d.dropTid tid
    match o with
    | .core t n => d.coreAnswer t n status data
    | .queue t q =>
      match (d.queue t q).flight.findIdx? (waitsRead tid) with
      | none => d
      | some k =>
        if status = 0 then
          d.modQueue t q fun x => { x with flight := x.flight.map fun i =>
            (if waitsRead tid i then i.answered data else i) }
        else d.queueFail t q k status (((d.queue t q).flight[k]?.map (·.wantAddr)).getD 0)
    | .ring die ch =>
      let m := ringMover die ch
      match (d.movQueue m).flight.findIdx? (waitsRead tid) with
      | none => d
      | some k =>
        if status = 0 then
          d.modMov m fun x => { x with flight := x.flight.map fun i =>
            (if waitsRead tid i then i.answered data else i) }
        else d.movFail m k (movCauses.of status) (((d.movQueue m).flight[k]?.map (·.wantAddr)).getD 0)
    | .host => d.relayRead tid status data
    | .stash => d.stashRead (fun j => relocate j.image j.devices) tid status data
    | _ => d

/-- A command's write is acknowledged. -/
def Issued.acked (i : Issued) (tid : Nat) : Issued := { i with acks := i.acks.filter (· != tid) }

/-- The acknowledgement of a write of this device (R276, R283). -/
def Dev.writeAck (d : Dev) (tid status : Nat) : Dev :=
  match d.ownerOf tid with
  | none => d
  | some o =>
    let addr := d.addrOf tid
    let d := d.dropTid tid
    match o with
    | .core _ _ => d.storeDone tid status
    | .queue t q =>
      match (d.queue t q).flight.findIdx? fun i => i.acks.contains tid with
      | none => d
      | some k =>
        -- the expert unit has no cause for a count that saturates or is of another format (Table 9.8)
        let counts := q == 8 && (status == 3 || status == 4) && (d.queue t q).flight[k]?.any fun i => cmdOp i.cmd == 0xC
        if status = 0 || counts then
          let d1 := d.modQueue t q fun x => { x with flight := x.flight.map (·.acked tid) }
          if q = 6 then d1.forMore t else d1
        else d.queueFail t q k status addr
    | .ring die ch =>
      let m := ringMover die ch
      match (d.movQueue m).flight.findIdx? fun i => i.acks.contains tid with
      | none => d
      | some k =>
        if status = 0 then d.modMov m fun x => { x with flight := x.flight.map (·.acked tid) }
        else d.movFail m k (movCauses.of status) addr
    | .host => d.relayWrote tid status
    | .stash => d.stashWritten tid status
    | _ => d

/-! ### Arrival -/

/-- The header of an arriving packet of a type, addressed to this device; a packet that breaks the rules of
Table 12.9 is a HEADER violation. One whose access is held, or that has an earlier packet of its VC before it, waits
in the receive buffer (R276). The camp address of its DEST decodes here. -/
def Dev.arrive (d : Dev) (l typ : Nat) (pkt : List Byte) (act : Hdr → Dev → Dev) (held : Bool := false) : Dev :=
  let h := hdrOf pkt
  if h.typ ≠ typ then d
  else if hdrBad h.vc pkt then (d.consume l pkt).violate l 1 pkt
  else if typ ≠ 5 ∧ field h.dest 48 10 ≠ d.devId then d
  else if held || !d.turnOf l pkt then d.await l pkt
  else act h (d.consume l pkt)

/-- Where DEST lies in this device; none when it decodes to nothing. -/
def destHere (h : Hdr) : Option Nat :=
  let a := h.dest % 2 ^ 48
  if regionOf a = .none then none else some a

/-- A packet's access touches a segment that is being cleared, or finds no way from its port's I/O die: it waits in the
receive buffer (R14, R19, R44). -/
def Dev.pktHeld (d : Dev) (l : Nat) (pkt : List Byte) (read : Bool) (n : Nat) : Bool :=
  let a := (hdrOf pkt).dest % 2 ^ 48
  d.heldHere a n || !d.pathOpen (.die (linkDie l)) read a n

/-- Who writes: another device, in the world the packet carries. -/
def pktWriter (h : Hdr) : Writer := ⟨.device (BitVec.ofNat 10 h.src), h.worldS⟩

/-- Groups of a compressed BBM payload (R280): they lie packed from byte `o`, bitmap and non-zeros padded to 8 bytes,
and the payload ends with one 4-byte offset for each. -/
def bbmCount (e : Nat) (bs : List Byte) : Nat → Nat → Nat → Nat
  | 0, _, n => n
  | k + 1, o, n =>
    if bs.length ≤ o + 4 * n then n
    else
      let used := ((List.range 64).filter fun i => bitAt (leAt bs o 8) i).length
      bbmCount e bs k (o + 8 + (used * e + 7) / 8 * 8) (n + 1)

/-- What the groups of a compressed BBM payload hold, by their offsets, with the violations of Table 5.6. -/
def bbmPayload (e : Nat) (bs : List Byte) : List Held :=
  let n := bbmCount e bs 512 0 0
  let off (k : Nat) : Nat := leAt bs (bs.length - 4 * n + 4 * k) 4
  (List.range n).map fun k =>
    if off k % 8 ≠ 0 ∨ (k ≠ 0 ∧ off k < off (k - 1) + 8) then { viols := 1, first := some (false, k) }
    else bbmGroup e k 0 64 (if k + 1 < n then some (off (k + 1) - off k - 8) else none) (leAt bs (off k) 8)
      fun i => leAt bs (off k + 8 + e * i) e

/-- A compressed BBM payload goes to a dense destination in memory, where the memory-side die expands it (R280, R236).
Which destinations are dense is the free Config.compDense: the header does not say. -/
def expandsHere (h : Hdr) : Bool :=
  h.comp && h.form == 1 && eBytes h.fmt != 0 && Config.compDense h.dest &&
    match regionOf (h.dest % 2 ^ 48) with
    | .hbm => true
    | .lpddr => true
    | _ => false

/-- The bytes a packet's payload becomes at DEST: expanded, or taken whole. -/
def landed (pkt : List Byte) : List Byte :=
  let h := hdrOf pkt
  if expandsHere h then
    (bbmPayload (eBytes h.fmt) (payloadOf pkt)).flatMap fun g => (List.range 64).flatMap fun i =>
      leBytes (eBytes h.fmt) (((g.items.find? fun p => p.1 == i).map Prod.snd).getD 0)
  else payloadOf pkt

/-- A packet's payload lands at DEST: replacing, or adding; violations of an expanded payload are counted by its
memory-side die. -/
def Dev.landPacket (d : Dev) (h : Hdr) (pkt : List Byte) : Nat × Dev :=
  match destHere h with
  | some a =>
    let g := if expandsHere h then (bbmPayload (eBytes h.fmt) (payloadOf pkt)).foldl Held.join {} else {}
    let die := (d.memLoc a).die
    let d1 := if g.viols = 0 then d else (d.bump (dieReg die 0x320) g.viols).bump (dieReg die 0x328) g.dropped
    d1.landWrite (pktWriter h) (if h.accum then some h.fmt else none) a (landed pkt) (some h.job)
  | none => (5, d)

/-- TRAIL_WRITE (R277): the payload is written at DEST, and a COMPL with the status returns when ACK_REQ is set. -/
def Dev.trailWrite (d : Dev) (l : Nat) (pkt : List Byte) : Dev :=
  d.arrive l 1 pkt (held := d.pktHeld l pkt false (landed pkt).length) fun h d =>
    let r := d.landPacket h pkt
    if h.ackReq then r.2.sendCompl h r.1 else r.2

/-- TRAIL_WRITE. -/
def execTrailWrite (l : BitVec 6) (pkt : List Byte) : State → Out :=
  liftBus fun _ d => d.trailWrite l.toNat pkt

/-- Send a read's bytes as RDATA packets of at most 4,096 bytes. -/
def Dev.sendRdata (d : Dev) (h : Hdr) (status : Nat) : Nat → Nat → List Byte → Dev
  | 0, _, _ => d
  | k + 1, o, bs =>
    let d1 := d.sendPkt { typ := 3, vc := h.vc, worldS := h.worldS, mgmt := h.mgmt, job := h.job, epoch := h.epoch,
                          gen := h.gen, dest := (h.arg + o) % 2 ^ 58, tid := h.tid, arg := status } (bs.take 4096)
    if bs.length ≤ 4096 then d1 else d1.sendRdata h status k (o + 4096) (bs.drop 4096)

/-- TRAIL_READ (R278): AUX bytes at DEST are returned to the address in ARG. -/
def Dev.trailRead (d : Dev) (p : Perm) (l : Nat) (pkt : List Byte) : Dev :=
  d.arrive l 2 pkt (held := d.pktHeld l pkt true (hdrOf pkt).aux) fun h d =>
    let r := match destHere h with
      | some a => d.readHere p (pktWriter h) a h.aux (some h.job)
      | none => (⟨5, List.replicate h.aux 0⟩, d)
    r.2.sendRdata h r.1.status 2 0 r.1.data

/-- TRAIL_READ. -/
def execTrailRead (l : BitVec 6) (pkt : List Byte) : State → Out :=
  liftP fun p d => d.trailRead p l.toNat pkt

/-- RDATA (R278). -/
def execRdata (l : BitVec 6) (pkt : List Byte) : State → Out :=
  liftBus fun p d =>
    (d.arrive l.toNat 3 pkt fun h d => d.readAnswer h.tid (h.arg % 256) (payloadOf pkt)).hostGo p

/-- COMPL (R283): a multicast root counts it; else it acknowledges a write. -/
def Dev.compl (d : Dev) (l : Nat) (pkt : List Byte) : Dev :=
  d.arrive l 4 pkt fun h d =>
    if d.mcasts.any fun x => x.tid == h.tid then
      let add (x : Mcast) : Mcast :=
        if x.tid ≠ h.tid ∨ x.ok.contains h.src ∨ x.bad.contains h.src then x
        else if h.arg % 256 = 0 then { x with ok := x.ok ++ [h.src] } else { x with bad := x.bad ++ [h.src] }
      { d with mcasts := d.mcasts.map add }.mcCheck h.tid
    else d.writeAck h.tid (h.arg % 256)

/-- COMPL. -/
def execCompl (l : BitVec 6) (pkt : List Byte) : State → Out :=
  liftBus fun p d => (d.compl l.toNat pkt).hostGo p

/-! ### Multicast (R281, R282) -/

/-- Deliver a multicast packet locally: the last of a transfer returns a COMPL with OK when every packet was
written. -/
def Dev.mcLocal (d : Dev) (h : Hdr) (pkt : List Byte) : Dev :=
  let r := d.landPacket h pkt
  let k := mcKey h
  let worst := if look (fun _ => 0) r.2.mcIn k ≠ 0 then look (fun _ => 0) r.2.mcIn k else r.1
  if h.ackReq then ({ r.2 with mcIn := put (fun _ => 0) r.2.mcIn k 0 }).sendCompl h worst
  else { r.2 with mcIn := put (fun _ => 0) r.2.mcIn k worst }

/-- MCAST (R282): the packet is copied to every branch that can take it and delivered locally; where a branch cannot,
the ingress copy stays in the receive buffer until it has. -/
def Dev.mcastArrive (d : Dev) (l : Nat) (pkt : List Byte) : Dev :=
  let g := (hdrOf pkt).aux % 256
  let here := bitAt (d.reg (dieReg 6 (0xC02_0000 + 8 * g))) 48
  if d.mcWaits.any fun w => w.ingress == some l && w.pkt == pkt then d
  else d.arrive l 5 pkt (held := d.mcValid g && here && d.pktHeld l pkt false (landed pkt).length) fun h c =>
    if !c.mcValid g then c.violate l 4 pkt
    else
      let full := (d.mcLinks g).any fun k => !d.branchTakes pkt k
      let d1 := (if full then d.await l pkt else c).branchCopy (some l) pkt (d.mcLinks g)
      if here then d1.mcLocal h pkt else d1

/-- MCAST. -/
def execMcast (l : BitVec 6) (pkt : List Byte) : State → Out :=
  liftBus fun _ d => d.mcastArrive l.toNat pkt

/-- MC_COMPL_TIMEOUT (R283). -/
def execMcComplTimeout (tid : BitVec 16) : State → Out :=
  liftBus fun _ d =>
    match d.mcasts.find? fun x => x.tid == tid.toNat && x.lastSent with
    | some x => d.mcFinish x
    | none => d

/-! ### NAK (R287) -/

/-- The access with a tag is lost: an engine that waits for it faults with its DECODE cause. -/
def Dev.nakOwner (d : Dev) (h : Hdr) : Dev :=
  if h.typ = 7 then d.ctxFault h.tid 0x22 0
  else match d.mcasts.find? fun x => x.tid == h.tid with
  | some x =>
    let d1 := { d with mcasts := d.mcasts.filter fun y => y.tid != h.tid }.dropTid h.tid
    let m := ringMover x.die x.ch
    match (d1.movQueue m).flight.findIdx? fun i => i.acks.contains h.tid with
    | some k => d1.movFail m k 0x22 h.dest
    | none => d1
  | none =>
    if h.typ = 2 then d.readAnswer h.tid 5 [] else if h.typ = 1 ∨ h.typ = 6 then d.writeAck h.tid 5 else d

/-- NAK: logged against the JOB of the returned header; one of an MGMT packet goes no further. -/
def Dev.nakArrive (d : Dev) (l : Nat) (pkt : List Byte) : Dev :=
  d.arrive l 9 pkt fun h d =>
    let r := hdrOf (payloadOf pkt)
    let d1 := d.vlog l 8 (h.arg % 256) (slice (payloadOf pkt) 0 16)
    let cls := if r.mgmt then clsCorrected else clsContained
    let d2 := (d1.dieErr (linkDie l) (l / 2) 0x0C cls 0x21 { op := r.typ, tag := r.tid, addr := r.dest }).asJob r.job
    if r.mgmt then d2 else d2.nakOwner r

/-- NAK. -/
def execNak (l : BitVec 6) (pkt : List Byte) : State → Out := lift (·.nakArrive l.toNat pkt)

/-! ### PEG packets (16 R370) -/

/-- A counter of dropped PEG packets of the die that received one. -/
def pegCount (l o : Nat) : Nat := dieReg (linkDie l) (0x1100_0000 + o)

/-- The checks of R370 and the signal. -/
def Dev.pegTake (d : Dev) (l : Nat) (h : Hdr) : Dev :=
  let a := h.dest % 2 ^ 48
  let mine := h.job == d.job
  let ctxs := d.jobCtxs h.job
  let target := pegTargetOf a
  let fence := match target with
    | .fence c => ctxs.contains c
    | _ => false
  let gen := match ctxs with
    | c :: _ => if mine then d.gen else d.ctxGen c
    | [] => d.gen
  let gen' := match target with
    | .fence c => if !mine && ctxs.contains c then d.ctxGen c else gen
    | _ => gen
  if !h.mgmt && !mine && ctxs.isEmpty then d.bump (pegCount l 0x4100) 1
  else if !h.mgmt && !mine && !fence then d.bump (pegCount l 0x4100) 1
  else if !h.mgmt && h.gen != gen' then d.bump (pegCount l 0x4108) 1
  else if target = PegTarget.none then
    ((d.bump (pegCount l 0x4110) 1).dieErr (linkDie l) 0 0x0F clsContained 0x04 { addr := h.dest }).asJob h.job
  else d.signalHere (linkDie l) h.src a (h.arg % 2 ^ 32) 66

/-- PEG_PACKET (R370). -/
def execPegPacket (l : BitVec 6) (pkt : List Byte) : State → Out :=
  lift fun d => d.arrive l.toNat 8 pkt fun h d => d.pegTake l.toNat h

end Sys2Proof.Machine
end

