-- ==== Sys2Proof/Machine/SCore.lean ====
section
/-! DEFINITION. The S-cores (02 R36 to R40, R465; 16 R364): fetching an instruction from the instruction store,
its forms and illegal encodings, registers, and one meaning per instruction. -/

namespace Sys2Proof.Machine

/-! ### Instructions -/

/-- The fields of an instruction word: opcode [31:26], d [25:21], a [20:16], b [15:11], imm16. -/
structure Ins where
  op : Nat
  d : Nat
  a : Nat
  b : Nat
  imm : Nat
  deriving DecidableEq, Repr

/-- Cut a word into its fields. -/
def insOf (w : Nat) : Ins :=
  { op := field w 26 6, d := field w 21 5, a := field w 16 5, b := field w 11 5, imm := field w 0 16 }

/-- Form R: bits [10:0] are zero. -/
def formR (i : Ins) : Bool := i.imm % 2 ^ 11 == 0

/-- The illegal encodings of R36. -/
def Ins.legal (i : Ins) : Bool :=
  let op := i.op
  if 0x01 ≤ op ∧ op ≤ 0x0A then formR i
  else if 0x0B ≤ op ∧ op ≤ 0x0E then true
  else if 0x0F ≤ op ∧ op ≤ 0x11 then decide (i.imm < 64)
  else if op = 0x12 then i.a == 0
  else if 0x13 ≤ op ∧ op ≤ 0x15 then formR i
  else if 0x16 ≤ op ∧ op ≤ 0x1B then true
  else if op = 0x1C then i.a == 0
  else if op = 0x1D then formR i && i.b == 0
  else if 0x20 ≤ op ∧ op ≤ 0x27 then true
  else if op = 0x28 then decide (i.d < 10) && decide (i.a ≤ 28) && i.imm == 0
  else if op = 0x29 then decide (i.a < 10) && i.imm == 0
  else if op = 0x2A ∨ op = 0x2B then i.d == 0 && decide (i.imm < 64)
  else if op = 0x2C then i.a == 0 && decide (i.imm ≤ 5)
  else if op = 0x30 ∨ op = 0x3F then i.d == 0 && i.a == 0 && i.imm == 0
  else false

/-- imm16 sign-extended to 64 bits. -/
def Ins.simm (i : Ins) : Word := (BitVec.ofNat 16 i.imm).signExtend 64
/-- imm16 zero-extended to 64 bits. -/
def Ins.zimm (i : Ins) : Word := BitVec.ofNat 64 i.imm

/-- Register s_k of an S-core: s0 reads 0. -/
def Core.get (c : Core) (k : Nat) : Word := if k = 0 then 0 else look (fun _ => 0) c.regs k
/-- Write it: a write to s0 is discarded. -/
def Core.set (c : Core) (k : Nat) (v : Word) : Core :=
  if k = 0 then c else { c with regs := put (fun _ => 0) c.regs k v }

/-- Register s_k of S-core n. -/
def Dev.sreg (d : Dev) (t n k : Nat) : Word := (d.core t n).get k
/-- Write it. -/
def Dev.setSreg (d : Dev) (t n k : Nat) (v : Word) : Dev := d.setCore t n ((d.core t n).set k v)

/-- The word at the program counter of an S-core. -/
def Dev.fetchIns (d : Dev) (t n : Nat) : Ins := insOf (d.rdNat (storeAddr t n (4 * (d.core t n).pc)) 4)

/-- The S-core executes: it runs, waits for nothing, and the device has not stopped (R441). -/
def Dev.coreReady (d : Dev) (t n : Nat) : Bool :=
  !d.halted && (d.core t n).running && (d.core t n).wait == .none

/-- A fault of the instruction at the program counter. -/
def Dev.insFault (d : Dev) (t n cause op addr : Nat) : Dev := d.coreFault t n cause op addr (d.core t n).pc

/-- The instruction completes and the next one follows. -/
def Dev.coreNext (d : Dev) (t n : Nat) : Dev := d.corePc t n ((d.core t n).pc + 1)

/-- One instruction of an S-core that has the opcode of its row: a pending stop takes effect first; a program
counter outside the store and an illegal instruction are faults; any other opcode is left to its own row. -/
def Dev.execIns (d : Dev) (t n op : Nat) (act : Ins → Dev → Dev) : Dev :=
  let d := d.applyStop t n
  if !d.coreReady t n then d
  else if 4095 < (d.core t n).pc then d.coreFault t n 0x03 0 0 (d.core t n).pc
  else
    let i := d.fetchIns t n
    if !i.legal then d.insFault t n 0x01 i.op 0
    else if i.op ≠ op then d
    else act i d

/-- A row of an S-core. -/
def insRow (t : TentId) (n : CoreNo) (op : Nat) (act : Nat → Nat → Ins → Dev → Dev) : State → Out :=
  lift fun d => d.execIns t.toNat n.toNat op (act t.toNat n.toNat)

/-! ### Arithmetic -/

/-- d ← f(s(a), s(b)). -/
def opR (f : Word → Word → Word) (t n : Nat) (i : Ins) (d : Dev) : Dev :=
  (d.setSreg t n i.d (f (d.sreg t n i.a) (d.sreg t n i.b))).coreNext t n

/-- d ← f(s(a), imm). -/
def opI (f : Word → Word → Word) (imm : Ins → Word) (t n : Nat) (i : Ins) (d : Dev) : Dev :=
  (d.setSreg t n i.d (f (d.sreg t n i.a) (imm i))).coreNext t n

/-- 1 or 0 as a word. -/
def wordOf (b : Bool) : Word := if b then 1 else 0

/-- ADD. -/
def execAdd (t : TentId) (n : CoreNo) : State → Out := insRow t n 0x01 (opR fun x y => x + y)
/-- SUB. -/
def execSub (t : TentId) (n : CoreNo) : State → Out := insRow t n 0x02 (opR fun x y => x - y)
/-- AND. -/
def execAnd (t : TentId) (n : CoreNo) : State → Out := insRow t n 0x03 (opR fun x y => x &&& y)
/-- OR. -/
def execOr (t : TentId) (n : CoreNo) : State → Out := insRow t n 0x04 (opR fun x y => x ||| y)
/-- XOR. -/
def execXor (t : TentId) (n : CoreNo) : State → Out := insRow t n 0x05 (opR fun x y => x ^^^ y)
/-- SLL: by s(b) mod 64. -/
def execSll (t : TentId) (n : CoreNo) : State → Out := insRow t n 0x06 (opR fun x y => x <<< (y.toNat % 64))
/-- SRL. -/
def execSrl (t : TentId) (n : CoreNo) : State → Out := insRow t n 0x07 (opR fun x y => x >>> (y.toNat % 64))
/-- SRA. -/
def execSra (t : TentId) (n : CoreNo) : State → Out := insRow t n 0x08 (opR fun x y => x.sshiftRight (y.toNat % 64))
/-- SLT: signed. -/
def execSlt (t : TentId) (n : CoreNo) : State → Out := insRow t n 0x09 (opR fun x y => wordOf (x.slt y))
/-- SLTU: unsigned. -/
def execSltu (t : TentId) (n : CoreNo) : State → Out := insRow t n 0x0A (opR fun x y => wordOf (x.ult y))
/-- ADDI: imm16 sign-extended. -/
def execAddi (t : TentId) (n : CoreNo) : State → Out := insRow t n 0x0B (opI (fun x y => x + y) Ins.simm)
/-- ANDI: imm16 zero-extended. -/
def execAndi (t : TentId) (n : CoreNo) : State → Out := insRow t n 0x0C (opI (fun x y => x &&& y) Ins.zimm)
/-- ORI: imm16 zero-extended. -/
def execOri (t : TentId) (n : CoreNo) : State → Out := insRow t n 0x0D (opI (fun x y => x ||| y) Ins.zimm)
/-- XORI: imm16 zero-extended. -/
def execXori (t : TentId) (n : CoreNo) : State → Out := insRow t n 0x0E (opI (fun x y => x ^^^ y) Ins.zimm)
/-- SLLI: by imm16[5:0]. -/
def execSlli (t : TentId) (n : CoreNo) : State → Out := insRow t n 0x0F (opI (fun x y => x <<< y.toNat) Ins.zimm)
/-- SRLI. -/
def execSrli (t : TentId) (n : CoreNo) : State → Out := insRow t n 0x10 (opI (fun x y => x >>> y.toNat) Ins.zimm)
/-- SRAI. -/
def execSrai (t : TentId) (n : CoreNo) : State → Out := insRow t n 0x11 (opI (fun x y => x.sshiftRight y.toNat) Ins.zimm)

/-- d ← (d shifted left 16) OR imm16. -/
def opLih (t n : Nat) (i : Ins) (d : Dev) : Dev :=
  (d.setSreg t n i.d ((d.sreg t n i.d <<< 16) ||| i.zimm)).coreNext t n

/-- LIH. -/
def execLih (t : TentId) (n : CoreNo) : State → Out := insRow t n 0x12 opLih
/-- MUL: the low 64 bits of the product. -/
def execMul (t : TentId) (n : CoreNo) : State → Out := insRow t n 0x13 (opR fun x y => x * y)
/-- MULH: the high 64 bits of the signed product. -/
def execMulh (t : TentId) (n : CoreNo) : State → Out :=
  insRow t n 0x14 (opR fun x y => BitVec.ofInt 64 (x.toInt * y.toInt / 2 ^ 64))
/-- MULHU: the high 64 bits of the unsigned product. -/
def execMulhu (t : TentId) (n : CoreNo) : State → Out :=
  insRow t n 0x15 (opR fun x y => BitVec.ofNat 64 (x.toNat * y.toNat / 2 ^ 64))

/-! ### Branches and jumps -/

/-- The index an instruction's own index plus its signed imm16 gives; one below 0 as 64 bits. -/
def targetOf (pc : Nat) (i : Ins) : Nat := unsigned 64 ((pc : Int) + signed 16 i.imm)

/-- Compare s(d) with s(a) and branch. -/
def opBranch (f : Word → Word → Bool) (t n : Nat) (i : Ins) (d : Dev) : Dev :=
  let pc := (d.core t n).pc
  d.corePc t n (if f (d.sreg t n i.d) (d.sreg t n i.a) then targetOf pc i else pc + 1)

/-- BEQ. -/
def execBeq (t : TentId) (n : CoreNo) : State → Out := insRow t n 0x16 (opBranch fun x y => x == y)
/-- BNE. -/
def execBne (t : TentId) (n : CoreNo) : State → Out := insRow t n 0x17 (opBranch fun x y => x != y)
/-- BLT: signed. -/
def execBlt (t : TentId) (n : CoreNo) : State → Out := insRow t n 0x18 (opBranch fun x y => x.slt y)
/-- BGE: signed. -/
def execBge (t : TentId) (n : CoreNo) : State → Out := insRow t n 0x19 (opBranch fun x y => !x.slt y)
/-- BLTU: unsigned. -/
def execBltu (t : TentId) (n : CoreNo) : State → Out := insRow t n 0x1A (opBranch fun x y => x.ult y)
/-- BGEU: unsigned. -/
def execBgeu (t : TentId) (n : CoreNo) : State → Out := insRow t n 0x1B (opBranch fun x y => !x.ult y)

/-- d ← own index + 1; jump to own index plus imm16. -/
def opJal (t n : Nat) (i : Ins) (d : Dev) : Dev :=
  let pc := (d.core t n).pc
  (d.setSreg t n i.d (BitVec.ofNat 64 (pc + 1))).corePc t n (targetOf pc i)

/-- JAL. -/
def execJal (t : TentId) (n : CoreNo) : State → Out := insRow t n 0x1C opJal

/-- d ← own index + 1; jump to the index in s(a), as it was before. -/
def opJr (t n : Nat) (i : Ins) (d : Dev) : Dev :=
  let pc := (d.core t n).pc
  (d.setSreg t n i.d (BitVec.ofNat 64 (pc + 1))).corePc t n (d.sreg t n i.a).toNat

/-- JR. -/
def execJr (t : TentId) (n : CoreNo) : State → Out := insRow t n 0x1D opJr

/-! ### Loads and stores (R38) -/

/-- The writer an S-core is. -/
def Dev.coreWriter (d : Dev) (t n : Nat) : Writer := ⟨.score (BitVec.ofNat 14 t) (BitVec.ofNat 2 n), d.blkSecure t n⟩

/-- Bytes of a load or store opcode. -/
def accessSize (op : Nat) : Nat := 2 ^ (op % 4)

/-- s(a) + imm16. -/
def Dev.insAddr (d : Dev) (t n : Nat) (i : Ins) : Nat := (d.sreg t n i.a + i.simm).toNat

/-- The camp address of a place of this device lies in a tent's own windows. -/
def ownTent (t a : Nat) : Bool :=
  match regionOf a with
  | .scratch u _ => u == t
  | .vreg u _ => u == t
  | .tentR u _ => u == t
  | .istore u _ _ => u == t
  | _ => false

/-- A load returns: its value in register rd, or the fault of its status. -/
def Dev.loadReturn (d : Dev) (t n rd size addr : Nat) (r : Answer) : Dev :=
  if r.status = 0 then (d.setSreg t n rd (BitVec.ofNat 64 (leNat r.data))).coreNext t n
  else d.insFault t n (coreCause r.status) (0x20 + Nat.log2 size) addr

/-- A load: at once from the own tent; otherwise the S-core waits for its data. -/
def opLoad (p : Perm) (t n : Nat) (i : Ins) (d : Dev) : Dev :=
  let x := d.insAddr t n i
  let size := accessSize i.op
  if x % size ≠ 0 then d.insFault t n 0x02 i.op x
  else match d.place x with
  | .bad => d.insFault t n 0x04 i.op x
  | .here a =>
    if ownTent t a then
      if d.heldHere a size then d
      else
        let r := d.readHere p (d.coreWriter t n) a size
        r.2.loadReturn t n i.d size x r.1
    else d.setCore t n { d.core t n with wait := .load i.d size (BitVec.ofNat 64 x) none }
  | .remote _ _ =>
    let r := d.sendRead (.core t n) { secure := d.blkSecure t n, job := d.job } x size
    r.2.setCore t n { r.2.core t n with wait := .load i.d size (BitVec.ofNat 64 x) none }

/-- A posted store on its way. -/
def Dev.postStore (d : Dev) (t n x : Nat) (bs : List Byte) (tid : Option Nat) : Dev :=
  { d with
    nextStore := d.nextStore + 1
    stores := d.stores ++ [{ seq := d.nextStore, t := t, core := n, secure := d.blkSecure t n, addr := BitVec.ofNat 64 x,
                             data := bs, pc := (d.core t n).pc, tid := tid }] }

/-- A store: at once in the own tent; posted elsewhere. A 4-byte store to a peg target of another device leaves
as a PEG packet (R363). -/
def opStore (t n : Nat) (i : Ins) (d : Dev) : Dev :=
  let x := d.insAddr t n i
  let size := accessSize i.op
  let bs := leBytes size (d.sreg t n i.d).toNat
  if x % size ≠ 0 then d.insFault t n 0x02 i.op x
  else match d.place x with
  | .bad => d.insFault t n 0x04 i.op x
  | .here a =>
    if ownTent t a then
      if d.heldHere a size then d
      else
        let r := d.writeHere (d.coreWriter t n) a bs
        if r.1 = 0 then r.2.coreNext t n else r.2.insFault t n (coreCause r.1) i.op x
    else (d.postStore t n x bs none).coreNext t n
  | .remote _ a =>
    if size = 4 ∧ pegTargetOf a ≠ PegTarget.none then (d.sendPeg x (leNat bs)).coreNext t n
    else
      let r := d.sendWrite (.core t n) { secure := d.blkSecure t n, job := d.job } none x bs
      (r.2.postStore t n x bs (some r.1)).coreNext t n

/-- A row of a load. -/
def loadRow (t : TentId) (n : CoreNo) (op : Nat) : State → Out :=
  liftP fun p d => d.execIns t.toNat n.toNat op (opLoad p t.toNat n.toNat)

/-- A row of a store. -/
def storeRow (t : TentId) (n : CoreNo) (op : Nat) : State → Out :=
  liftBus fun _ d => d.execIns t.toNat n.toNat op (opStore t.toNat n.toNat)

/-- LD1. -/
def execLd1 (t : TentId) (n : CoreNo) : State → Out := loadRow t n 0x20
/-- LD2. -/
def execLd2 (t : TentId) (n : CoreNo) : State → Out := loadRow t n 0x21
/-- LD4. -/
def execLd4 (t : TentId) (n : CoreNo) : State → Out := loadRow t n 0x22
/-- LD8. -/
def execLd8 (t : TentId) (n : CoreNo) : State → Out := loadRow t n 0x23
/-- ST1. -/
def execSt1 (t : TentId) (n : CoreNo) : State → Out := storeRow t n 0x24
/-- ST2. -/
def execSt2 (t : TentId) (n : CoreNo) : State → Out := storeRow t n 0x25
/-- ST4. -/
def execSt4 (t : TentId) (n : CoreNo) : State → Out := storeRow t n 0x26
/-- ST8. -/
def execSt8 (t : TentId) (n : CoreNo) : State → Out := storeRow t n 0x27

/-- An earlier posted store of the S-core to some of the bytes has not landed: the load takes effect after it. -/
def Dev.storeAhead (d : Dev) (t n a size : Nat) : Bool :=
  d.stores.any fun s =>
    s.t == t && s.core == n &&
      match d.place s.addr.toNat with
      | .here b => decide (b < a + size) && decide (a < b + s.data.length)
      | _ => false

/-- LOAD_DATA_RETURN (R38): the answer another device gave, or the bytes at their place in this device. -/
def Dev.dataReturn (d : Dev) (p : Perm) (t n : Nat) : Dev :=
  let d := d.applyStop t n
  if d.halted then d
  else match (d.core t n).wait with
  | .load rd size addr (some r) => d.loadReturn t n rd size addr.toNat r
  | .load rd size addr none =>
    match d.place addr.toNat with
    | .here a =>
      if d.storeAhead t n a size || d.heldFor (d.coreWriter t n).who true a size then d
      else
        let r := d.readHere p (d.coreWriter t n) a size
        r.2.loadReturn t n rd size addr.toNat r.1
    | _ => d
  | _ => d

/-- LOAD_DATA_RETURN. -/
def execLoadDataReturn (t : TentId) (n : CoreNo) : State → Out :=
  liftP fun p d => d.dataReturn p t.toNat n.toNat

/-- A posted store reaches its place in this device: one with a status other than OK faults its S-core. -/
def Dev.landOne (d : Dev) (s : Store) : Dev :=
  match d.place s.addr.toNat with
  | .here a =>
    if d.heldFor (.score (BitVec.ofNat 14 s.t) (BitVec.ofNat 2 s.core)) false a s.data.length then d
    else
      let d0 := { d with stores := d.stores.filter fun x => x.seq != s.seq }
      let r := d0.writeHere ⟨.score (BitVec.ofNat 14 s.t) (BitVec.ofNat 2 s.core), s.secure⟩ a s.data
      if r.1 = 0 then r.2
      else r.2.coreFault s.t s.core (coreCause r.1) (0x24 + Nat.log2 s.data.length) s.addr.toNat s.pc
  | _ => { d with stores := d.stores.filter fun x => x.seq != s.seq }

/-- The oldest posted store to a place of this device lands. -/
def Dev.landOldest (d : Dev) : Dev :=
  match d.stores.find? fun s => s.tid.isNone with
  | some s => d.landOne s
  | none => d

/-! ### Queues (R37) -/

/-- The push check of a queue (R100 and its counterparts): the cause, 0 when the command is accepted. -/
def pushCause (q : Nat) (c : Cmd) : Nat :=
  if q < 6 then arrayPushCause c
  else match q with
  | 6 => forPushCause c
  | 7 => vecPushCause c
  | 8 => if 0xC ≤ cmdOp c ∧ cmdOp c ≤ 0xE then rtePushCause c else movPushCause c
  | _ => pckPushCause c

/-- Where a queue records a fault. -/
def queueErr (t q : Nat) : ErrPlace :=
  if q < 6 then aryErr t q
  else match q with
  | 6 => forErr t
  | 7 => vecErr t
  | _ => movErr t

/-- The block of TNT_BLK_WORLD that a queue's commands run in; none for the pack queue. -/
def queueBlock (q : Nat) : Option Nat :=
  if q < 6 then some 5 else if q = 6 then some 6 else if q = 7 then some 7 else if q = 8 then some 4 else none

/-- A push to a queue stalls: it is full, its block waits for or makes a change of world (R406), a change of
arrangement is pending over an array queue in use (R34), or a GEN change is being applied (R183, R209). -/
def Dev.pushStalls (d : Dev) (t q : Nat) (c : Cmd) : Bool :=
  d.queueFree t q == 0 ||
    (match (d.tent t).pendBlk, queueBlock q with
      | some v, some b => bitAt v b != d.blkSecure t b
      | _, _ => false) ||
    (decide (q < 6) && (d.tent t).pendArr.isSome && (d.arrays t).contains q) ||
    (q == 9 && d.packGenClr) || (q == 8 && decide (0xC ≤ cmdOp c) && decide (cmdOp c ≤ 0xE) && d.expertGenClr)

/-- Pushes to a queue are accepted and discarded: it has stopped on a fault. -/
def Dev.pushDiscards (d : Dev) (t q : Nat) : Bool :=
  (d.queue t q).stopped || (q == 8 && (d.tent t).xstopped) || (q == 9 && (d.tent t).stack.stopped)

/-- A push enters its queue, or fails its check (R37, R100). -/
def Dev.pushTake (d : Dev) (t q : Nat) (c : Cmd) : Dev :=
  let d := d.ungate t (4 + q)
  if d.pushDiscards t q then d
  else
    let cause := pushCause q c
    if cause = 0 then
      let d1 := d.modQueue t q fun x => { x with entries := x.entries ++ [c] }
      if q < 6 then d1.fetchTiles t q else d1
    else if q = 9 then d.pckRefuse t c cause
    else if q = 8 ∧ 0xC ≤ cmdOp c ∧ cmdOp c ≤ 0xE then d.rteRefuse t c
    else d.refusePush t q (queueErr t q) c cause

/-- The 32 bytes a QPUSH pushes: s(a) to s(a+3). -/
def Dev.pushed (d : Dev) (t n a : Nat) : Cmd :=
  BitVec.ofNat 256 (((List.range 4).map fun k => (d.sreg t n (a + k)).toNat * 2 ^ (64 * k)).sum)

/-- QPUSH: accepted at once, or the S-core stalls. -/
def opQpush (t n : Nat) (i : Ins) (d : Dev) : Dev :=
  let c := d.pushed t n i.a
  if d.pushStalls t i.d c && !d.pushDiscards t i.d then d.setCore t n { d.core t n with wait := .push i.d c }
  else (d.pushTake t i.d c).coreNext t n

/-- QPUSH (R37). -/
def execQpush (t : TentId) (n : CoreNo) : State → Out := insRow t n 0x28 opQpush

/-- QUEUE_PUSH_ACCEPT (R37): a stalled push enters. -/
def Dev.pushAccept (d : Dev) (t n : Nat) : Dev :=
  let d := d.applyStop t n
  if d.halted then d
  else match (d.core t n).wait with
  | .push q c =>
    if d.pushStalls t q c && !d.pushDiscards t q then d else (d.pushTake t q c).coreNext t n
  | _ => d

/-- QUEUE_PUSH_ACCEPT. -/
def execQueuePushAccept (t : TentId) (n : CoreNo) : State → Out := lift (·.pushAccept t.toNat n.toNat)

/-- QFREE: d ← free entries of the queue in the a field. -/
def opQfree (t n : Nat) (i : Ins) (d : Dev) : Dev :=
  (d.setSreg t n i.d (BitVec.ofNat 64 (d.queueFree t i.a))).coreNext t n

/-- QFREE (R36). -/
def execQfree (t : TentId) (n : CoreNo) : State → Out := insRow t n 0x29 opQfree

/-! ### Pegs, identity, order, stop -/

/-- PSIG: peg imm16[5:0] of the own tent is signalled by s(a)[31:0]. -/
def opPsig (t n : Nat) (i : Ins) (d : Dev) : Dev :=
  (d.pegSig t i.imm ((d.sreg t n i.a).toNat % 2 ^ 32)).coreNext t n

/-- PSIG (R363). -/
def execPsig (t : TentId) (n : CoreNo) : State → Out := insRow t n 0x2A opPsig

/-- PWAIT: a wait behind the older ones; n outside 1 to 65,535 is an illegal instruction (R364). -/
def opPwait (t n : Nat) (i : Ins) (d : Dev) : Dev :=
  let k := (d.sreg t n i.a).toNat
  if k = 0 ∨ 65535 < k then d.insFault t n 0x01 i.op 0
  else (d.setCore t n { d.core t n with wait := .pwait i.imm k }).modTent t fun x =>
    { x with pegWaits := x.pegWaits ++ [{ peg := i.imm, waiter := n, n := k }] }

/-- PWAIT (R364). -/
def execPwait (t : TentId) (n : CoreNo) : State → Out := insRow t n 0x2B opPwait

/-- Global time as an S-core reads it: at most 40 ns (32 counts) behind, never decreasing (R395). -/
def Dev.tentTime (d : Dev) (t n : Nat) : Nat × Dev :=
  let v := max (look (fun _ => 0) d.lastRead (4 * t + n)) (d.time.toNat - Config.timeLag d.fresh % 33)
  (v, { d with fresh := d.fresh + 1, lastRead := put (fun _ => 0) d.lastRead (4 * t + n) v })

/-- CSRR: item imm16. -/
def opCsrr (t n : Nat) (i : Ins) (d : Dev) : Dev :=
  let r : Word × Dev := match i.imm with
    | 0 => (BitVec.ofNat 64 t, d)
    | 1 => (BitVec.ofNat 64 d.devId, d)
    | 2 => (BitVec.ofNat 64 d.job, d)
    | 3 => (Config.fclkCount t d.time.toNat, d)
    | 4 =>
      let x := d.tentTime t n
      (BitVec.ofNat 64 x.1, x.2)
    | _ => (BitVec.ofNat 64 n, d)
  (r.2.setSreg t n i.d r.1).coreNext t n

/-- CSRR (R36). -/
def execCsrr (t : TentId) (n : CoreNo) : State → Out := insRow t n 0x2C opCsrr

/-- Every earlier store of an S-core has completed (R38). -/
def Dev.fenced (d : Dev) (t n : Nat) : Bool := !d.stores.any fun s => s.t == t && s.core == n

/-- FENCE: done at once, or the S-core waits. -/
def opFence (t n : Nat) (_ : Ins) (d : Dev) : Dev :=
  if d.fenced t n then d.coreNext t n else d.setCore t n { d.core t n with wait := .fence }

/-- FENCE (R38). -/
def execFence (t : TentId) (n : CoreNo) : State → Out := insRow t n 0x30 opFence

/-- FENCE_DONE (R38). -/
def Dev.fenceDone (d : Dev) (t n : Nat) : Dev :=
  let d := d.applyStop t n
  if !d.halted && (d.core t n).wait == .fence && d.fenced t n then d.coreNext t n else d

/-- FENCE_DONE. -/
def execFenceDone (t : TentId) (n : CoreNo) : State → Out := lift (·.fenceDone t.toNat n.toNat)

/-- HALT: the S-core stops behind it, DONE is set, and EVT raises a Lantern event (R465). -/
def opHalt (t n : Nat) (_ : Ins) (d : Dev) : Dev :=
  let pc := (d.core t n).pc + 1
  let d1 := (d.coreStop t n pc).setRegF (ctlAddr t n) 1 1 1
  if d.regF (ctlAddr t n) 3 1 = 1 then d1.raise (t / 4096) 0 0x0101 t (n + pc * 2 ^ 8) else d1

/-- HALT (R465). -/
def execHalt (t : TentId) (n : CoreNo) : State → Out := insRow t n 0x3F opHalt

end Sys2Proof.Machine
end

