-- ==== Sys2Proof/Machine/Response.lean ====
section
/-! DEFINITION. A memory or remote response at its requester (10 R224, Table 10.4; 12 R278): what a status other
than OK does there. -/

namespace Sys2Proof.Machine

/-- The cause an engine of a tent gives a status: uncorrectable 0x20, anything else refused 0x21. -/
def engCause (status : Nat) : Nat := if status = 1 then 0x20 else 0x21

/-- The oldest command in flight of an engine run-faults with a status other than OK. -/
def Dev.engineFail (d : Dev) (t q status : Nat) : Dev :=
  match (d.queue t q).flight[0]? with
  | none => d
  | some i =>
    if q < 6 then (d.aryFault t q 0 true).runFault t q (aryErr t q) i.cmd (engCause status) 0
    else if q = 7 then (d.vecUndef t i.cmd).runFault t q (vecErr t) i.cmd (engCause status) 0
    else if q = 9 then d.pckStop t (cmdOp i.cmd) (cmdTag i.cmd) (engCause status) 0
    else d.queueFail t q 0 status 0

/-- A status other than OK at a requester (R224): the engine faults with its own cause; a ring channel stops; the
host, the debug port, a Lantern and another device take the status itself. -/
def Dev.responseBad (d : Dev) (who : Master) (status : Nat) : Dev :=
  match who with
  | .score _ _ => d
  | .mover t => d.engineFail t.toNat 8 status
  | .arrayPort t a => d.engineFail t.toNat a.toNat status
  | .forage t => d.engineFail t.toNat 6 status
  | .vector t => d.engineFail t.toNat 7 status
  | .pack t => d.engineFail t.toNat 9 status
  | .ring die ch => d.movFail (.ring die ch) 0 (movCauses.of status) 0
  | .host => d
  | .debug => d
  | .lantern _ => d
  | .device _ => d

/-- The oldest posted store of an S-core to a place of this device. -/
def Dev.oldestStore (d : Dev) (t n : Nat) : Option Store :=
  d.stores.find? fun s => s.tid.isNone && s.t == t && s.core == n

/-- MEMORY_RESPONSE (R224, R278). The oldest store an S-core posted to a place of this device takes effect and its
response returns; for any other requester the response waiting for it is taken, and acts when it is not OK. A
load's data returns under LOAD_DATA_RETURN. -/
def Dev.memoryResponse (d : Dev) (who : Master) (status : Nat) : Dev :=
  let taken (d : Dev) : Dev :=
    match d.response with
    | some (m, r) =>
      if m = who ∧ r.status = status then
        let d1 := { d with response := none }
        if status = 0 then d1 else d1.responseBad who status
      else d
    | none => d
  match who with
  | .score t n =>
    match d.oldestStore t.toNat n.toNat with
    | some s => d.landOne s
    | none => taken d
  | _ => taken d

/-- MEMORY_RESPONSE. -/
def execMemoryResponse (who : Master) (status : BitVec 3) : State → Out :=
  liftBus fun _ d => d.memoryResponse who status.toNat

end Sys2Proof.Machine
end

