-- ==== Sys2Proof/Machine/Dispatch.lean ====
section
/-! DEFINITION. One arm per constructor of Instr: each calls the meaning of its row. -/

namespace Sys2Proof.Machine

/-- The effect of a command on everything but the queue. -/
def exec (i : Instr) (s : State) : Host.Outcome State Fault Refusal :=
  match i with
  | .registerWrite a => Sys2Proof.Machine.execRegisterWrite a s
  | .d2dFrameReceive pair dir num f crcOk => Sys2Proof.Machine.execD2dFrameReceive pair dir num f crcOk s
  | .ucieLaneParityFail pair l => Sys2Proof.Machine.execUcieLaneParityFail pair l s
  | .ucieRetrainDone pair m clean => Sys2Proof.Machine.execUcieRetrainDone pair m clean s
  | .linkUpTimeout port => Sys2Proof.Machine.execLinkUpTimeout port s
  | .shutdownTemperature part => Sys2Proof.Machine.execShutdownTemperature part s
  | .arrangeWrite t w v => Sys2Proof.Machine.execArrangeWrite t w v s
  | .arrangeTakeEffect t => Sys2Proof.Machine.execArrangeTakeEffect t s
  | .add t n => Sys2Proof.Machine.execAdd t n s
  | .sub t n => Sys2Proof.Machine.execSub t n s
  | .and t n => Sys2Proof.Machine.execAnd t n s
  | .or t n => Sys2Proof.Machine.execOr t n s
  | .xor t n => Sys2Proof.Machine.execXor t n s
  | .sll t n => Sys2Proof.Machine.execSll t n s
  | .srl t n => Sys2Proof.Machine.execSrl t n s
  | .sra t n => Sys2Proof.Machine.execSra t n s
  | .slt t n => Sys2Proof.Machine.execSlt t n s
  | .sltu t n => Sys2Proof.Machine.execSltu t n s
  | .addi t n => Sys2Proof.Machine.execAddi t n s
  | .andi t n => Sys2Proof.Machine.execAndi t n s
  | .ori t n => Sys2Proof.Machine.execOri t n s
  | .xori t n => Sys2Proof.Machine.execXori t n s
  | .slli t n => Sys2Proof.Machine.execSlli t n s
  | .srli t n => Sys2Proof.Machine.execSrli t n s
  | .srai t n => Sys2Proof.Machine.execSrai t n s
  | .lih t n => Sys2Proof.Machine.execLih t n s
  | .mul t n => Sys2Proof.Machine.execMul t n s
  | .mulh t n => Sys2Proof.Machine.execMulh t n s
  | .mulhu t n => Sys2Proof.Machine.execMulhu t n s
  | .beq t n => Sys2Proof.Machine.execBeq t n s
  | .bne t n => Sys2Proof.Machine.execBne t n s
  | .blt t n => Sys2Proof.Machine.execBlt t n s
  | .bge t n => Sys2Proof.Machine.execBge t n s
  | .bltu t n => Sys2Proof.Machine.execBltu t n s
  | .bgeu t n => Sys2Proof.Machine.execBgeu t n s
  | .jal t n => Sys2Proof.Machine.execJal t n s
  | .jr t n => Sys2Proof.Machine.execJr t n s
  | .ld1 t n => Sys2Proof.Machine.execLd1 t n s
  | .ld2 t n => Sys2Proof.Machine.execLd2 t n s
  | .ld4 t n => Sys2Proof.Machine.execLd4 t n s
  | .ld8 t n => Sys2Proof.Machine.execLd8 t n s
  | .st1 t n => Sys2Proof.Machine.execSt1 t n s
  | .st2 t n => Sys2Proof.Machine.execSt2 t n s
  | .st4 t n => Sys2Proof.Machine.execSt4 t n s
  | .st8 t n => Sys2Proof.Machine.execSt8 t n s
  | .qpush t n => Sys2Proof.Machine.execQpush t n s
  | .queuePushAccept t n => Sys2Proof.Machine.execQueuePushAccept t n s
  | .qfree t n => Sys2Proof.Machine.execQfree t n s
  | .psig t n => Sys2Proof.Machine.execPsig t n s
  | .pwait t n => Sys2Proof.Machine.execPwait t n s
  | .csrr t n => Sys2Proof.Machine.execCsrr t n s
  | .fence t n => Sys2Proof.Machine.execFence t n s
  | .fenceDone t n => Sys2Proof.Machine.execFenceDone t n s
  | .halt t n => Sys2Proof.Machine.execHalt t n s
  | .loadDataReturn t n => Sys2Proof.Machine.execLoadDataReturn t n s
  | .runStart t n w => Sys2Proof.Machine.execRunStart t n w s
  | .runStop t n w => Sys2Proof.Machine.execRunStop t n w s
  | .instrStoreWrite t n w off data => Sys2Proof.Machine.execInstrStoreWrite t n w off data s
  | .scratchpadAccess t req secure off op rivals find => Sys2Proof.Machine.execScratchpadAccess t req secure off op rivals find s
  | .meshPortAccess t a find => Sys2Proof.Machine.execMeshPortAccess t a find s
  | .segWorldWrite t w v => Sys2Proof.Machine.execSegWorldWrite t w v s
  | .segmentClearDone t => Sys2Proof.Machine.execSegmentClearDone t s
  | .gbankWrite t w v => Sys2Proof.Machine.execGbankWrite t w v s
  | .gbankTakeEffect t => Sys2Proof.Machine.execGbankTakeEffect t s
  | .transparentTestRow t fail => Sys2Proof.Machine.execTransparentTestRow t fail s
  | .pass t a => Sys2Proof.Machine.execPass t a s
  | .drain t a => Sys2Proof.Machine.execDrain t a s
  | .preload t a => Sys2Proof.Machine.execPreload t a s
  | .arrayClear t a => Sys2Proof.Machine.execArrayClear t a s
  | .arrayWait t a => Sys2Proof.Machine.execArrayWait t a s
  | .arrayNop t a => Sys2Proof.Machine.execArrayNop t a s
  | .arrayCommandComplete t a k => Sys2Proof.Machine.execArrayCommandComplete t a k s
  | .gather t => Sys2Proof.Machine.execGather t s
  | .scatter t => Sys2Proof.Machine.execScatter t s
  | .scatterAdd t => Sys2Proof.Machine.execScatterAdd t s
  | .merge t => Sys2Proof.Machine.execMerge t s
  | .intersect t => Sys2Proof.Machine.execIntersect t s
  | .convert t => Sys2Proof.Machine.execConvert t s
  | .spprod t => Sys2Proof.Machine.execSpprod t s
  | .feed t => Sys2Proof.Machine.execFeed t s
  | .forageNop t => Sys2Proof.Machine.execForageNop t s
  | .forageWait t => Sys2Proof.Machine.execForageWait t s
  | .forageCommandComplete t => Sys2Proof.Machine.execForageCommandComplete t s
  | .scoutNop t => Sys2Proof.Machine.execScoutNop t s
  | .select t => Sys2Proof.Machine.execSelect t s
  | .audit t => Sys2Proof.Machine.execAudit t s
  | .step t => Sys2Proof.Machine.execStep t s
  | .scoutCommandComplete t => Sys2Proof.Machine.execScoutCommandComplete t s
  | .vecLoad t => Sys2Proof.Machine.execVecLoad t s
  | .vecStore t find => Sys2Proof.Machine.execVecStore t find s
  | .recipe t find => Sys2Proof.Machine.execRecipe t find s
  | .vecReduce t find => Sys2Proof.Machine.execVecReduce t find s
  | .vecWait t => Sys2Proof.Machine.execVecWait t s
  | .vecNop t => Sys2Proof.Machine.execVecNop t s
  | .vecCommandComplete t k => Sys2Proof.Machine.execVecCommandComplete t k s
  | .push t => Sys2Proof.Machine.execPush t s
  | .pop t => Sys2Proof.Machine.execPop t s
  | .drop t => Sys2Proof.Machine.execDrop t s
  | .packNop t => Sys2Proof.Machine.execPackNop t s
  | .packWait t => Sys2Proof.Machine.execPackWait t s
  | .packCommandComplete t => Sys2Proof.Machine.execPackCommandComplete t s
  | .packSpill t => Sys2Proof.Machine.execPackSpill t s
  | .packRefill t => Sys2Proof.Machine.execPackRefill t s
  | .packGenClear => Sys2Proof.Machine.execPackGenClear s
  | .packConfigWrite die w off v => Sys2Proof.Machine.execPackConfigWrite die w off v s
  | .route t => Sys2Proof.Machine.execRoute t s
  | .dispatch t => Sys2Proof.Machine.execDispatch t s
  | .answer t => Sys2Proof.Machine.execAnswer t s
  | .dispatchPacketArrive p => Sys2Proof.Machine.execDispatchPacketArrive p s
  | .answerArrive p => Sys2Proof.Machine.execAnswerArrive p s
  | .expertGenClear => Sys2Proof.Machine.execExpertGenClear s
  | .memoryRead a rivals find => Sys2Proof.Machine.execMemoryRead a rivals find s
  | .memoryWrite a met => Sys2Proof.Machine.execMemoryWrite a met s
  | .memoryAccumulate a fmt met => Sys2Proof.Machine.execMemoryAccumulate a fmt met s
  | .memoryResponse who status => Sys2Proof.Machine.execMemoryResponse who status s
  | .rowRepairDone ctl => Sys2Proof.Machine.execRowRepairDone ctl s
  | .bankCopyDone ctl => Sys2Proof.Machine.execBankCopyDone ctl s
  | .scrub ctl find reports => Sys2Proof.Machine.execScrub ctl find reports s
  | .clearGo w => Sys2Proof.Machine.execClearGo w s
  | .clearDone => Sys2Proof.Machine.execClearDone s
  | .regionWrite w n which v => Sys2Proof.Machine.execRegionWrite w n which v s
  | .regionLowerDone n => Sys2Proof.Machine.execRegionLowerDone n s
  | .move m => Sys2Proof.Machine.execMove m s
  | .fill m => Sys2Proof.Machine.execFill m s
  | .moverNop m => Sys2Proof.Machine.execMoverNop m s
  | .moverWait t => Sys2Proof.Machine.execMoverWait t s
  | .moverCommandComplete m k => Sys2Proof.Machine.execMoverCommandComplete m k s
  | .tentAccumWrite a fmt => Sys2Proof.Machine.execTentAccumWrite a fmt s
  | .ringDoorbell d ch w v => Sys2Proof.Machine.execRingDoorbell d ch w v s
  | .ringCtlWrite d ch w base v => Sys2Proof.Machine.execRingCtlWrite d ch w base v s
  | .plotMovingReread m k => Sys2Proof.Machine.execPlotMovingReread m k s
  | .plotBusyTimeout m k => Sys2Proof.Machine.execPlotBusyTimeout m k s
  | .groupReceive l errs head slots => Sys2Proof.Machine.execGroupReceive l errs head slots s
  | .retrain port w => Sys2Proof.Machine.execRetrain port w s
  | .retrainDone l ok => Sys2Proof.Machine.execRetrainDone l ok s
  | .trailLaneFail l => Sys2Proof.Machine.execTrailLaneFail l s
  | .packetTransit l pkt => Sys2Proof.Machine.execPacketTransit l pkt s
  | .qrel port w => Sys2Proof.Machine.execQrel port w s
  | .trailWrite l pkt => Sys2Proof.Machine.execTrailWrite l pkt s
  | .trailRead l pkt => Sys2Proof.Machine.execTrailRead l pkt s
  | .rdata l pkt => Sys2Proof.Machine.execRdata l pkt s
  | .compl l pkt => Sys2Proof.Machine.execCompl l pkt s
  | .mcast l pkt => Sys2Proof.Machine.execMcast l pkt s
  | .nak l pkt => Sys2Proof.Machine.execNak l pkt s
  | .mcBranchAbandon l => Sys2Proof.Machine.execMcBranchAbandon l s
  | .mcComplTimeout tid => Sys2Proof.Machine.execMcComplTimeout tid s
  | .presence port f => Sys2Proof.Machine.execPresence port f s
  | .partnerAbsent port => Sys2Proof.Machine.execPartnerAbsent port s
  | .wake port f => Sys2Proof.Machine.execWake port f s
  | .violation port f => Sys2Proof.Machine.execViolation port f s
  | .sbRelease port f => Sys2Proof.Machine.execSbRelease port f s
  | .train port f => Sys2Proof.Machine.execTrain port f s
  | .recoverRsp port f => Sys2Proof.Machine.execRecoverRsp port f s
  | .hostBarAccess bar off op => Sys2Proof.Machine.execHostBarAccess bar off op s
  | .doorbell m => Sys2Proof.Machine.execDoorbell m s
  | .relayTimeout tid => Sys2Proof.Machine.execRelayTimeout tid s
  | .functionLevelReset => Sys2Proof.Machine.execFunctionLevelReset s
  | .perstNDeassert => Sys2Proof.Machine.execPerstNDeassert s
  | .pcieConfigRequest => Sys2Proof.Machine.execPcieConfigRequest s
  | .jobWrite w job => Sys2Proof.Machine.execJobWrite w job s
  | .cancel w => Sys2Proof.Machine.execCancel w s
  | .contextCancel => Sys2Proof.Machine.execContextCancel s
  | .reshard w => Sys2Proof.Machine.execReshard w s
  | .reshardComplete => Sys2Proof.Machine.execReshardComplete s
  | .reshardDrainTimeout => Sys2Proof.Machine.execReshardDrainTimeout s
  | .go c w => Sys2Proof.Machine.execGo c w s
  | .reducePacket l pkt => Sys2Proof.Machine.execReducePacket l pkt s
  | .openWaitTimeout k => Sys2Proof.Machine.execOpenWaitTimeout k s
  | .progressTimeout c => Sys2Proof.Machine.execProgressTimeout c s
  | .submit m => Sys2Proof.Machine.execSubmit m s
  | .hostCancel m => Sys2Proof.Machine.execHostCancel m s
  | .query m => Sys2Proof.Machine.execQuery m s
  | .loaded m => Sys2Proof.Machine.execLoaded m s
  | .hostRelease m => Sys2Proof.Machine.execHostRelease m s
  | .hold m => Sys2Proof.Machine.execHold m s
  | .jobStart => Sys2Proof.Machine.execJobStart s
  | .strikeComplete => Sys2Proof.Machine.execStrikeComplete s
  | .jobComplete job nonfinite => Sys2Proof.Machine.execJobComplete job nonfinite s
  | .deadlineExpiry job => Sys2Proof.Machine.execDeadlineExpiry job s
  | .containedReplay job => Sys2Proof.Machine.execContainedReplay job s
  | .deviceLoss dev => Sys2Proof.Machine.execDeviceLoss dev s
  | .pegSig w addr v => Sys2Proof.Machine.execPegSig w addr v s
  | .pegSet w addr v => Sys2Proof.Machine.execPegSet w addr v s
  | .pegWaitGrant t p => Sys2Proof.Machine.execPegWaitGrant t p s
  | .pegIoWaitArm iod p w v => Sys2Proof.Machine.execPegIoWaitArm iod p w v s
  | .pegWaitEvent t p => Sys2Proof.Machine.execPegWaitEvent t p s
  | .pegPacket l pkt => Sys2Proof.Machine.execPegPacket l pkt s
  | .gylArrive t w g v => Sys2Proof.Machine.execGylArrive t w g v s
  | .guylineArrivalSend t g => Sys2Proof.Machine.execGuylineArrivalSend t g s
  | .guylineCounterArrival k => Sys2Proof.Machine.execGuylineCounterArrival k s
  | .guylineUp g src gen => Sys2Proof.Machine.execGuylineUp g src gen s
  | .guylineDown g src gen => Sys2Proof.Machine.execGuylineDown g src gen s
  | .guylineRelease t g => Sys2Proof.Machine.execGuylineRelease t g s
  | .guylineForcedRelease => Sys2Proof.Machine.execGuylineForcedRelease s
  | .gylForce w v => Sys2Proof.Machine.execGylForce w v s
  | .gylCountWrite w addr v => Sys2Proof.Machine.execGylCountWrite w addr v s
  | .gylMaskWrite w addr v => Sys2Proof.Machine.execGylMaskWrite w addr v s
  | .wchCommit w base => Sys2Proof.Machine.execWchCommit w base s
  | .wchCommitApply base => Sys2Proof.Machine.execWchCommitApply base s
  | .wchModeWrite w base v => Sys2Proof.Machine.execWchModeWrite w base v s
  | .wchReqWrite w base r v => Sys2Proof.Machine.execWchReqWrite w base r v s
  | .quotaWindowReload base => Sys2Proof.Machine.execQuotaWindowReload base s
  | .eventGrant => Sys2Proof.Machine.execEventGrant s
  | .pllLockLoss die pll => Sys2Proof.Machine.execPllLockLoss die pll s
  | .refclkLoss => Sys2Proof.Machine.execRefclkLoss s
  | .refclkReturn => Sys2Proof.Machine.execRefclkReturn s
  | .droopTrip t => Sys2Proof.Machine.execDroopTrip t s
  | .stretchLimit t droop => Sys2Proof.Machine.execStretchLimit t droop s
  | .coldReset => Sys2Proof.Machine.execColdReset s
  | .lifecycle => Sys2Proof.Machine.execLifecycle s
  | .debug => Sys2Proof.Machine.execDebug s
  | .ksvn => Sys2Proof.Machine.execKsvn s
  | .cert => Sys2Proof.Machine.execCert s
  | .kitSlotSwap => Sys2Proof.Machine.execKitSlotSwap s
  | .blkWorldWrite t w v => Sys2Proof.Machine.execBlkWorldWrite t w v s
  | .blkWorldApply t blk => Sys2Proof.Machine.execBlkWorldApply t blk s
  | .tamper => Sys2Proof.Machine.execTamper s
  | .heartbeat src body => Sys2Proof.Machine.execHeartbeat src body s
  | .timeSync src body => Sys2Proof.Machine.execTimeSync src body s
  | .timeReply src body => Sys2Proof.Machine.execTimeReply src body s
  | .eventFwd src body => Sys2Proof.Machine.execEventFwd src body s
  | .cmd src body => Sys2Proof.Machine.execCmd src body s
  | .cmdRsp src body => Sys2Proof.Machine.execCmdRsp src body s
  | .rstNAssert => Sys2Proof.Machine.execRstNAssert s
  | .rstNRelease => Sys2Proof.Machine.execRstNRelease s
  | .lanResetWarm w => Sys2Proof.Machine.execLanResetWarm w s
  | .softReset w => Sys2Proof.Machine.execSoftReset w s
  | .tentReset w t => Sys2Proof.Machine.execTentReset w t s
  | .portReset port w => Sys2Proof.Machine.execPortReset port w s
  | .tentEvacuation t => Sys2Proof.Machine.execTentEvacuation t s
  | .evacQuiesceTimeout => Sys2Proof.Machine.execEvacQuiesceTimeout s
  | .bivEnter w => Sys2Proof.Machine.execBivEnter w s
  | .bivWake w => Sys2Proof.Machine.execBivWake w s
  | .wakeN => Sys2Proof.Machine.execWakeN s
  | .bivouacWakeDone => Sys2Proof.Machine.execBivouacWakeDone s
  | .handover w lanB => Sys2Proof.Machine.execHandover w lanB s
  | .recalibration part => Sys2Proof.Machine.execRecalibration part s
  | .watchdogFirst lanB core => Sys2Proof.Machine.execWatchdogFirst lanB core s
  | .watchdogSecond lanB core => Sys2Proof.Machine.execWatchdogSecond lanB core s
  | .heartbeatLoss => Sys2Proof.Machine.execHeartbeatLoss s
  | .recover port f => Sys2Proof.Machine.execRecover port f s
  | .recoverStatus port => Sys2Proof.Machine.execRecoverStatus port s
  | .resetLanternA port => Sys2Proof.Machine.execResetLanternA port s
  | .resetLanternB port => Sys2Proof.Machine.execResetLanternB port s
  | .recoverWarm port => Sys2Proof.Machine.execRecoverWarm port s
  | .recoverWake port => Sys2Proof.Machine.execRecoverWake port s
  | .recoverLost port => Sys2Proof.Machine.execRecoverLost port s
  | .recoverKit port => Sys2Proof.Machine.execRecoverKit port s
  | .kitLoadFrame port f => Sys2Proof.Machine.execKitLoadFrame port f s
  | .kitLoadTimeout => Sys2Proof.Machine.execKitLoadTimeout s
  | .standbyBasecampTakeover => Sys2Proof.Machine.execStandbyBasecampTakeover s
  | .compassReport x => Sys2Proof.Machine.execCompassReport x s
  | .tempWarn part above => Sys2Proof.Machine.execTempWarn part above s
  | .clockGate t blk => Sys2Proof.Machine.execClockGate t blk s
  | .memoryPowerDown ch => Sys2Proof.Machine.execMemoryPowerDown ch s
  | .laneIdleHalf l => Sys2Proof.Machine.execLaneIdleHalf l s
  | .smbusBlockRead n => Sys2Proof.Machine.execSmbusBlockRead n s
  | .alertClear => Sys2Proof.Machine.execAlertClear s
  | .powerDown => Sys2Proof.Machine.execPowerDown s
  | .inputUndervoltage => Sys2Proof.Machine.execInputUndervoltage s
  | .presenceSend port => Sys2Proof.Machine.execPresenceSend port s
  | .heartbeatSend => Sys2Proof.Machine.execHeartbeatSend s
  | .mailboxLenWrite m => Sys2Proof.Machine.execMailboxLenWrite m s
  | .perstNAssert => Sys2Proof.Machine.execPerstNAssert s
  | .pcieHotReset => Sys2Proof.Machine.execPcieHotReset s
  | .stretchHoldoffEnd t => Sys2Proof.Machine.execStretchHoldoffEnd t s
  | .lanternRecoveryTimeout => Sys2Proof.Machine.execLanternRecoveryTimeout s
  | .lostLanternReturn => Sys2Proof.Machine.execLostLanternReturn s
  | .routerFailure r => Sys2Proof.Machine.execRouterFailure r s

end Sys2Proof.Machine
end

