-- ==== Sys2Proof/Machine/Idle.lean ====
section
/-! DEFINITION. What happens of itself at a tick of ACLK, when no command waits: global time advances (17 R395), a
pending stop of an S-core takes effect (02 R465), each Trail link sends a group (12 R267), a record of the event ring
goes on (18 R419), the oldest posted store lands (02 R38), the camp-time offset moves toward its target (18 R421),
a running job may end its step and begin the next (15 R351, R361).
DESIGN CHOICE: one step of an idle block is one tick, in this order. -/

namespace Sys2Proof.Machine

/-- The stops that wait for the next cycle of their tent. -/
def Dev.applyStops (d : Dev) : Dev :=
  d.tents.foldl (fun (d : Dev) t =>
    t.2.cores.foldl (fun (d : Dev) c => if c.2.stopPending then d.applyStop t.1 c.1 else d) d) d

/-- Each link that is up sends one group; then branches take the multicast packets they have room for. -/
def Dev.sendGroups (d : Dev) : Dev :=
  ((List.range 48).foldl (fun (d : Dev) l => d.sendGroup l) d).takeCopies.noteSent

/-- LAN_CAMP_OFF. -/
def campOffAddr : Nat := dieReg 6 0x1600_0040

/-- The offset of camp time, signed. -/
def Dev.campOff (d : Dev) : Int := (BitVec.ofNat 64 (d.reg campOffAddr)).toInt

/-- The slew: at most 1 ns per 100 µs is one count of 1.25 ns in 100,000 counts. -/
def Dev.slew (d : Dev) : Dev :=
  if d.time.toNat % 100000 ≠ 0 then d
  else
    let o := d.campOff
    let o' := if o < d.campTarget then o + 1 else if d.campTarget < o then o - 1 else o
    d.setReg campOffAddr (BitVec.ofInt 64 o').toNat

/-- One tick of ACLK. Without power, or with the logic's power removed (R27), nothing counts; only a running module
does more than count. -/
def Dev.tick (d : Dev) (p : Perm) : Dev :=
  if d.power = .off ∨ d.power = .logicOff then d
  else
    let d1 := { d with time := d.time + 1 }
    if d1.power = .on then d1.applyStops.sendGroups.forwardOne.landOldest.slew.compareTallies.jobSteps p else d1

/-- The step of a block with no command waiting. -/
def idle : State → Out := liftBus fun p d => d.tick p

end Sys2Proof.Machine
end

