-- ==== Sys2Proof/Safety.lean ====
section
/-! DEFINITION. What claims about the block are said with: a command that runs and what it leaves, an S-core or an
engine that stands before a command, the life-cycle log's legal transitions, fuses that only gain bits. -/

namespace Sys2Proof.Machine

/-- The command runs and leaves the device d; the queue and what survives every reset are as before. -/
abbrev Yields (i : Instr) (s : State) (d : Dev) : Prop := exec i s = .next { s with dev := d }

/-- The command runs: a next state with the queue and everything that survives every reset as before, and a device
of which P holds. -/
def Does (i : Instr) (s : State) (P : Dev → Prop) : Prop := ∃ d, Yields i s d ∧ P d

/-- S-core n of tent t runs, has no stop pending, waits for nothing, and stands before a legal instruction of an
opcode within its store, on a device that has not stopped (R36, R441, R465). -/
def Dev.before (d : Dev) (t n op : Nat) : Bool :=
  !d.halted && (d.core t n).running && !(d.core t n).stopPending && (d.core t n).wait == .none &&
    decide ((d.core t n).pc ≤ 4095) && (d.fetchIns t n).legal && (d.fetchIns t n).op == op

/-- No error waits to show in a unit of [a, a + n): the code finds nothing there. -/
def Dev.quiet (d : Dev) (a n : Nat) : Bool :=
  d.flips.all fun p => !(decide (p.1 < a + n) && decide (a < p.1 + unitLen p.1))

/-- A request of n bytes at a gets there, and no error waits in what it reads. -/
def Dev.ready (d : Dev) (m : Master) (read : Bool) (a n : Nat) : Bool := !d.cutOff m read a n && d.quiet a n

/-- Only registers of arbiter instances differ. -/
def Dev.regsAs (e d : Dev) : Prop := ∀ a, wchBaseOf a = none → e.reg a = d.reg a

/-! ### The work of an engine -/

/-- What the work of a command leaves when it ends. -/
def workEnds (w : Eng Unit) (d : Dev) : Option EngS :=
  match w.run { dev := d } with
  | (.ok _, x) => some x
  | _ => none

/-- The cause, the place and the device when it faults. -/
def workFaults (w : Eng Unit) (d : Dev) : Option (Nat × Nat × Dev) :=
  match w.run { dev := d } with
  | (.error (.fault cause addr), x) => some (cause, addr, x.dev)
  | _ => none

/-- A read of n bytes of the scratchpad through a port is answered with its bytes: in range, no segment refused or
held, no uncorrectable word (R41 to R44), and at a port that is not ordered against the writers no word of an
unfinished write (R103). -/
def Dev.padReads (d : Dev) (p : PadPort) (o n : Nat) : Bool :=
  decide (o + n ≤ padLen) && !d.touchesClearing p.t o n && (p.secure || !d.touchesSecure p.t o n) &&
    d.quiet (tentMem p.t o) n && !d.badIn (tentMem p.t o) n &&
    (decide (p.req < 4) || decide (12 < p.req) || (d.oldWords (tentMem p.t o) (tentMem p.t o + n)).isEmpty)

/-- A write of n bytes through a port lands: in range, no segment refused or held, no uncorrectable word in part. -/
def Dev.padWrites (d : Dev) (p : PadPort) (o n : Nat) : Bool :=
  decide (o + n ≤ padLen) && !d.touchesClearing p.t o n && (p.secure || !d.touchesSecure p.t o n) &&
    d.quiet (tentMem p.t o) n && (d.blockedBy (tentMem p.t o) n).isEmpty

/-- Lanes of the entries a DRAIN names: the array's width for an empty one. -/
def Dev.entryLanes (d : Dev) (t a : Nat) (c : Cmd) : List Nat :=
  (List.range (accRange c).2).map fun i =>
    let e := (d.tent t).entry a ((accRange c).1 + i)
    if e.empty then d.arrayWidth t a else e.lanes.length

/-- Bands of a pass's moving operand. -/
def passBands (w : Nat) (p : PassCmd) : Nat :=
  if p.axis then (if cellMode p.fs p.fm = some .pair then (w + 15) / 16 else (w + 7) / 8) else 1

/-- A pass reads its scales: MX operands on the transposed axis, or where it closes its blocks. -/
def passScaled (p : PassCmd) : Bool := isMx p.fs && isMx p.fm && (p.axis || p.close)

/-- Bytes of a moving vector's scales. -/
def passScaleLen (w : Nat) (p : PassCmd) : Nat := if p.axis then (w + 31) / 32 else 1

/-- The tile buffer of array a holds no image for the next PASS (R88). -/
def Dev.noTile (d : Dev) (t a : Nat) : Bool := (d.queue t a).tiles.isEmpty

/-- The image a PASS takes: the tile buffer's, unless its read faulted, else as it lies (R88). -/
def Dev.imageOf (d : Dev) (t a w : Nat) (p : PassCmd) : Option (List Byte) :=
  match (d.queue t a).tiles.head? with
  | none => some (d.rd (tentMem t p.sOff) (8 * w * laneBytes p.fs))
  | some x => if x.fault = none then some x.bytes else none

/-- The scratchpad ranges a pass reads when it issues (R84, R85, R88, R92). -/
def passSpans (noTile : Bool) (w : Nat) (p : PassCmd) : List (Nat × Nat) :=
  (if noTile then [(p.sOff, 8 * w * laneBytes p.fs)] else []) ++
    ((List.range (passBands w p)).map fun b => (p.mOff + b * p.mBstr, 8 * laneBytes p.fm * (p.count + 7))) ++
    if passScaled p then
      (p.sscOff, w) :: (List.range p.count).map fun j => (p.mscOff + j * p.mscStr, passScaleLen w p)
    else []

/-- What a pass with that image reads. -/
def Dev.passData (d : Dev) (t w : Nat) (image : List Byte) (p : PassCmd) : PassData :=
  { image := image
    bands := (List.range (passBands w p)).map fun b =>
      d.rd (tentMem t (p.mOff + b * p.mBstr)) (8 * laneBytes p.fm * (p.count + 7))
    ssc := if passScaled p then d.rd (tentMem t p.sscOff) w else []
    msc := if passScaled p then
      (List.range p.count).map fun j => d.rd (tentMem t (p.mscOff + j * p.mscStr)) (passScaleLen w p) else [] }
/-! ### Fuses (R408, R409) -/

/-- A life-cycle log is a path along Table 18.9 from a state. -/
def lcPath : Nat → List Nat → Bool
  | _, [] => true
  | x, y :: ys => (transition x y).isSome && lcPath y ys

/-- What Tables 18.3 and 18.9 allow of the fuses: the log is a path from MANUFACTURE of at most 16 entries, each entry
into FIELD has burned one of four OWNER slots, and each into RETURN has revoked one. -/
def Fuses.legal (f : Fuses) : Bool :=
  lcPath 0 f.lcLog && decide (f.lcLog.length ≤ 16) && decide (f.owners.length = f.lcLog.count 2) &&
    decide (f.owners.length ≤ 4) && decide (f.revoked.length = f.lcLog.count 3)

/-- Fuses only gain bits: what was burned stays, and what is fixed at manufacture does not change. -/
def Fuses.grows (f g : Fuses) : Prop :=
  g.uid = f.uid ∧ g.kekSeed = f.kekSeed ∧ g.vroot = f.vroot ∧ f.owners <+: g.owners ∧ f.revoked <+: g.revoked ∧
    f.lcLog <+: g.lcLog ∧ f.ksvn ≤ g.ksvn

end Sys2Proof.Machine
end

