-- ==== Sys2Proof/Certificates/Slice0/Obligations.lean ====
section
/-! DEFINITION. The statements about the block, one definition each, in the order of OBLIGATIONS.json. -/

open Sys2Proof Sys2Proof.Machine

/-! ### The block -/

/-- Whatever the command, it leaves the queue of waiting commands as it finds it. -/
def Obligations.CommandsKeepTheQueue : Prop :=
  ∀ (c : Instr) (s s' : State), exec c s = .next s' → s'.pending = s.pending

/-! ### S-cores (R36 to R40, R465) -/

/-- Table 2.5: the instructions that write s(d) from s(a) and s(b), their opcodes and results. -/
def Sys2Proof.scoreRegisterRows : List ((TentId → CoreNo → Instr) × Nat × (Word → Word → Word)) :=
  [(.add, 0x01, fun x y => x + y), (.sub, 0x02, fun x y => x - y), (.and, 0x03, fun x y => x &&& y),
    (.or, 0x04, fun x y => x ||| y), (.xor, 0x05, fun x y => x ^^^ y),
    (.sll, 0x06, fun x y => x <<< (y.toNat % 64)), (.srl, 0x07, fun x y => x >>> (y.toNat % 64)),
    (.sra, 0x08, fun x y => x.sshiftRight (y.toNat % 64)), (.slt, 0x09, fun x y => if x.toInt < y.toInt then 1 else 0),
    (.sltu, 0x0A, fun x y => if x.toNat < y.toNat then 1 else 0), (.mul, 0x13, fun x y => x * y),
    (.mulh, 0x14, fun x y => BitVec.ofInt 64 (x.toInt * y.toInt / 2 ^ 64)),
    (.mulhu, 0x15, fun x y => BitVec.ofNat 64 (x.toNat * y.toNat / 2 ^ 64))]

/-- Table 2.5: the instructions that write s(d) from s(a) and imm16, their opcodes and results. -/
def Sys2Proof.scoreImmediateRows : List ((TentId → CoreNo → Instr) × Nat × (Word → BitVec 16 → Word)) :=
  [(.addi, 0x0B, fun x m => x + m.signExtend 64), (.andi, 0x0C, fun x m => x &&& m.zeroExtend 64),
    (.ori, 0x0D, fun x m => x ||| m.zeroExtend 64), (.xori, 0x0E, fun x m => x ^^^ m.zeroExtend 64),
    (.slli, 0x0F, fun x m => x <<< m.toNat), (.srli, 0x10, fun x m => x >>> m.toNat),
    (.srai, 0x11, fun x m => x.sshiftRight m.toNat)]

/-- Register s0 reads zero and a write to it is discarded; a write to any other register is read back and leaves the
others (R36). An S-core before a register-form instruction writes the result of Table 2.5 to s(d), and the next
instruction follows; nothing else of the device changes (a last instruction of the store runs into the fault of R39).
An S-core before an immediate-form instruction writes the result of Table 2.5 to s(d); LIH shifts s(d) left by 16 and
puts imm16 below; the next instruction follows. -/
def Obligations.ScoreArithmetic : Prop :=
  ((∀ c : Core, c.get 0 = 0) ∧ (∀ (c : Core) (v : Word), c.set 0 v = c) ∧
     (∀ (c : Core) (k : Nat) (v : Word), k ≠ 0 → (c.set k v).get k = v) ∧
     ∀ (c : Core) (k j : Nat) (v : Word), j ≠ k → (c.set k v).get j = c.get j) ∧
  (∀ r ∈ scoreRegisterRows, ∀ (s : State) (t : TentId) (n : CoreNo), s.dev.before t.toNat n.toNat r.2.1 = true →
     let d := s.dev
     let i := d.fetchIns t.toNat n.toNat
     Yields (r.1 t n) s
       ((d.setSreg t.toNat n.toNat i.d (r.2.2 (d.sreg t.toNat n.toNat i.a) (d.sreg t.toNat n.toNat i.b))).corePc
         t.toNat n.toNat ((d.core t.toNat n.toNat).pc + 1))) ∧
  ((∀ r ∈ scoreImmediateRows, ∀ (s : State) (t : TentId) (n : CoreNo), s.dev.before t.toNat n.toNat r.2.1 = true →
     let d := s.dev
     let i := d.fetchIns t.toNat n.toNat
     Yields (r.1 t n) s
       ((d.setSreg t.toNat n.toNat i.d (r.2.2 (d.sreg t.toNat n.toNat i.a) (BitVec.ofNat 16 i.imm))).corePc
         t.toNat n.toNat ((d.core t.toNat n.toNat).pc + 1))) ∧
     ∀ (s : State) (t : TentId) (n : CoreNo), s.dev.before t.toNat n.toNat 0x12 = true →
       let d := s.dev
       let i := d.fetchIns t.toNat n.toNat
       Yields (.lih t n) s
         ((d.setSreg t.toNat n.toNat i.d ((d.sreg t.toNat n.toNat i.d <<< 16) ||| BitVec.ofNat 64 i.imm)).corePc
           t.toNat n.toNat ((d.core t.toNat n.toNat).pc + 1)))

/-- Table 2.5: the branches, their opcodes and the condition over s(d) and s(a) on which each is taken. -/
def Sys2Proof.scoreBranchRows : List ((TentId → CoreNo → Instr) × Nat × (Word → Word → Bool)) :=
  [(.beq, 0x16, fun x y => decide (x = y)), (.bne, 0x17, fun x y => decide (x ≠ y)),
    (.blt, 0x18, fun x y => decide (x.toInt < y.toInt)), (.bge, 0x19, fun x y => decide (y.toInt ≤ x.toInt)),
    (.bltu, 0x1A, fun x y => decide (x.toNat < y.toNat)), (.bgeu, 0x1B, fun x y => decide (y.toNat ≤ x.toNat))]

/-- A branch goes on at the branch's own index plus signed imm16 when its condition holds, else at the next index;
it changes nothing else. JAL and JR write own index + 1 to s(d) and jump: to own index plus signed imm16, or to the
index s(a) held before the write. -/
def Obligations.ScoreBranchesAndJumps : Prop :=
  (∀ r ∈ scoreBranchRows, ∀ (s : State) (t : TentId) (n : CoreNo), s.dev.before t.toNat n.toNat r.2.1 = true →
    let d := s.dev
    let i := d.fetchIns t.toNat n.toNat
    let pc := (d.core t.toNat n.toNat).pc
    Yields (r.1 t n) s
      (d.corePc t.toNat n.toNat
        (if r.2.2 (d.sreg t.toNat n.toNat i.d) (d.sreg t.toNat n.toNat i.a) then
          unsigned 64 ((pc : Int) + (BitVec.ofNat 16 i.imm).toInt) else pc + 1))) ∧
    (∀ (s : State) (t : TentId) (n : CoreNo), s.dev.before t.toNat n.toNat 0x1C = true →
      let d := s.dev
      let i := d.fetchIns t.toNat n.toNat
      let pc := (d.core t.toNat n.toNat).pc
      Yields (.jal t n) s
        ((d.setSreg t.toNat n.toNat i.d (BitVec.ofNat 64 (pc + 1))).corePc t.toNat n.toNat
          (unsigned 64 ((pc : Int) + (BitVec.ofNat 16 i.imm).toInt)))) ∧
    ∀ (s : State) (t : TentId) (n : CoreNo), s.dev.before t.toNat n.toNat 0x1D = true →
      let d := s.dev
      let i := d.fetchIns t.toNat n.toNat
      Yields (.jr t n) s
        ((d.setSreg t.toNat n.toNat i.d (BitVec.ofNat 64 ((d.core t.toNat n.toNat).pc + 1))).corePc t.toNat n.toNat
          (d.sreg t.toNat n.toNat i.a).toNat)

/-- The opcodes and widths of the loads. -/
def Sys2Proof.scoreLoadRows : List ((TentId → CoreNo → Instr) × Nat × Nat) :=
  [(.ld1, 0x20, 1), (.ld2, 0x21, 2), (.ld4, 0x22, 4), (.ld8, 0x23, 8)]

/-- The opcodes and widths of the stores. -/
def Sys2Proof.scoreStoreRows : List ((TentId → CoreNo → Instr) × Nat × Nat) :=
  [(.st1, 0x24, 1), (.st2, 0x25, 2), (.st4, 0x26, 4), (.st8, 0x27, 8)]

/-- A store of the low bytes of s(d) to an aligned address (s(a) + signed imm16): in the own scratchpad, with no segment refused or held and no uncorrectable word in the way, the bytes are written at
once; outside the own tent it is posted, with the next store number; the next instruction follows. A misaligned
address is a fault 0x02, one that decodes to nothing a fault 0x04. -/
def Obligations.ScoreStores : Prop :=
  ∀ r ∈ scoreStoreRows, ∀ (s : State) (t : TentId) (n : CoreNo), s.dev.before t.toNat n.toNat r.2.1 = true →
    let d := s.dev
    let i := d.fetchIns t.toNat n.toNat
    let pc := (d.core t.toNat n.toNat).pc
    let x := (d.sreg t.toNat n.toNat i.a + (BitVec.ofNat 16 i.imm).signExtend 64).toNat
    let bs := leBytes r.2.2 (d.sreg t.toNat n.toNat i.d).toNat
    (x % r.2.2 ≠ 0 → Yields (r.1 t n) s (d.coreFault t.toNat n.toNat 0x02 r.2.1 x pc)) ∧
    (x % r.2.2 = 0 → d.place x = .bad → Yields (r.1 t n) s (d.coreFault t.toNat n.toNat 0x04 r.2.1 x pc)) ∧
    (∀ a, x % r.2.2 = 0 → d.place x = .here a → ownTent t.toNat a = false →
      Yields (r.1 t n) s (({ d with
        nextStore := d.nextStore + 1
        stores := d.stores ++ [{ seq := d.nextStore, t := t.toNat, core := n.toNat, addr := BitVec.ofNat 64 x,
                                 secure := d.blkSecure t.toNat n.toNat, data := bs, pc := pc }] } : Dev).corePc
          t.toNat n.toNat (pc + 1))) ∧
    ∀ o, x % r.2.2 = 0 → d.place x = .here (tentMem t.toNat o) → o + r.2.2 ≤ 0x1_8000 →
      (d.blkSecure t.toNat n.toNat = true ∨ d.touchesSecure t.toNat o r.2.2 = false) →
      d.touchesClearing t.toNat o r.2.2 = false → d.quiet (tentMem t.toNat o) r.2.2 = true →
      d.blockedBy (tentMem t.toNat o) r.2.2 = [] →
      Yields (r.1 t n) s ((d.wrB (tentMem t.toNat o) bs).corePc t.toNat n.toNat (pc + 1))

/-- A load of an aligned address (s(a) + signed imm16): from the own tent, where no held segment is touched and the
access is answered OK, its bytes go zero-extended to s(d) and the next instruction follows; from elsewhere in this
device the S-core waits for LOAD_DATA_RETURN. A misaligned address is a fault 0x02, one that decodes to nothing a
fault 0x04, and an answer with another status the fault of that status. An S-core that waits for a load takes its
answer: data to s(d), or the fault of the status. FENCE completes at once when no store of the S-core is on its way,
and otherwise waits; FENCE_DONE ends that wait once they have all landed. -/
def Obligations.ScoreLoads : Prop :=
  (∀ r ∈ scoreLoadRows, ∀ (s : State) (t : TentId) (n : CoreNo), s.dev.before t.toNat n.toNat r.2.1 = true →
     let d := s.dev
     let i := d.fetchIns t.toNat n.toNat
     let x := (d.sreg t.toNat n.toNat i.a + (BitVec.ofNat 16 i.imm).signExtend 64).toNat
     (x % r.2.2 ≠ 0 → Yields (r.1 t n) s (d.coreFault t.toNat n.toNat 0x02 r.2.1 x (d.core t.toNat n.toNat).pc)) ∧
     (x % r.2.2 = 0 → d.place x = .bad →
       Yields (r.1 t n) s (d.coreFault t.toNat n.toNat 0x04 r.2.1 x (d.core t.toNat n.toNat).pc)) ∧
     ∀ a, x % r.2.2 = 0 → d.place x = .here a →
       (ownTent t.toNat a = false →
         Yields (r.1 t n) s (d.setCore t.toNat n.toNat
           { d.core t.toNat n.toNat with wait := .load i.d r.2.2 (BitVec.ofNat 64 x) none })) ∧
       (ownTent t.toNat a = true → d.heldHere a r.2.2 = false →
         let q := d.readHere s.perm (d.coreWriter t.toNat n.toNat) a r.2.2
         (q.1.status = 0 →
           Yields (r.1 t n) s
             ((q.2.setSreg t.toNat n.toNat i.d (BitVec.ofNat 64 (leNat q.1.data))).corePc t.toNat n.toNat
               ((q.2.core t.toNat n.toNat).pc + 1))) ∧
         (q.1.status ≠ 0 →
           Yields (r.1 t n) s
             (q.2.coreFault t.toNat n.toNat (coreCause q.1.status) r.2.1 x (q.2.core t.toNat n.toNat).pc)))) ∧
  ((∀ (s : State) (t : TentId) (n : CoreNo) (rd size : Nat) (addr : Word) (a : Answer),
     let d := s.dev
     d.halted = false → (d.core t.toNat n.toNat).stopPending = false →
     (d.core t.toNat n.toNat).wait = .load rd size addr (some a) →
     (a.status = 0 → Yields (.loadDataReturn t n) s
       ((d.setSreg t.toNat n.toNat rd (BitVec.ofNat 64 (leNat a.data))).corePc t.toNat n.toNat
         ((d.core t.toNat n.toNat).pc + 1))) ∧
     (a.status ≠ 0 → Yields (.loadDataReturn t n) s
       (d.coreFault t.toNat n.toNat (coreCause a.status) (0x20 + Nat.log2 size) addr.toNat
         (d.core t.toNat n.toNat).pc))) ∧
     (∀ (s : State) (t : TentId) (n : CoreNo), s.dev.before t.toNat n.toNat 0x30 = true →
       let d := s.dev
       ((∀ x ∈ d.stores, ¬(x.t = t.toNat ∧ x.core = n.toNat)) →
         Yields (.fence t n) s (d.corePc t.toNat n.toNat ((d.core t.toNat n.toNat).pc + 1))) ∧
       ((∃ x ∈ d.stores, x.t = t.toNat ∧ x.core = n.toNat) →
         Yields (.fence t n) s (d.setCore t.toNat n.toNat { d.core t.toNat n.toNat with wait := .fence }))) ∧
     ∀ (s : State) (t : TentId) (n : CoreNo),
       let d := s.dev
       d.halted = false → (d.core t.toNat n.toNat).stopPending = false → (d.core t.toNat n.toNat).wait = .fence →
       (∀ x ∈ d.stores, ¬(x.t = t.toNat ∧ x.core = n.toNat)) →
       Yields (.fenceDone t n) s (d.corePc t.toNat n.toNat ((d.core t.toNat n.toNat).pc + 1)))

/-- QPUSH takes the 32 bytes of s(a) to s(a+3): where the push does not stall, and the command passes the queue's
check, it enters at the tail of queue d and wakes a gated engine; where it stalls the S-core waits, and
QUEUE_PUSH_ACCEPT lets it in later. QFREE writes the free entries of queue a to s(d). PSIG adds s(a)[31:0] to peg
imm16 of the own tent; PWAIT of n from 1 to 65,535 makes the S-core wait behind the older waits of the peg, and any
other n is an illegal instruction; CSRR writes its item to s(d) (the copy of global time is at most 32 counts behind
and the cycle count is a free value); HALT stops the S-core behind it with DONE set, TNT_SCORE_PC_n at the next index,
and an event where EVT asks for one. -/
def Obligations.ScoreQueuesPegsHalt : Prop :=
  ((∀ (s : State) (t : TentId) (n : CoreNo), s.dev.before t.toNat n.toNat 0x28 = true →
     let d := s.dev
     let i := d.fetchIns t.toNat n.toNat
     let c := d.pushed t.toNat n.toNat i.a
     (d.pushStalls t.toNat i.d c = false → d.pushDiscards t.toNat i.d = false → pushCause i.d c = 0 →
       Yields (.qpush t n) s
         (((d.ungate t.toNat (4 + i.d)).modQueue t.toNat i.d fun x => { x with entries := x.entries ++ [c] }).corePc
           t.toNat n.toNat ((d.core t.toNat n.toNat).pc + 1))) ∧
     (d.pushStalls t.toNat i.d c = true → d.pushDiscards t.toNat i.d = false →
       Yields (.qpush t n) s
         (d.setCore t.toNat n.toNat { d.core t.toNat n.toNat with wait := .push i.d c }))) ∧
     (∀ (s : State) (t : TentId) (n : CoreNo) (q : Nat) (c : Cmd),
       let d := s.dev
       d.halted = false → (d.core t.toNat n.toNat).stopPending = false →
       (d.core t.toNat n.toNat).wait = .push q c → d.pushStalls t.toNat q c = false →
       d.pushDiscards t.toNat q = false → pushCause q c = 0 →
       Yields (.queuePushAccept t n) s
         (((d.ungate t.toNat (4 + q)).modQueue t.toNat q fun x => { x with entries := x.entries ++ [c] }).corePc
           t.toNat n.toNat ((d.core t.toNat n.toNat).pc + 1))) ∧
     ∀ (s : State) (t : TentId) (n : CoreNo), s.dev.before t.toNat n.toNat 0x29 = true →
       let d := s.dev
       let i := d.fetchIns t.toNat n.toNat
       Yields (.qfree t n) s
         ((d.setSreg t.toNat n.toNat i.d (BitVec.ofNat 64 (d.queueFree t.toNat i.a))).corePc t.toNat n.toNat
           ((d.core t.toNat n.toNat).pc + 1))) ∧
  ((∀ (s : State) (t : TentId) (n : CoreNo), s.dev.before t.toNat n.toNat 0x2A = true →
     let d := s.dev
     let i := d.fetchIns t.toNat n.toNat
     Yields (.psig t n) s
       ((d.pegSig t.toNat i.imm ((d.sreg t.toNat n.toNat i.a).toNat % 2 ^ 32)).corePc t.toNat n.toNat
         ((d.core t.toNat n.toNat).pc + 1))) ∧
     (∀ (s : State) (t : TentId) (n : CoreNo), s.dev.before t.toNat n.toNat 0x2B = true →
       let d := s.dev
       let i := d.fetchIns t.toNat n.toNat
       let k := (d.sreg t.toNat n.toNat i.a).toNat
       (1 ≤ k → k ≤ 65535 →
         Yields (.pwait t n) s
           ((d.setCore t.toNat n.toNat { d.core t.toNat n.toNat with wait := .pwait i.imm k }).modTent t.toNat fun x =>
             { x with pegWaits := x.pegWaits ++ [{ peg := i.imm, waiter := n.toNat, n := k }] })) ∧
       ((k = 0 ∨ 65535 < k) →
         Yields (.pwait t n) s (d.coreFault t.toNat n.toNat 0x01 0x2B 0 (d.core t.toNat n.toNat).pc))) ∧
     (∀ (s : State) (t : TentId) (n : CoreNo), s.dev.before t.toNat n.toNat 0x2C = true →
       let d := s.dev
       let i := d.fetchIns t.toNat n.toNat
       let wrote := fun v => (d.setSreg t.toNat n.toNat i.d v).corePc t.toNat n.toNat ((d.core t.toNat n.toNat).pc + 1)
       (i.imm = 0 → Yields (.csrr t n) s (wrote (BitVec.ofNat 64 t.toNat))) ∧
       (i.imm = 1 → Yields (.csrr t n) s (wrote (BitVec.ofNat 64 d.devId))) ∧
       (i.imm = 2 → Yields (.csrr t n) s (wrote (BitVec.ofNat 64 d.job))) ∧
       (i.imm = 3 → ∃ v, Yields (.csrr t n) s (wrote v)) ∧
       (i.imm = 5 → Yields (.csrr t n) s (wrote (BitVec.ofNat 64 n.toNat))) ∧
       (i.imm = 4 → ∃ v : Nat, ∃ d2 : Dev, d.time.toNat ≤ v + 32 ∧
         d2 = { d with fresh := d.fresh + 1, lastRead := put (fun _ => 0) d.lastRead (4 * t.toNat + n.toNat) v } ∧
         Yields (.csrr t n) s
           ((d2.setSreg t.toNat n.toNat i.d (BitVec.ofNat 64 v)).corePc t.toNat n.toNat
             ((d.core t.toNat n.toNat).pc + 1)))) ∧
     ∀ (s : State) (t : TentId) (n : CoreNo), s.dev.before t.toNat n.toNat 0x3F = true →
       let d := s.dev
       let pc := (d.core t.toNat n.toNat).pc + 1
       let d1 := (d.coreStop t.toNat n.toNat pc).setRegF (ctlAddr t.toNat n.toNat) 1 1 1
       Yields (.halt t n) s
         (if d.regF (ctlAddr t.toNat n.toNat) 3 1 = 1 then
           d1.raise (t.toNat / 4096) 0 0x0101 t.toNat (n.toNat + pc * 256) else d1))

/-- A word that is no legal instruction faults any S-core row with cause 0x01 and its index; a program counter outside
the store with cause 0x03 and that index (R36, R39). The fault stops the S-core: RUN reads 0, FAULT reads 1,
TNT_SCORE_PC_n holds the index, and one CONTAINED record of the S-core block is raised. RUN written 1 in the S-core's
world starts a stopped S-core at TNT_SCORE_PC_n and cancels a pending stop of a running one; RUN written 0 leaves a
stop pending; from outside the world each is refused and logged (R465, R466). The instruction store takes a write only
while RUN reads 0; otherwise the write is discarded and logged (R40). -/
def Obligations.ScoreFaultsAndControl : Prop :=
  ((∀ r ∈ scoreRegisterRows, ∀ (s : State) (t : TentId) (n : CoreNo),
     let d := s.dev
     let c := d.core t.toNat n.toNat
     d.halted = false → c.running = true → c.stopPending = false → c.wait = .none →
     (c.pc ≤ 4095 → (d.fetchIns t.toNat n.toNat).legal = false →
       Yields (r.1 t n) s (d.coreFault t.toNat n.toNat 0x01 (d.fetchIns t.toNat n.toNat).op 0 c.pc)) ∧
     (4095 < c.pc → Yields (r.1 t n) s (d.coreFault t.toNat n.toNat 0x03 0 0 c.pc))) ∧
     ∀ (d : Dev) (t : TentId) (n : CoreNo) (cause op addr pc : Nat), pc < 2 ^ 64 →
       let e := d.coreFault t.toNat n.toNat cause op addr pc
       (e.core t.toNat n.toNat).running = false ∧ (e.core t.toNat n.toNat).wait = .none ∧
         e.regF (ctlAddr t.toNat n.toNat) 0 1 = 0 ∧ e.regF (ctlAddr t.toNat n.toNat) 2 1 = 1 ∧
         e.reg (pcAddr t.toNat n.toNat) = pc ∧ e.mem = d.mem ∧
         ∃ x : Event, e.events = d.events ++ [x] ∧ x.cls = 2 ∧ x.code = 0x401 ∧ x.unit = t.toNat) ∧
  ((∀ (s : State) (t : TentId) (n : CoreNo) (w v : Writer), s.acting w = some v →
     let d := s.dev
     let c := d.core t.toNat n.toNat
     (v.secure = true ∨ d.blkSecure t.toNat n.toNat = false) →
     (c.running = false → Yields (.runStart t n w) s
       (((d.ungate t.toNat n.toNat).setCore t.toNat n.toNat
         { c with running := true, stopPending := false, pc := d.reg (pcAddr t.toNat n.toNat), wait := .none }).setRegF
         (ctlAddr t.toNat n.toNat) 0 1 1)) ∧
     (c.running = true →
       Yields (.runStart t n w) s (d.setCore t.toNat n.toNat { c with stopPending := false }) ∧
       Yields (.runStop t n w) s (d.setCore t.toNat n.toNat { c with stopPending := true })) ∧
     (c.running = false → Yields (.runStop t n w) s d) ∧
     ∀ (off : BitVec 14) (bs : List Byte),
       (c.running = false → off.toNat + bs.length ≤ 0x4000 →
         Yields (.instrStoreWrite t n w off bs) s (d.wrB (storeAddr t.toNat n.toNat off.toNat) bs)) ∧
       (c.running = true →
         Yields (.instrStoreWrite t n w off bs) s
           (d.tentErr t.toNat 1 1 0x10
             { op := padReqOf v t.toNat, addr := storeAddr t.toNat n.toNat off.toNat }))) ∧
     ∀ (s : State) (t : TentId) (n : CoreNo) (w v : Writer), s.acting w = some v → v.secure = false →
       s.dev.blkSecure t.toNat n.toNat = true →
       let refused (a : Nat) : Dev := s.dev.tentErr t.toNat 1 1 0x17 { op := padReqOf v t.toNat, addr := a }
       Yields (.runStart t n w) s (refused (ctlAddr t.toNat n.toNat)) ∧
       Yields (.runStop t n w) s (refused (ctlAddr t.toNat n.toNat)) ∧
       ∀ (off : BitVec 14) (bs : List Byte), Yields (.instrStoreWrite t n w off bs) s
         (refused (storeAddr t.toNat n.toNat off.toNat)))

/-! ### Tents (R33, R34, R41 to R48, R406) -/

/-- A write of TNT_CONFIG with ARRANGE below 3 that differs from the arrangement in force makes the change pending;
the arrangement in force withdraws it; a code of 4 or more is refused: CFG_ERR is set and one CORRECTED record with
cause 0x11 raised. A pending change to an arrangement below 3 takes effect once every array of the old one is idle:
ARRANGE holds it, PENDING reads 0 and every accumulator entry is empty (R34, R104). A write of TNT_GBANK takes
GB_SEGS, 7 read as 6: at once where no BW array exists, and otherwise once the BW array is idle (R45). Either write is
noted at the settings it reaches (R418). -/
def Obligations.ArrangementAndGradientBank : Prop :=
  ((∀ (s : State) (t : TentId) (w : Writer) (v : Half), s.acting w ≠ none →
     let d := s.dev
     let a := v.toNat % 8
     let c := cfgAddr t.toNat
     bitAt v.toNat 8 = false →
     (a < 3 → a ≠ d.arrange t.toNat →
       Yields (.arrangeWrite t w v) s
         (((d.modTent t.toNat fun x => { x with pendArr := some a }).setRegF c 7 1 1).noteHand c 4)) ∧
     (a < 3 → a = d.arrange t.toNat →
       Yields (.arrangeWrite t w v) s
         (((d.modTent t.toNat fun x => { x with pendArr := none }).setRegF c 7 1 0).noteHand c 4)) ∧
     (4 ≤ a → Yields (.arrangeWrite t w v) s
       (((d.setRegF c 8 1 1).tentErr t.toNat 1 1 0x11).noteHand c 4))) ∧
     ∀ (s : State) (t : TentId) (a : Nat), (s.dev.tent t.toNat).pendArr = some a → a < 3 →
       (∀ q ∈ s.dev.arrays t.toNat, s.dev.queueIdle t.toNat q = true) →
       Does (.arrangeTakeEffect t) s fun d =>
         d.regF (cfgAddr t.toNat) 0 3 = a ∧ d.regF (cfgAddr t.toNat) 7 1 = 0 ∧ (d.tent t.toNat).pendArr = none ∧
           (d.tent t.toNat).accs = [] ∧ (d.tent t.toNat).cores = (s.dev.tent t.toNat).cores ∧
           (d.tent t.toNat).queues = (s.dev.tent t.toNat).queues ∧ d.mem = s.dev.mem ∧ d.events = s.dev.events) ∧
  ((∀ (s : State) (t : TentId) (w : Writer) (v : Half), s.acting w ≠ none →
     let d := s.dev
     let n := if v.toNat % 8 = 7 then 6 else v.toNat % 8
     let g := tentReg t.toNat 0x14
     (d.bwArray t.toNat = none → Yields (.gbankWrite t w v) s
       ((((d.modTent t.toNat fun x => { x with pendGb := none }).setRegF g 0 3 n).setRegF g 3 1 0).noteHand g 4)) ∧
     ∀ q, d.bwArray t.toNat = some q → Yields (.gbankWrite t w v) s
       (((d.modTent t.toNat fun x => { x with pendGb := some n }).setRegF g 3 1 1).noteHand g 4)) ∧
     ∀ (s : State) (t : TentId) (n : Nat), (s.dev.tent t.toNat).pendGb = some n →
       (∀ q, s.dev.bwArray t.toNat = some q → s.dev.queueIdle t.toNat q = true) →
       Yields (.gbankTakeEffect t) s
         (((s.dev.modTent t.toNat fun x => { x with pendGb := none }).setRegF (tentReg t.toNat 0x14) 0 3 n).setRegF
           (tentReg t.toNat 0x14) 3 1 0))

/-- Worlds of segments and blocks. A secure write of TNT_SEG_WORLD raises segments at once and queues the lowered
ones; a finished clear zeroes the first queued segment and lowers its bit (R44). A secure write of TNT_BLK_WORLD makes
the change pending; an idle block has its state cleared and its bit changed (R406). A non-secure write of either is
refused and logged. -/
def Obligations.SegmentAndBlockWorlds : Prop :=
  (∀ (s : State) (t : TentId) (w u : Writer) (v : Half), s.acting w = some u → u.secure = true →
    let d := s.dev
    let lower := (List.range 12).filter fun i => d.segSecure t.toNat i && !bitAt v.toNat i
    let keep := (d.tent t.toNat).segClear.filter fun i => !bitAt v.toNat i
    let q := keep ++ lower.filter fun i => !keep.contains i
    Yields (.segWorldWrite t w v) s
      (((d.modTent t.toNat fun x => { x with segClear := q }).setRegF (tentReg t.toNat 0x10) 0 12
        (d.regF (tentReg t.toNat 0x10) 0 12 ||| v.toNat % 4096)).setRegF (tentReg t.toNat 0x10) 12 1
          (if q = [] then 0 else 1))) ∧
    (∀ (s : State) (t : TentId) (i : Nat) (rest : List Nat), (s.dev.tent t.toNat).segClear = i :: rest →
      Yields (.segmentClearDone t) s
        ((((s.dev.zero (tentMem t.toNat (i * 0x2000)) (tentMem t.toNat ((i + 1) * 0x2000))).modTent t.toNat
          fun x => { x with segClear := rest }).setRegF (tentReg t.toNat 0x10) i 1 0).setRegF
          (tentReg t.toNat 0x10) 12 1 (if rest = [] then 0 else 1))) ∧
    (∀ (s : State) (t : TentId) (w u : Writer) (v : Half), s.acting w = some u → u.secure = true →
      v.toNat % 256 ≠ s.dev.regF (tentReg t.toNat 0x18) 0 8 →
      Yields (.blkWorldWrite t w v) s
        ((s.dev.modTent t.toNat fun x => { x with pendBlk := some (v.toNat % 256) }).setRegF (tentReg t.toNat 0x18)
          8 1 1)) ∧
    (∀ (s : State) (t : TentId) (b : BitVec 3) (v : Nat), (s.dev.tent t.toNat).pendBlk = some v →
      bitAt v b.toNat ≠ s.dev.blkSecure t.toNat b.toNat →
      (if b.toNat = 4 then s.dev.queueIdle t.toNat 8 else s.dev.blkIdle t.toNat b.toNat) = true →
      let d := (s.dev.blkClear t.toNat b.toNat).setRegF (tentReg t.toNat 0x18) b.toNat 1 (v / 2 ^ b.toNat)
      Yields (.blkWorldApply t b) s
        (if d.regF (tentReg t.toNat 0x18) 0 8 = v then
          (d.modTent t.toNat fun x => { x with pendBlk := none }).setRegF (tentReg t.toNat 0x18) 8 1 0 else d)) ∧
    ∀ (s : State) (t : TentId) (w u : Writer) (v : Half), s.acting w = some u → u.secure = false →
      let refused (a : Nat) : Dev := s.dev.tentErr t.toNat 1 1 0x17 { op := padReqOf u t.toNat, addr := a }
      Yields (.segWorldWrite t w v) s (refused (tentReg t.toNat 0x10)) ∧
      Yields (.blkWorldWrite t w v) s (refused (tentReg t.toNat 0x18))

/-- A scratchpad access of up to 256 bytes in one row, with no finding of the word code and no segment being cleared:
a read answers the bytes, a write puts them, and neither touches other memory; an access of the non-secure world that
touches a secure segment is refused whole with zeros (R41 to R43). A mesh-port read of up to 64 bytes of a tent's own
scratchpad answers likewise, where its way is open (R48). With TNT_TEST_CTL.ENABLE set a test row passes and the next row follows, mod 384; a
failing cell of a bank with a spare left is counted, remapped and recorded CORRECTED with cause 0x15 (R46, R47). A
router failure is a DEVICE error: the device halts and ALERT_N goes low; nothing of its network passes that router any
more, and an access whose way passes it stays where it is (R30, R441, R456). -/
def Obligations.ScratchpadMeshTestRouter : Prop :=
  ((∀ (s : State) (t : TentId) (req : BitVec 4) (sec : Bool) (off : BitVec 17) (rivals : List (BitVec 4)),
     let d := s.dev
     let o := off.toNat
     (∀ n, 1 ≤ n → o % 256 + n ≤ 256 → o + n ≤ 0x1_8000 → d.touchesClearing t.toNat o n = false →
       d.quiet (tentMem t.toNat o) n = true →
       ((sec = true ∨ d.touchesSecure t.toNat o n = false) → d.badIn (tentMem t.toNat o) n = false →
         Does (.scratchpadAccess t req sec off (.read n) rivals []) s fun e =>
           e.response = some (padMaster t req.toNat, ⟨0, d.rd (tentMem t.toNat o) n⟩) ∧ e.mem = d.mem ∧
             e.bad = d.bad ∧ e.tents = d.tents) ∧
       (sec = false → d.touchesSecure t.toNat o n = true →
         Does (.scratchpadAccess t req sec off (.read n) rivals []) s fun e =>
           e.response = some (padMaster t req.toNat, ⟨2, List.replicate n 0⟩) ∧ e.mem = d.mem ∧ e.tents = d.tents)) ∧
     ∀ bs : List Byte, 1 ≤ bs.length → o % 256 + bs.length ≤ 256 → o + bs.length ≤ 0x1_8000 →
       d.touchesClearing t.toNat o bs.length = false → d.quiet (tentMem t.toNat o) bs.length = true →
       ((sec = true ∨ d.touchesSecure t.toNat o bs.length = false) → d.blockedBy (tentMem t.toNat o) bs.length = [] →
         Does (.scratchpadAccess t req sec off (.write bs) rivals []) s fun e =>
           e.response = some (padMaster t req.toNat, ⟨0, []⟩) ∧ e.mem = (d.wrB (tentMem t.toNat o) bs).mem ∧
             e.tents = d.tents) ∧
       (sec = false → d.touchesSecure t.toNat o bs.length = true →
         Does (.scratchpadAccess t req sec off (.write bs) rivals []) s fun e =>
           e.response = some (padMaster t req.toNat, ⟨2, []⟩) ∧ e.mem = d.mem ∧ e.tents = d.tents)) ∧
     ∀ (s : State) (t : TentId) (r : RAccess) (o : Nat) (v : Writer), s.acting r.by_ = some v →
       s.dev.place r.addr.toNat = .here (tentMem t.toNat o) → r.len ≤ 64 → o < 0x1_8000 → o + r.len ≤ 0x1_8000 →
       s.dev.heldFor v.who true (tentMem t.toNat o) r.len = false → s.dev.quiet (tentMem t.toNat o) r.len = true →
       s.dev.badIn (tentMem t.toNat o) r.len = false →
       (v.secure = true ∨ s.dev.touchesSecure t.toNat o r.len = false) →
       Does (.meshPortAccess t (.read r) []) s fun e =>
         e.response = some (v.who, ⟨0, s.dev.rd (tentMem t.toNat o) r.len⟩) ∧ e.mem = s.dev.mem ∧ e.bad = s.dev.bad ∧
           e.tents = s.dev.tents) ∧
  ((∀ (s : State) (t : TentId), s.dev.regF (tentReg t.toNat 0x100) 0 1 = 1 →
     let d := s.dev
     let row := d.regF (tentReg t.toNat 0x100) 1 9
     let d1 := d.setRegF (tentReg t.toNat 0x100) 1 9 ((row + 1) % 384)
     Yields (.transparentTestRow t none) s d1 ∧
     ∀ b : BitVec 4, ((d.tent t.toNat).remaps.filter fun p => p.1 == b.toNat).length < 2 →
       Does (.transparentTestRow t (some b)) s fun e =>
         (e.tent t.toNat).remaps = (d.tent t.toNat).remaps ++ [(b.toNat, row)] ∧ e.mem = d.mem ∧
           ∃ x : Event, e.events = d.events ++ [x] ∧ x.cls = 1 ∧ x.code = 0x401 ∧ x.detail % 256 = 0x15) ∧
     ∀ (s : State) (n : BitVec 15) (net : BitVec 2), Does (.routerFailure ⟨n, net⟩) s fun e =>
       e.halted = true ∧ e.alertN = false ∧ e.mem = s.dev.mem ∧ e.tents = s.dev.tents ∧
         (∃ x : Event, e.events = s.dev.events ++ [x] ∧ x.cls = 3 ∧ x.code = 0x401 ∧ x.detail % 256 = 0x1A) ∧
         ∀ x y : Node, (way x y).1.any (·.meets n.toNat) = true → e.wayOpen x y [net.toNat] = false)

/-! ### Pegs (R362 to R371) -/

/-- A signal of c adds c to the peg's count up to 2^32 - 1; beyond that the count stays there, SAT of the peg is set
and one CONTAINED record raised (R368). PEG_SIG of a tent peg by a device of this GEN signals it; PEG_SET by a secure
writer or the debug port sets the count; PEG_IO_WAIT_ARM arms a wait on an I/O die peg that has none and whose count
is below it; a pending PEG wait older than WAIT_EVT is told of once, with an event. Waits on a peg are granted in the
order in which they became pending: of any list of waits the granted ones are its longest front whose sum the count
covers, so a wait behind one that does not fit is not granted, and the count falls by what was granted (R364). A grant
that finds one wait of an S-core and enough count releases that S-core. -/
def Obligations.PegSignalsAndWaits : Prop :=
  ((∀ (d : Dev) (t p c : Nat), d.peg t p + c < 2 ^ 32 → d.pegSig t p c = d.setReg (pegAddr t p) (d.peg t p + c)) ∧
     (∀ (d : Dev) (t : TentId) (p : BitVec 6) (c : Nat), 2 ^ 32 ≤ d.peg t.toNat p.toNat + c →
       (d.pegSig t.toNat p.toNat c).peg t.toNat p.toNat = 2 ^ 32 - 1 ∧
         bitAt ((d.pegSig t.toNat p.toNat c).reg (tentReg t.toNat 0x40_0448)) p.toNat = true ∧
         ∃ x : Event, (d.pegSig t.toNat p.toNat c).events = d.events ++ [x] ∧ x.cls = 2 ∧ x.code = 0x401 ∧
           x.unit = t.toNat ∧ x.detail % 256 = 0x12 ∧
           x.detail / 2 ^ 64 % 2 ^ 64 = tentReg t.toNat (0x40_0000 + 0x10 * p.toNat)) ∧
     (∀ (s : State) (t : TentId) (p : BitVec 6) (n : CoreNo) (sec : Bool) (addr : Word) (v : Half),
       s.dev.place addr.toNat = .here (tentReg t.toNat (0x40_0000 + 0x10 * p.toNat)) →
       Yields (.pegSig ⟨.score t n, sec⟩ addr v) s (s.dev.pegSig t.toNat p.toNat v.toNat)) ∧
     (∀ (s : State) (w u : Writer) (t : TentId) (p : BitVec 6) (addr : Word) (v : Half), s.acting w = some u →
       s.dev.place addr.toNat = .here (tentReg t.toNat (0x40_0008 + 0x10 * p.toNat)) →
       ((u.secure = true ∨ u.who = .debug) → Does (.pegSet w addr v) s fun e =>
         e.peg t.toNat p.toNat = v.toNat ∧ e.tents = s.dev.tents ∧ e.mem = s.dev.mem ∧
           ∃ x : Event, e.events = s.dev.events ++ [x] ∧ x.cls = 1 ∧ x.code = 0x40F) ∧
       (u.secure = false → u.who ≠ .debug → Does (.pegSet w addr v) s fun e =>
         e.peg t.toNat p.toNat = s.dev.peg t.toNat p.toNat ∧ e.tents = s.dev.tents)) ∧
     (∀ (s : State) (iod : Bool) (p : BitVec 10) (w u : Writer) (v : Half), s.acting w = some u → u.secure = true →
       let k := (6 + b2n iod) * 1024 + p.toNat
       look (fun _ => 0) s.dev.armed k = 0 → s.dev.reg (ioPegAddr (6 + b2n iod) p.toNat) < v.toNat →
       Yields (.pegIoWaitArm iod p w v) s { s.dev with armed := put (fun _ => 0) s.dev.armed k v.toNat }) ∧
     ∀ (s : State) (t : TentId) (p : BitVec 6) (x : PegWait),
       s.dev.regF (tentReg t.toNat 0x40_0450) 0 16 ≠ 0 →
       ((s.dev.tent t.toNat).pegWaits.find? fun w => w.peg == p.toNat && !w.told) = some x →
       Yields (.pegWaitEvent t p) s
         ((s.dev.modTent t.toNat fun y =>
           { y with pegWaits := y.pegWaits.map fun v => if v = x then { v with told := true } else v }).raise
             (t.toNat / 4096) 0 0x0104 t.toNat (p.toNat + x.waiter * 256 + s.dev.peg t.toNat p.toNat * 65536))) ∧
  ((∀ (c : Nat) (ws : List PegWait), ∃ rest, ws = granted c ws ++ rest ∧
     ((granted c ws).map (·.n)).sum ≤ c ∧
     ∀ w ∈ rest.head?, c < ((granted c ws).map (·.n)).sum + w.n) ∧
     ∀ (s : State) (t : TentId) (p : BitVec 6) (n : CoreNo) (w : PegWait),
       ((s.dev.tent t.toNat).pegWaits.filter fun x => x.peg == p.toNat) = [w] → w.waiter = n.toNat →
       w.n ≤ s.dev.peg t.toNat p.toNat → (s.dev.core t.toNat n.toNat).pc < 4095 →
       Does (.pegWaitGrant t p) s fun e =>
         e.peg t.toNat p.toNat = s.dev.peg t.toNat p.toNat - w.n ∧
           (e.tent t.toNat).pegWaits = (s.dev.tent t.toNat).pegWaits.filter (· ≠ w) ∧
           (e.core t.toNat n.toNat).wait = .none ∧
           (e.core t.toNat n.toNat).pc = (s.dev.core t.toNat n.toNat).pc + 1 ∧ e.mem = s.dev.mem)

/-! ### Guylines (R372 to R377) -/

/-- An arrival of the tent's own S-core is held at its port behind the stores posted before it; sent, it sets ARRIVED
with its RPEG and goes to the row counter; one more while ARRIVED is set waits as PENDING. A release signals RPEG once
and clears ARRIVED, and a forced one sets FORCED (R373, R374, R376). A row counter below its target counts an arrival;
the arrival that reaches the target zeroes it and goes to the pitch counter (R374). UP from a child counts at the
device; a packet of another GEN is discarded and counted, one from a device that is no child is counted bad (R370,
R374). Counts and masks are written by secure requesters only, a mask not during a round (R372, R377); GYL_FORCE
releases every guyline it names; the release owed by a GEN change leaves no counter and no message (R376). -/
def Obligations.Guylines : Prop :=
  ((∀ (s : State) (t : TentId) (n : CoreNo) (sec : Bool) (g : BitVec 4) (v : Half),
     Yields (.gylArrive t ⟨.score t n, sec⟩ g v) s
       (s.dev.modTent t.toNat fun x =>
         { x with held := x.held ++ [⟨g.toNat, n.toNat, v.toNat % 64, s.dev.nextStore⟩] })) ∧
     (∀ (s : State) (t : TentId) (g : BitVec 4) (h : HeldArrival), (s.dev.tent t.toNat).held = [h] → h.g = g.toNat →
       s.dev.stores = [] → s.dev.isMember g.toNat t.toNat = true →
       (s.dev.regF (gylStat t.toNat) g.toNat 1 = 0 → Does (.guylineArrivalSend t g) s fun e =>
         (e.tent t.toNat).held = [] ∧ e.regF (gylStat t.toNat) g.toNat 1 = 1 ∧
           look (fun _ => 0) (e.tent t.toNat).rpeg g.toNat = h.rpeg ∧
           e.gyl = s.dev.gyl ++ [.toRow g.toNat t.toNat]) ∧
       (s.dev.regF (gylStat t.toNat) g.toNat 1 = 1 → s.dev.regF (gylPend t.toNat) g.toNat 1 = 0 →
         Does (.guylineArrivalSend t g) s fun e =>
           (e.tent t.toNat).held = [] ∧ e.regF (gylPend t.toNat) g.toNat 1 = 1 ∧
             look (fun _ => 0) (e.tent t.toNat).rpegNext g.toNat = h.rpeg ∧ e.gyl = s.dev.gyl)) ∧
     ∀ (s : State) (t : TentId) (g : BitVec 4) (forced : Bool), s.dev.gyl = [.release g.toNat t.toNat forced] →
       s.dev.regF (gylStat t.toNat) g.toNat 1 = 1 → s.dev.regF (gylPend t.toNat) g.toNat 1 = 0 →
       Does (.guylineRelease t g) s fun e =>
         e.gyl = [] ∧ e.regF (gylStat t.toNat) g.toNat 1 = 0 ∧
           (forced = true → e.regF (gylStat t.toNat) (16 + g.toNat) 1 = 1) ∧
           (let p := look (fun _ => 0) (s.dev.tent t.toNat).rpeg g.toNat
            p < 64 → s.dev.peg t.toNat p < 2 ^ 32 - 1 → e.peg t.toNat p = s.dev.peg t.toNat p + 1)) ∧
  ((∀ (s : State) (g t : Nat), s.dev.gyl = [.toRow g t] →
     let d := s.dev
     let v := d.regF (rowCntAddr g (t / 64)) 0 7 + 1
     let d1 : Dev := { d with gyl := [] }
     (v < d.rowTarget g (t / 64) → Yields (.guylineCounterArrival 0) s (d1.setRegF (rowCntAddr g (t / 64)) 0 7 v)) ∧
     (0 < d.rowTarget g (t / 64) → d.rowTarget g (t / 64) ≤ v → Yields (.guylineCounterArrival 0) s
       { d1.setRegF (rowCntAddr g (t / 64)) 0 7 0 with gyl := [.toPitch g (t / 64)] })) ∧
     (∀ (s : State) (g : BitVec 4) (src : BitVec 10) (gen : BitVec 8),
       (gen.toNat ≠ s.dev.gen →
         Yields (.guylineUp g src gen) s (s.dev.bump (dieReg 6 0x1100_4108) 1) ∧
         Yields (.guylineDown g src gen) s (s.dev.bump (dieReg 6 0x1100_4108) 1)) ∧
       (gen.toNat = s.dev.gen → src.toNat ∈ s.dev.children g.toNat →
         Yields (.guylineUp g src gen) s (s.dev.devCount g.toNat 1)) ∧
       (gen.toNat = s.dev.gen → src.toNat ∉ s.dev.children g.toNat →
         Yields (.guylineUp g src gen) s s.dev.gylBad) ∧
       (gen.toNat = s.dev.gen → s.dev.regF (campAddr g.toNat) 10 1 = 1 →
         s.dev.regF (campAddr g.toNat) 0 10 = src.toNat → s.dev.regF (campAddr g.toNat) 16 1 = 1 →
         Yields (.guylineDown g src gen) s (s.dev.gylRelease g.toNat false))) ∧
     (∀ (s : State) (w u : Writer) (addr : Word) (v : Word) (g r : Nat) (a : Nat), s.acting w = some u →
       u.secure = true → s.dev.place addr.toNat = .here a → gylRegOf a = .rowMask g r → s.dev.roundOpen g = false →
       Yields (.gylMaskWrite w addr v) s (s.dev.setReg (rowMaskAddr g r) v.toNat)) ∧
     (∀ (s : State) (w u : Writer) (addr : Word) (v : Half) (g r : Nat) (a : Nat), s.acting w = some u →
       u.secure = true → s.dev.place addr.toNat = .here a → gylRegOf a = .rowCnt g r →
       Yields (.gylCountWrite w addr v) s
         (((s.dev.dieErr (gylDie a) 0 0x10 1 0x02
           { op := writerCode u, addr := a, spec := s.dev.regF (rowCntAddr g r) 0 7 + v.toNat * 2 ^ 32 }).setRegF (rowCntAddr g r) 0 7
             v.toNat).rowCount g r 0)) ∧
     (∀ (s : State) (w u : Writer) (g : BitVec 4), s.acting w = some u → u.secure = true →
       Yields (.gylForce w (BitVec.ofNat 32 (2 ^ g.toNat))) s
         ((s.dev.dieErr 6 0 0x10 1 0x02
           { op := writerCode u, addr := dieReg 6 0x1200_1000, spec := 2 ^ g.toNat * 2 ^ 32 }).gylRelease
             g.toNat true)) ∧
     ∀ s : State, s.dev.gylGenClr = true → Does .guylineForcedRelease s fun e => e.gylGenClr = false ∧ e.gyl = [])

/-! ### Watch tables and events (R378 to R384, R419) -/

/-- A secure COMMIT arms an instance, and the grant at slot 0 takes the shadow table over; a WINDOW of at least 15 that
the quotas fit into is taken and read back, any other sets CFG_ERR; MODE is in force and read back at once; a quota that
would fill the window is refused likewise, any other goes to the shadow table; a full window reloads the quotas; a non-secure write is discarded and logged (R380 to R382). With one event waiting
and room in the event ring, a grant on the device with an active Lantern gives it the next EVSEQ, puts its record at
the tail of the ring and takes it from its source (R383, R419). -/
def Obligations.WatchTablesAndEvents : Prop :=
  ((∀ (s : State) (w u : Writer) (base : Word), s.acting w = some u → isWch base.toNat = true →
     (u.secure = true →
       Yields (.wchCommit w base) s (s.dev.setRegF base.toNat 2 1 1) ∧
       (∀ (r : BitVec 5) (v : Half),
         let sum := ((List.range 32).map fun k => if k = r.toNat then 0 else
           field (s.dev.shadowReq base.toNat k) 9 16).sum + field v.toNat 9 16
         (s.dev.windowLen base.toNat ≤ sum → Yields (.wchReqWrite w base r v) s (s.dev.setRegF base.toNat 3 1 1)) ∧
         (sum < s.dev.windowLen base.toNat →
           Does (.wchReqWrite w base r v) s fun e =>
             e.shadowReq base.toNat r.toNat = v.toNat % 2 ^ 25 ∧ e.reqWord base.toNat = s.dev.reqWord base.toNat ∧
               (∀ k, k ≠ r.toNat → e.shadowReq base.toNat k = s.dev.shadowReq base.toNat k) ∧ e.regs = s.dev.regs)) ∧
       ∀ v : Half,
         let sum := ((List.range 32).map fun k => field (s.dev.shadowReq base.toNat k) 9 16).sum
         let n := field v.toNat 4 16
         Does (.wchModeWrite w base v) s fun e =>
           e.inService base.toNat = bitAt v.toNat 0 ∧
             field (e.viewWch base.toNat 0 (e.reg base.toNat)) 0 1 = b2n (bitAt v.toNat 0) ∧
             (bitAt v.toNat 1 = true → e.regF base.toNat 2 1 = 1) ∧
             (n < 15 ∨ n + 1 ≤ sum → e.regF base.toNat 3 1 = 1 ∧ e.windowLen base.toNat = s.dev.windowLen base.toNat) ∧
             (15 ≤ n → sum < n + 1 → e.windowLen base.toNat = n + 1 ∧
               field (e.viewWch base.toNat 0 (e.reg base.toNat)) 4 16 = n) ∧
             e.mem = s.dev.mem ∧ e.tents = s.dev.tents) ∧
     (u.secure = false → ∀ (r : BitVec 5) (v : Half),
       Yields (.wchCommit w base) s (s.dev.wchRefused base.toNat) ∧
       Yields (.wchModeWrite w base v) s (s.dev.wchRefused base.toNat) ∧
       Yields (.wchReqWrite w base r v) s (s.dev.wchRefused base.toNat))) ∧
     ∀ (s : State) (base : Word), isWch base.toNat = true →
       (s.dev.regF base.toNat 2 1 = 1 → (s.dev.watchAt base.toNat).pointer = 0 →
         Yields (.wchCommitApply base) s (s.dev.applyCommit base.toNat)) ∧
       (s.dev.inService base.toNat = true → s.dev.windowLen base.toNat ≤ (s.dev.watchAt base.toNat).winPos →
         Yields (.quotaWindowReload base) s (s.dev.reloadQuotas base.toNat))) ∧
  (∀ (s : State) (b : Bool) (e : Event), s.dev.active = some b → s.dev.events = [e] → e.cls = 0 → e.src < 32 →
     s.dev.evRing.length < 4096 → (s.dev.grant (eventWch b) [e.src]).2 = some e.src →
     Does .eventGrant s fun d =>
       d.evSeq = s.dev.evSeq + 1 ∧ d.events = [] ∧ d.evRing = s.dev.evRing ++ [e.record (s.dev.evSeq + 1)] ∧
         e.src ∉ d.pulses ∧ d.mem = s.dev.mem)

/-! ### Clocks (R387 to R389) -/

/-- A PLL of a compute or memory-side die that loses lock is a DEVICE error: LOCKED reads 0, LOST 1, the device halts.
REFCLK lost sets TIME_FREE on both I/O dies; returned, ACLK relocks without a step of global time (R387, R388). A
droop trip starts a stretch where none runs and no hold-off holds; after 64 stretched cycles it ends and the hold-off
begins, or goes on in a droop that lasts; the hold-off's end clears HOLDOFF (R389). -/
def Obligations.ClocksAndDroop : Prop :=
  ((∀ (s : State) (die : BitVec 3) (pll : BitVec 2), die.toNat < 6 → pllExists die.toNat pll.toNat = true →
     Does (.pllLockLoss die pll) s fun e =>
       e.halted = true ∧ e.alertN = false ∧ e.regF (clkLock die.toNat) pll.toNat 1 = 0 ∧
         e.regF (clkLock die.toNat) (4 + pll.toNat) 1 = 1 ∧ e.mem = s.dev.mem ∧ e.tents = s.dev.tents) ∧
     (∀ s : State, s.dev.refclk = true → Does .refclkLoss s fun e =>
       e.refclk = false ∧ e.regF (clkLock 6) 8 1 = 1 ∧ e.regF (clkLock 7) 8 1 = 1 ∧ e.time = s.dev.time ∧
         e.mem = s.dev.mem) ∧
     ∀ s : State, s.dev.refclk = false → Does .refclkReturn s fun e =>
       e.refclk = true ∧ e.regF (clkLock 6) 1 1 = 1 ∧ e.regF (clkLock 7) 1 1 = 1 ∧ e.time = s.dev.time ∧
         e.events = s.dev.events) ∧
  (∀ (s : State) (t : TentId),
     let d := s.dev
     (d.regF (clkStat t.toNat) 0 2 = 0 → Yields (.droopTrip t) s
       (((d.setRegF (clkStat t.toNat) 0 1 1).bump (tentReg t.toNat 0x80_0010) 1).modTent t.toNat fun x =>
         { x with stretch := 64 })) ∧
     (d.regF (clkStat t.toNat) 0 1 = 1 → (d.tent t.toNat).stretch = 64 →
       Yields (.stretchLimit t false) s
         ((((d.bump (tentReg t.toNat 0x80_0008) 64).setRegF (clkStat t.toNat) 0 1 0).setRegF (clkStat t.toNat) 1 1
           1).modTent t.toNat fun x => { x with stretch := 0 })) ∧
     (d.regF (clkStat t.toNat) 0 1 = 1 → (d.tent t.toNat).stretch = 64 →
       Yields (.stretchLimit t true) s
         (((((d.bump (tentReg t.toNat 0x80_0008) 64).bump (tentReg t.toNat 0x80_0008) 1).bump
           (tentReg t.toNat 0x80_0018) 1).modTent t.toNat fun x => { x with stretch := 65 }).tentErr t.toNat 0x12 1
             0x03)) ∧
     (d.regF (clkStat t.toNat) 0 1 = 1 → 64 < (d.tent t.toNat).stretch →
       Yields (.stretchLimit t true) s
         (((d.bump (tentReg t.toNat 0x80_0008) 1).bump (tentReg t.toNat 0x80_0018) 1).modTent t.toNat fun x =>
           { x with stretch := (d.tent t.toNat).stretch + 1 })) ∧
     Yields (.stretchHoldoffEnd t) s (d.setRegF (clkStat t.toNat) 1 1 0))

/-! ### UCIe modules (R16 to R19) -/

/-- A frame goes by one of the pair's working modules, the same one for every destination address of a 256-byte granule,
and with no working module nothing moves. The next frame with a good CRC is accepted; a bad one, and every later one, is
discarded and stays in the sender's replay buffer until the replay reaches it, counted and recorded. A module whose lane
fails leaves the hash with a record and retrains, the frames it still held owed on the others; the last one's leaving is
a DEVICE error. Trained clean it is back with its failing lanes repaired; a third failed training in a row takes it out
until COLD (R15 to R19). -/
def Obligations.UcieModules : Prop :=
  ((∀ (ms : List Nat) (a b m : Nat), hashPick ms a = some m → m ∈ ms ∧ (a / 256 = b / 256 → hashPick ms b = some m)) ∧
     ∀ (s : State) (pair : BitVec 4) (dir : Bool) (num : Nat) (f : DieFrame),
       ((s.dev.rehashAt pair.toNat).owed = [] →
         s.dev.moduleFor pair.toNat dir f = hashPick (s.dev.working pair.toNat) f.addr.toNat) ∧
       (s.dev.moduleFor pair.toNat dir f = none → ∀ ok, Yields (.d2dFrameReceive pair dir num f ok) s s.dev) ∧
       ∀ m : Nat, s.dev.moduleFor pair.toNat dir f = some m →
         let x := s.dev.module pair.toNat m
         let d := (s.dev.grant (pairWatch pair.toNat dir) [if f.mesh then 1 else 0]).1
         let kept := x.buf.filter fun b => b.1 == dir
         let want := x.next.getD (b2n dir) 0
         (num < want → ∀ ok, Yields (.d2dFrameReceive pair dir num f ok) s s.dev) ∧
         ((∀ b ∈ kept, b.2.1 = num → b.2.2 = f) → (kept.length < 64 ∨ ∃ b ∈ kept, b.2.1 = num) →
           (num = want → Yields (.d2dFrameReceive pair dir num f true) s (d.frameTaken pair.toNat m dir num f)) ∧
           (num = want → Does (.d2dFrameReceive pair dir num f false) s fun e =>
             e.mem = s.dev.mem ∧ (∃ (y : Event) (ys : List Event),
               e.events = s.dev.events ++ y :: ys ∧ y.cls = 1 ∧ y.code = 0x40E ∧ y.detail % 256 = 0x02) ∧
             let y := e.module pair.toNat m
             y.replays = x.replays + 1 ∧ y.next = x.next ∧ (y.out = x.out → (dir, num, f) ∈ y.buf)) ∧
           (want < num → kept ≠ [] → ∀ ok, Yields (.d2dFrameReceive pair dir num f ok) s
             (d.setModule pair.toNat m (x.keep dir num f))))) ∧
  (∀ (s : State) (pair : BitVec 4) (m : BitVec 5) (lane : BitVec 6), m.toNat < pairModules pair.toNat →
    let x := s.dev.module pair.toNat m.toNat
    let d := (s.dev.grant (pairWatch pair.toNat false) [2]).1
    (x.out = false → Does (.ucieLaneParityFail pair ⟨m, lane⟩) s fun e =>
      let y := e.module pair.toNat m.toNat
      y.out = true ∧ y.training = true ∧ y.fails = 0 ∧ lane.toNat ∈ y.failing ∧ e.mem = s.dev.mem ∧
        (∀ b ∈ x.buf, (b.1, b.2.2) ∈ (e.rehashAt pair.toNat).owed) ∧ (∃ (z : Event) (zs : List Event),
          e.events = s.dev.events ++ z :: zs ∧ z.cls = 1 ∧ z.code = 0x40E ∧ z.detail % 256 = 0x01) ∧
        (s.dev.working pair.toNat = [m.toNat] → e.halted = true ∧ e.pairAlive pair.toNat = false)) ∧
    (x.training = true →
      Yields (.ucieRetrainDone pair m true) s (d.setModule pair.toNat m.toNat x.trained) ∧
      (x.fails + 1 < 3 → Yields (.ucieRetrainDone pair m false) s
        (d.setModule pair.toNat m.toNat { x with fails := x.fails + 1 })) ∧
      (3 ≤ x.fails + 1 → Does (.ucieRetrainDone pair m false) s fun e =>
        (e.module pair.toNat m.toNat).dead = true ∧ (e.module pair.toNat m.toNat).training = false)) ∧
    x.trained.out = false ∧ x.trained.failing = [] ∧ ∀ l ∈ x.failing, l ∈ x.trained.repaired)

/-! ### Engines: what every queue does (R99 to R104, R113, R153, R180, R256) -/

/-- The NOP rows of the queues: the head that may issue, and how it does. -/
def Sys2Proof.queueNopRows : List ((TentId → Instr) × (Dev → Nat → Option Cmd) × (Dev → Nat → Issued → Dev)) :=
  [(.forageNop, fun d t => if (d.queue t 6).flight = [] then (d.head t 6).filter fun c => cmdOp c == 0 else none,
      fun d t i => d.forIssue t i),
    (.vecNop, fun d t => d.vecHead t 0, fun d t i => d.issue t 7 i),
    (.packNop, fun d t => d.pckHead t 0, fun d t i => d.issue t 9 i)]

/-- The WAIT rows: their queue, and the head that may issue. -/
def Sys2Proof.queueWaitRows : List ((TentId → Instr) × Nat × (Dev → Nat → Option Cmd)) :=
  [(.forageWait, 6, fun d t => if (d.queue t 6).flight = [] then (d.head t 6).filter fun c => cmdOp c == 8 else none),
    (.vecWait, 7, fun d t => d.vecHead t 5), (.packWait, 9, fun d t => d.pckHead t 4),
    (.moverWait, 8, fun d t => if (d.queue t 8).flight = [] then d.movHead t 3 else none)]

/-- A NOP that may issue leaves its queue and is in flight with no flags; a WAIT that may issue holds its queue and is
pending on its peg with its N; neither changes anything else, but that a Forage command empties the repeat filters
(R110) and an array's tile buffer reads on (R99, R113, R153, R180, R256). A command in flight
completes: it leaves the flight, its flags are gathered, its count goes on, and its peg is signalled once where SIG is
set; a Forage or mover command only once its writes at other devices are acknowledged. A NOP completes only as the oldest of its queue (R76, R96, R102, R135, R154, R180, R258). -/
def Obligations.QueuesIssueAndComplete : Prop :=
  ((∀ r ∈ queueNopRows, ∀ (s : State) (t : TentId) (c : Cmd), r.2.1 s.dev t.toNat = some c →
     Yields (r.1 t) s (r.2.2 s.dev t.toNat { cmd := c })) ∧
     (∀ r ∈ queueWaitRows, ∀ (s : State) (t : TentId) (c : Cmd), r.2.2 s.dev t.toNat = some c →
       Yields (r.1 t) s (s.dev.placeWait t.toNat r.2.1 c)) ∧
     (∀ (s : State) (t : TentId) (a : BitVec 3) (c : Cmd),
       (s.dev.arrayHead t.toNat a.toNat 0 = some c →
         Yields (.arrayNop t a) s (s.dev.arrayIssue t.toNat a.toNat { cmd := c })) ∧
       (s.dev.arrayHead t.toNat a.toNat 5 = some c →
         Yields (.arrayWait t a) s (s.dev.placeWait t.toNat a.toNat c))) ∧
     (∀ (s : State) (t : TentId) (c : Cmd), s.dev.halted = false → (s.dev.queue t.toNat 8).flight = [] →
       s.dev.movHead t.toNat 0 = some c → s.dev.warmAsked = false →
       Yields (.moverNop (.tent t)) s (s.dev.issue t.toNat 8 { cmd := c })) ∧
     (∀ (s : State) (t : TentId) (c : Cmd), s.dev.sctHead t.toNat 0 = some c →
       Yields (.scoutNop t) s (s.dev.sctIssued t.toNat)) ∧
     ∀ (d : Dev) (t : TentId) (q : Nat) (c : Cmd), q < 10 →
       let e := d.placeWait t.toNat q c
       (e.queue t.toNat q).waiting = true ∧ (e.queue t.toNat q).entries = (d.queue t.toNat q).entries ∧
         (e.tent t.toNat).pegWaits = (d.tent t.toNat).pegWaits ++ [⟨cmdPeg c, 4 + q, cmdWaitN c, false⟩] ∧
         e.mem = d.mem ∧ e.regs = d.regs) ∧
  ((∀ (s : State) (t : TentId) (a : BitVec 3) (k : Nat) (x : Issued),
     s.dev.completing t.toNat a.toNat k = some x →
     let base := tentReg t.toNat (0x10_0000 + 0x100 * a.toNat)
     let d := (s.dev.retire t.toNat a.toNat k).orReg (base + 4) x.flags
     Yields (.arrayCommandComplete t a k) s ((if cmdOp x.cmd = 1 then d.passDone base else d).signal t.toNat x.cmd)) ∧
     (∀ (d : Dev) (base : Nat), d.reg (base + 0x10) < 2 ^ 64 - 1 → base % 8 = 0 →
       (d.passDone base).reg (base + 0x10) = d.reg (base + 0x10) + 1) ∧
     (∀ (s : State) (t : TentId) (k : Nat) (x : Issued), s.dev.completing t.toNat 7 k = some x →
       Yields (.vecCommandComplete t k) s
         ((((s.dev.retire t.toNat 7 k).orReg (vecReg t.toNat 4) x.flags).vecDone t.toNat).signal t.toNat x.cmd)) ∧
     (∀ (s : State) (t : TentId) (x : Issued), s.dev.completing t.toNat 6 0 = some x →
       (x.done = true → x.acks = [] → x.outs = [] → Yields (.forageCommandComplete t) s
         ((((s.dev.retire t.toNat 6 0).orReg (forReg t.toNat 4) x.flags).forStalls t.toNat x.cmd).cmdDone t.toNat 6
           x.cmd)) ∧
       (x.done = false ∨ x.acks ≠ [] ∨ x.outs ≠ [] → Yields (.forageCommandComplete t) s s.dev)) ∧
     (∀ (s : State) (t : TentId) (x : Issued), s.dev.completing t.toNat 9 0 = some x →
       Yields (.packCommandComplete t) s ((s.dev.retire t.toNat 9 0).pckFinish t.toNat x.cmd)) ∧
     (∀ (s : State) (t : TentId) (c : Cmd), (s.dev.tent t.toNat).sel.running = some c →
       (s.dev.tent t.toNat).sel.issued = true → s.dev.halted = false →
       Yields (.scoutCommandComplete t) s
         ((s.dev.modSel t.toNat fun x => { x with running := x.waiting, waiting := none, issued := false }).signal
           t.toNat c)) ∧
     (∀ (s : State) (t : TentId) (k : Nat) (x : Issued), s.dev.halted = false →
       (s.dev.queue t.toNat 8).flight[k]? = some x → x.done = true → x.acks = [] → cmdOp x.cmd < 12 →
       Yields (.moverCommandComplete (.tent t) k) s ((s.dev.retire t.toNat 8 k).cmdDone t.toNat 8 x.cmd)) ∧
     ∀ (d : Dev) (t : TentId) (c : Cmd),
       (cmdSig c = false → d.signal t.toNat c = d) ∧
         (cmdSig c = true → d.signal t.toNat c = d.pegSig t.toNat (cmdPeg c) 1))

/-! ### Arrays (R83 to R104) -/

/-- The array rows whose work is of their own. -/
def Sys2Proof.arrayWorkRows : List ((TentId → BitVec 3 → Instr) × Nat × (Nat → PadPort → Nat → Cmd → Eng Unit)) :=
  [(.pass, 1, fun a q w c => passWork q a w (passOf c)),
    (.drain, 2, fun a q w c => drainEntries q a w c (List.range (accRange c).2)),
    (.preload, 3, fun a q _ c => (List.range (accRange c).2).forM (preloadEntry q a c))]

/-- What a pass leaves: with its stationary image in the tile buffer or readable, its other operands readable in the scratchpad, and every entry it names empty, zeroed by ZERO,
or of its KIND, SREF and lane count with no open block, each of its COUNT entries takes the contributions of its
moving vector, every other entry and all of memory stay, the command is in flight with the flags of the lanes, and the
tile buffer reads on from there (R83 to R96). -/
def Obligations.PassAddsIntoEntries : Prop :=
  ∀ (s : State) (t : TentId) (a : BitVec 3) (c : Cmd), s.dev.arrayHead t.toNat a.toNat 1 = some c →
    let d := s.dev
    let p := passOf c
    let w := d.arrayWidth t.toNat a.toNat
    let mode := (cellMode p.fs p.fm).getD .single
    let q := d.arrayPort t.toNat a.toNat
    let old := fun j => (d.tent t.toNat).entry a.toNat (p.acc + j)
    let start := fun j : Nat => if p.zero || (old j).empty then
      { empty := false, kind := if mode = .half then 1 else 0, sref := p.sref,
        lanes := List.replicate (passLanes p mode w) {} } else old j
    ∀ image : List Byte, d.imageOf t.toNat a.toNat w p = some image →
    let new := fun j => mapLanes (passLane p mode w (d.passData t.toNat w image p) j) 0 (start j).lanes
    arrayIssueCause w (d.entryLanes t.toNat a.toNat c) c = 0 →
    ((passSpans (d.noTile t.toNat a.toNat) w p).all fun x => d.padReads q x.1 x.2) = true →
    (∀ j < p.count,
      (start j).kind = (if mode = .half then 1 else 0) ∧ (start j).sref = p.sref ∧
        (start j).lanes.length = passLanes p mode w ∧
        ((isMx p.fs && isMx p.fm) = true ∨ (start j).open_ = false)) →
    ∃ e : Dev, Yields (.pass t a) s (e.fetchTiles t.toNat a.toNat) ∧
      (∀ j < p.count, (e.tent t.toNat).entry a.toNat (p.acc + j) = { start j with lanes := (new j).1 }) ∧
        (∀ k, (∀ j < p.count, k ≠ a.toNat * 64 + (p.acc + j)) →
          look (fun _ => {}) (e.tent t.toNat).accs k = look (fun _ => {}) (d.tent t.toNat).accs k) ∧
        (e.queue t.toNat a.toNat).entries = (d.queue t.toNat a.toNat).entries.tail ∧
        (e.queue t.toNat a.toNat).flight = (d.queue t.toNat a.toNat).flight ++
          [{ cmd := c, flags := orAll ((List.range p.count).map fun j => (new j).2) }] ∧
        (e.queue t.toNat a.toNat).tiles = (d.queue t.toNat a.toNat).tiles.tail ∧
        e.mem = d.mem ∧ e.regs = d.regs ∧ e.events = d.events

/-- A PASS, DRAIN or PRELOAD at the head of an array in force that passes its issue check runs its work: where that
ends, the command leaves its entry and is in flight with the flags raised and what the words it wrote held before,
which a reader beside it may still see (R103); where it faults, the queue is discarded and stops, ARY_ERR_OFF_n holds offset and entry, and the array's entries are undefined; where the issue check fails
nothing is run and the queue stops (R96 to R98, R100, R104). CLEAR empties the entries of its range and leaves the
others, memory and the other queues; it completes as it issues, with its signal (R99, R102). -/
def Obligations.ArrayCommandsIssue : Prop :=
  (∀ r ∈ arrayWorkRows, ∀ (s : State) (t : TentId) (a : BitVec 3) (c : Cmd),
     s.dev.arrayHead t.toNat a.toNat r.2.1 = some c →
     let d := s.dev
     let w := d.arrayWidth t.toNat a.toNat
     let work := r.2.2 a.toNat (d.arrayPort t.toNat a.toNat) w c
     let cause := arrayIssueCause w (d.entryLanes t.toNat a.toNat c) c
     (cause = 0 → ∀ x, workEnds work d = some x →
       Yields (r.1 t a) s
         (x.dev.arrayIssue t.toNat a.toNat { cmd := c, flags := x.flags, olds := d.wordsLost x.dev })) ∧
     (cause = 0 → ∀ k o e, workFaults work d = some (k, o, e) →
       Does (r.1 t a) s fun f =>
         f.queue t.toNat a.toNat = ⟨[], [], false, true, []⟩ ∧
           a.toNat ∈ (f.tent t.toNat).accUndef ∧ f.mem = e.mem ∧
           f.reg (tentReg t.toNat (0x10_000C + 0x100 * a.toNat)) = o % 2 ^ 23 ∧
           ∃ y : Event, f.events = e.events ++ [y] ∧ y.cls = 2 ∧ y.code = 0x402 ∧ y.detail % 256 = k % 256) ∧
     (cause ≠ 0 → Does (r.1 t a) s fun f =>
       (f.queue t.toNat a.toNat).entries = [] ∧ (f.queue t.toNat a.toNat).stopped = true ∧
         (f.queue t.toNat a.toNat).flight = (d.queue t.toNat a.toNat).flight ∧
         (f.tent t.toNat).accs = (d.tent t.toNat).accs ∧ f.mem = d.mem)) ∧
  (∀ (s : State) (t : TentId) (a : BitVec 3) (c : Cmd), s.dev.arrayHead t.toNat a.toNat 4 = some c →
     ∃ e : Dev, Yields (.arrayClear t a) s ((e.fetchTiles t.toNat a.toNat).signal t.toNat c) ∧
       (∀ k, (∀ j < (accRange c).2, k ≠ a.toNat * 64 + ((accRange c).1 + j)) →
         look (fun _ => {}) (e.tent t.toNat).accs k = look (fun _ => {}) (s.dev.tent t.toNat).accs k) ∧
         (∀ j < (accRange c).2, ((e.tent t.toNat).entry a.toNat ((accRange c).1 + j)).empty = true) ∧
         (e.queue t.toNat a.toNat).entries = (s.dev.queue t.toNat a.toNat).entries.tail ∧
         (e.queue t.toNat a.toNat).flight = (s.dev.queue t.toNat a.toNat).flight ∧ e.mem = s.dev.mem ∧
         e.regs = s.dev.regs ∧
         (cmdSig c = false → (e.fetchTiles t.toNat a.toNat).signal t.toNat c = e.fetchTiles t.toNat a.toNat) ∧
         (cmdSig c = true → (e.fetchTiles t.toNat a.toNat).peg t.toNat (cmdPeg c) < 2 ^ 32 - 1 →
           ((e.fetchTiles t.toNat a.toNat).signal t.toNat c).peg t.toNat (cmdPeg c) =
             (e.fetchTiles t.toNat a.toNat).peg t.toNat (cmdPeg c) + 1))

/-- The sum a lane holds does not depend on the order of its contributions: while their magnitudes stay within the
accumulator, any two orders leave the same lane, and it holds the exact sum (R64). A saturated column keeps I and W
whatever finite contribution comes, and drains to the largest finite value with the sign of W; special values still
set S, in whatever order, and S of 3 stays (R67, R70). -/
def Obligations.AccumulatorIsOrderFree : Prop :=
  (∀ (l : Lane) (xs ys : List Int), xs.Perm ys →
     (l.total.natAbs : Int) + (xs.map fun x => (x.natAbs : Int)).sum < 32766 * 2 ^ 96 →
     -(2 ^ 95) ≤ l.i → l.i < 2 ^ 95 →
     let run := fun zs : List Int => zs.foldl (fun k x => (k.addInt x).1) l
     run xs = run ys ∧ (run xs).total = l.total + xs.sum ∧ (run xs).s = l.s ∧ (run xs).saturated = false) ∧
  ((∀ (l : Lane) (x : Int), l.saturated = true → l.addInt x = (l, 0)) ∧
     (∀ (l : Lane) (sref : Int), l.saturated = true → l.s = 0 →
       drainFp fp32 0 sref l = (fp32.maxBits (decide (l.w < 0)), 0)) ∧
     (∀ (l : Lane) (x y : Nat), x < 4 → y < 4 → l.s < 4 →
       ((l.special x).1.special y).1 = ((l.special y).1.special x).1) ∧
     ∀ (l : Lane) (x : Nat), l.s = 3 → (l.special x).1 = l)

/-! ### The Forage engine (R108 to R132) -/

/-- The Forage rows: opcode, and ACCUM of the result where the row asks for one. -/
def Sys2Proof.forageRows : List ((TentId → Instr) × Nat × Option Bool) :=
  [(.gather, 1, none), (.scatter, 2, some false), (.scatterAdd, 2, some true), (.merge, 3, none),
    (.intersect, 4, none), (.convert, 5, none), (.spprod, 6, none), (.feed, 7, none)]

/-- A Forage command at the head of its queue, with the engine free and its descriptors read, runs its work. Where
that ends, the first 64 of its writes to other devices are sent, the rest waiting for acknowledgements, and the command
is in flight, done, with the flags raised, the acknowledgements it awaits and what the words it wrote held before; where it faults, the queue is discarded and stops, FOR_ERR holds cause, opcode and tag, and one CONTAINED
record is raised (R113 to R115, R129). -/
def Obligations.ForageCommandsIssue : Prop :=
  ∀ r ∈ forageRows, ∀ (s : State) (t : TentId) (c : Cmd) (ds : List Byte),
    let d := s.dev
    let i : Issued := { cmd := c, descs := ds, done := false, ctl := d.reg (forReg t.toNat 0xC) }
    let d1 := d.forIssue t.toNat i
    let work := forWork ⟨t.toNat, s.perm, c, i.ctl⟩ ds
    d.head t.toNat 6 = some c → (d.queue t.toNat 6).flight = [] → cmdOp c = r.2.1 →
    r.2.2.getD (d.headAccum t.toNat c) = d.headAccum t.toNat c → (r.2.1 = 7 → 0 < d.queueFree t.toNat 8) →
    (forDescs t.toNat c).run { dev := d } = (.ok ds, { dev := d }) →
    (∀ x, workEnds work d1 = some x →
      let f := x.dev.flush (.queue t.toNat 6) { job := d.job } (x.out.take 64)
      f.2.warmAsked = false →
      Yields (r.1 t) s (f.2.modQueue t.toNat 6 fun y =>
        { y with flight := [{ i with
            flags := x.flags, acks := x.acks ++ f.1, done := true
            outs := x.out.drop 64, olds := d1.wordsLost x.dev }] })) ∧
    ∀ k o e, workFaults work d1 = some (k, o, e) → e.warmAsked = false →
      Does (r.1 t) s fun f =>
        f.queue t.toNat 6 = ⟨[], [], false, true, []⟩ ∧
          f.reg (forReg t.toNat 8) = (k + cmdOp c * 2 ^ 8 + cmdTag c * 2 ^ 16) % 2 ^ 64 ∧
          ∃ y : Event, f.events = e.events ++ [y] ∧ y.cls = 2 ∧ y.code = 0x403 ∧ y.detail % 256 = k % 256

/-- MERGE keeps every position that either run holds and INTERSECT those that both hold, in ascending order; where one
run holds a position alone MERGE keeps its value; with MODE 1 or 2 (MODE 0 or 1 of INTERSECT) the value at a common
position is that of A or of B (R120, R121). An N:8 encoder keeps at most N items of a group, all of them where there
are no more than N, in their order; when it prunes, no item it drops has a larger magnitude than one it keeps (R123).
An index is valid below its extent; −1 is empty where INDEX_SIGNED is set; every other value is out of range, a
negative one included (R127). -/
def Obligations.SparseOperations : Prop :=
  ((∀ (mode fa fc ext : Nat) (xs ys : List (Nat × Nat)) (st : EngS), ∃ zs st',
     (mergeRun mode fa fc ext xs ys).run st = (.ok zs, st') ∧
       zs.map Prod.fst = (List.range ext).filter (fun p => (xs.map Prod.fst).contains p || (ys.map Prod.fst).contains p) ∧
       (∀ p < ext, ∀ x, atPos xs p = some x → atPos ys p = none → atPos zs p = some (widen fa fc x)) ∧
       (∀ p < ext, ∀ y, atPos xs p = none → atPos ys p = some y → atPos zs p = some (widen fa fc y)) ∧
       (mode ≠ 0 → ∀ p < ext, ∀ x y, atPos xs p = some x → atPos ys p = some y →
         atPos zs p = some (if mode = 1 then x else y))) ∧
     ∀ (mode fa fc : Nat) (xs ys : List (Nat × Nat)) (st : EngS), (xs.map Prod.fst).Nodup → ∃ zs st',
       (intersectRun mode fa fc xs ys).run st = (.ok zs, st') ∧
         zs.map Prod.fst = (xs.map Prod.fst).filter (fun p => (ys.map Prod.fst).contains p) ∧
         (mode ≠ 2 → ∀ p x y, atPos xs p = some x → atPos ys p = some y →
           atPos zs p = some (if mode = 0 then x else y))) ∧
  (∀ (prune : Bool) (f n : Nat) (xs : List (Nat × Nat)), xs.Nodup →
     (keepN prune f n xs).length = min n xs.length ∧ (keepN prune f n xs).Sublist xs ∧
       (prune = true → ∀ x ∈ keepN prune f n xs, ∀ y ∈ xs, y ∉ keepN prune f n xs → pruneKey f y.2 ≤ pruneKey f x.2)) ∧
  (∀ (extent : Nat) (x : Half),
     (idxClass true extent x.toNat = if x = 0xFFFF_FFFF then .empty else
       if 0 ≤ x.toInt ∧ x.toInt < extent then .valid x.toNat else .outOfRange) ∧
     idxClass false extent x.toNat = if x.toNat < extent then .valid x.toNat else .outOfRange)

/-! ### The Scout (R133 to R149) -/

/-- Top-k chooses the k largest of the scores that are not NaN, the lower number on a tie, or all of them where there
are fewer; a threshold chooses exactly the scores at or above it; a NaN is never chosen (R137). -/
def Obligations.SelectionChoosesTheLargest : Prop :=
  (∀ (x : SctCmd) (scores : List Machine.Num) (c : Cand), c ∈ choose x scores →
    ∃ v, scores[c.1]? = some v ∧ v.isNaN = false ∧ c.2 = if x.abs then v.mag else v) ∧
    (∀ (x : SctCmd) (scores : List Machine.Num), x.topk = true →
      (choose x scores).length = min x.k (scores.filter fun v => !v.isNaN).length ∧
        ∀ c ∈ choose x scores, ∀ (n : Nat) (v : Machine.Num), scores[n]? = some v → v.isNaN = false →
          (∀ e ∈ choose x scores, e.1 ≠ n) → c.before (n, if x.abs then v.mag else v) = true) ∧
    ∀ (x : SctCmd) (scores : List Machine.Num) (n : Nat) (v : Machine.Num), x.topk = false → scores[n]? = some v →
      v.isNaN = false →
      ((n, if x.abs then v.mag else v) ∈ choose x scores ↔
        (if x.abs then v.mag else v).lt (fp32.decode x.thresh) = false)

/-- SELECT and AUDIT run their work where the slot asks for it; where that ends, the command has issued; a fault stops
the selector, with nothing running or waiting. A SELECT on a DENSE slot writes nothing and leaves DENSE_TAKEN set; an
AUDIT whose AUDIT_K is 13 or more audits no token and does not trip, its checks apart (R137 to R144, R149). STEP starts a step of its slot: TRUTH, MISS and
EXTRA become 0 once the Compass has read every slot's, STEPNO is the command's with an audit offset below 2^AUDIT_K, the
trip of the step is forgotten, nothing else changes (R142, R145). A slot trips at most once a step, only with MIN_TRUTH reached and the misses above LIMIT
(R144). -/
def Obligations.ScoutCommands : Prop :=
  ((∀ (s : State) (t : TentId) (c : Cmd), s.dev.sctHead t.toNat 1 = some c →
     let x := sctOf c
     let dense := s.dev.regF (slotReg t.toNat x.slot + 4) 28 1 == 1
     let d := s.dev.modSel t.toNat fun y => { y with denseTaken := dense }
     (dense = true → Yields (.select t) s (d.sctIssued t.toNat)) ∧
     (dense = false → ∀ y, workEnds (selectWork (d.sctPort t.toNat) x) d = some y →
       Yields (.select t) s (y.dev.sctIssued t.toNat)) ∧
     (dense = false → ∀ k o e, workFaults (selectWork (d.sctPort t.toNat) x) d = some (k, o, e) →
       Does (.select t) s fun f => (f.tent t.toNat).sel.stopped = true ∧ (f.tent t.toNat).sel.running = none ∧
         (f.tent t.toNat).sel.waiting = none)) ∧
     ∀ (s : State) (t : TentId) (c : Cmd), s.dev.sctHead t.toNat 2 = some c →
       let x := sctOf c
       let d := s.dev
       let on := decide (d.regF (slotReg t.toNat x.slot) 0 4 < 13)
       (∀ y, workEnds (auditWork (d.sctPort t.toNat) x on) d = some y →
         Yields (.audit t) s ((if on then y.dev.tripTest t.toNat x.slot else y.dev).sctIssued t.toNat)) ∧
       (∀ n o e, workFaults (auditWork (d.sctPort t.toNat) x on) d = some (n, o, e) →
         Does (.audit t) s fun f => (f.tent t.toNat).sel.stopped = true ∧ (f.tent t.toNat).sel.running = none ∧
           (f.tent t.toNat).sel.waiting = none)) ∧
  ((∀ (s : State) (t : TentId) (c : Cmd), s.dev.sctHead t.toNat 3 = some c →
     let x := sctOf c
     let a := slotReg t.toNat x.slot
     Does (.step t) s fun e =>
       e.reg (a + 8) = 0 ∧ e.reg (a + 16) = 0 ∧ e.reg (a + 24) = 0 ∧ e.regF (a + 4) 0 16 = x.thresh % 2 ^ 16 ∧
         e.regF (a + 4) 16 12 < 2 ^ s.dev.regF a 0 4 ∧ e.regF (a + 4) 28 1 = 0 ∧
         x.slot ∉ (e.tent t.toNat).sel.tripped ∧ (e.tent t.toNat).sel.issued = true ∧
         look (fun _ => 0) (e.tent t.toNat).sel.layerId x.slot = x.k ∧
         look (fun _ => 0) (e.tent t.toNat).sel.stepNo x.slot = x.thresh ∧
         (∀ n : BitVec 6, ∀ o ∈ [8, 16, 24], look (fun _ => 0) e.compassRead (slotReg t.toNat n.toNat + o) =
           BitVec.ofNat 64 (s.dev.reg (slotReg t.toNat n.toNat + o))) ∧ e.mem = s.dev.mem ∧
         e.events = s.dev.events) ∧
     (∀ (d : Dev) (t : TentId) (n : BitVec 6), n.toNat ∈ (d.tent t.toNat).sel.tripped → d.tripTest t.toNat n.toNat = d) ∧
     ∀ (d : Dev) (t : TentId) (n : BitVec 6),
       let a := slotReg t.toNat n.toNat
       n.toNat ∉ (d.tent t.toNat).sel.tripped → d.regF a 4 2 ≠ 0 → 64 * d.regF a 22 10 ≤ d.reg (a + 8) →
       d.regF a 6 16 * d.reg (a + 8) < d.reg (a + 16) * 2 ^ 16 →
       let e := d.tripTest t.toNat n.toNat
       n.toNat ∈ (e.tent t.toNat).sel.tripped ∧ (d.regF a 4 1 = 1 → e.regF (a + 4) 28 1 = 1) ∧
         (d.regF a 5 1 = 1 → ∃ y : Event, e.events = d.events ++ [y] ∧ y.cls = 0 ∧ y.code = 0x103 ∧ y.unit = t.toNat))

/-! ### The vector engine (R150 to R170) -/

/-- The vector rows: opcode and work. -/
def Sys2Proof.vectorRows : List ((TentId → List (BitVec 13 × EccFind) → Instr) × Nat × (PadPort → Cmd → Eng Unit)) :=
  [(fun t _ => .vecLoad t, 1, loadWork), (.vecStore, 2, storeWork), (.recipe, 3, fun p c => recipeWork p.t c),
    (.vecReduce, 4, fun p c => reduceWork p.t c)]

/-- Table 7.5: the integer and bit steps on two INT32 operands. -/
def Sys2Proof.vectorIntRows : List (Nat × (Half → Half → Half)) :=
  [(0x18, fun x y => x + y), (0x19, fun x y => x - y), (0x1A, fun x y => x * y), (0x1B, fun x y => x &&& y),
    (0x1C, fun x y => x ||| y), (0x1D, fun x y => x ^^^ y), (0x1E, fun x y => x <<< (y.toNat % 32)),
    (0x1F, fun x y => x >>> (y.toNat % 32)), (0x20, fun x y => x.sshiftRight (y.toNat % 32)),
    (0x21, fun x y => if x.toInt ≤ y.toInt then x else y), (0x22, fun x y => if x.toInt ≤ y.toInt then y else x),
    (0x23, fun x y => if x.toInt < y.toInt then 1 else 0)]

/-- A LOAD, STORE, RECIPE or REDUCE that may issue runs its work with the errors that have struck elements of the file: where
that ends it is in flight with its flags; where it faults the queue is discarded and stops and VEC_ERR_POS holds the
place (R154, R156 to R166, R170). The integer and bit steps give the results of Table 7.5 and raise no flag; SEL takes
its second operand where the first is not zero; ABS and NEG work on the sign bit alone; the result of a floating step
with a NaN operand is 0x7FC0_0000 with no flag (R160, R161, R167). -/
def Obligations.VectorCommands : Prop :=
  (∀ r ∈ vectorRows, ∀ (s : State) (t : TentId) (c : Cmd) (find : List (BitVec 13 × EccFind)),
     s.dev.vecHead t.toNat r.2.1 = some c → (r.2.1 = 1 → find = []) →
     let d := s.dev.vecStruck t.toNat find
     let work := r.2.2 (d.vecPort t.toNat) c
     (∀ x, workEnds work d = some x →
       Yields (r.1 t find) s (x.dev.issue t.toNat 7 { cmd := c, flags := x.flags, olds := d.wordsLost x.dev })) ∧
     ∀ k o e, workFaults work d = some (k, o, e) →
       Does (r.1 t find) s fun f =>
         f.queue t.toNat 7 = ⟨[], [], false, true, []⟩ ∧ f.reg (vecReg t.toNat 0x10) = o % 2 ^ 64 ∧
           ∃ y : Event, f.events = e.events ++ [y] ∧ y.cls = 2 ∧ y.code = 0x405 ∧ y.detail % 256 = k % 256) ∧
  ((∀ r ∈ vectorIntRows, ∀ (dst a b c f : Nat) (m : Rnd) (sr rand : Nat) (x y z : Half),
     stepValue ⟨r.1, dst, a, b, c, f⟩ m sr rand x.toNat y.toNat z.toNat = ((r.2 x y).toNat, 0)) ∧
     (∀ (dst a b c f : Nat) (m : Rnd) (sr rand : Nat) (x y z : Half),
       stepValue ⟨0x0F, dst, a, b, c, f⟩ m sr rand x.toNat y.toNat z.toNat =
           ((if x ≠ 0 then y else z).toNat, 0) ∧
         stepValue ⟨0x0A, dst, a, b, c, f⟩ m sr rand x.toNat y.toNat z.toNat = ((x &&& 0x7FFF_FFFF).toNat, 0) ∧
         stepValue ⟨0x0B, dst, a, b, c, f⟩ m sr rand x.toNat y.toNat z.toNat = ((x ^^^ 0x8000_0000).toNat, 0)) ∧
     ∀ op ∈ [0x01, 0x02, 0x03, 0x05, 0x08, 0x09], ∀ (dst a b c f : Nat) (m : Rnd) (sr rand x y z : Nat),
       ((fp32.decode x).isNaN = true ∨ (fp32.decode y).isNaN = true) →
       stepValue ⟨op, dst, a, b, c, f⟩ m sr rand x y z = (0x7FC0_0000, 0))

/-! ### The pack (R176 to R194) -/

/-- A completed POP or DROP takes the top frame off and leaves those below it; a completed PUSH leaves the stack
(R180). A spill moves the lowest HBM frame to the top of the LPDDR part, a refill the top LPDDR frame back below the
HBM frames: the frames keep their order and sizes (R177, R182). -/
def Obligations.PackStackOrder : Prop :=
  (∀ (d : Dev) (t : TentId) (c : Cmd),
    ((cmdOp c = 2 ∨ cmdOp c = 3) → ((d.pckFinish t.toNat c).stack t.toNat).frames = (d.stack t.toNat).frames.dropLast) ∧
      (cmdOp c = 1 → ((d.pckFinish t.toNat c).stack t.toNat).frames = (d.stack t.toNat).frames)) ∧
    ∀ (s : State) (t : TentId), s.dev.halted = false → (s.dev.stack t.toNat).stopped = false →
      let k := s.dev.stack t.toNat
      let cap := s.dev.partCap t.toNat false
      (∀ f rest x, k.spilling = true → k.inPart false = f :: rest → s.dev.spillNeeded t.toNat = true →
        k.used true + f.size ≤ s.dev.partCap t.toNat true → (rest ≠ [] ∨ s.dev.pushWaits t.toNat = true) →
        workEnds (moveFrame t.toNat f ⟨k.used true, f.size, true⟩) s.dev = some x →
        Does (.packSpill t) s fun e =>
          (e.stack t.toNat).frames = (k.swap f ⟨k.used true, f.size, true⟩).frames ∧ e.mem = x.dev.mem) ∧
      (∀ f x, k.refilling = true → (k.inPart true).getLast? = some f → k.used false + f.size ≤ cap →
        k.inPart false = [] → workEnds (moveFrame t.toNat f ⟨0, f.size, false⟩) s.dev = some x →
        Does (.packRefill t) s fun e =>
          (e.stack t.toNat).frames = (k.swap f ⟨0, f.size, false⟩).frames ∧ e.mem = x.dev.mem) ∧
      (k.spilling = false → Yields (.packSpill t) s s.dev) ∧ (k.refilling = false → Yields (.packRefill t) s s.dev)

/-- PUSH, POP and DROP at the head of queue 9 with none in flight. With the pack off, or the stack empty, or no way to
hold the frame, the command is the fault 0x04, 0x05 or 0x06: the queue is discarded, the stack stops, and a POP's
destinations are open. With room in
the HBM part, and its parts readable, a PUSH puts its frame on top; with its header matching and its parts movable a
POP is in flight, and a DROP moves nothing; a header that does not match is fault 0x10 and moves nothing (R176 to
R182, R185). A GEN change empties every stack and every pack queue and is then done; nothing of memory changes (R183).
A non-secure write of a pack register of a die, or one while a stack of the die holds frames, is refused; otherwise
PCK_SHARE and the bases take the value, and PCK_CTL takes it with EN set only where both parts lie in their tiers and
LOW is below HIGH (R193, R194). -/
def Obligations.PackCommands : Prop :=
  (∀ (s : State) (t : TentId) (c : Cmd),
     let d := s.dev
     let die := pckDie t.toNat
     let on := d.regF (pckReg die 0) 0 1 = 1
     let hcap := d.partCap t.toNat false
     let n := frameSize c
     let stops := fun (i : Instr) (k : Nat) => Does i s fun e =>
       (e.queue t.toNat 9).entries = [] ∧ (e.queue t.toNat 9).flight = [] ∧ (e.queue t.toNat 9).stopped = true ∧
         (e.stack t.toNat).stopped = true ∧ (e.stack t.toNat).frames = (d.stack t.toNat).frames ∧
         e.mem = (d.popUndef t.toNat c).mem ∧
         ∃ y : Event, y ∈ e.events ∧ y.cls = 2 ∧ y.code = 0x406 ∧ y.detail % 256 = k
     (d.pckHead t.toNat 1 = some c →
       (¬ on → stops (.push t) 0x04) ∧
       (on → (hcap < n ∨ 65535 ≤ (d.stack t.toNat).frames.length ∨
           (d.stack t.toNat).canHold hcap (d.partCap t.toNat true) n = false) → stops (.push t) 0x06) ∧
       (on → n ≤ hcap → (d.stack t.toNat).frames.length < 65535 →
         (d.stack t.toNat).canHold hcap (d.partCap t.toNat true) n = true →
         (hcap < (d.stack t.toNat).used false + n →
           Yields (.push t) s
             (({ d with fresh := d.fresh + 1 }.bump (pckReg die 0xB8) (Config.stallSteps d.fresh)).modStack t.toNat
               fun x => { x with spilling := true })) ∧
         ∀ x, workEnds (pushWork t.toNat c ⟨(d.stack t.toNat).nextOff hcap, n, false⟩) d = some x →
           (d.stack t.toNat).used false + n ≤ hcap →
           Yields (.push t) s ((x.dev.issue t.toNat 9 { cmd := c }).modStack t.toNat fun y => { y with
             spilling := y.spilling ||
               decide (d.regF (pckReg die 0) 1 4 * hcap < 16 * ((d.stack t.toNat).used false + n)) }))) ∧
     ∀ op ∈ [2, 3], d.pckHead t.toNat op = some c →
       let row : Instr := if op = 2 then .pop t else .drop t
       (¬ on → stops row 0x04) ∧ (on → (d.stack t.toNat).frames = [] → stops row 0x05) ∧
       ∀ f found, on → (d.stack t.toNat).frames.getLast? = some f →
         (packRead t.toNat (d.framePieces t.toNat f 0 24)).run { dev := d } = (.ok found, { dev := d }) →
         (found ≠ d.frameHdr c ((d.stack t.toNat).frames.length - 1) → stops row 0x10) ∧
         (found = d.frameHdr c ((d.stack t.toNat).frames.length - 1) →
           (op = 3 → Yields row s (d.issue t.toNat 9 { cmd := c })) ∧
           ∀ b0 b1,
             (packRead t.toNat (d.framePieces t.toNat f 64 (cmdB c 12 4))).run { dev := d } = (.ok b0, { dev := d }) →
             (if cmdB c 20 4 = 0 then b1 = [] else
               (packRead t.toNat (d.framePieces t.toNat f (64 + (cmdB c 12 4 + 63) / 64 * 64) (cmdB c 20 4))).run
                 { dev := d } = (.ok b1, { dev := d })) →
             d.padWrites (d.pckPort t.toNat) (cmdB c 8 4) b0.length = true →
             (cmdB c 20 4 ≠ 0 → (d.wrB (tentMem t.toNat (cmdB c 8 4)) b0).padWrites (d.pckPort t.toNat) (cmdB c 16 4)
               b1.length = true) →
             op = 2 → f.spilled = false →
             Yields row s (((if cmdB c 20 4 = 0 then d.wrB (tentMem t.toNat (cmdB c 8 4)) b0 else
               (d.wrB (tentMem t.toNat (cmdB c 8 4)) b0).wrB (tentMem t.toNat (cmdB c 16 4)) b1)).issue t.toNat 9
                 { cmd := c }))) ∧
  ((∀ s : State, s.dev.packGenClr = true → Does .packGenClear s fun e =>
     e.packGenClr = false ∧ e.mem = s.dev.mem ∧
       ∀ t : TentId, (e.stack t.toNat).frames = [] ∧ (e.queue t.toNat 9).entries = [] ∧
         (e.queue t.toNat 9).flight = []) ∧
     ∀ (s : State) (m : BitVec 2) (w u : Writer) (v : Word), s.acting w = some u →
       let d := s.dev
       let die := 2 + m.toNat
       let ctl := pckReg die 0
       let row := fun off : BitVec 8 => Instr.packConfigWrite m w off v
       (u.secure = false → ∀ off, Yields (row off) s
         (d.dieErr die 0 6 1 0x06 { addr := pckReg die off.toNat })) ∧
       (u.secure = true → d.pckHeld m.toNat = true → ∀ off, Yields (row off) s (d.setRegF ctl 9 1 1)) ∧
       (u.secure = true → d.pckHeld m.toNat = false →
         Yields (row 4) s (d.setReg (pckReg die 4) (v.toNat % 2 ^ 16)) ∧
         Yields (row 8) s (d.setReg (pckReg die 8) v.toNat) ∧
         Yields (row 0x10) s (d.setReg (pckReg die 0x10) v.toNat) ∧
         (bitAt v.toNat 0 = false → bitAt v.toNat 9 = false → Yields (row 0) s (d.setRegF ctl 0 9 v.toNat)) ∧
         let share := d.reg (pckReg die 4)
         (bitAt v.toNat 0 = true →
           (regionOk (d.reg (pckReg die 8)) (field share 0 8) 0 hbmEnd &&
             regionOk (d.reg (pckReg die 0x10)) (field share 8 8) lpBase lpEnd &&
             decide (field v.toNat 5 4 < field v.toNat 1 4)) = false →
           Yields (row 0) s (d.setRegF ctl 9 1 1)) ∧
         (bitAt v.toNat 0 = true → bitAt v.toNat 9 = false →
           (regionOk (d.reg (pckReg die 8)) (field share 0 8) 0 hbmEnd &&
             regionOk (d.reg (pckReg die 0x10)) (field share 8 8) lpBase lpEnd &&
             decide (field v.toNat 5 4 < field v.toNat 1 4)) = true →
           Yields (row 0) s (d.setRegF ctl 0 9 v.toNat))))

/-! ### Experts and routing (R195 to R216) -/

/-- ROUTE, DISPATCH and ANSWER at the head of queue 8, a DISPATCH with its combine group closed: where the work ends,
its writes are sent and the command is in flight until its packets are acknowledged; where it faults, every command
not issued is discarded, the routing commands in flight too, and the expert unit stops (R197, R202, R205, R213). A
DISPATCH whose group is open waits (R206). A dispatch or an answer of another job, GEN or EPOCH is discarded and
counted; an accepted dispatch fills its slot; an accepted answer fills its sub-slot and counts in its group, which
closes and signals its peg with the last one (R203, R204, R206). A GEN change takes every routing command out of the
movers' queues and leaves the others in their order (R209). -/
def Obligations.RoutingCommands : Prop :=
  (∀ (s : State) (t : TentId) (c : Cmd),
     let d := s.dev
     let sent := fun (x : EngS) (note : List Byte) =>
       let f := x.dev.flush (.queue t.toNat 8) { job := x.dev.job } x.out
       f.2.issue t.toNat 8 { cmd := c, descs := note, acks := x.acks ++ f.1, olds := d.wordsLost x.dev }
     let stops := fun (i : Instr) => Does i s fun e =>
       (e.queue t.toNat 8).entries = [] ∧ (e.tent t.toNat).xstopped = true ∧
         ∀ x ∈ (e.queue t.toNat 8).flight, cmdOp x.cmd < 12
     (d.movHead t.toNat 0xC = some c →
       (∀ x, workEnds (routeWork t.toNat c) d = some x → Yields (.route t) s (sent x [])) ∧
       ∀ k, workFaults (routeWork t.toNat c) d = some k → stops (.route t)) ∧
     (d.movHead t.toNat 0xD = some c →
       let group := d.regF (grpAddr t.toNat (cmdF c 149 3)) 42 1
       (group = 1 → Yields (.dispatch t) s d) ∧
       (group ≠ 1 → (∀ x, workEnds (dispatchWork t.toNat c) d = some x → Yields (.dispatch t) s (sent x [])) ∧
         ∀ k, workFaults (dispatchWork t.toNat c) d = some k → stops (.dispatch t))) ∧
     (d.movHead t.toNat 0xE = some c → ∀ e x, (answerWork t.toNat c).run { dev := d } = (.ok e, x) →
       Yields (.answer t) s (sent x (leBytes 4 e.inOff ++ leBytes 4 (8 * e.words))))) ∧
  ((∀ (s : State) (p : RoutePkt),
     let d := s.dev
     let h := rhdrOf p.body
     let t := p.t.toNat
     let stale := fun n : Nat => d.bump (rteReg t n) 1
     p.src.toNat = d.devId → h.reserved = false →
     (∀ i ∈ [(Instr.dispatchPacketArrive p, 1), (Instr.answerArrive p, 2)], h.kind = i.2 →
       (h.job ≠ d.job → Yields i.1 s (stale 0xA8)) ∧
       (h.job = d.job → h.gen ≠ d.gen → Yields i.1 s (stale 0xA0)) ∧
       (h.job = d.job → h.gen = d.gen → h.epoch ≠ d.epoch → Yields i.1 s (stale 0xB0))) ∧
     (h.job = d.job → h.gen = d.gen → h.epoch = d.epoch →
       (h.kind = 1 → ∀ x, workEnds (arriveWork t h p.body) d = some x → Yields (.dispatchPacketArrive p) s x.dev) ∧
       let a := grpAddr t h.grp
       let g := d.group t h.grp
       let tok := h.token - g.tbase
       let e := (d.wrB (tentMem t (g.sub tok h.rank)) (slice p.body 32 g.pb)).setRegF a 17 17 (d.regF a 17 17 + 1)
       (h.kind = 2 → d.regF a 42 1 = 1 → (d.regF a 43 1 == 1) = h.back → g.tbase ≤ h.token → tok < g.nt →
         h.rank < g.k → h.ret = d.devId * 2 ^ 48 + tentMem t (g.sub tok h.rank) → h.len = g.pb →
         d.padWrites (d.rtePort t) (g.sub tok h.rank) g.pb = true →
         (d.regF a 17 17 + 1 ≠ d.regF a 0 17 → Yields (.answerArrive p) s e) ∧
         (d.regF a 17 17 + 1 = d.regF a 0 17 → Yields (.answerArrive p) s (e.closeGroup t h.grp))))) ∧
     ∀ s : State, s.dev.expertGenClr = true → Does .expertGenClear s fun e =>
       e.expertGenClr = false ∧ ∀ t : TentId,
         (e.queue t.toNat 8).entries = (s.dev.queue t.toNat 8).entries.filter (fun c => decide (cmdOp c < 12)) ∧
         (e.queue t.toNat 8).flight = (s.dev.queue t.toNat 8).flight.filter (fun i => decide (cmdOp i.cmd < 12)))

/-! ### The memory tiers (R217 to R239) -/

/-- A read of memory of this device whose way is open is answered with its bytes, a write puts them, an accumulate adds
element by element; beside that only the arbiters on the way change. Where the way is cut nothing happens (R19, R30). A
non-secure request that touches a secure region is refused whole with zeros; an uncorrectable granule is
answered UNCORR (R6, R224, R225, R230, R238). Integer accumulation is exact and saturates; two FP32 elements add with one
rounding (R230). -/
def Obligations.MemoryRequests : Prop :=
  ((∀ (s : State) (a : RAccess) (u : Writer) (x : Nat) (rivals : List (BitVec 4)), s.acting a.by_ = some u →
     s.dev.memHere a.addr.toNat a.len = some x →
     let d := s.dev
     (d.cutOff u.who true x a.len = true → Yields (.memoryRead a rivals []) s d) ∧
     (d.ready u.who true x a.len = true →
       ((u.secure = true ∨ d.memSecure x a.len = false) → d.badIn x a.len = false →
         Does (.memoryRead a rivals []) s fun e =>
           e.response = some (u.who, ⟨0, d.rd x a.len⟩) ∧ e.mem = d.mem ∧ e.bad = d.bad ∧ e.regsAs d ∧
             e.events = d.events) ∧
       (u.secure = false → d.memSecure x a.len = true → Does (.memoryRead a rivals []) s fun e =>
         e.response = some (u.who, ⟨2, List.replicate a.len 0⟩) ∧ e.mem = d.mem ∧
           ∃ y : Event, e.events = d.events ++ [y] ∧ y.cls = 1 ∧ y.code = 0x407) ∧
       ((u.secure = true ∨ d.memSecure x a.len = false) → d.badIn x a.len = true →
         Does (.memoryRead a rivals []) s fun e => ∃ bs : List Byte, e.response = some (u.who, ⟨1, bs⟩) ∧
           bs.length = a.len ∧ (∀ i < a.len, d.badIn (x + i) 1 = false → bs[i]? = (d.rd x a.len)[i]?) ∧
           e.mem = d.mem ∧ ∃ y : Event, e.events = d.events ++ [y] ∧ y.cls = 2 ∧ y.code = 0x407))) ∧
     (∀ (s : State) (a : WAccess) (u : Writer) (x : Nat) (rivals : List (BitVec 4)), s.acting a.by_ = some u →
       s.dev.memHere a.addr.toNat a.data.length = some x →
       let d := s.dev
       (d.cutOff u.who false x a.data.length = true → Yields (.memoryWrite a ⟨rivals, []⟩) s d ∧
         ∀ fmt : BitVec 4, Yields (.memoryAccumulate a fmt ⟨rivals, []⟩) s d) ∧
       (d.ready u.who false x a.data.length = true →
         ((u.secure = true ∨ d.memSecure x a.data.length = false) → d.blockedBy x a.data.length = [] →
           Does (.memoryWrite a ⟨rivals, []⟩) s fun e =>
             e.response = some (u.who, ⟨0, []⟩) ∧ e.mem = (d.wrB x a.data).mem ∧ e.regsAs d ∧
               (∀ i, look byte0 e.mem i =
                 if x ≤ i ∧ i < x + a.data.length then a.data.getD (i - x) 0 else look byte0 d.mem i)) ∧
         (u.secure = false → d.memSecure x a.data.length = true →
           Does (.memoryWrite a ⟨rivals, []⟩) s (fun e =>
             e.response = some (u.who, ⟨2, []⟩) ∧ e.mem = d.mem ∧ e.bad = d.bad) ∧
           ∀ fmt : BitVec 4, Does (.memoryAccumulate a fmt ⟨rivals, []⟩) s fun e =>
             e.response = some (u.who, ⟨2, []⟩) ∧ e.mem = d.mem ∧ e.bad = d.bad))) ∧
     ∀ (s : State) (a : WAccess) (u : Writer) (x : Nat) (fmt : BitVec 4) (rivals : List (BitVec 4)),
       s.acting a.by_ = some u → s.dev.memHere a.addr.toNat a.data.length = some x →
       let d := s.dev
       d.ready u.who false x a.data.length = true → (u.secure = true ∨ d.memSecure x a.data.length = false) →
       (accBytes fmt.toNat = 0 → Does (.memoryAccumulate a fmt ⟨rivals, []⟩) s fun e =>
         e.response = some (u.who, ⟨3, []⟩) ∧ e.mem = d.mem) ∧
       (fmt = 0 ∨ fmt = 9 → x % 4 = 0 → a.data.length % 4 = 0 → d.badIn x a.data.length = false →
         Does (.memoryAccumulate a fmt ⟨rivals, []⟩) s fun e =>
           (∀ i < a.data.length / 4, ∀ o, accElem fmt.toNat (d.rdNat (x + 4 * i) 4) (leAt a.data (4 * i) 4) = some o →
             e.rdNat (x + 4 * i) 4 = o.bits % 2 ^ 32) ∧
             (∀ i, (i < x ∨ x + a.data.length ≤ i) → look byte0 e.mem i = look byte0 d.mem i) ∧
             ∃ st, e.response = some (u.who, ⟨st, []⟩) ∧ (st = 0 ∨ (fmt = 9 ∧ st = 4)))) ∧
  ((∀ x y : Half,
     let v := x.toInt + y.toInt
     accElem 9 x.toNat y.toNat = some
       (if 2 ^ 31 - 1 < v then ⟨2 ^ 31 - 1, true, false⟩ else if v < -(2 ^ 31) then ⟨2 ^ 31, true, false⟩
         else ⟨(x + y).toNat, false, false⟩)) ∧
     ∀ x y : Nat, ∃ inf, accElem 0 x y =
       some ⟨(fp32.narrow .rne 0 false ((fp32.decode x).add .rne (fp32.decode y)).1).1, false, inf⟩)

/-- A response that waits for its requester is taken; one with a status stops the requester's oldest command: the
engine's queue is discarded and stops (R224, R278). The oldest store an S-core posted lands instead where there is
one. An error of up to 3 symbols of an HBM3E granule, 2 of an LPDDR5X one, is corrected, counted and recorded and the
data stands; one of 4 or 5 in HBM3E stays unreadable and is answered UNCORR (R222 to R224). The scrub meets the same
errors, unless SCRUB_H is 0 (R226). A finished row or bank repair leaves its list, is counted and goes to flash; after a
bank copy the bank is a spare one (R227, R228). -/
def Obligations.MemoryResponsesAndRepair : Prop :=
  ((∀ (s : State) (who : Master) (bs : List Byte), s.dev.response = some (who, ⟨0, bs⟩) → s.dev.warmAsked = false →
     (∀ t n, who = .score t n → s.dev.oldestStore t.toNat n.toNat = none) →
     Yields (.memoryResponse who 0) s { s.dev with response := none }) ∧
     (∀ (s : State) (t : TentId) (st : BitVec 3) (bs : List Byte) (i : Issued), st ≠ 0 → s.dev.warmAsked = false →
       ((s.dev.response = some (.vector t, ⟨st.toNat, bs⟩) → (s.dev.queue t.toNat 7).flight[0]? = some i →
         Does (.memoryResponse (.vector t) st) s fun e => e.queue t.toNat 7 = ⟨[], [], false, true, []⟩) ∧
       ∀ a : BitVec 3, a.toNat < 6 → s.dev.response = some (.arrayPort t a, ⟨st.toNat, bs⟩) →
         (s.dev.queue t.toNat a.toNat).flight[0]? = some i →
         Does (.memoryResponse (.arrayPort t a) st) s fun e =>
           e.queue t.toNat a.toNat = ⟨[], [], false, true, []⟩)) ∧
     ∀ (s : State) (t : TentId) (n : CoreNo) (st : BitVec 3) (x : Store) (a : Nat),
       s.dev.oldestStore t.toNat n.toNat = some x → s.dev.place x.addr.toNat = .here a → regionOf a = .hbm →
       inTier a x.data.length = true → (x.secure = true ∨ s.dev.memSecure a x.data.length = false) →
       s.dev.blockedBy a x.data.length = [] → s.dev.warmAsked = false →
       s.dev.ready (.score (BitVec.ofNat 14 x.t) (BitVec.ofNat 2 x.core)) false a x.data.length = true →
       Does (.memoryResponse (.score t n) st) s fun e =>
         e.mem = (s.dev.wrB a x.data).mem ∧ e.stores = s.dev.stores.filter fun y => y.seq != x.seq) ∧
  ((∀ (s : State) (a : RAccess) (u : Writer) (x g n : Nat) (again : Bool), s.acting a.by_ = some u →
     s.dev.memHere a.addr.toNat a.len = some x → s.dev.ready u.who true x a.len = true → g % 64 = 0 →
     unitLen g = 64 → x < g + 64 → g < x + a.len → u.secure = true →
     (1 ≤ n → n ≤ corrects g → s.dev.badIn x a.len = false →
       Does (.memoryRead a [] [(g, .wrong n false)]) s fun e =>
         e.response = some (u.who, ⟨0, s.dev.rd x a.len⟩) ∧ e.mem = s.dev.mem ∧ e.bad = s.dev.bad ∧
           ∃ y : Event, e.events = s.dev.events ++ [y] ∧ y.cls = 1) ∧
     (corrects g < n → n ≤ detects g → Does (.memoryRead a [] [(g, .wrong n again)]) s fun e =>
       g ∈ e.bad ∧ e.mem = s.dev.mem ∧ ∃ bs, e.response = some (u.who, ⟨1, bs⟩))) ∧
     (∀ g, (regionOf g = .hbm → corrects g = 3 ∧ detects g = 5) ∧
       (regionOf g = .lpddr → corrects g = 2 ∧ detects g = 2)) ∧
     (∀ (s : State) (ctl : BitVec 4) (find : List (Nat × Upset)) (reports : List Nat),
       let key := 8 + ctl.toNat
       let maint := dieReg (key / 4) ((2 + key % 4) * 0x100_0000)
       (s.dev.regF maint 0 8 = 0 → Yields (.scrub ctl find reports) s
         (s.dev.struck (find ++ reports.map fun g => (g, Upset.onDie)))) ∧
       ∀ g n, s.dev.regF maint 0 8 ≠ 0 → s.dev.flips = [] → (∀ u ∈ s.dev.bad, s.dev.ofController key u = false) →
         s.dev.ofController key g = true → g % 64 = 0 →
         (1 ≤ n → n ≤ corrects g → Yields (.scrub ctl [(g, .wrong n false)] []) s (s.dev.corrected g)) ∧
         (corrects g < n → n ≤ detects g → Does (.scrub ctl [(g, .wrong n false)] []) s fun e =>
           g ∈ e.bad ∧ e.mem = s.dev.mem ∧ ∃ y : Event, e.events = s.dev.events ++ [y] ∧ y.cls = 1)) ∧
     ∀ (s : State) (ctl : BitVec 4) (r : MemLoc),
       let key := 8 + ctl.toNat
       let listed := fun x : Repair =>
         { s.perm with flash := { s.perm.flash with repairs := s.perm.flash.repairs ++ [x] } }
       (s.dev.rowSaves.find? (fun x => x.key == key) = some r →
         ∃ d, exec (.rowRepairDone ctl) s = .next { s with perm := listed (.row r), dev := d } ∧
           d.rowSaves = s.dev.rowSaves.erase r ∧ d.mem = s.dev.mem ∧
           ∃ y : Event, d.events = s.dev.events ++ [y] ∧ y.cls = 1 ∧ y.detail % 256 = 3) ∧
       (s.dev.bankCopies.find? (fun x => x.key == key) = some r →
         ∃ d, exec (.bankCopyDone ctl) s = .next { s with perm := listed (.bank r), dev := d } ∧
           d.bankCopies = s.dev.bankCopies.erase r ∧ d.mem = s.dev.mem ∧
           (∃ k, d.physBank r = spareBank r.ch k) ∧
           ∃ y : Event, d.events = s.dev.events ++ [y] ∧ y.cls = 1 ∧ y.detail % 256 = 4))

/-- GO with bounds of whole 64 KiB of one tier starts a clear at once where none runs: its range reads zero from then
on and nothing else of memory changes; a second waits; a third sets CLR_ERR; bad bounds, or a secure granule under a
non-secure writer, refuse it; an empty range only counts. A finished clear starts the one that waits (R233 to R235). -/
def Obligations.FastClear : Prop :=
  (∀ (s : State) (w u : Writer), s.acting w = some u →
    let d := s.dev
    let lo := d.reg clearAddr
    let hi := d.reg (clearAddr + 8)
    (clearBounds lo hi = false → Does (.clearGo w) s fun e =>
      e.regF (clearAddr + 0x10) 3 1 = 1 ∧ e.mem = d.mem ∧ e.clearRun = d.clearRun ∧ e.clearWait = d.clearWait) ∧
    (clearBounds lo hi = true → lo = hi → Does (.clearGo w) s fun e => e.mem = d.mem ∧ e.clearRun = d.clearRun) ∧
    (clearBounds lo hi = true → lo ≠ hi → u.secure = false → d.memSecure lo (hi - lo) = true →
      Does (.clearGo w) s fun e => e.regF (clearAddr + 0x10) 3 1 = 1 ∧ e.mem = d.mem) ∧
    (clearBounds lo hi = true → lo ≠ hi → (u.secure = true ∨ d.memSecure lo (hi - lo) = false) →
      (d.clearRun = none → Does (.clearGo w) s fun e =>
        e.clearRun = some ⟨lo, hi, none⟩ ∧ e.regF (clearAddr + 0x10) 1 1 = 1 ∧
          ∀ i, look byte0 e.mem i = if lo ≤ i ∧ i < hi then 0 else look byte0 d.mem i) ∧
      (d.clearRun.isSome = true → d.clearWait = none → Does (.clearGo w) s fun e =>
        e.clearWait = some ⟨lo, hi, none⟩ ∧ e.regF (clearAddr + 0x10) 2 1 = 1 ∧ e.mem = d.mem) ∧
      (d.clearRun.isSome = true → d.clearWait.isSome = true →
        Yields (.clearGo w) s (d.setRegF (clearAddr + 0x10) 3 1 1)))) ∧
    ∀ (s : State) (c : Clear), s.dev.clearRun = some c → c.rgn = none →
      (∀ w, s.dev.clearWait = some w → Does .clearDone s fun e =>
        e.clearRun = some w ∧ e.clearWait = none ∧
          ∀ i, look byte0 e.mem i = if w.lo ≤ i ∧ i < w.hi then 0 else look byte0 s.dev.mem i) ∧
      (s.dev.clearWait = none → s.dev.strikeRgn = [] → Does .clearDone s fun e =>
        e.clearRun = none ∧ e.clearWait = none ∧ e.regF (clearAddr + 0x10) 1 1 = 0 ∧ e.mem = s.dev.mem)

/-- A secure write of a region register is in force at once where it takes nothing out of a secure region; a
non-secure one is refused and logged. A region that stops being secure reads zero wherever no other region keeps it
secure, and its new entry waits; REGION_LOWER_DONE puts it in force (R237, R239). -/
def Obligations.RegionWrites : Prop :=
  (∀ (s : State) (w u : Writer) (n : BitVec 6) (which : BitVec 2) (v : Word), s.acting w = some u →
    let d := s.dev
    let a := rgnAddr n.toNat
    (u.secure = false → Yields (.regionWrite w n which v) s
      (d.dieErr 2 0 7 1 0x06 { addr := a + 8 * which.toNat })) ∧
    (u.secure = true → d.rgnSecure n.toNat = false → (d.lowering.find? fun p => p.1 == n.toNat) = none →
      (which = 2 → Does (.regionWrite w n which v) s fun e =>
        e.reg (a + 0x10) = v.toNat % 8 ∧ e.reg a = d.reg a ∧ e.reg (a + 8) = d.reg (a + 8) ∧ e.mem = d.mem) ∧
      (which = 0 → Does (.regionWrite w n which v) s fun e =>
        e.regF a 20 28 = field v.toNat 20 28 ∧ e.reg (a + 8) = d.reg (a + 8) ∧ e.mem = d.mem)) ∧
    (u.secure = true → d.rgnSecure n.toNat = true → (d.lowering.find? fun p => p.1 == n.toNat) = none →
      which = 2 → v.toNat % 4 ≠ 3 → (d.rgnRange n.toNat).1 < (d.rgnRange n.toNat).2 →
      Does (.regionWrite w n which v) s fun e =>
        (n.toNat, d.reg a, d.reg (a + 8), v.toNat % 8) ∈ e.lowering ∧ e.rgnSecure n.toNat = true ∧
          ∀ i, (d.rgnRange n.toNat).1 ≤ i → i < (d.rgnRange n.toNat).2 →
            (∀ m < 64, m ≠ n.toNat → d.rgnKeeps m (i / 2 ^ 20 * 2 ^ 20) = false) → look byte0 e.mem i = 0)) ∧
    ∀ (s : State) (n : BitVec 6) (b e c : Nat),
      (s.dev.lowering.find? (·.1 == n.toNat)) = some (n.toNat, b, e, c) →
      Yields (.regionLowerDone n) s
        (((({ s.dev with lowering := s.dev.lowering.filter (·.1 != n.toNat) } : Dev).setReg (rgnAddr n.toNat)
          b).setReg (rgnAddr n.toNat + 8) e).setReg (rgnAddr n.toNat + 0x10) c)

/-! ### Movers and ring channels (R255 to R263, R467) -/

/-- The mover rows. -/
def Sys2Proof.moverRows : List ((MoverId → Instr) × Nat) := [(.move, 1), (.fill, 2)]

/-- The writes of a mover's command, when its work ends, are sent: those of a multicast as its transfer. -/
def Sys2Proof.moverSent (m : MoverId) (i : Issued) (d : Dev) (x : EngS) : List Nat × Dev :=
  let grp := if cmdOp i.cmd = 1 then d.mcGroup m else none
  match m, grp with
  | .ring die ch, some g => x.dev.mcSend die.toNat ch.toNat g x.out
  | _, _ => x.dev.flush (movOwner m) { vc := cmdVc i.cmd, job := d.movJob m } x.out

/-- A command that a mover has put in flight at place k, when its work ends: its writes are sent and it is done, with
its flags, the acknowledgements it awaits and what the words it wrote held before. -/
def Sys2Proof.moverDone (m : MoverId) (k : Nat) (i : Issued) (d : Dev) (x : EngS) : Dev :=
  let f := moverSent m i d x
  let j : Issued := { i with flags := x.flags, acks := x.acks ++ f.1, done := true, olds := d.wordsLost x.dev }
  j.acks.foldl Dev.mcCheck (f.2.modMov m fun y => { y with flight := setNth y.flight k j })

/-- The work of that command. -/
def Sys2Proof.moverWork (p : Perm) (m : MoverId) (i : Issued) (d : Dev) : Eng Unit :=
  let grp := if cmdOp i.cmd = 1 then d.mcGroup m else none
  movWork ⟨m, p, d.movSecure m, grp.isSome, d.mcValid (grp.getD 0)⟩ i

/-- MOVE and FILL: with nothing of the mover held, its next command of the opcode goes in flight with its descriptors
(a ring's HEAD goes on by one), unless FENCE holds it behind others; where its work ends it is done; where it faults
it leaves the flight and the mover stops, a tent mover with its waiting commands discarded (R255 to R258, R262, R467).
TAIL takes its value and makes entries ready; BASE and CTL take theirs from a secure writer while the channel is off,
SIZE outside 4 to 12 refusing EN; EN written 0 turns the channel off and clears STOPPED and CAUSE; everything else is
refused and logged (R262). -/
def Obligations.MoversAndRings : Prop :=
  (∀ r ∈ moverRows, ∀ s : State, s.dev.halted = false →
     (∀ (t : TentId) (c : Cmd) (ds : List Byte),
       let m : MoverId := .tent t
       let i : Issued := { cmd := c, descs := ds, done := false }
       let d := s.dev.issue t.toNat 8 i
       let k := (s.dev.movQueue m).flight.length
       s.dev.movRetry m r.2 = none → s.dev.movHead t.toNat r.2 = some c → (cmdFence c = true → k = 0) →
       (tentDescs t.toNat c).run { dev := s.dev } = (.ok ds, { dev := s.dev }) →
       (∀ x, workEnds (moverWork s.perm m i d) d = some x →
         ((moverSent m i d x).2.movQueue m).flight[k]? = some i → (moverDone m k i d x).warmAsked = false →
         Yields (r.1 m) s (moverDone m k i d x)) ∧
       ∀ n o e, workFaults (moverWork s.perm m i d) d = some (n, o, e) → e.warmAsked = false →
         (e.movQueue m).flight = (d.movQueue m).flight → Does (r.1 m) s fun f =>
           (f.queue t.toNat 8).entries = [] ∧ (f.queue t.toNat 8).stopped = true ∧
             (f.queue t.toNat 8).flight = dropNth (e.queue t.toNat 8).flight k ∧
             f.reg (movReg t.toNat 0x10) = o % 2 ^ 64) ∧
     ∀ (die : BitVec 3) (ch : BitVec 4) (c : Cmd) (bs : List Byte) (d1 : Dev),
       let m : MoverId := .ring die ch
       let i : Issued := { cmd := c, descs := bs.drop 32, done := false }
       let a := ringReg die.toNat ch.toNat 0xC
       let d := (d1.setReg a ((d1.reg a + 1) % 2 ^ 32)).modMov m fun x => { x with flight := x.flight ++ [i] }
       let k := (d1.movQueue m).flight.length
       ringDie die.toNat = true → s.dev.movRetry m r.2 = none →
       s.dev.ringHead s.perm m die.toNat ch.toNat = (some (c, bs), d1) → cmdOp c = r.2 →
       (cmdFence c = true → (s.dev.movQueue m).flight = []) →
       ∀ x, workEnds (moverWork s.perm m i d) d = some x →
         ((moverSent m i d x).2.movQueue m).flight[k]? = some i → (moverDone m k i d x).warmAsked = false →
         Yields (r.1 m) s (moverDone m k i d x)) ∧
  (∀ (s : State) (die : BitVec 3) (ch : BitVec 4) (w u : Writer), s.acting w = some u → ringDie die.toNat = true →
     let d := s.dev
     let a := ringReg die.toNat ch.toNat 8
     let log := fun o k => d.dieErr die.toNat ch.toNat 0x0A 1 k { addr := ringReg die.toNat ch.toNat o }
     (∀ v : Half, Yields (.ringDoorbell die ch w v) s (d.setReg (ringReg die.toNat ch.toNat 0x10) v.toNat)) ∧
     (u.secure = false → ∀ v : Word, Yields (.ringCtlWrite die ch w true v) s (log 0 0x31) ∧
       Yields (.ringCtlWrite die ch w false v) s (log 8 0x31)) ∧
     (u.secure = true → d.ringOn die.toNat ch.toNat = true → ∀ v : Word,
       Yields (.ringCtlWrite die ch w true v) s (log 0 0x30) ∧
       (bitAt v.toNat 0 = true → Yields (.ringCtlWrite die ch w false v) s (log 8 0x30)) ∧
       (bitAt v.toNat 0 = false → Yields (.ringCtlWrite die ch w false v) s ((d.setRegF a 0 1 0).setRegF a 18 9 0))) ∧
     (u.secure = true → d.ringOn die.toNat ch.toNat = false → ∀ v : Word,
       Yields (.ringCtlWrite die ch w true v) s
         (d.setReg (ringReg die.toNat ch.toNat 0) (v.toNat / 64 * 64)) ∧
       Does (.ringCtlWrite die ch w false v) s fun e =>
         e.regF a 1 17 = v.toNat / 2 % 2 ^ 17 ∧ e.mem = d.mem ∧
           (bitAt v.toNat 0 = false → e.ringOn die.toNat ch.toNat = false ∧ e.regF a 18 9 = 0) ∧
           (bitAt v.toNat 0 = true → d.ringStopped die.toNat ch.toNat = false →
             (e.ringOn die.toNat ch.toNat = true ↔ 4 ≤ field v.toNat 1 4 ∧ field v.toNat 1 4 ≤ 12))))

/-- An accumulate that arrives at a scratchpad is refused whole by the world of a segment and by a format that does not
add (R248). A command that waits on a MOVING plot entry reads it again, counted; after PLOT_WAIT it faults with cause
0x11 (R253). -/
def Obligations.TentAccumulateAndPlotWaits : Prop :=
  (∀ (s : State) (a : WAccess) (u : Writer) (fmt : BitVec 4) (t : TentId) (o : Nat), s.acting a.by_ = some u →
    let d := s.dev
    d.place a.addr.toNat = .here (tentMem t.toNat o) → o < 0x1_8000 → d.touchesClearing t.toNat o a.data.length = false →
    d.quiet (tentMem t.toNat o) a.data.length = true →
    (u.secure = false → d.touchesSecure t.toNat o a.data.length = true →
      Does (.tentAccumWrite a fmt) s fun e => e.response = some (u.who, ⟨2, []⟩) ∧ e.mem = d.mem) ∧
    ((u.secure = true ∨ d.touchesSecure t.toNat o a.data.length = false) →
      (accBytes fmt.toNat = 0 → Does (.tentAccumWrite a fmt) s fun e =>
        e.response = some (u.who, ⟨3, []⟩) ∧ e.mem = d.mem) ∧
      ((fmt = 0 ∨ fmt = 9) → o % 4 = 0 → a.data.length = 4 → d.badIn (tentMem t.toNat o) 4 = false →
        o + 4 ≤ 0x1_8000 →
        ∀ r, accElem fmt.toNat (d.rdNat (tentMem t.toNat o) 4) (leNat a.data) = some r →
          Does (.tentAccumWrite a fmt) s fun e =>
            e.mem = (d.wrNat (tentMem t.toNat o) 4 r.bits).mem ∧
              e.response = some (u.who, ⟨if r.sat then 4 else 0, []⟩)))) ∧
    ∀ (s : State) (t : TentId) (k : Nat) (i : Issued), s.dev.halted = false →
      (s.dev.queue t.toNat 8).flight[k]? = some i → i.moving = true →
      (∀ x,
        let m : MoverId := .tent t
        let j : Issued := { i with moving := false }
        let d := (s.dev.bump (movReg t.toNat 0x38) 1).modMov m fun y => { y with flight := setNth y.flight k j }
        j.stage = [] → j.acks = [] → workEnds (moverWork s.perm m j d) d = some x →
        (x.dev.movQueue m).flight[k]?.isSome = true → x.dev.warmAsked = false → x.out = [] →
        Does (.plotMovingReread m k) s fun e =>
          e.mem = x.dev.mem ∧ (e.queue t.toNat 8).flight[k]? = some { j with
            flags := x.flags, want := none, acks := x.acks, done := true, outs := [], olds := d.wordsLost x.dev }) ∧
      Does (.plotBusyTimeout (.tent t) k) s fun e =>
        (e.queue t.toNat 8).stopped = true ∧ (e.queue t.toNat 8).entries = [] ∧
          ∃ y : Event, e.events = s.dev.events ++ [y] ∧ y.cls = 2 ∧ y.code = 0x40A ∧ y.detail % 256 = 0x11

/-! ### Register writes (R3 to R6) -/

/-- A requester acts in its own world: the host in the non-secure one, a block of a tent in that of TNT_BLK_WORLD, a
ring channel in that of SECURE, the debug port in that of Table 18.8, none of it in END (R6, R291, R405 to R407).
A write of one whole register of this device goes to it alone, and its status to the writer. From a world that
does not reach the register it is answered 2: no register but the event path's notice counter changes, nor memory,
nor a tent. Otherwise a register of the clock windows takes what its fields' access types allow. A write of RO or WO
fields changes nothing, of RW fields the bits written, of RWL fields those while the kit is not applied, of W1C fields
clears the ones written (R4 to R6, Table 0.3). -/
def Obligations.RegisterWrites : Prop :=
  (∀ (s : State) (b : Bool) (t : TentId) (die : BitVec 3) (ch : BitVec 4) (n : CoreNo),
    s.acting ⟨.host, b⟩ = some ⟨.host, false⟩ ∧
    s.acting ⟨.score t n, b⟩ = some ⟨.score t n, bitAt (s.dev.reg (tentReg t.toNat 0x18)) n.toNat⟩ ∧
    s.acting ⟨.mover t, b⟩ = some ⟨.mover t, bitAt (s.dev.reg (tentReg t.toNat 0x18)) 4⟩ ∧
    s.acting ⟨.ring die ch, b⟩ =
      some ⟨.ring die ch, s.dev.regF (ringReg die.toNat ch.toNat 8) 5 1 == 1⟩ ∧
    (∀ k, s.perm.fuses.lifecycle = k → s.acting ⟨.debug, b⟩ =
      if k = 2 then some ⟨.debug, s.dev.debugOpen⟩ else if k < 4 then some ⟨.debug, true⟩ else none) ∧
    ∀ a : WAccess, s.acting a.by_ = none → Yields (.registerWrite a) s s.dev) ∧
  (∀ (s : State) (a : WAccess) (u : Writer) (x : Nat) (r : RegAt), s.acting a.by_ = some u →
    s.dev.place a.addr.toNat = .here x → regAt x = some r →
    ((∃ t o, regionOf x = .tentR t o) ∨ ∃ die o, regionOf x = .dieR die o) →
    homeOf x = r.addr → a.data.length = r.row.bytes → a.data ≠ [] → hitsPeg x a.data.length = false →
    let y := s.dev.regWrite u r 0 a.data
    y.2.warmAsked = false →
    Yields (.registerWrite a) s { y.2 with response := some (u.who, ⟨y.1, []⟩) }) ∧
    (∀ (d : Dev) (w : Writer) (r : RegAt) (lo : Nat) (bs : List Byte), d.regWorldOk w r = false →
      let y := d.regWrite w r lo bs
      y.1 = 2 ∧ y.2.mem = d.mem ∧ y.2.tents = d.tents ∧
        ∀ a, (∀ die < 8, a ≠ dieReg die 0x1500_0008) → y.2.reg a = d.reg a) ∧
    (∀ (d : Dev) (w : Writer) (r : RegAt) (bs : List Byte) (die o : Nat), d.regWorldOk w r = true →
      d.kitApplied = false → wchBaseOf r.addr = none → regionOf r.addr = .dieR die o → o / 0x100_0000 = 21 →
      bs.length = r.row.bytes →
      d.regWrite w r 0 bs = (0, (d.plainWrite r (2 ^ (8 * bs.length) - 1) (leNat bs)).noteHand r.addr bs.length)) ∧
    ∀ (locked : Bool) (mask v old : Nat) (f : Field),
      let new := fieldAfter locked mask v old f
      let in_ := fun i => decide (f.lsb ≤ i) && decide (i < f.lsb + f.width) && mask.testBit i
      (f.acc = .ro ∨ f.acc = .wo ∨ (f.acc = .rwl ∧ locked = true) → new = old) ∧
        (f.acc = .rw ∨ (f.acc = .rwl ∧ locked = false) →
          ∀ i, new.testBit i = if in_ i then v.testBit i else old.testBit i) ∧
        (f.acc = .w1c → ∀ i, new.testBit i = if in_ i && v.testBit i then false else old.testBit i)

/-! ### Trail links (R264 to R276, R284 to R288) -/

/-- The checksum of a head covers its first 60 bytes. -/
def Sys2Proof.headGood (head : List Byte) : Prop := crc32c (slice head 0 60) = leAt head 60 4

/-- A DATA group whose head is good is held until the next head; that next head accepts it when both checksums match
and it is the next in order, so the sequence expected goes on by one mod 4,096; a good group out of order is dropped,
and one with a bad codeword or checksum is refused: neither moves the sequence. Up to 15 wrong symbols of a codeword are
corrected and counted. A group that comes on a link that is not up does nothing (R265, R267 to R269). The head of a sent
group names the last group accepted, asks for the next one again while groups are refused, and ends with the checksum of
its first 60 bytes (Table 12.3, R267, R269). -/
def Obligations.GroupsAreTakenInOrder : Prop :=
  (∀ (s : State) (l : BitVec 6) (errs : List Nat) (head : List Byte) (slots : List (List Byte)), l.toNat < 48 →
    let d := s.dev
    let x := d.link l.toNat
    let corr := linkCnt l.toNat 0x10
    (d.linkUp l.toNat = false → Yields (.groupReceive l errs head slots) s d) ∧
    (d.linkUp l.toNat = true → headGood head → x.held = none → bitAt (leAt head 0 2) 12 = false →
      Does (.groupReceive l errs head slots) s fun e => ∃ g, (e.link l.toNat).held = some g ∧
        g.seq = field (leAt head 0 2) 0 12 ∧ g.good = errs.all (fun n => decide (n ≤ 15)) ∧
        (e.link l.toNat).rxSeq = x.rxSeq ∧ e.mem = d.mem ∧
        ((∀ n ∈ errs, n ≤ 15) → d.reg corr + errs.sum < 2 ^ 64 → e.reg corr = d.reg corr + errs.sum)) ∧
    (d.linkUp l.toNat = true → headGood head → bitAt (leAt head 0 2) 12 = true → ∀ g, x.held = some g →
      g.good = true → leAt head 56 4 = g.crc →
      (g.seq = x.rxSeq → Does (.groupReceive l errs head slots) s fun e =>
        (e.link l.toNat).rxSeq = (x.rxSeq + 1) % 4096 ∧ (e.link l.toNat).held = none ∧ e.mem = d.mem) ∧
      (g.seq ≠ x.rxSeq → Does (.groupReceive l errs head slots) s fun e =>
        (e.link l.toNat).rxSeq = x.rxSeq ∧ (e.link l.toNat).held = none ∧ e.mem = d.mem)) ∧
    (d.linkUp l.toNat = true → ¬ headGood head → x.held = none → x.refused < 7 →
      Does (.groupReceive l errs head slots) s fun e => (e.link l.toNat).rxSeq = x.rxSeq ∧
        (e.link l.toNat).refusing = true ∧ e.mem = d.mem ∧
        (e.link l.toNat).refused = if x.refusing then x.refused else x.refused + 1)) ∧
  ∀ (d : Dev) (l seq : Nat) (idle resync : Bool) (fs : List Flit),
    let head := d.headFlit l seq idle resync fs
    headGood head ∧ head.length = 64 ∧ field (leAt head 2 2) 0 12 = ((d.link l).rxSeq + 4095) % 4096 ∧
      bitAt (leAt head 2 2) 12 = (d.link l).refusing

/-- A secure RETRAIN sends the up and down links of its port into retraining with every lane back, asks the partner with
a TRAIN frame, and ends no quarantine; QREL ends their quarantine, and the neighbour is told; a non-secure one of either
is refused and logged. A retrain that ends well, with allocations that fit the buffer, brings the link up, its
unacknowledged groups to be sent again; the third in a row that fails takes it down. A lane that fails starts a retrain
(R266, R270, R271, R288). A packet for another device goes out on a link of the destination's route entry chosen by the
destination address, the next one where that is down or quarantined; with none left it is lost and answered with a NAK;
without a valid entry it is dropped and counted as a violation; behind an earlier packet of its VC it waits (R24, R270,
R276, R279, R286). An idle link drops to half its lanes (R433); a port of the topology that found no partner is logged
and its links that still train are down (R24). -/
def Obligations.LinksRetrainAndPass : Prop :=
  ((∀ (s : State) (port : BitVec 5) (w u : Writer), s.acting w = some u → port.toNat < 24 →
     let d := s.dev
     let p := port.toNat
     (u.secure = false → Yields (.retrain port w) s (d.trlRefused p) ∧ Yields (.qrel port w) s (d.trlRefused p)) ∧
     (u.secure = true → Does (.retrain port w) s fun e => e.mem = d.mem ∧ ∀ l ∈ d.portLinks p,
       (d.linkState l = 2 ∨ d.linkState l = 4 →
         e.linkState l = 3 ∧ (e.link l).lanesOut = 0 ∧ ∃ f ∈ (e.port p).out, f.typ = 0x05) ∧
       (d.linkState l = 0 ∨ d.linkState l = 5 → e.linkState l = d.linkState l)) ∧
     (u.secure = true → Does (.qrel port w) s fun e => e.mem = d.mem ∧ ∀ l ∈ d.portLinks p,
       (d.linkState l = 5 → e.linkState l = 3 ∧ (e.link l).viols = [] ∧ ∃ f ∈ (e.port p).out, f.typ = 0x04) ∧
       (d.linkState l ≠ 5 → e.linkState l = d.linkState l))) ∧
     ∀ (s : State) (l : BitVec 6), l.toNat < 48 →
       let d := s.dev
       let x := d.link l.toNat
       ((d.linkState l.toNat = 1 ∨ d.linkState l.toNat = 3) → x.lanesBad = 0 →
         x.lanesOut + d.laneMin l.toNat ≤ d.laneCount l.toNat →
         (d.allocFits l.toNat = true → Does (.retrainDone l true) s fun e => e.linkState l.toNat = 2 ∧
           (e.link l.toNat).stored = x.stored ∧ (e.link l.toNat).resend = x.stored ∧ (e.link l.toNat).failed = 0 ∧
           e.mem = d.mem) ∧
         ∀ ok, (ok = false ∨ d.allocFits l.toNat = false) →
           (x.failed < 2 → Does (.retrainDone l ok) s fun e => e.linkState l.toNat = d.linkState l.toNat ∧
             (e.link l.toNat).failed = x.failed + 1) ∧
           (2 ≤ x.failed → Does (.retrainDone l ok) s fun e => e.linkState l.toNat = 4 ∧
             (e.link l.toNat).stored = [])) ∧
       (d.linkState l.toNat = 2 → Does (.trailLaneFail l) s fun e =>
         e.linkState l.toNat = 3 ∧ (e.link l.toNat).lanesBad = x.lanesBad + 1 ∧ e.mem = d.mem)) ∧
  ((∀ (s : State) (l : BitVec 6) (pkt : List Byte), field (hdrOf pkt).dest 48 10 ≠ s.dev.devId →
     let h := hdrOf pkt
     let d := s.dev.consume l.toNat pkt
     (s.dev.turnOf l.toNat pkt = false → Yields (.packetTransit l pkt) s (s.dev.await l.toNat pkt)) ∧
     (s.dev.turnOf l.toNat pkt = true →
       (∀ r out, d.routeOf h.dest = some r → d.egressOf h.dest = some out →
         Yields (.packetTransit l pkt) s (d.enqueue out h.vc pkt)) ∧
       (∀ r, d.routeOf h.dest = some r → d.egressOf h.dest = none →
         Yields (.packetTransit l pkt) s (d.sendNak l.toNat 6 (slice pkt 0 32))) ∧
       (d.routeOf h.dest = none → Yields (.packetTransit l pkt) s (d.violate l.toNat 4 (slice pkt 0 32))))) ∧
     (∀ (d : Dev) (dest out : Nat), d.routeOf dest = some out → out ∈ d.routeLinks (field dest 48 10) ∧
       (d.linkUp out = true → d.egressOf dest = some out)) ∧
     (∀ (d : Dev) (dest out : Nat), d.egressOf dest = some out →
       out ∈ d.routeLinks (field dest 48 10) ∧ d.linkGone out = false) ∧
     (∀ (d : Dev) (dest : Nat), d.routeOf dest = none ↔ d.routeLinks (field dest 48 10) = []) ∧
     ∀ s : State,
       (∀ l : BitVec 6, s.dev.linkUp l.toNat = true → (s.dev.link l.toNat).queue = [] →
         (s.dev.link l.toNat).branch = [] → s.dev.regF (dieReg (linkDie l.toNat) 0x1800_0000) 18 10 ≠ 0 →
         Yields (.laneIdleHalf l) s ((s.dev.modLink l.toNat fun x => { x with idleHalf := true }).setRegF
           (linkStatus l.toNat) 3 4 ((s.dev.laneCount l.toNat - (s.dev.link l.toNat).lanesOut) / 2))) ∧
       ∀ p : BitVec 5, p.toNat < 24 →
         (s.dev.regF (linkStatus (2 * p.toNat)) 23 1 = 1 → Yields (.linkUpTimeout p) s s.dev) ∧
         (s.dev.regF (linkStatus (2 * p.toNat)) 23 1 = 0 → Does (.linkUpTimeout p) s fun e =>
           if p.toNat ∉ Config.kitPorts s.dev.topology then e = s.dev
           else e.mem = s.dev.mem ∧ (∃ y ∈ e.events, y.cls = 1 ∧ y.code = 0x40C ∧ y.detail % 256 = 0x07) ∧
             ∀ l ∈ s.dev.portLinks p.toNat,
               (s.dev.linkState l = 1 → e.linkState l = 4 ∧ (e.link l).queue = []) ∧
               (s.dev.linkState l ≠ 1 → e.linkState l = s.dev.linkState l)))

/-- Every frame of the sideband types: a frame with a bad CRC, an unknown TYPE or more than 240 bytes is counted and
ignored; VIOLATION, RELEASE and RECOVER_RSP pass to the active Lantern; PRESENCE sets the partner's device, port and
split, and PRESENT, on every link of the port; TRAIN starts a retrain, but of a link in quarantine; a partner gone clears PRESENT (R284, R285). -/
def Obligations.Sideband : Prop :=
  ∀ (s : State) (port : BitVec 5), port.toNat < 24 →
    let d := s.dev
    let p := port.toNat
    let rows : List ((BitVec 5 → SbFrame → Instr) × BitVec 8) :=
      [(.presence, 0x01), (.wake, 0x02), (.violation, 0x03), (.sbRelease, 0x04), (.train, 0x05), (.recoverRsp, 0x11)]
    (∀ r ∈ rows, ∀ f : SbFrame, sbBad f = true → Yields (r.1 port f) s (d.bump (linkCnt (2 * p) 0x50) 1)) ∧
    let passed : List ((BitVec 5 → SbFrame → Instr) × BitVec 8) :=
      [(.violation, 0x03), (.sbRelease, 0x04), (.recoverRsp, 0x11)]
    (∀ r ∈ passed, ∀ f : SbFrame, sbBad f = false → f.typ = r.2 →
      Yields (r.1 port f) s (d.passFrame p f)) ∧
    (∀ f : SbFrame, sbBad f = false → f.typ = 0x01 → Does (.presence port f) s fun e =>
      (∀ l ∈ d.portLinks p, e.regF (linkStatus l) 7 10 = leAt f.payload 0 2 % 2 ^ 10 ∧
        e.regF (linkStatus l) 17 5 = leAt f.payload 2 1 % 2 ^ 5 ∧ e.regF (linkStatus l) 23 1 = 1 ∧
        e.linkState l = d.linkState l) ∧
        (e.port p).peerRole = leAt f.payload 4 1 ∧ (e.port p).peerLans = leAt f.payload 5 1 ∧ e.mem = d.mem) ∧
    (∀ f : SbFrame, sbBad f = false → f.typ = 0x05 → Does (.train port f) s fun e =>
      (e.port p).asked = leAt f.payload 1 1 ∧
        (let l := 2 * p + leAt f.payload 0 1 % 2
         d.linkExists l = true → (d.linkState l = 2 ∨ d.linkState l = 4 → e.linkState l = 3) ∧
           (d.linkState l = 5 → e.linkState l = 5))) ∧
    Does (.partnerAbsent port) s (fun e => ∀ l ∈ d.portLinks p,
      e.regF (linkStatus l) 23 1 = 0 ∧ e.linkState l = d.linkState l) ∧
    (d.power ≠ .off → d.power ≠ .held → Does (.presenceSend port) s fun e =>
      (e.port p).seq = ((d.port p).seq + 1) % 256 ∧
        ∃ f : SbFrame, (e.port p).out = (d.port p).out ++ [f] ∧ f.typ = 0x01 ∧
          f.seq = BitVec.ofNat 8 (d.port p).seq ∧ leAt f.payload 0 2 = d.devId % 2 ^ 16)

/-! ### Packets at their device (R276 to R283, R287, R370) -/

/-- A packet of a type that breaks the header rules is dropped as a HEADER violation; one of another type is no row's.
One whose access is held, or that has an earlier packet of its VC before it, waits in the receive buffer. A WRITE puts
its payload at DEST as its header asks and is acknowledged with its status where ACK_REQ is set; a READ is answered with
bytes and status (R276 to R278, R286). The answer to a load of an S-core waits there for
LOAD_DATA_RETURN; an acknowledgement of its posted store ends that store, and one with a status is the store's fault;
a NAK of a read is a decode fault of the load; a NAK of a management packet goes no further than the log (R278, R283,
R287). -/
def Obligations.TrailTransactions : Prop :=
  ((∀ (s : State) (l : BitVec 6) (pkt : List Byte),
     let d := s.dev
     let h := hdrOf pkt
     let c := d.consume l.toNat pkt
     field h.dest 48 10 = d.devId → d.warmAsked = false →
     let heldW := d.pktHeld l.toNat pkt false (landed pkt).length
     let heldR := d.pktHeld l.toNat pkt true h.aux
     (h.typ = 1 →
       (hdrBad h.vc pkt = true → (c.violate l.toNat 1 pkt).warmAsked = false →
         Yields (.trailWrite l pkt) s (c.violate l.toNat 1 pkt)) ∧
       (hdrBad h.vc pkt = false → (heldW = true ∨ d.turnOf l.toNat pkt = false) →
         Yields (.trailWrite l pkt) s (d.await l.toNat pkt)) ∧
       (hdrBad h.vc pkt = false → heldW = false → d.turnOf l.toNat pkt = true →
         let r := c.landPacket h pkt
         let e := if h.ackReq then r.2.sendCompl h r.1 else r.2
         e.warmAsked = false → Yields (.trailWrite l pkt) s e)) ∧
     (h.typ = 2 → hdrBad h.vc pkt = false →
       ((heldR = true ∨ d.turnOf l.toNat pkt = false) → Yields (.trailRead l pkt) s (d.await l.toNat pkt)) ∧
       (heldR = false → d.turnOf l.toNat pkt = true → ∀ a, destHere h = some a →
         let r := c.readHere s.perm (pktWriter h) a h.aux (some h.job)
         Yields (.trailRead l pkt) s (r.2.sendRdata h r.1.status 2 0 r.1.data)))) ∧
     ∀ (d : Dev) (pkt : List Byte) (a : Nat), let h := hdrOf pkt
       destHere h = some a → h.comp = false →
       d.landPacket h pkt =
         d.landWrite (pktWriter h) (if h.accum then some h.fmt else none) a (payloadOf pkt) (some h.job) ∧
       ∀ (w : Writer) (bs : List Byte) (job : Option Nat), regionOf a = .hbm → inTier a bs.length = true →
         (w.secure = true ∨ d.memSecure a bs.length = false) → d.quiet a bs.length = true →
         d.blockedBy a bs.length = [] →
         (d.landWrite w none a bs job).1 = 0 ∧ (d.landWrite w none a bs job).2.mem = (d.wrB a bs).mem) ∧
  (∀ (s : State) (l : BitVec 6) (pkt : List Byte),
     let d := s.dev
     let h := hdrOf pkt
     hdrBad h.vc pkt = false → field h.dest 48 10 = d.devId → d.host.held = [] → d.warmAsked = false →
     (d.mcasts.any fun x => x.tid == h.tid) = false →
     (h.typ = 3 → ∀ (t : TentId) (n : CoreNo) (rd size : Nat) (addr : Word),
       d.ownerOf h.tid = some (.core t.toNat n.toNat) → (d.core t.toNat n.toNat).wait = .load rd size addr none →
       Does (.rdata l pkt) s fun e =>
         (e.core t.toNat n.toNat).wait = .load rd size addr (some ⟨h.arg % 256, payloadOf pkt⟩) ∧
           e.ownerOf h.tid = none ∧ e.mem = d.mem) ∧
     (h.typ = 4 → ∀ (t : TentId) (n : CoreNo) (x : Store), d.ownerOf h.tid = some (.core t.toNat n.toNat) →
       (d.stores.find? fun y => y.tid == some h.tid) = some x →
       (h.arg % 256 = 0 → Does (.compl l pkt) s fun e =>
         e.stores = d.stores.filter (fun y => y.seq != x.seq) ∧ e.ownerOf h.tid = none ∧ e.mem = d.mem ∧
           e.tents = d.tents) ∧
       (h.arg % 256 ≠ 0 → x.t < 16384 → x.core < 4 → Does (.compl l pkt) s fun e =>
         e.stores = d.stores.filter (fun y => y.seq != x.seq) ∧ (e.core x.t x.core).running = false ∧
           e.regF (ctlAddr x.t x.core) 2 1 = 1)) ∧
     (h.typ = 9 → Does (.nak l pkt) s fun e => (hdrOf (payloadOf pkt)).mgmt = true →
       e.mem = d.mem ∧ e.tents = d.tents ∧ e.stores = d.stores ∧ e.tids = d.tids))

/-- A multicast packet goes to the branch of every link of its group that can take it, stays in the receive buffer for
those that cannot, and is written locally where the group says so; a group that is not valid is a ROUTE violation. A
branch whose head has waited MC_TO drops the transfer, all of it that is there and what comes later; a transfer whose
completions do not come ends with its record (R281 to R283). A PEG packet of the job in force and its GEN signals its
peg; one of another job is counted and dropped, one of another GEN likewise, and one whose DEST is no peg target is
counted with a record (R370). -/
def Obligations.MulticastAndPegPackets : Prop :=
  ((∀ (s : State) (l : BitVec 6) (pkt : List Byte),
     let d := s.dev
     let h := hdrOf pkt
     let g := h.aux % 256
     let c := d.consume l.toNat pkt
     let local_ := bitAt (d.reg (dieReg 6 (0xC02_0000 + 8 * g))) 48
     let left := (d.mcLinks g).filter fun k => !d.branchTakes pkt k
     h.typ = 5 → hdrBad h.vc pkt = false → d.warmAsked = false → d.turnOf l.toNat pkt = true →
     (d.mcWaits.any fun w => w.ingress == some l.toNat && w.pkt == pkt) = false →
     (d.mcValid g = true → local_ = false →
       Does (.mcast l pkt) s fun e => e.mem = d.mem ∧
         (∀ k ∈ d.mcLinks g, k ∉ left → (d.link k).abandoned.contains (mcKey h) = false →
           (e.link k).branch = (d.link k).branch ++ [pkt]) ∧
         (left ≠ [] → e.mcWaits = d.mcWaits ++ [⟨some l.toNat, pkt, left⟩] ∧ pkt ∈ (e.link l.toNat).inbox)) ∧
     (d.mcValid g = true → left = [] → local_ = true → d.pktHeld l.toNat pkt false (landed pkt).length = false →
       let e := (c.branchCopy (some l.toNat) pkt (d.mcLinks g)).mcLocal h pkt
       e.warmAsked = false → Yields (.mcast l pkt) s e) ∧
     (d.mcValid g = false → (c.violate l.toNat 4 pkt).warmAsked = false →
       Yields (.mcast l pkt) s (c.violate l.toNat 4 pkt))) ∧
     (∀ (s : State) (l : BitVec 6) (p : List Byte) (rest : List (List Byte)), l.toNat < 48 →
       (s.dev.link l.toNat).branch = p :: rest →
       Does (.mcBranchAbandon l) s fun e => e.mem = s.dev.mem ∧
         (∀ q ∈ (e.link l.toNat).branch, mcKey (hdrOf q) ≠ mcKey (hdrOf p)) ∧
         (s.dev.mcWaits = [] → (∀ q ∈ p :: rest, mcKey (hdrOf q) = mcKey (hdrOf p) → (hdrOf q).ackReq = false) →
           mcKey (hdrOf p) ∈ (e.link l.toNat).abandoned)) ∧
     ∀ (s : State) (tid : BitVec 16) (x : Mcast),
       (s.dev.mcasts.find? fun x => x.tid == tid.toNat && x.lastSent) = some x →
       (s.dev.mcFinish x).warmAsked = false → Yields (.mcComplTimeout tid) s (s.dev.mcFinish x)) ∧
  (∀ (s : State) (l : BitVec 6) (pkt : List Byte),
     let h := hdrOf pkt
     let d := s.dev.consume l.toNat pkt
     h.typ = 8 → hdrBad h.vc pkt = false → field h.dest 48 10 = s.dev.devId → h.mgmt = false →
     s.dev.turnOf l.toNat pkt = true →
     (h.job = s.dev.job → h.gen = s.dev.gen → ∀ (t : TentId) (p : BitVec 6),
       h.dest % 2 ^ 48 = tentReg t.toNat (0x40_0000 + 0x10 * p.toNat) → s.dev.jobCtxs h.job = [] →
       Does (.pegPacket l pkt) s fun e =>
         (s.dev.peg t.toNat p.toNat + h.arg % 2 ^ 32 < 2 ^ 32 →
           e.peg t.toNat p.toNat = s.dev.peg t.toNat p.toNat + h.arg % 2 ^ 32) ∧ e.mem = s.dev.mem) ∧
     (h.job ≠ s.dev.job → s.dev.jobCtxs h.job = [] →
       Yields (.pegPacket l pkt) s (d.bump (pegCount l.toNat 0x4100) 1)) ∧
     (h.job = s.dev.job → s.dev.jobCtxs h.job = [] → h.gen ≠ s.dev.gen →
       Yields (.pegPacket l pkt) s (d.bump (pegCount l.toNat 0x4108) 1)))

/-! ### The host port (R289 to R294, R460) -/

/-- Before the device is autonomous a host read completes as an Unsupported Request and a write is discarded, both
counted; a read, a doorbell or a write of a window register waits while a relayed write is out; otherwise an access
goes where its BAR leads: a refused read of this device is zero, an access to another device is relayed with MGMT
(R290 to R292, R460). An access longer than the port takes is only reported, and one whose way is cut waits (R19, R289).
A doorbell of a host mailbox rings the Quartermaster, after the host writes before it; a relayed
read that is not answered completes with Completer Abort, counted. PERST_N, a hot reset and a Function Level Reset
leave mailboxes, MSI-X table, windows and held operations clear, a Function Level Reset waiting for what is relayed; a
configuration request, which the port takes as an access of space 7 (the model's choice), is retried until the device is autonomous, then read or written, with the class code 0x12_0000
(R289 to R294, R460). -/
def Obligations.HostPort : Prop :=
  (∀ (s : State) (bar : BitVec 3) (off : BitVec 36) (op : PadOp),
     let d := s.dev
     (bar = 7 → d.warmAsked = false → Yields (.hostBarAccess bar off op) s (d.askConfig off.toNat op)) ∧
     (bar ≠ 7 → d.hostOpen = true → d.warmAsked = false →
     (hostTooLong op = true → Yields (.hostBarAccess bar off op) s (d.aer 18)) ∧
     (hostTooLong op = false →
     (d.kitApplied = false → Yields (.hostBarAccess bar off op) s (d.hostNothing op)) ∧
     (d.kitApplied = true → d.host.held = [] →
       (d.writesOut = true ∧ d.ordered bar.toNat off.toNat op = true ∨ d.hostCutOff bar.toNat off.toNat op = true) →
       Yields (.hostBarAccess bar off op) s (d.hold (.access bar.toNat off.toNat op))) ∧
     (d.kitApplied = true → d.host.held = [] → (d.writesOut && d.ordered bar.toNat off.toNat op) = false →
       d.hostCutOff bar.toNat off.toNat op = false →
       let e := d.barAccess s.perm bar.toNat off.toNat op
       (e.warmAsked = false → Yields (.hostBarAccess bar off op) s e) ∧
       (∀ x vc a n, d.barTarget bar.toNat off.toNat = some (x, vc) → d.place x = .here a → op = .read n →
         regionOf a = .hbm → inTier a n = true → d.quiet a n = true →
         (d.memSecure a n = true → Does (.hostBarAccess bar off op) s fun f =>
           f.host.out = d.host.out ++ [.completion 0 (List.replicate n 0)] ∧ f.mem = d.mem) ∧
         (d.memSecure a n = false → d.badIn a n = false → Does (.hostBarAccess bar off op) s fun f =>
           f.host.out = d.host.out ++ [.completion 0 (d.rd a n)] ∧ f.mem = d.mem)))))) ∧
  (∀ s : State,
     let d := s.dev
     let clear := fun e : Dev => e.host.mail = [] ∧ e.host.msix = [] ∧ e.host.held = [] ∧
       e.reg (dieReg 6 0x1400_0008) = 0 ∧ e.reg (dieReg 6 0x1400_0010) = 0 ∧ e.mem = d.mem
     (∀ m : BitVec 8, d.hostOpen = true → d.kitApplied = true →
       (d.writesOut = true → Yields (.doorbell m) s (d.hold (.doorbell m.toNat))) ∧
       (d.writesOut = false → d.host.held = [] → m.toNat < 128 → d.qmHere = true → Does (.doorbell m) s fun e =>
         m.toNat ∈ e.qm.rung ∧ e.mem = d.mem ∧
           ∃ y : Event, e.events = d.events ++ [y] ∧ y.cls = 0 ∧ y.code = 0x301)) ∧
     (∀ m : BitVec 7, d.hostOpen = true → d.kitApplied = true →
       Yields (.mailboxLenWrite m) s (d.lenWritten (m.toNat + 128) 0)) ∧
     (∀ (tid : BitVec 16) (r : Relay), (d.host.relays.find? fun r => r.tid == tid.toNat) = some r → r.write = false →
       d.host.flr = false → d.host.held = [] → d.warmAsked = false → Does (.relayTimeout tid) s fun e =>
         e.host.out = d.host.out ++ [.completion 2 []] ∧ (∀ x ∈ e.host.relays, x.tid ≠ tid.toNat) ∧
           e.reg (dieReg 6 0x1400_0020) = (d.reg (dieReg 6 0x1400_0020) + 1) % 2 ^ 64 ∧ e.mem = d.mem ∧
           e.events = d.events ∧ e.qm = d.qm ∧ e.jobHere = d.jobHere) ∧
     Does .perstNAssert s (fun e => clear e ∧ e.host.perst = true ∧ e.host.relays = []) ∧
     (d.host.perst = false →
       Does .pcieHotReset s (fun e => clear e ∧ e.host.relays = []) ∧
       Does .functionLevelReset s (fun e => clear e ∧ e.host.relays = d.host.relays ∧
         (e.host.flr = true ↔ d.host.relays ≠ []))) ∧
     Does .perstNDeassert s (fun e => e.host.perst = false ∧ e.mem = d.mem) ∧
     (d.pcieRuns = false → Yields .pcieConfigRequest s d) ∧
     (∀ (o : Nat) (op : PadOp) (more : List (Nat × PadOp)), d.pcieRuns = true → d.host.asked = (o, op) :: more →
       let d1 := { d with host := { d.host with asked := more } }
       (d.kitApplied = false → Yields .pcieConfigRequest s (d1.toHost .configRetry)) ∧
       (d.kitApplied = true →
         (∀ n, op = .read n →
           Yields .pcieConfigRequest s (d1.toHost (.configDone (lookAll cfgReset d.host.cfg o n)))) ∧
         ∀ bs, op = .write bs →
           Yields .pcieConfigRequest s ((d1.cfgWrite o bs).toHost (.configDone [])))) ∧
     (d.pcieRuns = true → d.host.asked = [] → d.kitApplied = false →
       Yields .pcieConfigRequest s (d.toHost .configRetry))) ∧
  ((cfgReset 9).toNat + (cfgReset 10).toNat * 2 ^ 8 + (cfgReset 11).toNat * 2 ^ 16 = 0x12_0000)

/-! ### Exact gradient reduction (R297 to R322) -/

/-- JOB_WRITE, CANCEL and RESHARD change RDX_IDENT and no other register: a new JOB with EPOCH and GEN zero, unless a
context of the job in force is open; GEN on by one; the re-shard bit. A non-secure writer is refused and logged (R6,
R298, R319). The open contexts of the job that hold an older GEN close CANCELLED; a re-shard ends, with EPOCH on by
one and the image's directory rewritten for it, once no context of the job is open, or at its timeout (R210, R318,
R319). A closing context writes its completion
record, STATUS and CAUSE in its first bytes, and its STATE reads 0 (R314, R318 to R320). -/
def Obligations.ReductionIdentityAndClosing : Prop :=
  ((∀ (s : State) (w u : Writer), s.acting w = some u →
     let d := s.dev
     (u.secure = false → (∀ job, Yields (.jobWrite w job) s d.identRefused) ∧ Yields (.cancel w) s d.identRefused ∧
       Yields (.reshard w) s d.identRefused) ∧
     (u.secure = true →
       (∀ job : BitVec 12,
         (d.jobCtxs d.job = [] → Does (.jobWrite w job) s fun e => e.job = job.toNat ∧ e.epoch = 0 ∧ e.gen = 0 ∧
           e.mem = d.mem ∧ ∀ a, a ≠ identAddr → e.reg a = d.reg a) ∧
         (d.jobCtxs d.job ≠ [] → Yields (.jobWrite w job) s d)) ∧
       Does (.cancel w) s (fun e => e.gen = (d.gen + 1) % 256 ∧ e.job = d.job ∧ e.epoch = d.epoch ∧ e.mem = d.mem ∧
         ∀ a, a ≠ identAddr → e.reg a = d.reg a) ∧
       Does (.reshard w) s (fun e => e.regF identAddr 26 1 = 1 ∧ e.job = d.job ∧ e.epoch = d.epoch ∧ e.gen = d.gen ∧
         e.mem = d.mem ∧ ∀ a, a ≠ identAddr → e.reg a = d.reg a))) ∧
   ∀ s : State,
     let d := s.dev
     let old := (d.jobCtxs d.job).filter fun c => d.ctxGen c ≠ d.gen
     let ended := fun e : Dev => e.epoch = (d.epoch + 1) % 16 ∧ e.regF identAddr 26 1 = 0 ∧ e.job = d.job ∧
       e.gen = d.gen ∧ e.mem = d.mem ∧ e.heldGo = []
     (old = [] → d.waitPkts = [] → Yields .contextCancel s d) ∧
     (∀ c, old = [c] → Yields .contextCancel s (d.ctxEnd c 1 0).recheckAll) ∧
     (d.regF identAddr 26 1 = 1 → d.jobCtxs d.job = [] → d.heldGo = [] → d.waitPkts = [] →
       (d.jobHere = none → Does .reshardComplete s ended ∧ Does .reshardDrainTimeout s ended) ∧
       ∀ j, d.jobHere = some j → Does .reshardComplete s fun e => e.epoch = (d.epoch + 1) % 16 ∧
         e.mem = (d.placeAll (Config.imageEntriesAt j.image ((d.epoch + 1) % 16))).mem) ∧
     (d.jobCtxs d.job ≠ [] → Yields .reshardComplete s d) ∧
     (∀ c, d.regF identAddr 26 1 = 1 → d.jobCtxs d.job = [c] → Yields .reshardDrainTimeout s
       ((d.ctxEnd c 2 0).dieErr 6 0 0x0D 2 0x32 {}).reshardEnd)) ∧
  (∀ (d : Dev) (c status cause : Nat), c < 64 → status < 256 → cause < 2 ^ 24 →
     let a := d.reg (ctxReg c 0x48)
     let e := (d.ctxClose c status cause).1
     e.ctxState c = 0 ∧ e.ctx c = {} ∧
       (d.memSecure a 64 = false → d.badIn a 64 = false → d.quiet a 64 = true → (d.ctx c).tally.length = 4 →
         e.mem = (d.wrB a (d.ctxRecord c status cause)).mem ∧ (d.ctxRecord c status cause).length = 64 ∧
         leAt (d.ctxRecord c status cause) 0 4 = status + cause * 2 ^ 8))

/-- Containers of a block add exactly where every sum lies in the container's range; otherwise the block is marked OVF,
and OVF passes on; the bitmaps join. Wide sums of the re-pitch round are the same in whatever order they are added, and
a re-pitched element is the nearest multiple of the shift, ties to even, at the least shift at which every element of
the block fits (R309 to R312). -/
def Obligations.ReductionArithmetic : Prop :=
  (∀ (bi12 : Bool) (x y : Blk), x.ovf = false → y.ovf = false → x.nf = false → y.nf = false →
    x.els.length = 64 → y.els.length = 64 →
    let m := contMax bi12
    let sum := (x.els.zip y.els).map fun p => p.1 + p.2
    let r := addBlk bi12 x y
    r.1.mask = x.mask ||| y.mask ∧ (∀ v ∈ r.1.els, -m - 1 ≤ v ∧ v ≤ m) ∧
    ((∀ v ∈ sum, -m - 1 ≤ v ∧ v ≤ m) → r.1.els = sum ∧ r.1.ovf = false ∧ r.2 = false) ∧
    (¬ (∀ v ∈ sum, -m - 1 ≤ v ∧ v ≤ m) → r.1.ovf = true ∧ r.2 = true)) ∧
  (∀ (bi12 : Bool) (x y : Blk), x.ovf = true ∨ y.ovf = true → (addBlk bi12 x y).1.ovf = true ∧
    (addBlk bi12 x y).2 = false) ∧
  (∀ (b : Blk) (xs ys : List Blk), xs.Perm ys → xs.foldl addWide b = ys.foldl addWide b) ∧
  (∀ (s : Int) (k : Nat), 2 * (rneShift s k * 2 ^ k - s).natAbs ≤ 2 ^ k ∧
    (2 * (rneShift s k * 2 ^ k - s).natAbs = 2 ^ k → rneShift s k % 2 = 0)) ∧
  ∀ (bi12 : Bool) (els : List Int), (∀ v ∈ els, -(2 ^ 63) ≤ v ∧ v < 2 ^ 63) →
    fitsAt bi12 els (shortfall bi12 els) = true ∧ ∀ k < shortfall bi12 els, fitsAt bi12 els k = false

/-- GO opens a closed context, or takes one that has agreed into its main pass: what its work leaves where it ends, the
context's fault where it faults; a GO of the job in re-shard is held; on any other open context it faults. A REDUCE
packet of an unknown job, of another GEN or EPOCH, or of a step gone by is counted and dropped; one of an open context in
step is worked on; one that cannot be taken yet waits, and times out with a count and a log entry; one behind another of
its virtual channel waits its turn. A context open and not agreed faults when no progress is made (R304, R307, R315, R319, R320). -/
def Obligations.ReductionRuns : Prop :=
  (∀ (s : State) (c : BitVec 6) (w u : Writer), s.acting w = some u →
    let d := s.dev
    let n := c.toNat
    let held := d.regF identAddr 26 1 = 1 ∧ d.ctxJob n = d.job
    (d.ctxState n = 0 → held → Does (.go c w) s fun e =>
      e.heldGo = d.heldGo ++ [n + 64 * b2n u.secure] ∧ e.mem = d.mem ∧ e.regs = d.regs) ∧
    (∀ r ∈ [(0, goOpen n u.secure), (2, goOn n)], d.ctxState n = r.1 → ¬ (r.1 = 0 ∧ held) →
      (∀ x, workEnds r.2 d = some x → Yields (.go c w) s x.dev.recheckAll) ∧
      ∀ x, workFaults r.2 d = some x → Yields (.go c w) s (x.2.2.ctxFault n x.1 x.2.1).recheckAll) ∧
    (d.ctxState n ≠ 0 → d.ctxState n ≠ 2 → Yields (.go c w) s (d.ctxFault n 0x05 0).recheckAll ∧
      Yields (.progressTimeout c) s (d.ctxFault n 0x13 0).recheckAll) ∧
    (d.ctxState n = 0 ∨ d.ctxState n = 2 → Yields (.progressTimeout c) s d)) ∧
  (∀ (s : State) (l : BitVec 6) (pkt : List Byte),
    let h := hdrOf pkt
    let r := redHdrOf pkt
    let d := s.dev.consume l.toNat pkt
    let counted := fun o : Nat => Does (.reducePacket l pkt) s fun e =>
      e.reg (rdxReg r.ctx o) = (d.reg (rdxReg r.ctx o) + 1) % 2 ^ 64 ∧ e.mem = d.mem ∧ e.waitPkts = []
    h.typ = 7 →
    (s.dev.turnOf l.toNat pkt = false → Yields (.reducePacket l pkt) s (s.dev.await l.toNat pkt)) ∧
    (s.dev.turnOf l.toNat pkt = true →
    (d.waitPkts = [] → h.job ≠ d.job → d.jobCtxs h.job = [] → counted 0x108) ∧
    (d.waitPkts = [] → h.job = d.job → h.gen ≠ d.gen → counted 0x110) ∧
    (d.waitPkts = [] → h.job = d.job → h.gen = d.gen → h.epoch ≠ d.epoch → d.regF identAddr 26 1 = 0 →
      counted 0x118) ∧
    (d.redFate pkt = .go →
      (∀ x, workEnds (redTake r.ctx pkt) d = some x → Yields (.reducePacket l pkt) s x.dev.recheckAll) ∧
      ∀ x, workFaults (redTake r.ctx pkt) d = some x →
        Yields (.reducePacket l pkt) s (x.2.2.ctxFault r.ctx x.1 x.2.1).recheckAll))) ∧
  ∀ (s : State) (i : Nat) (p : List Byte), s.dev.waitPkts[i]? = some p → s.dev.jobCtxs (hdrOf p).job = [] →
    Does (.openWaitTimeout i) s fun e => e.waitPkts = dropNth s.dev.waitPkts i ∧ e.mem = s.dev.mem ∧
      e.reg (rdxReg (redHdrOf p).ctx 0x128) = (s.dev.reg (rdxReg (redHdrOf p).ctx 0x128) + 1) % 2 ^ 64 ∧
      ∃ y : Event, e.events = s.dev.events ++ [y] ∧ y.cls = 1

/-! ### The Quartermaster and its jobs (R352 to R361, R414, R441) -/

/-- At the basecamp a message of the host whose doorbell has rung is read, its LEN becomes 0, and it acts: SUBMIT queues
the job of its manifest or refuses it with a reason; CANCEL takes a queued job out of the queue and ends a running one;
LOADED sets a placed job running at step 1, memory as it was where no checkpoint is due at that step; RELEASE frees a
finished job; HOLD holds the queue (R356, R359, R361). -/
def Obligations.HostMessages : Prop :=
  ∀ (s : State) (m : BitVec 7) (msg : List Byte),
    let d := s.dev
    let ref := leAt msg 8 4
    (d.inbound m.toNat 1 = some msg →
      let manifest := (d.lanRead (leAt msg 16 8) (leAt msg 24 4)).getD []
      let image := (d.lanRead (leAt manifest 16 8) (leAt manifest 24 4)).getD []
      let j : Job :=
        { ref := ref, mbox := m.toNat, seq := leAt msg 4 4, manifest := manifest, image := image }
      let why := d.refusal j
      (manifestForm manifest ref = false → why = 1) ∧
      Does (.submit m) s fun e => e.mailLen m.toNat = 0 ∧ e.mem = d.mem ∧ e.qm.running = d.qm.running ∧
        e.qm.queue = (if why = 0 then d.qm.queue ++ [j] else d.qm.queue) ∧
        e.qm.refusals = (if why = 0 then d.qm.refusals else d.qm.refusals ++ [(ref, why)])) ∧
    (d.inbound m.toNat 2 = some msg →
      (∀ j, d.qm.queue.find? (·.ref == ref) = some j → Does (.hostCancel m) s fun e =>
        ∀ k ∈ e.qm.queue, k.ref ≠ ref) ∧
      (∀ j, d.qm.queue.find? (·.ref == ref) = none →
        d.qm.running.find? (fun j => j.ref == ref && decide (j.state ≠ 3)) = some j → Does (.hostCancel m) s fun e =>
          (∀ k ∈ e.qm.running, k.num = j.num → k.state = 3) ∧ e.qm.queue = d.qm.queue)) ∧
    (d.inbound m.toNat 3 = some msg → (∀ j ∈ d.qm.running ++ d.qm.queue, ref ≠ 0 ∧ j.ref ≠ ref) →
      Yields (.query m) s (d.takeMail m.toNat)) ∧
    (d.inbound m.toNat 3 = some msg → ∀ j, d.qm.running = [j] → d.qm.queue = [] → j.ref = ref →
      Yields (.query m) s ((d.takeMail m.toNat).sendStatus m.toNat (leAt msg 4 4) j (statusOf j) 0)) ∧
    (d.inbound m.toNat 4 = some msg → Does (.loaded m) s fun e => e.mailLen m.toNat = 0 ∧
      e.qm.queue = d.qm.queue ∧ (e.qm.running = d.qm.running.map fun j =>
        if j.ref = ref ∧ j.state = 1 then { j with state := 2, step := 1 } else j) ∧
      ((∀ j ∈ d.qm.running, j.ref = ref → stashDue j 1 = false) → e.mem = d.mem)) ∧
    (d.inbound m.toNat 5 = some msg → ∀ j, (d.qm.running.find? fun j => j.ref == ref && j.state == 3) = some j →
      Does (.hostRelease m) s fun e => e.qm.running = d.qm.running.filter (·.num != j.num) ∧
        e.qm.queue = d.qm.queue) ∧
    (d.inbound m.toNat 6 = some msg → Does (.hold m) s fun e => e.mailLen m.toNat = 0 ∧ e.mem = d.mem ∧
      e.qm.hold = (leAt msg 16 1 == 1) ∧ e.qm.queue = d.qm.queue ∧ e.qm.running = d.qm.running)

/-- JOB_START takes the head of the queue to the first placement of it among the free workers and strikes them, with the
next JOB number in turn; while the queue is held nothing is placed; a job whose devices are struck goes on. A strike
whose clears have ended is counted in flash and leaves JOB 0 (R360, R361, R414). -/
def Obligations.JobStarts : Prop :=
  (∀ s : State,
    let d := s.dev
    d.qmHere = true → d.halted = false → d.waitingTakeOver = none →
    (∀ j, d.qm.running.find? (·.state == 4) = some j → d.striking = none →
      Yields .jobStart s (d.finishStart j) ∧
      (mval (fieldsIn j.manifest) 0x0F08 [] = [] → Does .jobStart s fun e =>
        ∀ k ∈ e.qm.running, k.num = j.num → k.state = 1)) ∧
    (∀ j rest, d.qm.running.find? (·.state == 4) = none → d.qm.queue = j :: rest →
      (d.qm.hold = true → Yields .jobStart s d) ∧
      (d.qm.hold = false → Does .jobStart s fun e =>
        match placement (fieldsIn j.manifest) j.image d.freeWorkers with
        | none => e = d
        | some devs => e.qm.queue = rest ∧ e.qm.lastNum = d.nextJobNum ∧
            (devs.contains d.devId = true → e.striking.isSome = true ∧
              ∃ k ∈ e.qm.running, k.devices = devs ∧ k.num = d.nextJobNum ∧ k.state = 4)))) ∧
  ∀ s : State, s.dev.strikeCleared = true → s.dev.evacLater = [] → s.dev.owedStart = none →
    let n := s.perm.flash.strikes + 1
    ∃ e : Dev, exec .strikeComplete s =
        .next { s with perm := { s.perm with flash := { s.perm.flash with strikes := n } }, dev := e } ∧
      e.job = 0 ∧ e.epoch = 0 ∧ e.gen = 0 ∧ e.striking = none ∧ e.jobHere = none ∧ e.mem = s.dev.mem ∧
      e.strikeRec = [n, s.dev.strikeCount, b2n s.dev.tampered]

/-- The end of a job: complete, or past a deadline it declares, it is done and waits for release; a CONTAINED step is
played again until the kit's limit; a device lost leaves the pool (R354, R355, R361, R441). -/
def Obligations.JobsEnd : Prop :=
  (∀ (s : State) (job : BitVec 12) (j : Job), s.dev.runningJob job.toNat = some j →
    let done := fun e : Dev => (∀ k ∈ e.qm.running, k.num = j.num → k.state = 3) ∧ e.qm.queue = s.dev.qm.queue
    (∀ nf, Does (.jobComplete job nf) s done) ∧
    (mnum (fieldsIn j.manifest) 0x0F0A 0 ≠ 0 → Does (.deadlineExpiry job) s done) ∧
    (mnum (fieldsIn j.manifest) 0x0F0A 0 = 0 → Yields (.deadlineExpiry job) s s.dev) ∧
    Does (.containedReplay job) s (fun e => e.qm.queue = s.dev.qm.queue ∧ ∀ k ∈ e.qm.running, k.num = j.num →
      if Config.kitReplayLimit s.dev.kit ≤ j.replays then k.state = 3
      else k.state = 2 ∧ k.replays = j.replays + 1)) ∧
  (∀ (s : State) (job : BitVec 12), s.dev.runningJob job.toNat = none →
    (∀ nf, Yields (.jobComplete job nf) s s.dev) ∧ Yields (.deadlineExpiry job) s s.dev ∧
      Yields (.containedReplay job) s s.dev) ∧
  ∀ (s : State) (x : BitVec 10),
    (s.dev.qmHere = false → Yields (.deviceLoss x) s s.dev) ∧
    (s.dev.qmHere = true →
      Does (.deviceLoss x) s (fun e => x.toNat ∈ e.qm.lost ∧ e.qm.queue = s.dev.qm.queue) ∧
      ((∀ j ∈ s.dev.qm.running, x.toNat ∉ j.devices) → Does (.deviceLoss x) s fun e =>
        e.qm.running = s.dev.qm.running ∧ e.mem = s.dev.mem ∧ e.regs = s.dev.regs))

/-! ### Signed commands, tamper, the life-cycle (R405 to R413) -/

/-- The rows of signed commands, by TYPE. -/
def Sys2Proof.signedRows : List (Nat × Instr) :=
  [(1, .lifecycle), (2, .debug), (3, .ksvn), (4, .cert), (5, .kitSlotSwap)]

/-- The active Lantern checks the signed command it holds: one that fails a check leaves its RESULT, a new nonce, and
fuses and flash as they were; an accepted LIFECYCLE moves the fuses along Table 18.9, DEBUG unlocks the debug port with
the canisters wiped, KSVN burns up to the kit's, CERT stores the certificate, SLOT writes a valid image to both flashes.
A command of another TYPE, or none, is no row's (R405, R407 to R410, R434). -/
def Obligations.SignedCommands : Prop :=
  ∀ r ∈ signedRows, ∀ s : State,
    let d := s.dev
    let p := s.perm
    (d.active = none → Yields r.2 s d) ∧
    ∀ b, d.active = some b →
      ((d.lan b).busy = none → Yields r.2 s d) ∧
      ∀ blob, (d.lan b).busy = some blob →
        (blobType blob ≠ r.1 → Yields r.2 s d) ∧
        (blobType blob = r.1 → payloadOk blob = false → Does r.2 s fun e =>
          (e.lan b).result = 6 ∧ (e.lan b).busy = none ∧ e.mem = d.mem ∧ e.regs = d.regs) ∧
        (blobType blob = r.1 → payloadOk blob = true → leAt blob 8 8 ≠ p.fuses.uid.toNat → Does r.2 s fun e =>
          (e.lan b).result = 3 ∧ (e.lan b).busy = none ∧ e.mem = d.mem ∧ e.regs = d.regs) ∧
        (blobType blob = r.1 → ∃ q e, exec r.2 s = .next { s with perm := q, dev := e } ∧
          if d.checkBlob p b blob = 0 then
            (r.1 = 1 → q.fuses = p.fuses.moved (leAt blob 48 1) (blobPayload blob)) ∧
            (r.1 = 2 → q = p ∧ e.debugOpen = true ∧ e.lanA.keyHeld = false ∧ e.lanB.keyHeld = false) ∧
            (r.1 = 3 → q.fuses = { p.fuses with ksvn := max p.fuses.ksvn (leAt d.kit 16 1) } ∧ q.flash = p.flash) ∧
            (r.1 = 4 → q.fuses = p.fuses ∧ q.flash = { p.flash with cert := blobPayload blob }) ∧
            (r.1 = 5 → q.fuses = p.fuses ∧ e.mem = d.mem)
          else q = p ∧ (e.lan b).result = d.checkBlob p b blob ∧ (e.lan b).busy = none ∧ e.mem = d.mem)

/-- TAMPER: the canisters are wiped, every byte of secure memory and of secure scratchpad segments reads zero and every
other byte as before, TAMPERED is set and logged in flash, every engine stops and ALERT_N is low; a strike in progress
ends without being counted. A module without power notices nothing (R411, R413, R454). -/
def Obligations.TamperClears : Prop :=
  (∀ s : State, s.dev.power = .off → Yields .tamper s s.dev) ∧
  ∀ s : State, s.dev.power ≠ .off →
    let d := s.dev
    let sec : Nat → Bool := fun a =>
      match regionOf a with
      | .scratch t o => d.segSecure t (o / 8192)
      | .hbm => d.memSecure a 1
      | .lpddr => d.memSecure a 1
      | _ => false
    ∃ e : Dev, exec .tamper s =
        .next { s with
          perm := { s.perm with flash := { s.perm.flash with log := s.perm.flash.log ++ [0xFF] } }, dev := e } ∧
      e.tampered = true ∧ e.halted = true ∧ e.alertN = false ∧ e.striking = none ∧
      (∀ b, (e.lan b).keyHeld = false ∧ (e.lan b).nonce = [0, 0, 0, 0] ∧ (e.lan b).busy = none ∧
        (e.lan b).lastSeq = []) ∧
      ∀ a, look byte0 e.mem a = if sec a then 0 else look byte0 d.mem a

/-- Every step keeps the fuses legal: their life-cycle log a path of Table 18.9 of at most 16 entries, with an OWNER
slot burned for each entry into FIELD, of four, and one revoked for each into RETURN (R408, R409). -/
def Obligations.LifeCycleStaysLegal : Prop :=
  ∀ s t : State, s.perm.fuses.legal = true → step s = .next t → t.perm.fuses.legal = true

/-- The block as it stands at reset, before power: nothing waits, memory lists nothing, no context is open, no S-core
runs, RDX_IDENT is zero, and the tent registers hold the reset values of their tables (R22, R57 to R59). The fuses of
a module at reset are legal. -/
def Obligations.ResetState : Prop :=
  (let d := State.reset.dev
   State.reset.pending = [] ∧ d.mem = [] ∧ d.power = .off ∧ d.halted = false ∧ d.events = [] ∧ d.openCtxs = [] ∧
     d.job = 0 ∧ d.epoch = 0 ∧ d.gen = 0 ∧ (∀ t n, (d.core t n).running = false) ∧
     ∀ t < 16384, d.reg (tentReg t 0) = 0x30 ∧ d.reg (tentReg t 4) = 0x7777_7777 ∧ d.reg (tentReg t 8) = 0x7777 ∧
       d.reg (tentReg t 0xC) = 0 ∧ d.reg (tentReg t 0x10) = 0) ∧
  (State.reset.perm.fuses.legal = true)

/-- Every step only burns fuses, and only the commands LIFECYCLE and KSVN burn any: under every other command, and in an
idle step, the fuses are as before (R408 to R410, R405). -/
def Obligations.FusesOnlyGain : Prop :=
  ∀ s t : State, step s = .next t → s.perm.fuses.grows t.perm.fuses ∧
    (s.pending.head? ≠ some .lifecycle → s.pending.head? ≠ some .ksvn → t.perm.fuses = s.perm.fuses)

/-! ### Management messages (R419 to R421, R436, R440) -/

/-- A management message leaves the link it came through and acts at the active Lantern: the device's own HEARTBEAT is
answered, the basecamp's brings the journal to the standby; TIME_SYNC asks the basecamp or is answered with its time;
TIME_REPLY sets the offset to slew to, half the round trip added; EVENT_FWD reaches the Quartermaster; a CMD under a
named key and a rising SEQ is kept, carried out and answered with its SEQ, and with the attestation report where it asks
for one (R9, R417); any other is discarded and logged; CMD_RSP changes nothing. -/
def Obligations.ManagementMessages : Prop :=
  ∀ (s : State) (src : BitVec 10) (body : List Byte),
    let n := src.toNat
    let d := s.dev.takeMgmt n body
    (leAt body 0 2 = msgHeartbeat →
      (∀ a b, n = d.devId → d.active = some a → d.standby = some b →
        Yields (.heartbeat src body) s (d.setLan b { d.lan b with missed := 0 })) ∧
      (n ≠ d.devId → d.role = 2 → n = d.baseId → Does (.heartbeat src body) s fun e =>
        e.qm.queue = (Config.journalOf (body.drop 8)).1 ∧ e.qm.running = (Config.journalOf (body.drop 8)).2 ∧
          e.mem = d.mem ∧ e.regs = d.regs)) ∧
    (leAt body 0 2 = msgTimeSync →
      (∀ a, n = d.devId → d.baseId ≠ d.devId → d.active = some a →
        Yields (.timeSync src body) s (d.sendMgmt d.baseId msgTimeSync (leBytes 8 d.time.toNat))) ∧
      (∀ a, n ≠ d.devId → d.role = 1 → d.active = some a →
        Yields (.timeSync src body) s
          (d.sendMgmt n msgTimeReply (slice (body.drop 8) 0 8 ++ leBytes 8 d.campTime.toNat)))) ∧
    (leAt body 0 2 = msgTimeReply → n = d.baseId → d.devId ≠ d.baseId → Does (.timeReply src body) s fun e =>
      let sent : Int := leAt (body.drop 8) 0 8
      let base : Int := leAt (body.drop 8) 8 8
      e.campTarget = base + (d.time.toNat - sent) / 2 - d.time.toNat ∧ e.mem = d.mem ∧ e.regs = d.regs ∧
        e.time = d.time) ∧
    (leAt body 0 2 = msgEventFwd → d.qmHere = true →
      Yields (.eventFwd src body) s (d.eventToHost (leNat (slice (body.drop 8) 0 64)))) ∧
    (leAt body 0 2 = msgCmd → ∀ b, d.active = some b →
      let last := look (fun _ => 0) (d.lan b).lastSeq n
      let seq := leAt body 2 6
      let signed := body.take (body.length - sigLen)
      (seq ≤ last → Does (.cmd src body) s fun e => e.mem = d.mem ∧ (e.lan b).lastSeq = (d.lan b).lastSeq ∧
        ∃ y : Event, e.events = d.events ++ [y] ∧ y.cls = 1) ∧
      (last < seq → Yields (.cmd src body) s
        (if d.signedByNamed (Config.shake512 signed) (body.drop signed.length) = false then d.lanErr 1 0x04 { tag := n }
        else
          let act := Config.cmdAct (signed.drop 8)
          let e := (d.setLan b { d.lan b with lastSeq := put (fun _ => 0) (d.lan b).lastSeq n seq }).cmdAct act
          let e1 := { e with fresh := e.fresh + 1 }
          match act with
          | .report j =>
            let r := attReport s.perm e (e.jobHere.getD j)
            (List.range (r.length / 2048 + 1)).foldl (fun (d : Dev) i =>
              d.sendMgmt n msgCmdRsp (leBytes 6 seq ++ slice r (2048 * i) (min 2048 (r.length - 2048 * i)))) e1
          | _ => e1.sendMgmt n msgCmdRsp (leBytes 6 seq)))) ∧
    (leAt body 0 2 = msgCmdRsp → Yields (.cmdRsp src body) s d)

/-- The standby Lantern counts its heartbeats until they are answered; with ten unanswered the active one is lost. A
core's watchdog interrupts it first and loses its Lantern at the second. A lost active Lantern passes its role to a live
standby, and ALERT_N falls; it comes back booted beside it; with no live Lantern the device is lost. A handover swaps
the roles (R398, R434, R436, R437). -/
def Obligations.LanternsTakeOver : Prop :=
  ∀ s : State,
    let d := s.dev
    let taken := fun (b : Bool) (e : Dev) => e.active = some (!b) ∧ (e.lan b).lost = true ∧ e.alertN = false ∧
      e.mem = d.mem
    (∀ b, d.standby = some b → d.qmHere = false → Does .heartbeatSend s fun e =>
      (e.lan b).missed = (d.lan b).missed + 1 ∧ e.mem = d.mem ∧ e.regs = d.regs) ∧
    (∀ b, d.standby = some b →
      ((d.lan b).missed < 10 → Yields .heartbeatLoss s d) ∧
      (10 ≤ (d.lan b).missed → (d.lan (!b)).role = .active → (d.lan (!b)).lost = false →
        Does .heartbeatLoss s (taken (!b)))) ∧
    (∀ (b : Bool) (core : BitVec 2),
      ((d.lan b).lost = false → core.toNat ∉ (d.lan b).barked → Does (.watchdogFirst b core) s fun e =>
        (e.lan b).barked = (d.lan b).barked ++ [core.toNat] ∧ e.mem = d.mem ∧ e.regs = d.regs) ∧
      (core.toNat ∉ (d.lan b).barked → Yields (.watchdogSecond b core) s d) ∧
      (core.toNat ∈ (d.lan b).barked → Yields (.watchdogSecond b core) s (d.loseLantern b)) ∧
      (core.toNat ∈ (d.lan b).barked → (d.lan b).role = .active → (d.lan b).lost = false →
        d.standby = some (!b) → Does (.watchdogSecond b core) s (taken b))) ∧
    (∀ b, d.active = some b →
      ((d.lan (!b)).lost = true → Does .lostLanternReturn s fun e =>
        (e.lan (!b)).lost = false ∧ e.active = some b ∧ e.mem = d.mem) ∧
      ((d.lan (!b)).lost = false → Yields .lostLanternReturn s d) ∧
      Yields .lanternRecoveryTimeout s d) ∧
    (d.active = none → Does .lanternRecoveryTimeout s fun e =>
      e.halted = true ∧ e.alertN = false ∧ e.mem = d.mem) ∧
    ∀ (w u : Writer) (b : Bool), s.acting w = some u →
      (u.secure = false → Yields (.handover w b) s (d.lanRefused 0x104)) ∧
      (u.secure = true → d.active = some b → d.standby = some (!b) → Does (.handover w b) s fun e =>
        e.active = some (!b) ∧ (e.lan b).role ≠ .active ∧ e.mem = d.mem ∧ e.regs = d.regs)

/-! ### Resets (R424 to R428, R461, R462, R27) -/

/-- What each reset leaves of memory and where it puts the module's power: COLD clears every byte; WARM keeps both
memory tiers and clears the rest, held while RST_N is low, booted where it is high; power-down and an input under
voltage clear all; the shutdown temperature removes the logic's power. No reset changes the fuses. A module none of
whose slots holds a kit boots without an active Lantern and halts, with ALERT_N low (R404, R424 to R426). -/
def Obligations.ResetsOfTheModule : Prop :=
  ∀ s : State,
    let d := s.dev
    let tiers := fun e : Dev => ∀ a, look byte0 e.mem a =
      if regionOf a = .hbm ∨ regionOf a = .lpddr then look byte0 d.mem a else 0
    let booted := fun (i : Instr) (P : Dev → Prop) => ∃ q e, exec i s = .next { s with perm := q, dev := e } ∧
      q.fuses = s.perm.fuses ∧ e.power = .on ∧ P e ∧
      (s.perm.flash.slots = [[], [], [], []] → s.perm.fuses.lifecycle ≠ 4 → e.active = none ∧ e.halted = true ∧
        e.alertN = false)
    (d.pwrGood = true → Yields .coldReset s d) ∧
    (d.pwrGood = false → d.rstN = true → booted .coldReset fun e => e.mem = [] ∧ e.pwrGood = true) ∧
    (d.pwrGood = false → d.rstN = false → Does .coldReset s fun e =>
      e.mem = [] ∧ e.regs = [] ∧ e.pwrGood = true ∧ e.power = .held) ∧
    (d.dark = false → Does .rstNAssert s fun e =>
      e.power = .held ∧ e.rstN = false ∧ e.selfRefresh = true ∧ tiers e) ∧
    (d.dark = true → Yields .rstNAssert s { d with rstN := false }) ∧
    (d.power = .held → booted .rstNRelease fun e => e.mem = d.mem ∧ e.rstN = true) ∧
    (d.power ≠ .held → Yields .rstNRelease s { d with rstN := true }) ∧
    (∀ w u : Writer, s.acting w = some u → u.secure = false → Yields (.lanResetWarm w) s (d.lanRefused 0x100)) ∧
    (∀ w u : Writer, s.acting w = some u → u.secure = true → d.dark = false → d.rstN = true →
      booted (.lanResetWarm w) tiers) ∧
    Does .powerDown s (fun e => e.mem = [] ∧ e.regs = [] ∧ e.power = .off ∧ e.pwrGood = false) ∧
    Does .inputUndervoltage s (fun e => e.mem = [] ∧ e.regs = [] ∧ e.power = .off ∧ e.pwrGood = false) ∧
    ∀ part : BitVec 6, Does (.shutdownTemperature part) s fun e =>
      e.mem = [] ∧ e.power = .logicOff ∧ e.alertN = false

/-- A SOFT reset clears every tent's memories and registers, but for what the kit writes, and no other memory; a TENT
reset those of one tent, whose pack stack stays; a PORT reset is the port's. A non-secure writer is refused and logged
(R6, R176, R424, R428). -/
def Obligations.ResetsOfBlocks : Prop :=
  ∀ (s : State) (w v : Writer), s.acting w = some v →
    let d := s.dev
    let cleared := fun (which : Nat → Bool) (a : Nat) (e : Dev) => look byte0 e.mem a =
      match regionOf a with
      | .scratch t _ => if which t then 0 else look byte0 d.mem a
      | .vreg t _ => if which t then 0 else look byte0 d.mem a
      | .istore t _ _ => if which t then 0 else look byte0 d.mem a
      | _ => look byte0 d.mem a
    (v.secure = false → Yields (.softReset w) s (d.lanRefused 0x100) ∧
      (∀ t, Yields (.tentReset w t) s (d.lanRefused 0x100)) ∧
      ∀ p, Yields (.portReset p w) s (d.lanRefused 0x100)) ∧
    (v.secure = true →
      Does (.softReset w) s (fun e => (∀ a, cleared (fun _ => true) a e) ∧
        ∀ a t o, tentOffOf a = some (t, o) → keptTentReg .soft o = false → e.reg a = (regReset a).toNat) ∧
      (∀ t : TentId, Does (.tentReset w t) s fun e => (∀ a, cleared (· == t.toNat) a e) ∧
        (∀ a o, tentOffOf a = some (t.toNat, o) → keptTentReg .tent o = false → e.reg a = (regReset a).toNat) ∧
        (∀ a u o, tentOffOf a = some (u, o) → u ≠ t.toNat → e.reg a = d.reg a) ∧
        ((d.tents.map Prod.fst).Nodup → (e.tent t.toNat).stack = (d.tent t.toNat).stack)) ∧
      ∀ p : BitVec 5, p.toNat < 24 → Yields (.portReset p w) s
        ((d.setRegF (dieReg 6 0x1600_0100) 19 5 p.toNat).portReset p.toNat))

/-! ### Live service (R429 to R435) -/

/-- The bivouac is entered with memory kept in self-refresh, and refused with BIV_ERR where a job is placed, on the
basecamp or its standby, or where a running job has no other route; each wake event starts the wake, which ends with
the module on and its memory as it was (R429 to R431). An evacuation asked for in a row with no spare in use puts its
tent on the row's spare, whose row map and repair list say so, and no byte of memory changes where every word can be
copied; a second one of a row is a DEVICE error (R31); one that cannot quiesce is put off to the next strike. A recalibration is granted its slots (R47, R434, R435). -/
def Obligations.LiveService : Prop :=
  (∀ s : State,
     let d := s.dev
     let woken := if d.power = .bivouac then { d with power := .waking } else d
     (∀ w u : Writer, s.acting w = some u →
       (u.secure = false → Yields (.bivEnter w) s (d.lanRefused 0x104) ∧ Yields (.bivWake w) s (d.lanRefused 0x104)) ∧
       (u.secure = true → Yields (.bivWake w) s woken ∧ (d.power ≠ .on → Yields (.bivEnter w) s d)) ∧
       (u.secure = true → d.power = .on → Does (.bivEnter w) s fun e =>
         if d.jobPlaced = true ∨ d.role = 1 ∨ d.role = 2 ∨ Config.soleRoute d.fresh = true then
           e.regF svcAddr 3 1 = 1 ∧ e.power = .on ∧ e.mem = d.mem
         else e.power = .bivouac ∧ e.selfRefresh = true ∧
           ∀ a, regionOf a = .hbm ∨ regionOf a = .lpddr → look byte0 e.mem a = look byte0 d.mem a)) ∧
     Yields .wakeN s woken ∧
     (∀ (p : BitVec 5) (f : SbFrame), p.toNat < 24 → sbBad f = false → f.typ = 0x02 → Does (.wake p f) s fun e =>
       e.power = woken.power ∧ e.mem = d.mem ∧ e.regs = d.regs) ∧
     (d.power = .waking → Does .bivouacWakeDone s fun e =>
       e.power = .on ∧ e.selfRefresh = false ∧ e.mem = d.mem) ∧
     (d.power ≠ .waking → Yields .bivouacWakeDone s d)) ∧
  ((∀ (s : State) (t : TentId),
     let d := s.dev
     let n := t.toNat
     (n ∉ d.evacWait → Yields (.tentEvacuation t) s d) ∧
     (n ∈ d.evacWait → d.rowMapped n = true → Does (.tentEvacuation t) s fun e =>
       n ∉ e.evacWait ∧ e.halted = true ∧ e.mem = d.mem ∧ ∀ u, e.rowMapped u = d.rowMapped u) ∧
     (n ∈ d.evacWait → d.rowMapped n = false → d.badOf n = [] → ∃ e : Dev, exec (.tentEvacuation t) s =
         .next { s with
           perm := { s.perm with flash :=
             { s.perm.flash with repairs := s.perm.flash.repairs ++ [.tent (n / 64) (n % 64)] } }, dev := e } ∧
       e.rowMapped n = true ∧ e.regF (rowMapAddr n) 0 6 = n % 64 ∧ n ∉ e.evacWait ∧ e.mem = d.mem)) ∧
   (∀ (s : State) (t : Nat) (rest : List Nat), s.dev.evacWait = t :: rest → Does .evacQuiesceTimeout s fun e =>
     e.evacWait = rest ∧ e.evacLater = s.dev.evacLater ++ [t] ∧ e.mem = s.dev.mem ∧
       ∃ y : Event, e.events = s.dev.events ++ [y] ∧ y.cls = 2) ∧
   ∀ (s : State) (part : Recal), Yields (.recalibration part) s
     (s.dev.grant (recalWatch part).1 [(recalWatch part).2]).1)

/-! ### The recovery responder (R438 to R440) -/

/-- Fragments of a recovery command are kept until it is whole; then it stands ready where it is accepted, and a new
nonce is drawn. A ready command of an action is carried out once through its port: STATUS is answered, a Lantern
restarts, WARM resets, WAKE wakes, LOST stops all work, KIT starts a load (R438, R439). -/
def Obligations.RecoveryCommands : Prop :=
  (∀ (s : State) (port : BitVec 5) (f : SbFrame),
    let d := s.dev
    let p := port.toNat
    let bs := look (fun _ => []) d.resp.frags p ++ f.payload
    p < 24 → d.power ≠ .off → d.power ≠ .logicOff → d.resp.load.map (·.port) ≠ some p → sbBad f = false →
      f.typ = 0x10 →
    (bs.length < recoverLen bs → Does (.recover port f) s fun e =>
      look (fun _ => []) e.resp.frags p = bs ∧ e.resp.ready = d.resp.ready ∧ e.mem = d.mem) ∧
    (recoverLen bs ≤ bs.length → Does (.recover port f) s fun e =>
      look (fun _ => []) e.resp.frags p = [] ∧ e.mem = d.mem ∧
        e.resp.ready = if d.recoverOk s.perm (bs.take (recoverLen bs)) then some (p, bs.take (recoverLen bs)) else none)) ∧
  (let rows : List (Nat × (BitVec 5 → Instr)) :=
      [(0, .recoverStatus), (1, .resetLanternA), (2, .resetLanternB), (3, .recoverWarm), (4, .recoverWake),
        (5, .recoverLost), (6, .recoverKit)]
    ∀ r ∈ rows, ∀ (s : State) (port : BitVec 5),
    (s.dev.resp.ready = none → Yields (r.2 port) s s.dev) ∧
    ∀ q c, s.dev.resp.ready = some (q, c) → q ≠ port.toNat ∨ leAt c 0 1 ≠ r.1 → Yields (r.2 port) s s.dev) ∧
  ∀ (s : State) (port : BitVec 5) (c : List Byte), s.dev.resp.ready = some (port.toNat, c) →
    let d := { s.dev with resp := { s.dev.resp with ready := none } }
    let once := fun e : Dev => e.resp.ready = none ∧ e.mem = s.dev.mem
    (leAt c 0 1 = 0 → Does (.recoverStatus port) s once) ∧
    (leAt c 0 1 = 1 → Does (.resetLanternA port) s fun e => once e ∧ e.lanA.lost = false) ∧
    (leAt c 0 1 = 2 → Does (.resetLanternB port) s fun e => once e ∧ e.lanB.lost = false) ∧
    (leAt c 0 1 = 3 → d.dark = false → d.rstN = true → ∃ q e, exec (.recoverWarm port) s =
      .next { s with perm := q, dev := e } ∧ q.fuses = s.perm.fuses ∧ e.power = .on ∧
        ∀ a, regionOf a = .hbm ∨ regionOf a = .lpddr → look byte0 e.mem a = look byte0 d.mem a) ∧
    (leAt c 0 1 = 4 → Yields (.recoverWake port) s d.wakeEvent) ∧
    (leAt c 0 1 = 5 → Does (.recoverLost port) s fun e => once e ∧ e.halted = true ∧ e.alertN = false) ∧
    (leAt c 0 1 = 6 → Does (.recoverKit port) s fun e => once e ∧ ∃ k : KitLoad, e.resp.load = some k ∧
      k.port = port.toNat ∧ k.got = [] ∧ k.length = leAt c 52 4)

/-- Frames of a kit load fill the slot up to its LENGTH: then, or at its timeout, the load ends and the bytes received
stand in the slot. The standby basecamp's takeover makes it the basecamp and is kept in flash (R439, R440). -/
def Obligations.KitLoadsAndTakeover : Prop :=
  (∀ (s : State) (k : KitLoad), s.dev.resp.load = some k →
    let p := fun got : List Byte => { s.perm with flash := s.perm.flash.setSlot k.lanB k.slotB got }
    (∀ (port : BitVec 5) (f : SbFrame),
      let got := (k.got ++ f.payload).take k.length
      (port.toNat ≠ k.port → Yields (.kitLoadFrame port f) s s.dev) ∧
      (port.toNat = k.port → sbBad f = false → f.typ = 0x10 →
        (got.length < k.length → Yields (.kitLoadFrame port f) s
          { s.dev with resp := { s.dev.resp with load := some { k with got := got } } }) ∧
        (k.length ≤ got.length → ∃ e : Dev, exec (.kitLoadFrame port f) s =
          .next { s with perm := p got, dev := e } ∧ e.resp.load = none ∧ e.mem = s.dev.mem))) ∧
    ∃ e : Dev, exec .kitLoadTimeout s = .next { s with perm := p k.got, dev := e } ∧ e.resp.load = none ∧
      e.mem = s.dev.mem ∧ (if k.slotB then (e.lan k.lanB).badB else (e.lan k.lanB).badA) = true) ∧
  ∀ s : State,
    (s.dev.role ≠ 2 → Yields .standbyBasecampTakeover s s.dev) ∧
    (s.dev.role = 2 → ∀ b, s.dev.active = some b → ∃ e : Dev, exec .standbyBasecampTakeover s =
        .next { s with perm := { s.perm with flash := { s.perm.flash with roleChanged := true } }, dev := e } ∧
      e.role = 1 ∧ e.baseId = s.dev.devId ∧ e.standbyId = s.dev.baseId)

/-! ### The Compass, power and SMBus (R433, R443, R445, R456, R457) -/

/-- A report of the Compass is kept, and written at CMP_REPORT_BASE where that is not zero: its header, what the sensors
give, and the counters its registers hold, once the tents' counters are added to their totals; a part over its warning
temperature is logged once per crossing and drives ALERT_N low; an idle block and an idle channel power down where the
setting lets them; a block read gives 32 bytes of the latest report, zeros until a Lantern runs; ALERT_CLEAR releases
ALERT_N. -/
def Obligations.CompassAndPower : Prop :=
  (∀ (s : State) (x : Sensed),
    let d := s.dev.compassTotals
    let base := d.reg (dieReg 6 0x1800_0010)
    let body := d.sections x
    let report := leBytes 4 0x5053_4D43 ++ leBytes 4 0 ++ leBytes 8 s.dev.time.toNat ++ leBytes 4 s.dev.job ++
      leBytes 4 (64 + body.length) ++ leBytes 40 0 ++ body
    (base = 0 → Does (.compassReport x) s fun e => e.report = report ∧ e.mem = s.dev.mem ∧ e.regs = d.regs) ∧
    (∀ a, base ≠ 0 → d.memHere base report.length = some a → d.memSecure a report.length = false →
      d.quiet a report.length = true → d.blockedBy a report.length = [] →
      Does (.compassReport x) s fun e => e.report = report ∧ e.mem = (d.wrB a report).mem ∧ e.regs = d.regs)) ∧
  (∀ (s : State) (part : BitVec 6),
    let d := s.dev
    Yields (.tempWarn part false) s { d with warm := d.warm.filter (· != part.toNat) } ∧
    (part.toNat ∈ d.warm → Yields (.tempWarn part true) s d) ∧
    (part.toNat ∉ d.warm → Does (.tempWarn part true) s fun e => e.warm = d.warm ++ [part.toNat] ∧
      e.alertN = false ∧ e.mem = d.mem ∧ ∃ y : Event, e.events = d.events ++ [y] ∧ y.cls = 1)) ∧
  (∀ (s : State) (t : TentId) (blk : BitVec 4),
    let d := s.dev
    (blk.toNat < 14 → blk.toNat ∉ (d.tent t.toNat).gated → d.blockIdle t.toNat blk.toNat = true →
      d.regF (dieReg (t.toNat / 8192) 0x1800_0000) 0 8 ≠ 0 → Does (.clockGate t blk) s fun e =>
        (e.tent t.toNat).gated = (d.tent t.toNat).gated ++ [blk.toNat] ∧ e.mem = d.mem ∧ e.regs = d.regs) ∧
    (d.blockIdle t.toNat blk.toNat = false → Yields (.clockGate t blk) s d)) ∧
  (∀ (s : State) (ch : BitVec 9),
    let die := if ch.toNat < 384 then 2 + ch.toNat / 96 else 2 + (ch.toNat - 384) / 24
    ch.toNat < 480 → ch.toNat ∉ s.dev.memDown → s.dev.regF (dieReg die 0x1800_0000) 8 10 ≠ 0 →
      Yields (.memoryPowerDown ch) s { s.dev with memDown := s.dev.memDown ++ [ch.toNat] }) ∧
  ∀ (s : State),
    (∀ n : BitVec 8, s.dev.power ≠ .off → Yields (.smbusBlockRead n) s { s.dev with
      smbus := if s.dev.active.isSome then slice s.dev.report (32 * n.toNat) 32 else List.replicate 32 0 }) ∧
    Yields .alertClear s { s.dev with alertN := true }

/-! ### Reset and the idle block -/

/-- A step takes the command at the front of the queue and runs it on the state with the queue's rest; with an empty
queue the block idles for a tick (DESIGN CHOICE, assumption log 4). With no command waiting a step is a tick (DESIGN
CHOICE, assumption log 4): nothing without power or with the logic's power removed; global time on by one count where
the module is held, in the bivouac or waking, and nothing else (R395). -/
def Obligations.StepRunsFrontCommand : Prop :=
  ((∀ (c : Instr) (s : State), step { s with pending := c :: s.pending } = exec c s) ∧
     ∀ s : State, s.pending = [] → step s = idle s) ∧
  (∀ s : State, s.pending = [] → s.dev.warmAsked = false →
     (s.dev.power = .off ∨ s.dev.power = .logicOff → step s = .next s) ∧
     (s.dev.power = .held ∨ s.dev.power = .bivouac ∨ s.dev.power = .waking →
       step s = .next { s with dev := { s.dev with time := s.dev.time + 1 } }))
end

