-- ==== Sys2Proof/Laws/Store.lean ====
section
/-! SUPPORT. Laws of the canonical store of Machine/Store.lean and of the memory operations over it: what a
read gives after a write, and that every operation keeps the canonical form. -/

namespace Sys2Proof.Machine

variable {α : Type}

/-! ### Reads after writes -/

theorem look_dropAt_self (f : Nat → α) (m : List (Nat × α)) (k : Nat) : look f (dropAt k m) k = f k := by
  induction m with
  | nil => rfl
  | cons p m ih =>
    obtain ⟨a, v⟩ := p
    by_cases h : a = k
    · subst h; simpa [dropAt] using ih
    · simp only [dropAt, List.filter_cons, bne_iff_ne, ne_eq, h, not_false_eq_true, if_true, look, if_false]
      exact ih

theorem look_dropAt_ne (f : Nat → α) (m : List (Nat × α)) {k j : Nat} (h : j ≠ k) :
    look f (dropAt k m) j = look f m j := by
  induction m with
  | nil => rfl
  | cons p m ih =>
    obtain ⟨a, v⟩ := p
    by_cases ha : a = k
    · subst ha
      have : dropAt a ((a, v) :: m) = dropAt a m := by simp [dropAt]
      rw [this, ih, look, if_neg (Ne.symm h)]
    · have : dropAt k ((a, v) :: m) = (a, v) :: dropAt k m := by simp [dropAt, ha]
      rw [this, look, look, ih]

theorem look_insertAt_ne (f : Nat → α) (m : List (Nat × α)) (k : Nat) (v : α) {j : Nat} (h : j ≠ k) :
    look f (insertAt k v m) j = look f m j := by
  induction m with
  | nil => simp [insertAt, look, Ne.symm h]
  | cons p m ih =>
    obtain ⟨a, w⟩ := p
    simp only [insertAt]
    split
    · simp [look, Ne.symm h]
    · simp [look, ih]

theorem look_insertAt_self (f : Nat → α) (m : List (Nat × α)) (k : Nat) (v : α) (h : ∀ p ∈ m, p.1 ≠ k) :
    look f (insertAt k v m) k = v := by
  induction m with
  | nil => simp [insertAt, look]
  | cons p m ih =>
    obtain ⟨a, w⟩ := p
    simp only [insertAt]
    split
    · simp [look]
    · have ha : a ≠ k := h (a, w) (by simp)
      simp [look, ha, ih fun q hq => h q (by simp [hq])]

theorem dropAt_ne (m : List (Nat × α)) (k : Nat) : ∀ p ∈ dropAt k m, p.1 ≠ k := by
  intro p hp
  simpa [dropAt] using (List.mem_filter.mp hp).2

/-- What a store reads after a write. -/
theorem look_put [DecidableEq α] (f : Nat → α) (m : List (Nat × α)) (k : Nat) (v : α) (j : Nat) :
    look f (put f m k v) j = if j = k then v else look f m j := by
  unfold put
  by_cases h : j = k
  · subst h
    split
    · simp [look_dropAt_self, *]
    · simp [look_insertAt_self f _ j v (dropAt_ne m j)]
  · split
    · exact look_dropAt_ne f m h
    · rw [look_insertAt_ne f _ k v h, look_dropAt_ne f m h]

@[simp] theorem look_put_self [DecidableEq α] (f : Nat → α) (m : List (Nat × α)) (k : Nat) (v : α) : look f (put f m k v) k = v := by
  simp [look_put]

theorem look_put_ne [DecidableEq α] (f : Nat → α) (m : List (Nat × α)) {k j : Nat} (v : α) (h : j ≠ k) :
    look f (put f m k v) j = look f m j := by
  simp [look_put, h]

/-- What a store reads after a range is wiped. -/
theorem look_wipe (f : Nat → α) (m : List (Nat × α)) (lo hi j : Nat) :
    look f (wipe m lo hi) j = if lo ≤ j ∧ j < hi then f j else look f m j := by
  induction m with
  | nil => simp [wipe, look]
  | cons p m ih =>
    obtain ⟨a, v⟩ := p
    by_cases ha : lo ≤ a ∧ a < hi
    · have : wipe ((a, v) :: m) lo hi = wipe m lo hi := by simp [wipe, ha.1, ha.2]
      rw [this, ih]
      by_cases hj : lo ≤ j ∧ j < hi
      · simp [hj]
      · have : a ≠ j := fun e => hj (e ▸ ha)
        simp [hj, look, this]
    · have : wipe ((a, v) :: m) lo hi = (a, v) :: wipe m lo hi := by
        rw [wipe, List.filter_cons, if_pos (by simp only [Bool.not_eq_true', Bool.and_eq_false_iff, decide_eq_false_iff_not]; omega)]
        rfl
      rw [this, look, ih]
      by_cases hj : lo ≤ j ∧ j < hi
      · have : a ≠ j := fun e => ha (e ▸ hj)
        simp [hj, this]
      · simp [hj, look]

/-! ### The canonical form -/

theorem risingFrom_mono {b c : Nat} {m : List (Nat × α)} (h : c ≤ b) (hm : risingFrom b m = true) :
    risingFrom c m = true := by
  cases m with
  | nil => rfl
  | cons p m =>
    simp only [risingFrom, Bool.and_eq_true, decide_eq_true_eq] at hm ⊢
    exact ⟨by omega, hm.2⟩

theorem risingFrom_filter (q : Nat × α → Bool) {b : Nat} {m : List (Nat × α)} (hm : risingFrom b m = true) :
    risingFrom b (m.filter q) = true := by
  induction m generalizing b with
  | nil => rfl
  | cons p m ih =>
    simp only [risingFrom, Bool.and_eq_true, decide_eq_true_eq] at hm
    rw [List.filter_cons]
    split
    · simp only [risingFrom, Bool.and_eq_true, decide_eq_true_eq]
      exact ⟨hm.1, ih hm.2⟩
    · exact risingFrom_mono (by omega) (ih hm.2)

theorem risingFrom_insertAt (k : Nat) (v : α) {b : Nat} {m : List (Nat × α)} (hb : b ≤ k)
    (hk : ∀ p ∈ m, p.1 ≠ k) (hm : risingFrom b m = true) : risingFrom b (insertAt k v m) = true := by
  induction m generalizing b with
  | nil => simp [insertAt, risingFrom, hb]
  | cons p m ih =>
    obtain ⟨a, w⟩ := p
    simp only [risingFrom, Bool.and_eq_true, decide_eq_true_eq] at hm
    have ha : a ≠ k := hk (a, w) (by simp)
    simp only [insertAt]
    split
    · simp only [risingFrom, Bool.and_eq_true, decide_eq_true_eq]
      exact ⟨hb, by omega, hm.2⟩
    · simp only [risingFrom, Bool.and_eq_true, decide_eq_true_eq]
      exact ⟨hm.1, ih (by omega) (fun q hq => hk q (by simp [hq])) hm.2⟩

theorem mem_insertAt (k : Nat) (v : α) (m : List (Nat × α)) :
    ∀ p ∈ insertAt k v m, p = (k, v) ∨ p ∈ m := by
  induction m with
  | nil => intro p hp; simpa [insertAt] using hp
  | cons q m ih =>
    obtain ⟨a, w⟩ := q
    intro p hp
    simp only [insertAt] at hp
    split at hp
    · simpa using hp
    · rcases List.mem_cons.mp hp with h | h
      · exact .inr (by simp [h])
      · rcases ih p h with h | h
        · exact .inl h
        · exact .inr (by simp [h])

theorem canonical_filter [DecidableEq α] (f : Nat → α) (q : Nat × α → Bool) {m : List (Nat × α)} (h : canonical f m = true) :
    canonical f (m.filter q) = true := by
  simp only [canonical, Bool.and_eq_true, List.all_eq_true, List.mem_filter] at h ⊢
  exact ⟨risingFrom_filter q h.1, fun p hp => h.2 p hp.1⟩

/-- Writing one key keeps the form. -/
theorem canonical_put [DecidableEq α] (f : Nat → α) {m : List (Nat × α)} (k : Nat) (v : α) (h : canonical f m = true) :
    canonical f (put f m k v) = true := by
  have hd : canonical f (dropAt k m) = true := canonical_filter f _ h
  unfold put
  split
  · exact hd
  · next hv =>
    simp only [canonical, Bool.and_eq_true, List.all_eq_true] at hd ⊢
    refine ⟨risingFrom_insertAt k v (Nat.zero_le k) (dropAt_ne m k) hd.1, fun p hp => ?_⟩
    rcases mem_insertAt k v _ p hp with e | e
    · subst e; simpa using hv
    · exact hd.2 p e

/-- Wiping a range keeps the form. -/
theorem canonical_wipe [DecidableEq α] (f : Nat → α) {m : List (Nat × α)} (lo hi : Nat) (h : canonical f m = true) :
    canonical f (wipe m lo hi) = true := canonical_filter f _ h

/-- Writing consecutive keys keeps the form. -/
theorem canonical_putAll [DecidableEq α] (f : Nat → α) {m : List (Nat × α)} (k : Nat) (vs : List α) (h : canonical f m = true) :
    canonical f (putAll f m k vs) = true := by
  induction vs generalizing m k with
  | nil => exact h
  | cons v vs ih => exact ih (k + 1) (canonical_put f k v h)

/-! ### Memory -/

/-- Writing bytes around blocked units keeps the form. -/
theorem canonical_putKept (bl : List Nat) {m : List Host.Cell} (a : Nat) (bs : List Byte)
    (h : canonical byte0 m = true) : canonical byte0 (putKept bl m a bs) = true := by
  induction bs generalizing m a with
  | nil => exact h
  | cons b bs ih =>
    rw [putKept]
    split
    · exact ih (a + 1) h
    · exact ih (a + 1) (canonical_put byte0 a b h)

/-- What a byte reads as after bytes were written with no unit in the way. -/
theorem look_putKept (m : List Host.Cell) (a : Nat) (bs : List Byte) (j : Nat) :
    look byte0 (putKept [] m a bs) j =
      if a ≤ j ∧ j < a + bs.length then bs.getD (j - a) 0 else look byte0 m j := by
  induction bs generalizing m a with
  | nil => simp [putKept]
  | cons b bs ih =>
    rw [putKept]
    simp only [List.any_nil, Bool.false_eq_true, if_false]
    rw [ih, look_put]
    by_cases h1 : a + 1 ≤ j ∧ j < a + 1 + bs.length
    · have h2 : a ≤ j ∧ j < a + (b :: bs).length := by simp only [List.length_cons]; omega
      rw [if_pos h1, if_pos h2]
      have : j - a = (j - (a + 1)) + 1 := by omega
      rw [this, List.getD_cons_succ]
    · rw [if_neg h1]
      by_cases h3 : j = a
      · subst h3
        rw [if_pos rfl, if_pos (by simp only [List.length_cons]; omega)]
        simp
      · rw [if_neg h3, if_neg (by simp only [List.length_cons]; omega)]

/-- A write of bytes keeps memory canonical. -/
theorem wr_wf (d : Dev) (a : Nat) (bs : List Byte) (h : Memory.wf d.mem = true) : Memory.wf (d.wr a bs).1.mem = true :=
  canonical_putKept _ a bs h

/-- So does the write that tells nothing. -/
theorem wrB_wf (d : Dev) (a : Nat) (bs : List Byte) (h : Memory.wf d.mem = true) : Memory.wf (d.wrB a bs).mem = true :=
  wr_wf d a bs h

/-- A clear keeps memory canonical. -/
theorem zero_wf (d : Dev) (lo hi : Nat) (h : Memory.wf d.mem = true) : Memory.wf (d.zero lo hi).mem = true :=
  canonical_wipe byte0 lo hi h

/-- Open bytes keep memory canonical. -/
theorem undef_wf (d : Dev) (a n : Nat) (h : Memory.wf d.mem = true) : Memory.wf (d.undef a n).mem = true :=
  wrB_wf _ a _ h

/-- The byte at an address after a write, where no uncorrectable unit is covered in part. -/
theorem look_wrB (d : Dev) (a : Nat) (bs : List Byte) (j : Nat) (h : d.blockedBy a bs.length = []) :
    look byte0 (d.wrB a bs).mem j =
      if a ≤ j ∧ j < a + bs.length then bs.getD (j - a) 0 else look byte0 d.mem j := by
  have : (d.wrB a bs).mem = putKept [] d.mem a bs := by simp [Dev.wrB, Dev.wr, h]
  rw [this, look_putKept]

/-- The byte at an address after a clear. -/
theorem look_zero (d : Dev) (lo hi j : Nat) :
    look byte0 (d.zero lo hi).mem j = if lo ≤ j ∧ j < hi then 0 else look byte0 d.mem j := by
  simp only [Dev.zero, look_wipe]
  rfl

/-- Reset memory is canonical. -/
theorem reset_wf : Memory.wf State.reset.dev.mem = true := rfl

/-! ### Bit fields -/

/-- A number is what lies above a field, the field, and what lies below. -/
theorem field_split (x l w : Nat) :
    x = x / 2 ^ (l + w) * 2 ^ (l + w) + field x l w * 2 ^ l + x % 2 ^ l := by
  have h1 : x = x / 2 ^ l * 2 ^ l + x % 2 ^ l := by rw [Nat.div_add_mod']
  have h2 : x / 2 ^ l = x / 2 ^ l / 2 ^ w * 2 ^ w + x / 2 ^ l % 2 ^ w := by rw [Nat.div_add_mod']
  have h3 : x / 2 ^ (l + w) = x / 2 ^ l / 2 ^ w := by rw [Nat.pow_add, Nat.div_div_eq_div_mul]
  unfold field
  rw [h3, Nat.pow_add]
  calc x = x / 2 ^ l * 2 ^ l + x % 2 ^ l := h1
    _ = (x / 2 ^ l / 2 ^ w * 2 ^ w + x / 2 ^ l % 2 ^ w) * 2 ^ l + x % 2 ^ l := by rw [← h2]
    _ = _ := by ring

/-- A field written, in the same parts. -/
theorem withField_eq (x l w v : Nat) :
    withField x l w v = x / 2 ^ (l + w) * 2 ^ (l + w) + v % 2 ^ w * 2 ^ l + x % 2 ^ l := by
  have h := field_split x l w
  unfold withField
  omega

/-- A number built of parts has the field. -/
theorem field_build (a b c l w : Nat) (hb : b < 2 ^ w) (hc : c < 2 ^ l) :
    field (a * 2 ^ (l + w) + b * 2 ^ l + c) l w = b := by
  unfold field
  have : a * 2 ^ (l + w) + b * 2 ^ l + c = (a * 2 ^ w + b) * 2 ^ l + c := by rw [Nat.pow_add]; ring
  rw [this, Nat.add_comm, Nat.add_mul_div_right _ _ (Nat.two_pow_pos l), Nat.div_eq_of_lt hc, Nat.zero_add,
    Nat.add_comm, Nat.add_mul_mod_self_right, Nat.mod_eq_of_lt hb]

/-- A field reads as what was put into it. -/
theorem field_withField (x l w v : Nat) : field (withField x l w v) l w = v % 2 ^ w := by
  rw [withField_eq]
  exact field_build _ _ _ l w (Nat.mod_lt _ (Nat.two_pow_pos w)) (Nat.mod_lt _ (Nat.two_pow_pos l))

/-- A field below the one written reads as before. -/
theorem field_withField_below (x l w v j k : Nat) (h : j + k ≤ l) : field (withField x l w v) j k = field x j k := by
  have h1 : 2 ^ (l + w) = 2 ^ (j + k) * 2 ^ (l + w - (j + k)) := by rw [← Nat.pow_add]; congr 1; omega
  have h2 : 2 ^ l = 2 ^ (j + k) * 2 ^ (l - (j + k)) := by rw [← Nat.pow_add]; congr 1; omega
  have key : ∀ y, field y j k = y % 2 ^ (j + k) / 2 ^ j := by
    intro y
    unfold field
    rw [Nat.pow_add, Nat.mod_mul_right_div_self]
  rw [key, key, withField_eq]
  congr 1
  conv_rhs => rw [field_split x l w]
  rw [h1, h2]
  have e : ∀ a b c,
      (a * (2 ^ (j + k) * 2 ^ (l + w - (j + k))) + b * (2 ^ (j + k) * 2 ^ (l - (j + k))) + c) % 2 ^ (j + k) =
        c % 2 ^ (j + k) := by
    intro a b c
    have : a * (2 ^ (j + k) * 2 ^ (l + w - (j + k))) + b * (2 ^ (j + k) * 2 ^ (l - (j + k))) + c
      = c + (a * 2 ^ (l + w - (j + k)) + b * 2 ^ (l - (j + k))) * 2 ^ (j + k) := by ring
    rw [this, Nat.add_mul_mod_self_right]
  rw [e, e]

/-- A field above the one written reads as before. -/
theorem field_withField_above (x l w v j k : Nat) (h : l + w ≤ j) : field (withField x l w v) j k = field x j k := by
  unfold field
  have e : ∀ y : Nat, y / 2 ^ j = y / 2 ^ (l + w) / 2 ^ (j - (l + w)) := by
    intro y; rw [Nat.div_div_eq_div_mul, ← Nat.pow_add]; congr 2; omega
  have h3 : withField x l w v / 2 ^ (l + w) = x / 2 ^ (l + w) := by
    rw [withField_eq]
    have hb : v % 2 ^ w * 2 ^ l + x % 2 ^ l < 2 ^ (l + w) := by
      have h1 := Nat.mod_lt v (Nat.two_pow_pos w)
      have h2 := Nat.mod_lt x (Nat.two_pow_pos l)
      have h3 := Nat.mul_le_mul_right (2 ^ l) (Nat.succ_le_of_lt h1)
      rw [Nat.succ_mul] at h3
      rw [Nat.pow_add, Nat.mul_comm (2 ^ l)]
      omega
    rw [Nat.add_assoc, Nat.add_comm, Nat.add_mul_div_right _ _ (Nat.two_pow_pos _), Nat.div_eq_of_lt hb, Nat.zero_add]
  rw [e, e, h3]

end Sys2Proof.Machine
end

