-- ==== Sys2Proof/Laws/State.lean ====
section
/-! SUPPORT. What each update of the state leaves as it was, field by field, and what reads give after it; what
every command leaves (the queue), and what every command but those that write flash or burn fuses leaves. -/

namespace Sys2Proof.Machine

/-- A register write changes registers only. -/
@[simp] theorem Dev.setReg_frame (d : Dev) (a v : Nat) :
    (d.setReg a v).mem = d.mem ∧ (d.setReg a v).bad = d.bad ∧ (d.setReg a v).flips = d.flips ∧
    (d.setReg a v).tents = d.tents ∧ (d.setReg a v).time = d.time ∧ (d.setReg a v).fresh = d.fresh ∧
    (d.setReg a v).lastRead = d.lastRead ∧ (d.setReg a v).stores = d.stores ∧
    (d.setReg a v).nextStore = d.nextStore ∧ (d.setReg a v).response = d.response ∧ (d.setReg a v).tids = d.tids ∧
    (d.setReg a v).tidAt = d.tidAt ∧ (d.setReg a v).nextTid = d.nextTid ∧ (d.setReg a v).rings = d.rings ∧
    (d.setReg a v).events = d.events ∧ (d.setReg a v).errCounts = d.errCounts ∧ (d.setReg a v).evSeq = d.evSeq ∧
    (d.setReg a v).evRing = d.evRing ∧ (d.setReg a v).pulses = d.pulses ∧ (d.setReg a v).watch = d.watch ∧
    (d.setReg a v).watchService = d.watchService ∧ (d.setReg a v).watchKit = d.watchKit ∧
    (d.setReg a v).watchTable = d.watchTable ∧ (d.setReg a v).watchLimit = d.watchLimit ∧
    (d.setReg a v).watchWindow = d.watchWindow ∧ (d.setReg a v).gyl = d.gyl ∧ (d.setReg a v).armed = d.armed ∧
    (d.setReg a v).clearRun = d.clearRun ∧ (d.setReg a v).clearWait = d.clearWait ∧
    (d.setReg a v).lowering = d.lowering ∧ (d.setReg a v).rowSaves = d.rowSaves ∧
    (d.setReg a v).bankCopies = d.bankCopies ∧ (d.setReg a v).pprUsed = d.pprUsed ∧
    (d.setReg a v).sparesUsed = d.sparesUsed ∧ (d.setReg a v).bankMap = d.bankMap ∧
    (d.setReg a v).memDown = d.memDown ∧ (d.setReg a v).selfRefresh = d.selfRefresh ∧
    (d.setReg a v).packGenClr = d.packGenClr ∧ (d.setReg a v).expertGenClr = d.expertGenClr ∧
    (d.setReg a v).gylGenClr = d.gylGenClr ∧ (d.setReg a v).ctxs = d.ctxs ∧ (d.setReg a v).waitPkts = d.waitPkts ∧
    (d.setReg a v).heldGo = d.heldGo ∧ (d.setReg a v).ucie = d.ucie ∧ (d.setReg a v).rehash = d.rehash ∧
    (d.setReg a v).routersOut = d.routersOut ∧ (d.setReg a v).links = d.links ∧ (d.setReg a v).ports = d.ports ∧
    (d.setReg a v).mcasts = d.mcasts ∧ (d.setReg a v).mcIn = d.mcIn ∧ (d.setReg a v).mcWaits = d.mcWaits ∧
    (d.setReg a v).host = d.host ∧ (d.setReg a v).devId = d.devId ∧ (d.setReg a v).role = d.role ∧
    (d.setReg a v).camp = d.camp ∧ (d.setReg a v).baseId = d.baseId ∧ (d.setReg a v).standbyId = d.standbyId ∧
    (d.setReg a v).power = d.power ∧ (d.setReg a v).rstN = d.rstN ∧ (d.setReg a v).pwrGood = d.pwrGood ∧
    (d.setReg a v).alertN = d.alertN ∧ (d.setReg a v).refclk = d.refclk ∧
    (d.setReg a v).kitApplied = d.kitApplied ∧ (d.setReg a v).tampered = d.tampered ∧
    (d.setReg a v).debugOpen = d.debugOpen ∧ (d.setReg a v).halted = d.halted ∧ (d.setReg a v).lanA = d.lanA ∧
    (d.setReg a v).lanB = d.lanB ∧ (d.setReg a v).mgmtSeq = d.mgmtSeq ∧ (d.setReg a v).campTarget = d.campTarget ∧
    (d.setReg a v).qm = d.qm ∧ (d.setReg a v).striking = d.striking ∧ (d.setReg a v).strikeRgn = d.strikeRgn ∧
    (d.setReg a v).strikeCount = d.strikeCount ∧ (d.setReg a v).strikeRec = d.strikeRec ∧
    (d.setReg a v).jobHere = d.jobHere ∧ (d.setReg a v).jobStart = d.jobStart ∧
    (d.setReg a v).startWait = d.startWait ∧ (d.setReg a v).owedStart = d.owedStart ∧
    (d.setReg a v).owedRestore = d.owedRestore ∧ (d.setReg a v).stashAcks = d.stashAcks ∧
    (d.setReg a v).stashSeal = d.stashSeal ∧ (d.setReg a v).pull = d.pull ∧ (d.setReg a v).evacWait = d.evacWait ∧
    (d.setReg a v).evacLater = d.evacLater ∧ (d.setReg a v).resp = d.resp ∧ (d.setReg a v).report = d.report ∧
    (d.setReg a v).smbus = d.smbus ∧ (d.setReg a v).compassRead = d.compassRead ∧ (d.setReg a v).warm = d.warm ∧
    (d.setReg a v).warmAsked = d.warmAsked ∧ (d.setReg a v).preset = d.preset :=
  ⟨rfl, rfl, rfl, rfl, rfl, rfl, rfl, rfl, rfl, rfl, rfl, rfl, rfl, rfl, rfl, rfl, rfl, rfl, rfl, rfl, rfl, rfl,
    rfl, rfl, rfl, rfl, rfl, rfl, rfl, rfl, rfl, rfl, rfl, rfl, rfl, rfl, rfl, rfl, rfl, rfl, rfl, rfl, rfl, rfl,
    rfl, rfl, rfl, rfl, rfl, rfl, rfl, rfl, rfl, rfl, rfl, rfl, rfl, rfl, rfl, rfl, rfl, rfl, rfl, rfl, rfl, rfl,
    rfl, rfl, rfl, rfl, rfl, rfl, rfl, rfl, rfl, rfl, rfl, rfl, rfl, rfl, rfl, rfl, rfl, rfl, rfl, rfl, rfl, rfl,
    rfl, rfl, rfl, rfl⟩

/-- Wiping registers changes registers only. -/
@[simp] theorem Dev.wipeRegs_frame (d : Dev) (lo hi : Nat) :
    (d.wipeRegs lo hi).mem = d.mem ∧ (d.wipeRegs lo hi).bad = d.bad ∧ (d.wipeRegs lo hi).flips = d.flips ∧
    (d.wipeRegs lo hi).tents = d.tents ∧ (d.wipeRegs lo hi).time = d.time ∧ (d.wipeRegs lo hi).fresh = d.fresh ∧
    (d.wipeRegs lo hi).lastRead = d.lastRead ∧ (d.wipeRegs lo hi).stores = d.stores ∧
    (d.wipeRegs lo hi).nextStore = d.nextStore ∧ (d.wipeRegs lo hi).response = d.response ∧
    (d.wipeRegs lo hi).tids = d.tids ∧ (d.wipeRegs lo hi).tidAt = d.tidAt ∧
    (d.wipeRegs lo hi).nextTid = d.nextTid ∧ (d.wipeRegs lo hi).rings = d.rings ∧
    (d.wipeRegs lo hi).events = d.events ∧ (d.wipeRegs lo hi).errCounts = d.errCounts ∧
    (d.wipeRegs lo hi).evSeq = d.evSeq ∧ (d.wipeRegs lo hi).evRing = d.evRing ∧
    (d.wipeRegs lo hi).pulses = d.pulses ∧ (d.wipeRegs lo hi).watch = d.watch ∧
    (d.wipeRegs lo hi).watchService = d.watchService ∧ (d.wipeRegs lo hi).watchKit = d.watchKit ∧
    (d.wipeRegs lo hi).watchTable = d.watchTable ∧ (d.wipeRegs lo hi).watchLimit = d.watchLimit ∧
    (d.wipeRegs lo hi).watchWindow = d.watchWindow ∧ (d.wipeRegs lo hi).gyl = d.gyl ∧
    (d.wipeRegs lo hi).armed = d.armed ∧ (d.wipeRegs lo hi).clearRun = d.clearRun ∧
    (d.wipeRegs lo hi).clearWait = d.clearWait ∧ (d.wipeRegs lo hi).lowering = d.lowering ∧
    (d.wipeRegs lo hi).rowSaves = d.rowSaves ∧ (d.wipeRegs lo hi).bankCopies = d.bankCopies ∧
    (d.wipeRegs lo hi).pprUsed = d.pprUsed ∧ (d.wipeRegs lo hi).sparesUsed = d.sparesUsed ∧
    (d.wipeRegs lo hi).bankMap = d.bankMap ∧ (d.wipeRegs lo hi).memDown = d.memDown ∧
    (d.wipeRegs lo hi).selfRefresh = d.selfRefresh ∧ (d.wipeRegs lo hi).packGenClr = d.packGenClr ∧
    (d.wipeRegs lo hi).expertGenClr = d.expertGenClr ∧ (d.wipeRegs lo hi).gylGenClr = d.gylGenClr ∧
    (d.wipeRegs lo hi).ctxs = d.ctxs ∧ (d.wipeRegs lo hi).waitPkts = d.waitPkts ∧
    (d.wipeRegs lo hi).heldGo = d.heldGo ∧ (d.wipeRegs lo hi).ucie = d.ucie ∧
    (d.wipeRegs lo hi).rehash = d.rehash ∧ (d.wipeRegs lo hi).routersOut = d.routersOut ∧
    (d.wipeRegs lo hi).links = d.links ∧ (d.wipeRegs lo hi).ports = d.ports ∧
    (d.wipeRegs lo hi).mcasts = d.mcasts ∧ (d.wipeRegs lo hi).mcIn = d.mcIn ∧
    (d.wipeRegs lo hi).mcWaits = d.mcWaits ∧ (d.wipeRegs lo hi).host = d.host ∧
    (d.wipeRegs lo hi).devId = d.devId ∧ (d.wipeRegs lo hi).role = d.role ∧ (d.wipeRegs lo hi).camp = d.camp ∧
    (d.wipeRegs lo hi).baseId = d.baseId ∧ (d.wipeRegs lo hi).standbyId = d.standbyId ∧
    (d.wipeRegs lo hi).power = d.power ∧ (d.wipeRegs lo hi).rstN = d.rstN ∧
    (d.wipeRegs lo hi).pwrGood = d.pwrGood ∧ (d.wipeRegs lo hi).alertN = d.alertN ∧
    (d.wipeRegs lo hi).refclk = d.refclk ∧ (d.wipeRegs lo hi).kitApplied = d.kitApplied ∧
    (d.wipeRegs lo hi).tampered = d.tampered ∧ (d.wipeRegs lo hi).debugOpen = d.debugOpen ∧
    (d.wipeRegs lo hi).halted = d.halted ∧ (d.wipeRegs lo hi).lanA = d.lanA ∧ (d.wipeRegs lo hi).lanB = d.lanB ∧
    (d.wipeRegs lo hi).mgmtSeq = d.mgmtSeq ∧ (d.wipeRegs lo hi).campTarget = d.campTarget ∧
    (d.wipeRegs lo hi).qm = d.qm ∧ (d.wipeRegs lo hi).striking = d.striking ∧
    (d.wipeRegs lo hi).strikeRgn = d.strikeRgn ∧ (d.wipeRegs lo hi).strikeCount = d.strikeCount ∧
    (d.wipeRegs lo hi).strikeRec = d.strikeRec ∧ (d.wipeRegs lo hi).jobHere = d.jobHere ∧
    (d.wipeRegs lo hi).jobStart = d.jobStart ∧ (d.wipeRegs lo hi).startWait = d.startWait ∧
    (d.wipeRegs lo hi).owedStart = d.owedStart ∧ (d.wipeRegs lo hi).owedRestore = d.owedRestore ∧
    (d.wipeRegs lo hi).stashAcks = d.stashAcks ∧ (d.wipeRegs lo hi).stashSeal = d.stashSeal ∧
    (d.wipeRegs lo hi).pull = d.pull ∧ (d.wipeRegs lo hi).evacWait = d.evacWait ∧
    (d.wipeRegs lo hi).evacLater = d.evacLater ∧ (d.wipeRegs lo hi).resp = d.resp ∧
    (d.wipeRegs lo hi).report = d.report ∧ (d.wipeRegs lo hi).smbus = d.smbus ∧
    (d.wipeRegs lo hi).compassRead = d.compassRead ∧ (d.wipeRegs lo hi).warm = d.warm ∧
    (d.wipeRegs lo hi).warmAsked = d.warmAsked ∧ (d.wipeRegs lo hi).preset = d.preset :=
  ⟨rfl, rfl, rfl, rfl, rfl, rfl, rfl, rfl, rfl, rfl, rfl, rfl, rfl, rfl, rfl, rfl, rfl, rfl, rfl, rfl, rfl, rfl,
    rfl, rfl, rfl, rfl, rfl, rfl, rfl, rfl, rfl, rfl, rfl, rfl, rfl, rfl, rfl, rfl, rfl, rfl, rfl, rfl, rfl, rfl,
    rfl, rfl, rfl, rfl, rfl, rfl, rfl, rfl, rfl, rfl, rfl, rfl, rfl, rfl, rfl, rfl, rfl, rfl, rfl, rfl, rfl, rfl,
    rfl, rfl, rfl, rfl, rfl, rfl, rfl, rfl, rfl, rfl, rfl, rfl, rfl, rfl, rfl, rfl, rfl, rfl, rfl, rfl, rfl, rfl,
    rfl, rfl, rfl, rfl⟩

/-- A tent update changes tents only. -/
@[simp] theorem Dev.setTent_frame (d : Dev) (t : Nat) (x : Tent) :
    (d.setTent t x).mem = d.mem ∧ (d.setTent t x).bad = d.bad ∧ (d.setTent t x).flips = d.flips ∧
    (d.setTent t x).regs = d.regs ∧ (d.setTent t x).time = d.time ∧ (d.setTent t x).fresh = d.fresh ∧
    (d.setTent t x).lastRead = d.lastRead ∧ (d.setTent t x).stores = d.stores ∧
    (d.setTent t x).nextStore = d.nextStore ∧ (d.setTent t x).response = d.response ∧
    (d.setTent t x).tids = d.tids ∧ (d.setTent t x).tidAt = d.tidAt ∧ (d.setTent t x).nextTid = d.nextTid ∧
    (d.setTent t x).rings = d.rings ∧ (d.setTent t x).events = d.events ∧ (d.setTent t x).errCounts = d.errCounts ∧
    (d.setTent t x).evSeq = d.evSeq ∧ (d.setTent t x).evRing = d.evRing ∧ (d.setTent t x).pulses = d.pulses ∧
    (d.setTent t x).watch = d.watch ∧ (d.setTent t x).watchService = d.watchService ∧
    (d.setTent t x).watchKit = d.watchKit ∧ (d.setTent t x).watchTable = d.watchTable ∧
    (d.setTent t x).watchLimit = d.watchLimit ∧ (d.setTent t x).watchWindow = d.watchWindow ∧
    (d.setTent t x).gyl = d.gyl ∧ (d.setTent t x).armed = d.armed ∧ (d.setTent t x).clearRun = d.clearRun ∧
    (d.setTent t x).clearWait = d.clearWait ∧ (d.setTent t x).lowering = d.lowering ∧
    (d.setTent t x).rowSaves = d.rowSaves ∧ (d.setTent t x).bankCopies = d.bankCopies ∧
    (d.setTent t x).pprUsed = d.pprUsed ∧ (d.setTent t x).sparesUsed = d.sparesUsed ∧
    (d.setTent t x).bankMap = d.bankMap ∧ (d.setTent t x).memDown = d.memDown ∧
    (d.setTent t x).selfRefresh = d.selfRefresh ∧ (d.setTent t x).packGenClr = d.packGenClr ∧
    (d.setTent t x).expertGenClr = d.expertGenClr ∧ (d.setTent t x).gylGenClr = d.gylGenClr ∧
    (d.setTent t x).ctxs = d.ctxs ∧ (d.setTent t x).waitPkts = d.waitPkts ∧ (d.setTent t x).heldGo = d.heldGo ∧
    (d.setTent t x).ucie = d.ucie ∧ (d.setTent t x).rehash = d.rehash ∧ (d.setTent t x).routersOut = d.routersOut ∧
    (d.setTent t x).links = d.links ∧ (d.setTent t x).ports = d.ports ∧ (d.setTent t x).mcasts = d.mcasts ∧
    (d.setTent t x).mcIn = d.mcIn ∧ (d.setTent t x).mcWaits = d.mcWaits ∧ (d.setTent t x).host = d.host ∧
    (d.setTent t x).devId = d.devId ∧ (d.setTent t x).role = d.role ∧ (d.setTent t x).camp = d.camp ∧
    (d.setTent t x).baseId = d.baseId ∧ (d.setTent t x).standbyId = d.standbyId ∧ (d.setTent t x).power = d.power ∧
    (d.setTent t x).rstN = d.rstN ∧ (d.setTent t x).pwrGood = d.pwrGood ∧ (d.setTent t x).alertN = d.alertN ∧
    (d.setTent t x).refclk = d.refclk ∧ (d.setTent t x).kitApplied = d.kitApplied ∧
    (d.setTent t x).tampered = d.tampered ∧ (d.setTent t x).debugOpen = d.debugOpen ∧
    (d.setTent t x).halted = d.halted ∧ (d.setTent t x).lanA = d.lanA ∧ (d.setTent t x).lanB = d.lanB ∧
    (d.setTent t x).mgmtSeq = d.mgmtSeq ∧ (d.setTent t x).campTarget = d.campTarget ∧ (d.setTent t x).qm = d.qm ∧
    (d.setTent t x).striking = d.striking ∧ (d.setTent t x).strikeRgn = d.strikeRgn ∧
    (d.setTent t x).strikeCount = d.strikeCount ∧ (d.setTent t x).strikeRec = d.strikeRec ∧
    (d.setTent t x).jobHere = d.jobHere ∧ (d.setTent t x).jobStart = d.jobStart ∧
    (d.setTent t x).startWait = d.startWait ∧ (d.setTent t x).owedStart = d.owedStart ∧
    (d.setTent t x).owedRestore = d.owedRestore ∧ (d.setTent t x).stashAcks = d.stashAcks ∧
    (d.setTent t x).stashSeal = d.stashSeal ∧ (d.setTent t x).pull = d.pull ∧
    (d.setTent t x).evacWait = d.evacWait ∧ (d.setTent t x).evacLater = d.evacLater ∧
    (d.setTent t x).resp = d.resp ∧ (d.setTent t x).report = d.report ∧ (d.setTent t x).smbus = d.smbus ∧
    (d.setTent t x).compassRead = d.compassRead ∧ (d.setTent t x).warm = d.warm ∧
    (d.setTent t x).warmAsked = d.warmAsked ∧ (d.setTent t x).preset = d.preset :=
  ⟨rfl, rfl, rfl, rfl, rfl, rfl, rfl, rfl, rfl, rfl, rfl, rfl, rfl, rfl, rfl, rfl, rfl, rfl, rfl, rfl, rfl, rfl,
    rfl, rfl, rfl, rfl, rfl, rfl, rfl, rfl, rfl, rfl, rfl, rfl, rfl, rfl, rfl, rfl, rfl, rfl, rfl, rfl, rfl, rfl,
    rfl, rfl, rfl, rfl, rfl, rfl, rfl, rfl, rfl, rfl, rfl, rfl, rfl, rfl, rfl, rfl, rfl, rfl, rfl, rfl, rfl, rfl,
    rfl, rfl, rfl, rfl, rfl, rfl, rfl, rfl, rfl, rfl, rfl, rfl, rfl, rfl, rfl, rfl, rfl, rfl, rfl, rfl, rfl, rfl,
    rfl, rfl, rfl, rfl⟩

/-- A memory write changes memory and the marks of its units only. -/
@[simp] theorem Dev.wr_frame (d : Dev) (a : Nat) (bs : List Byte) :
    (d.wr a bs).1.regs = d.regs ∧ (d.wr a bs).1.tents = d.tents ∧ (d.wr a bs).1.time = d.time ∧
    (d.wr a bs).1.fresh = d.fresh ∧ (d.wr a bs).1.lastRead = d.lastRead ∧ (d.wr a bs).1.stores = d.stores ∧
    (d.wr a bs).1.nextStore = d.nextStore ∧ (d.wr a bs).1.response = d.response ∧ (d.wr a bs).1.tids = d.tids ∧
    (d.wr a bs).1.tidAt = d.tidAt ∧ (d.wr a bs).1.nextTid = d.nextTid ∧ (d.wr a bs).1.rings = d.rings ∧
    (d.wr a bs).1.events = d.events ∧ (d.wr a bs).1.errCounts = d.errCounts ∧ (d.wr a bs).1.evSeq = d.evSeq ∧
    (d.wr a bs).1.evRing = d.evRing ∧ (d.wr a bs).1.pulses = d.pulses ∧ (d.wr a bs).1.watch = d.watch ∧
    (d.wr a bs).1.watchService = d.watchService ∧ (d.wr a bs).1.watchKit = d.watchKit ∧
    (d.wr a bs).1.watchTable = d.watchTable ∧ (d.wr a bs).1.watchLimit = d.watchLimit ∧
    (d.wr a bs).1.watchWindow = d.watchWindow ∧ (d.wr a bs).1.gyl = d.gyl ∧ (d.wr a bs).1.armed = d.armed ∧
    (d.wr a bs).1.clearRun = d.clearRun ∧ (d.wr a bs).1.clearWait = d.clearWait ∧
    (d.wr a bs).1.lowering = d.lowering ∧ (d.wr a bs).1.rowSaves = d.rowSaves ∧
    (d.wr a bs).1.bankCopies = d.bankCopies ∧ (d.wr a bs).1.pprUsed = d.pprUsed ∧
    (d.wr a bs).1.sparesUsed = d.sparesUsed ∧ (d.wr a bs).1.bankMap = d.bankMap ∧
    (d.wr a bs).1.memDown = d.memDown ∧ (d.wr a bs).1.selfRefresh = d.selfRefresh ∧
    (d.wr a bs).1.packGenClr = d.packGenClr ∧ (d.wr a bs).1.expertGenClr = d.expertGenClr ∧
    (d.wr a bs).1.gylGenClr = d.gylGenClr ∧ (d.wr a bs).1.ctxs = d.ctxs ∧ (d.wr a bs).1.waitPkts = d.waitPkts ∧
    (d.wr a bs).1.heldGo = d.heldGo ∧ (d.wr a bs).1.ucie = d.ucie ∧ (d.wr a bs).1.rehash = d.rehash ∧
    (d.wr a bs).1.routersOut = d.routersOut ∧ (d.wr a bs).1.links = d.links ∧ (d.wr a bs).1.ports = d.ports ∧
    (d.wr a bs).1.mcasts = d.mcasts ∧ (d.wr a bs).1.mcIn = d.mcIn ∧ (d.wr a bs).1.mcWaits = d.mcWaits ∧
    (d.wr a bs).1.host = d.host ∧ (d.wr a bs).1.devId = d.devId ∧ (d.wr a bs).1.role = d.role ∧
    (d.wr a bs).1.camp = d.camp ∧ (d.wr a bs).1.baseId = d.baseId ∧ (d.wr a bs).1.standbyId = d.standbyId ∧
    (d.wr a bs).1.power = d.power ∧ (d.wr a bs).1.rstN = d.rstN ∧ (d.wr a bs).1.pwrGood = d.pwrGood ∧
    (d.wr a bs).1.alertN = d.alertN ∧ (d.wr a bs).1.refclk = d.refclk ∧ (d.wr a bs).1.kitApplied = d.kitApplied ∧
    (d.wr a bs).1.tampered = d.tampered ∧ (d.wr a bs).1.debugOpen = d.debugOpen ∧ (d.wr a bs).1.halted = d.halted ∧
    (d.wr a bs).1.lanA = d.lanA ∧ (d.wr a bs).1.lanB = d.lanB ∧ (d.wr a bs).1.mgmtSeq = d.mgmtSeq ∧
    (d.wr a bs).1.campTarget = d.campTarget ∧ (d.wr a bs).1.qm = d.qm ∧ (d.wr a bs).1.striking = d.striking ∧
    (d.wr a bs).1.strikeRgn = d.strikeRgn ∧ (d.wr a bs).1.strikeCount = d.strikeCount ∧
    (d.wr a bs).1.strikeRec = d.strikeRec ∧ (d.wr a bs).1.jobHere = d.jobHere ∧
    (d.wr a bs).1.jobStart = d.jobStart ∧ (d.wr a bs).1.startWait = d.startWait ∧
    (d.wr a bs).1.owedStart = d.owedStart ∧ (d.wr a bs).1.owedRestore = d.owedRestore ∧
    (d.wr a bs).1.stashAcks = d.stashAcks ∧ (d.wr a bs).1.stashSeal = d.stashSeal ∧ (d.wr a bs).1.pull = d.pull ∧
    (d.wr a bs).1.evacWait = d.evacWait ∧ (d.wr a bs).1.evacLater = d.evacLater ∧ (d.wr a bs).1.resp = d.resp ∧
    (d.wr a bs).1.report = d.report ∧ (d.wr a bs).1.smbus = d.smbus ∧ (d.wr a bs).1.compassRead = d.compassRead ∧
    (d.wr a bs).1.warm = d.warm ∧ (d.wr a bs).1.warmAsked = d.warmAsked ∧ (d.wr a bs).1.preset = d.preset :=
  ⟨rfl, rfl, rfl, rfl, rfl, rfl, rfl, rfl, rfl, rfl, rfl, rfl, rfl, rfl, rfl, rfl, rfl, rfl, rfl, rfl, rfl, rfl,
    rfl, rfl, rfl, rfl, rfl, rfl, rfl, rfl, rfl, rfl, rfl, rfl, rfl, rfl, rfl, rfl, rfl, rfl, rfl, rfl, rfl, rfl,
    rfl, rfl, rfl, rfl, rfl, rfl, rfl, rfl, rfl, rfl, rfl, rfl, rfl, rfl, rfl, rfl, rfl, rfl, rfl, rfl, rfl, rfl,
    rfl, rfl, rfl, rfl, rfl, rfl, rfl, rfl, rfl, rfl, rfl, rfl, rfl, rfl, rfl, rfl, rfl, rfl, rfl, rfl, rfl, rfl,
    rfl, rfl⟩

/-- So does the one that tells nothing. -/
@[simp] theorem Dev.wrB_frame (d : Dev) (a : Nat) (bs : List Byte) :
    (d.wrB a bs).regs = d.regs ∧ (d.wrB a bs).tents = d.tents ∧ (d.wrB a bs).time = d.time ∧
    (d.wrB a bs).fresh = d.fresh ∧ (d.wrB a bs).lastRead = d.lastRead ∧ (d.wrB a bs).stores = d.stores ∧
    (d.wrB a bs).nextStore = d.nextStore ∧ (d.wrB a bs).response = d.response ∧ (d.wrB a bs).tids = d.tids ∧
    (d.wrB a bs).tidAt = d.tidAt ∧ (d.wrB a bs).nextTid = d.nextTid ∧ (d.wrB a bs).rings = d.rings ∧
    (d.wrB a bs).events = d.events ∧ (d.wrB a bs).errCounts = d.errCounts ∧ (d.wrB a bs).evSeq = d.evSeq ∧
    (d.wrB a bs).evRing = d.evRing ∧ (d.wrB a bs).pulses = d.pulses ∧ (d.wrB a bs).watch = d.watch ∧
    (d.wrB a bs).watchService = d.watchService ∧ (d.wrB a bs).watchKit = d.watchKit ∧
    (d.wrB a bs).watchTable = d.watchTable ∧ (d.wrB a bs).watchLimit = d.watchLimit ∧
    (d.wrB a bs).watchWindow = d.watchWindow ∧ (d.wrB a bs).gyl = d.gyl ∧ (d.wrB a bs).armed = d.armed ∧
    (d.wrB a bs).clearRun = d.clearRun ∧ (d.wrB a bs).clearWait = d.clearWait ∧
    (d.wrB a bs).lowering = d.lowering ∧ (d.wrB a bs).rowSaves = d.rowSaves ∧
    (d.wrB a bs).bankCopies = d.bankCopies ∧ (d.wrB a bs).pprUsed = d.pprUsed ∧
    (d.wrB a bs).sparesUsed = d.sparesUsed ∧ (d.wrB a bs).bankMap = d.bankMap ∧ (d.wrB a bs).memDown = d.memDown ∧
    (d.wrB a bs).selfRefresh = d.selfRefresh ∧ (d.wrB a bs).packGenClr = d.packGenClr ∧
    (d.wrB a bs).expertGenClr = d.expertGenClr ∧ (d.wrB a bs).gylGenClr = d.gylGenClr ∧
    (d.wrB a bs).ctxs = d.ctxs ∧ (d.wrB a bs).waitPkts = d.waitPkts ∧ (d.wrB a bs).heldGo = d.heldGo ∧
    (d.wrB a bs).ucie = d.ucie ∧ (d.wrB a bs).rehash = d.rehash ∧ (d.wrB a bs).routersOut = d.routersOut ∧
    (d.wrB a bs).links = d.links ∧ (d.wrB a bs).ports = d.ports ∧ (d.wrB a bs).mcasts = d.mcasts ∧
    (d.wrB a bs).mcIn = d.mcIn ∧ (d.wrB a bs).mcWaits = d.mcWaits ∧ (d.wrB a bs).host = d.host ∧
    (d.wrB a bs).devId = d.devId ∧ (d.wrB a bs).role = d.role ∧ (d.wrB a bs).camp = d.camp ∧
    (d.wrB a bs).baseId = d.baseId ∧ (d.wrB a bs).standbyId = d.standbyId ∧ (d.wrB a bs).power = d.power ∧
    (d.wrB a bs).rstN = d.rstN ∧ (d.wrB a bs).pwrGood = d.pwrGood ∧ (d.wrB a bs).alertN = d.alertN ∧
    (d.wrB a bs).refclk = d.refclk ∧ (d.wrB a bs).kitApplied = d.kitApplied ∧ (d.wrB a bs).tampered = d.tampered ∧
    (d.wrB a bs).debugOpen = d.debugOpen ∧ (d.wrB a bs).halted = d.halted ∧ (d.wrB a bs).lanA = d.lanA ∧
    (d.wrB a bs).lanB = d.lanB ∧ (d.wrB a bs).mgmtSeq = d.mgmtSeq ∧ (d.wrB a bs).campTarget = d.campTarget ∧
    (d.wrB a bs).qm = d.qm ∧ (d.wrB a bs).striking = d.striking ∧ (d.wrB a bs).strikeRgn = d.strikeRgn ∧
    (d.wrB a bs).strikeCount = d.strikeCount ∧ (d.wrB a bs).strikeRec = d.strikeRec ∧
    (d.wrB a bs).jobHere = d.jobHere ∧ (d.wrB a bs).jobStart = d.jobStart ∧ (d.wrB a bs).startWait = d.startWait ∧
    (d.wrB a bs).owedStart = d.owedStart ∧ (d.wrB a bs).owedRestore = d.owedRestore ∧
    (d.wrB a bs).stashAcks = d.stashAcks ∧ (d.wrB a bs).stashSeal = d.stashSeal ∧ (d.wrB a bs).pull = d.pull ∧
    (d.wrB a bs).evacWait = d.evacWait ∧ (d.wrB a bs).evacLater = d.evacLater ∧ (d.wrB a bs).resp = d.resp ∧
    (d.wrB a bs).report = d.report ∧ (d.wrB a bs).smbus = d.smbus ∧ (d.wrB a bs).compassRead = d.compassRead ∧
    (d.wrB a bs).warm = d.warm ∧ (d.wrB a bs).warmAsked = d.warmAsked ∧ (d.wrB a bs).preset = d.preset :=
  ⟨rfl, rfl, rfl, rfl, rfl, rfl, rfl, rfl, rfl, rfl, rfl, rfl, rfl, rfl, rfl, rfl, rfl, rfl, rfl, rfl, rfl, rfl,
    rfl, rfl, rfl, rfl, rfl, rfl, rfl, rfl, rfl, rfl, rfl, rfl, rfl, rfl, rfl, rfl, rfl, rfl, rfl, rfl, rfl, rfl,
    rfl, rfl, rfl, rfl, rfl, rfl, rfl, rfl, rfl, rfl, rfl, rfl, rfl, rfl, rfl, rfl, rfl, rfl, rfl, rfl, rfl, rfl,
    rfl, rfl, rfl, rfl, rfl, rfl, rfl, rfl, rfl, rfl, rfl, rfl, rfl, rfl, rfl, rfl, rfl, rfl, rfl, rfl, rfl, rfl,
    rfl, rfl⟩

/-- And a clear. -/
@[simp] theorem Dev.zero_frame (d : Dev) (lo hi : Nat) :
    (d.zero lo hi).regs = d.regs ∧ (d.zero lo hi).tents = d.tents ∧ (d.zero lo hi).time = d.time ∧
    (d.zero lo hi).fresh = d.fresh ∧ (d.zero lo hi).lastRead = d.lastRead ∧ (d.zero lo hi).stores = d.stores ∧
    (d.zero lo hi).nextStore = d.nextStore ∧ (d.zero lo hi).response = d.response ∧ (d.zero lo hi).tids = d.tids ∧
    (d.zero lo hi).tidAt = d.tidAt ∧ (d.zero lo hi).nextTid = d.nextTid ∧ (d.zero lo hi).rings = d.rings ∧
    (d.zero lo hi).events = d.events ∧ (d.zero lo hi).errCounts = d.errCounts ∧ (d.zero lo hi).evSeq = d.evSeq ∧
    (d.zero lo hi).evRing = d.evRing ∧ (d.zero lo hi).pulses = d.pulses ∧ (d.zero lo hi).watch = d.watch ∧
    (d.zero lo hi).watchService = d.watchService ∧ (d.zero lo hi).watchKit = d.watchKit ∧
    (d.zero lo hi).watchTable = d.watchTable ∧ (d.zero lo hi).watchLimit = d.watchLimit ∧
    (d.zero lo hi).watchWindow = d.watchWindow ∧ (d.zero lo hi).gyl = d.gyl ∧ (d.zero lo hi).armed = d.armed ∧
    (d.zero lo hi).clearRun = d.clearRun ∧ (d.zero lo hi).clearWait = d.clearWait ∧
    (d.zero lo hi).lowering = d.lowering ∧ (d.zero lo hi).rowSaves = d.rowSaves ∧
    (d.zero lo hi).bankCopies = d.bankCopies ∧ (d.zero lo hi).pprUsed = d.pprUsed ∧
    (d.zero lo hi).sparesUsed = d.sparesUsed ∧ (d.zero lo hi).bankMap = d.bankMap ∧
    (d.zero lo hi).memDown = d.memDown ∧ (d.zero lo hi).selfRefresh = d.selfRefresh ∧
    (d.zero lo hi).packGenClr = d.packGenClr ∧ (d.zero lo hi).expertGenClr = d.expertGenClr ∧
    (d.zero lo hi).gylGenClr = d.gylGenClr ∧ (d.zero lo hi).ctxs = d.ctxs ∧ (d.zero lo hi).waitPkts = d.waitPkts ∧
    (d.zero lo hi).heldGo = d.heldGo ∧ (d.zero lo hi).ucie = d.ucie ∧ (d.zero lo hi).rehash = d.rehash ∧
    (d.zero lo hi).routersOut = d.routersOut ∧ (d.zero lo hi).links = d.links ∧ (d.zero lo hi).ports = d.ports ∧
    (d.zero lo hi).mcasts = d.mcasts ∧ (d.zero lo hi).mcIn = d.mcIn ∧ (d.zero lo hi).mcWaits = d.mcWaits ∧
    (d.zero lo hi).host = d.host ∧ (d.zero lo hi).devId = d.devId ∧ (d.zero lo hi).role = d.role ∧
    (d.zero lo hi).camp = d.camp ∧ (d.zero lo hi).baseId = d.baseId ∧ (d.zero lo hi).standbyId = d.standbyId ∧
    (d.zero lo hi).power = d.power ∧ (d.zero lo hi).rstN = d.rstN ∧ (d.zero lo hi).pwrGood = d.pwrGood ∧
    (d.zero lo hi).alertN = d.alertN ∧ (d.zero lo hi).refclk = d.refclk ∧
    (d.zero lo hi).kitApplied = d.kitApplied ∧ (d.zero lo hi).tampered = d.tampered ∧
    (d.zero lo hi).debugOpen = d.debugOpen ∧ (d.zero lo hi).halted = d.halted ∧ (d.zero lo hi).lanA = d.lanA ∧
    (d.zero lo hi).lanB = d.lanB ∧ (d.zero lo hi).mgmtSeq = d.mgmtSeq ∧ (d.zero lo hi).campTarget = d.campTarget ∧
    (d.zero lo hi).qm = d.qm ∧ (d.zero lo hi).striking = d.striking ∧ (d.zero lo hi).strikeRgn = d.strikeRgn ∧
    (d.zero lo hi).strikeCount = d.strikeCount ∧ (d.zero lo hi).strikeRec = d.strikeRec ∧
    (d.zero lo hi).jobHere = d.jobHere ∧ (d.zero lo hi).jobStart = d.jobStart ∧
    (d.zero lo hi).startWait = d.startWait ∧ (d.zero lo hi).owedStart = d.owedStart ∧
    (d.zero lo hi).owedRestore = d.owedRestore ∧ (d.zero lo hi).stashAcks = d.stashAcks ∧
    (d.zero lo hi).stashSeal = d.stashSeal ∧ (d.zero lo hi).pull = d.pull ∧ (d.zero lo hi).evacWait = d.evacWait ∧
    (d.zero lo hi).evacLater = d.evacLater ∧ (d.zero lo hi).resp = d.resp ∧ (d.zero lo hi).report = d.report ∧
    (d.zero lo hi).smbus = d.smbus ∧ (d.zero lo hi).compassRead = d.compassRead ∧ (d.zero lo hi).warm = d.warm ∧
    (d.zero lo hi).warmAsked = d.warmAsked ∧ (d.zero lo hi).preset = d.preset :=
  ⟨rfl, rfl, rfl, rfl, rfl, rfl, rfl, rfl, rfl, rfl, rfl, rfl, rfl, rfl, rfl, rfl, rfl, rfl, rfl, rfl, rfl, rfl,
    rfl, rfl, rfl, rfl, rfl, rfl, rfl, rfl, rfl, rfl, rfl, rfl, rfl, rfl, rfl, rfl, rfl, rfl, rfl, rfl, rfl, rfl,
    rfl, rfl, rfl, rfl, rfl, rfl, rfl, rfl, rfl, rfl, rfl, rfl, rfl, rfl, rfl, rfl, rfl, rfl, rfl, rfl, rfl, rfl,
    rfl, rfl, rfl, rfl, rfl, rfl, rfl, rfl, rfl, rfl, rfl, rfl, rfl, rfl, rfl, rfl, rfl, rfl, rfl, rfl, rfl, rfl,
    rfl, rfl⟩

/-- A link update changes links only. -/
@[simp] theorem Dev.setLink_frame (d : Dev) (l : Nat) (x : Link) :
    (d.setLink l x).mem = d.mem ∧ (d.setLink l x).bad = d.bad ∧ (d.setLink l x).flips = d.flips ∧
    (d.setLink l x).regs = d.regs ∧ (d.setLink l x).tents = d.tents ∧ (d.setLink l x).time = d.time ∧
    (d.setLink l x).fresh = d.fresh ∧ (d.setLink l x).lastRead = d.lastRead ∧ (d.setLink l x).stores = d.stores ∧
    (d.setLink l x).nextStore = d.nextStore ∧ (d.setLink l x).response = d.response ∧
    (d.setLink l x).tids = d.tids ∧ (d.setLink l x).tidAt = d.tidAt ∧ (d.setLink l x).nextTid = d.nextTid ∧
    (d.setLink l x).rings = d.rings ∧ (d.setLink l x).events = d.events ∧ (d.setLink l x).errCounts = d.errCounts ∧
    (d.setLink l x).evSeq = d.evSeq ∧ (d.setLink l x).evRing = d.evRing ∧ (d.setLink l x).pulses = d.pulses ∧
    (d.setLink l x).watch = d.watch ∧ (d.setLink l x).watchService = d.watchService ∧
    (d.setLink l x).watchKit = d.watchKit ∧ (d.setLink l x).watchTable = d.watchTable ∧
    (d.setLink l x).watchLimit = d.watchLimit ∧ (d.setLink l x).watchWindow = d.watchWindow ∧
    (d.setLink l x).gyl = d.gyl ∧ (d.setLink l x).armed = d.armed ∧ (d.setLink l x).clearRun = d.clearRun ∧
    (d.setLink l x).clearWait = d.clearWait ∧ (d.setLink l x).lowering = d.lowering ∧
    (d.setLink l x).rowSaves = d.rowSaves ∧ (d.setLink l x).bankCopies = d.bankCopies ∧
    (d.setLink l x).pprUsed = d.pprUsed ∧ (d.setLink l x).sparesUsed = d.sparesUsed ∧
    (d.setLink l x).bankMap = d.bankMap ∧ (d.setLink l x).memDown = d.memDown ∧
    (d.setLink l x).selfRefresh = d.selfRefresh ∧ (d.setLink l x).packGenClr = d.packGenClr ∧
    (d.setLink l x).expertGenClr = d.expertGenClr ∧ (d.setLink l x).gylGenClr = d.gylGenClr ∧
    (d.setLink l x).ctxs = d.ctxs ∧ (d.setLink l x).waitPkts = d.waitPkts ∧ (d.setLink l x).heldGo = d.heldGo ∧
    (d.setLink l x).ucie = d.ucie ∧ (d.setLink l x).rehash = d.rehash ∧ (d.setLink l x).routersOut = d.routersOut ∧
    (d.setLink l x).ports = d.ports ∧ (d.setLink l x).mcasts = d.mcasts ∧ (d.setLink l x).mcIn = d.mcIn ∧
    (d.setLink l x).mcWaits = d.mcWaits ∧ (d.setLink l x).host = d.host ∧ (d.setLink l x).devId = d.devId ∧
    (d.setLink l x).role = d.role ∧ (d.setLink l x).camp = d.camp ∧ (d.setLink l x).baseId = d.baseId ∧
    (d.setLink l x).standbyId = d.standbyId ∧ (d.setLink l x).power = d.power ∧ (d.setLink l x).rstN = d.rstN ∧
    (d.setLink l x).pwrGood = d.pwrGood ∧ (d.setLink l x).alertN = d.alertN ∧ (d.setLink l x).refclk = d.refclk ∧
    (d.setLink l x).kitApplied = d.kitApplied ∧ (d.setLink l x).tampered = d.tampered ∧
    (d.setLink l x).debugOpen = d.debugOpen ∧ (d.setLink l x).halted = d.halted ∧ (d.setLink l x).lanA = d.lanA ∧
    (d.setLink l x).lanB = d.lanB ∧ (d.setLink l x).mgmtSeq = d.mgmtSeq ∧
    (d.setLink l x).campTarget = d.campTarget ∧ (d.setLink l x).qm = d.qm ∧ (d.setLink l x).striking = d.striking ∧
    (d.setLink l x).strikeRgn = d.strikeRgn ∧ (d.setLink l x).strikeCount = d.strikeCount ∧
    (d.setLink l x).strikeRec = d.strikeRec ∧ (d.setLink l x).jobHere = d.jobHere ∧
    (d.setLink l x).jobStart = d.jobStart ∧ (d.setLink l x).startWait = d.startWait ∧
    (d.setLink l x).owedStart = d.owedStart ∧ (d.setLink l x).owedRestore = d.owedRestore ∧
    (d.setLink l x).stashAcks = d.stashAcks ∧ (d.setLink l x).stashSeal = d.stashSeal ∧
    (d.setLink l x).pull = d.pull ∧ (d.setLink l x).evacWait = d.evacWait ∧
    (d.setLink l x).evacLater = d.evacLater ∧ (d.setLink l x).resp = d.resp ∧ (d.setLink l x).report = d.report ∧
    (d.setLink l x).smbus = d.smbus ∧ (d.setLink l x).compassRead = d.compassRead ∧ (d.setLink l x).warm = d.warm ∧
    (d.setLink l x).warmAsked = d.warmAsked ∧ (d.setLink l x).preset = d.preset :=
  ⟨rfl, rfl, rfl, rfl, rfl, rfl, rfl, rfl, rfl, rfl, rfl, rfl, rfl, rfl, rfl, rfl, rfl, rfl, rfl, rfl, rfl, rfl,
    rfl, rfl, rfl, rfl, rfl, rfl, rfl, rfl, rfl, rfl, rfl, rfl, rfl, rfl, rfl, rfl, rfl, rfl, rfl, rfl, rfl, rfl,
    rfl, rfl, rfl, rfl, rfl, rfl, rfl, rfl, rfl, rfl, rfl, rfl, rfl, rfl, rfl, rfl, rfl, rfl, rfl, rfl, rfl, rfl,
    rfl, rfl, rfl, rfl, rfl, rfl, rfl, rfl, rfl, rfl, rfl, rfl, rfl, rfl, rfl, rfl, rfl, rfl, rfl, rfl, rfl, rfl,
    rfl, rfl, rfl, rfl⟩

/-- A module update changes the die-to-die modules only. -/
@[simp] theorem Dev.setModule_frame (d : Dev) (pair m : Nat) (x : Module) :
    (d.setModule pair m x).mem = d.mem ∧ (d.setModule pair m x).bad = d.bad ∧
    (d.setModule pair m x).flips = d.flips ∧ (d.setModule pair m x).regs = d.regs ∧
    (d.setModule pair m x).tents = d.tents ∧ (d.setModule pair m x).time = d.time ∧
    (d.setModule pair m x).fresh = d.fresh ∧ (d.setModule pair m x).lastRead = d.lastRead ∧
    (d.setModule pair m x).stores = d.stores ∧ (d.setModule pair m x).nextStore = d.nextStore ∧
    (d.setModule pair m x).response = d.response ∧ (d.setModule pair m x).tids = d.tids ∧
    (d.setModule pair m x).tidAt = d.tidAt ∧ (d.setModule pair m x).nextTid = d.nextTid ∧
    (d.setModule pair m x).rings = d.rings ∧ (d.setModule pair m x).events = d.events ∧
    (d.setModule pair m x).errCounts = d.errCounts ∧ (d.setModule pair m x).evSeq = d.evSeq ∧
    (d.setModule pair m x).evRing = d.evRing ∧ (d.setModule pair m x).pulses = d.pulses ∧
    (d.setModule pair m x).watch = d.watch ∧ (d.setModule pair m x).watchService = d.watchService ∧
    (d.setModule pair m x).watchKit = d.watchKit ∧ (d.setModule pair m x).watchTable = d.watchTable ∧
    (d.setModule pair m x).watchLimit = d.watchLimit ∧ (d.setModule pair m x).watchWindow = d.watchWindow ∧
    (d.setModule pair m x).gyl = d.gyl ∧ (d.setModule pair m x).armed = d.armed ∧
    (d.setModule pair m x).clearRun = d.clearRun ∧ (d.setModule pair m x).clearWait = d.clearWait ∧
    (d.setModule pair m x).lowering = d.lowering ∧ (d.setModule pair m x).rowSaves = d.rowSaves ∧
    (d.setModule pair m x).bankCopies = d.bankCopies ∧ (d.setModule pair m x).pprUsed = d.pprUsed ∧
    (d.setModule pair m x).sparesUsed = d.sparesUsed ∧ (d.setModule pair m x).bankMap = d.bankMap ∧
    (d.setModule pair m x).memDown = d.memDown ∧ (d.setModule pair m x).selfRefresh = d.selfRefresh ∧
    (d.setModule pair m x).packGenClr = d.packGenClr ∧ (d.setModule pair m x).expertGenClr = d.expertGenClr ∧
    (d.setModule pair m x).gylGenClr = d.gylGenClr ∧ (d.setModule pair m x).ctxs = d.ctxs ∧
    (d.setModule pair m x).waitPkts = d.waitPkts ∧ (d.setModule pair m x).heldGo = d.heldGo ∧
    (d.setModule pair m x).rehash = d.rehash ∧ (d.setModule pair m x).routersOut = d.routersOut ∧
    (d.setModule pair m x).links = d.links ∧ (d.setModule pair m x).ports = d.ports ∧
    (d.setModule pair m x).mcasts = d.mcasts ∧ (d.setModule pair m x).mcIn = d.mcIn ∧
    (d.setModule pair m x).mcWaits = d.mcWaits ∧ (d.setModule pair m x).host = d.host ∧
    (d.setModule pair m x).devId = d.devId ∧ (d.setModule pair m x).role = d.role ∧
    (d.setModule pair m x).camp = d.camp ∧ (d.setModule pair m x).baseId = d.baseId ∧
    (d.setModule pair m x).standbyId = d.standbyId ∧ (d.setModule pair m x).power = d.power ∧
    (d.setModule pair m x).rstN = d.rstN ∧ (d.setModule pair m x).pwrGood = d.pwrGood ∧
    (d.setModule pair m x).alertN = d.alertN ∧ (d.setModule pair m x).refclk = d.refclk ∧
    (d.setModule pair m x).kitApplied = d.kitApplied ∧ (d.setModule pair m x).tampered = d.tampered ∧
    (d.setModule pair m x).debugOpen = d.debugOpen ∧ (d.setModule pair m x).halted = d.halted ∧
    (d.setModule pair m x).lanA = d.lanA ∧ (d.setModule pair m x).lanB = d.lanB ∧
    (d.setModule pair m x).mgmtSeq = d.mgmtSeq ∧ (d.setModule pair m x).campTarget = d.campTarget ∧
    (d.setModule pair m x).qm = d.qm ∧ (d.setModule pair m x).striking = d.striking ∧
    (d.setModule pair m x).strikeRgn = d.strikeRgn ∧ (d.setModule pair m x).strikeCount = d.strikeCount ∧
    (d.setModule pair m x).strikeRec = d.strikeRec ∧ (d.setModule pair m x).jobHere = d.jobHere ∧
    (d.setModule pair m x).jobStart = d.jobStart ∧ (d.setModule pair m x).startWait = d.startWait ∧
    (d.setModule pair m x).owedStart = d.owedStart ∧ (d.setModule pair m x).owedRestore = d.owedRestore ∧
    (d.setModule pair m x).stashAcks = d.stashAcks ∧ (d.setModule pair m x).stashSeal = d.stashSeal ∧
    (d.setModule pair m x).pull = d.pull ∧ (d.setModule pair m x).evacWait = d.evacWait ∧
    (d.setModule pair m x).evacLater = d.evacLater ∧ (d.setModule pair m x).resp = d.resp ∧
    (d.setModule pair m x).report = d.report ∧ (d.setModule pair m x).smbus = d.smbus ∧
    (d.setModule pair m x).compassRead = d.compassRead ∧ (d.setModule pair m x).warm = d.warm ∧
    (d.setModule pair m x).warmAsked = d.warmAsked ∧ (d.setModule pair m x).preset = d.preset :=
  ⟨rfl, rfl, rfl, rfl, rfl, rfl, rfl, rfl, rfl, rfl, rfl, rfl, rfl, rfl, rfl, rfl, rfl, rfl, rfl, rfl, rfl, rfl,
    rfl, rfl, rfl, rfl, rfl, rfl, rfl, rfl, rfl, rfl, rfl, rfl, rfl, rfl, rfl, rfl, rfl, rfl, rfl, rfl, rfl, rfl,
    rfl, rfl, rfl, rfl, rfl, rfl, rfl, rfl, rfl, rfl, rfl, rfl, rfl, rfl, rfl, rfl, rfl, rfl, rfl, rfl, rfl, rfl,
    rfl, rfl, rfl, rfl, rfl, rfl, rfl, rfl, rfl, rfl, rfl, rfl, rfl, rfl, rfl, rfl, rfl, rfl, rfl, rfl, rfl, rfl,
    rfl, rfl, rfl, rfl⟩

/-- The Quartermaster is changed alone. -/
@[simp] theorem Dev.modQm_frame (d : Dev) (f : Quarter → Quarter) :
    (d.modQm f).mem = d.mem ∧ (d.modQm f).bad = d.bad ∧ (d.modQm f).flips = d.flips ∧ (d.modQm f).regs = d.regs ∧
    (d.modQm f).tents = d.tents ∧ (d.modQm f).time = d.time ∧ (d.modQm f).fresh = d.fresh ∧
    (d.modQm f).lastRead = d.lastRead ∧ (d.modQm f).stores = d.stores ∧ (d.modQm f).nextStore = d.nextStore ∧
    (d.modQm f).response = d.response ∧ (d.modQm f).tids = d.tids ∧ (d.modQm f).tidAt = d.tidAt ∧
    (d.modQm f).nextTid = d.nextTid ∧ (d.modQm f).rings = d.rings ∧ (d.modQm f).events = d.events ∧
    (d.modQm f).errCounts = d.errCounts ∧ (d.modQm f).evSeq = d.evSeq ∧ (d.modQm f).evRing = d.evRing ∧
    (d.modQm f).pulses = d.pulses ∧ (d.modQm f).watch = d.watch ∧ (d.modQm f).watchService = d.watchService ∧
    (d.modQm f).watchKit = d.watchKit ∧ (d.modQm f).watchTable = d.watchTable ∧
    (d.modQm f).watchLimit = d.watchLimit ∧ (d.modQm f).watchWindow = d.watchWindow ∧ (d.modQm f).gyl = d.gyl ∧
    (d.modQm f).armed = d.armed ∧ (d.modQm f).clearRun = d.clearRun ∧ (d.modQm f).clearWait = d.clearWait ∧
    (d.modQm f).lowering = d.lowering ∧ (d.modQm f).rowSaves = d.rowSaves ∧ (d.modQm f).bankCopies = d.bankCopies ∧
    (d.modQm f).pprUsed = d.pprUsed ∧ (d.modQm f).sparesUsed = d.sparesUsed ∧ (d.modQm f).bankMap = d.bankMap ∧
    (d.modQm f).memDown = d.memDown ∧ (d.modQm f).selfRefresh = d.selfRefresh ∧
    (d.modQm f).packGenClr = d.packGenClr ∧ (d.modQm f).expertGenClr = d.expertGenClr ∧
    (d.modQm f).gylGenClr = d.gylGenClr ∧ (d.modQm f).ctxs = d.ctxs ∧ (d.modQm f).waitPkts = d.waitPkts ∧
    (d.modQm f).heldGo = d.heldGo ∧ (d.modQm f).ucie = d.ucie ∧ (d.modQm f).rehash = d.rehash ∧
    (d.modQm f).routersOut = d.routersOut ∧ (d.modQm f).links = d.links ∧ (d.modQm f).ports = d.ports ∧
    (d.modQm f).mcasts = d.mcasts ∧ (d.modQm f).mcIn = d.mcIn ∧ (d.modQm f).mcWaits = d.mcWaits ∧
    (d.modQm f).host = d.host ∧ (d.modQm f).devId = d.devId ∧ (d.modQm f).role = d.role ∧
    (d.modQm f).camp = d.camp ∧ (d.modQm f).baseId = d.baseId ∧ (d.modQm f).standbyId = d.standbyId ∧
    (d.modQm f).power = d.power ∧ (d.modQm f).rstN = d.rstN ∧ (d.modQm f).pwrGood = d.pwrGood ∧
    (d.modQm f).alertN = d.alertN ∧ (d.modQm f).refclk = d.refclk ∧ (d.modQm f).kitApplied = d.kitApplied ∧
    (d.modQm f).tampered = d.tampered ∧ (d.modQm f).debugOpen = d.debugOpen ∧ (d.modQm f).halted = d.halted ∧
    (d.modQm f).lanA = d.lanA ∧ (d.modQm f).lanB = d.lanB ∧ (d.modQm f).mgmtSeq = d.mgmtSeq ∧
    (d.modQm f).campTarget = d.campTarget ∧ (d.modQm f).striking = d.striking ∧
    (d.modQm f).strikeRgn = d.strikeRgn ∧ (d.modQm f).strikeCount = d.strikeCount ∧
    (d.modQm f).strikeRec = d.strikeRec ∧ (d.modQm f).jobHere = d.jobHere ∧ (d.modQm f).jobStart = d.jobStart ∧
    (d.modQm f).startWait = d.startWait ∧ (d.modQm f).owedStart = d.owedStart ∧
    (d.modQm f).owedRestore = d.owedRestore ∧ (d.modQm f).stashAcks = d.stashAcks ∧
    (d.modQm f).stashSeal = d.stashSeal ∧ (d.modQm f).pull = d.pull ∧ (d.modQm f).evacWait = d.evacWait ∧
    (d.modQm f).evacLater = d.evacLater ∧ (d.modQm f).resp = d.resp ∧ (d.modQm f).report = d.report ∧
    (d.modQm f).smbus = d.smbus ∧ (d.modQm f).compassRead = d.compassRead ∧ (d.modQm f).warm = d.warm ∧
    (d.modQm f).warmAsked = d.warmAsked ∧ (d.modQm f).preset = d.preset :=
  ⟨rfl, rfl, rfl, rfl, rfl, rfl, rfl, rfl, rfl, rfl, rfl, rfl, rfl, rfl, rfl, rfl, rfl, rfl, rfl, rfl, rfl, rfl,
    rfl, rfl, rfl, rfl, rfl, rfl, rfl, rfl, rfl, rfl, rfl, rfl, rfl, rfl, rfl, rfl, rfl, rfl, rfl, rfl, rfl, rfl,
    rfl, rfl, rfl, rfl, rfl, rfl, rfl, rfl, rfl, rfl, rfl, rfl, rfl, rfl, rfl, rfl, rfl, rfl, rfl, rfl, rfl, rfl,
    rfl, rfl, rfl, rfl, rfl, rfl, rfl, rfl, rfl, rfl, rfl, rfl, rfl, rfl, rfl, rfl, rfl, rfl, rfl, rfl, rfl, rfl,
    rfl, rfl, rfl, rfl⟩

/-- An upset joins the upsets only. -/
@[simp] theorem Dev.upset_frame (d : Dev) (a : Nat) (u : Upset) :
    (d.upset a u).mem = d.mem ∧ (d.upset a u).bad = d.bad ∧ (d.upset a u).regs = d.regs ∧
    (d.upset a u).tents = d.tents ∧ (d.upset a u).time = d.time ∧ (d.upset a u).fresh = d.fresh ∧
    (d.upset a u).lastRead = d.lastRead ∧ (d.upset a u).stores = d.stores ∧ (d.upset a u).nextStore = d.nextStore ∧
    (d.upset a u).response = d.response ∧ (d.upset a u).tids = d.tids ∧ (d.upset a u).tidAt = d.tidAt ∧
    (d.upset a u).nextTid = d.nextTid ∧ (d.upset a u).rings = d.rings ∧ (d.upset a u).events = d.events ∧
    (d.upset a u).errCounts = d.errCounts ∧ (d.upset a u).evSeq = d.evSeq ∧ (d.upset a u).evRing = d.evRing ∧
    (d.upset a u).pulses = d.pulses ∧ (d.upset a u).watch = d.watch ∧ (d.upset a u).watchService = d.watchService ∧
    (d.upset a u).watchKit = d.watchKit ∧ (d.upset a u).watchTable = d.watchTable ∧
    (d.upset a u).watchLimit = d.watchLimit ∧ (d.upset a u).watchWindow = d.watchWindow ∧
    (d.upset a u).gyl = d.gyl ∧ (d.upset a u).armed = d.armed ∧ (d.upset a u).clearRun = d.clearRun ∧
    (d.upset a u).clearWait = d.clearWait ∧ (d.upset a u).lowering = d.lowering ∧
    (d.upset a u).rowSaves = d.rowSaves ∧ (d.upset a u).bankCopies = d.bankCopies ∧
    (d.upset a u).pprUsed = d.pprUsed ∧ (d.upset a u).sparesUsed = d.sparesUsed ∧
    (d.upset a u).bankMap = d.bankMap ∧ (d.upset a u).memDown = d.memDown ∧
    (d.upset a u).selfRefresh = d.selfRefresh ∧ (d.upset a u).packGenClr = d.packGenClr ∧
    (d.upset a u).expertGenClr = d.expertGenClr ∧ (d.upset a u).gylGenClr = d.gylGenClr ∧
    (d.upset a u).ctxs = d.ctxs ∧ (d.upset a u).waitPkts = d.waitPkts ∧ (d.upset a u).heldGo = d.heldGo ∧
    (d.upset a u).ucie = d.ucie ∧ (d.upset a u).rehash = d.rehash ∧ (d.upset a u).routersOut = d.routersOut ∧
    (d.upset a u).links = d.links ∧ (d.upset a u).ports = d.ports ∧ (d.upset a u).mcasts = d.mcasts ∧
    (d.upset a u).mcIn = d.mcIn ∧ (d.upset a u).mcWaits = d.mcWaits ∧ (d.upset a u).host = d.host ∧
    (d.upset a u).devId = d.devId ∧ (d.upset a u).role = d.role ∧ (d.upset a u).camp = d.camp ∧
    (d.upset a u).baseId = d.baseId ∧ (d.upset a u).standbyId = d.standbyId ∧ (d.upset a u).power = d.power ∧
    (d.upset a u).rstN = d.rstN ∧ (d.upset a u).pwrGood = d.pwrGood ∧ (d.upset a u).alertN = d.alertN ∧
    (d.upset a u).refclk = d.refclk ∧ (d.upset a u).kitApplied = d.kitApplied ∧
    (d.upset a u).tampered = d.tampered ∧ (d.upset a u).debugOpen = d.debugOpen ∧ (d.upset a u).halted = d.halted ∧
    (d.upset a u).lanA = d.lanA ∧ (d.upset a u).lanB = d.lanB ∧ (d.upset a u).mgmtSeq = d.mgmtSeq ∧
    (d.upset a u).campTarget = d.campTarget ∧ (d.upset a u).qm = d.qm ∧ (d.upset a u).striking = d.striking ∧
    (d.upset a u).strikeRgn = d.strikeRgn ∧ (d.upset a u).strikeCount = d.strikeCount ∧
    (d.upset a u).strikeRec = d.strikeRec ∧ (d.upset a u).jobHere = d.jobHere ∧
    (d.upset a u).jobStart = d.jobStart ∧ (d.upset a u).startWait = d.startWait ∧
    (d.upset a u).owedStart = d.owedStart ∧ (d.upset a u).owedRestore = d.owedRestore ∧
    (d.upset a u).stashAcks = d.stashAcks ∧ (d.upset a u).stashSeal = d.stashSeal ∧ (d.upset a u).pull = d.pull ∧
    (d.upset a u).evacWait = d.evacWait ∧ (d.upset a u).evacLater = d.evacLater ∧ (d.upset a u).resp = d.resp ∧
    (d.upset a u).report = d.report ∧ (d.upset a u).smbus = d.smbus ∧ (d.upset a u).compassRead = d.compassRead ∧
    (d.upset a u).warm = d.warm ∧ (d.upset a u).warmAsked = d.warmAsked ∧ (d.upset a u).preset = d.preset := by
  unfold Dev.upset; split <;> simp

/-- An expert-level write of a setting is noted with the presets only. -/
@[simp] theorem Dev.noteHand_frame (d : Dev) (a n : Nat) :
    (d.noteHand a n).mem = d.mem ∧ (d.noteHand a n).bad = d.bad ∧ (d.noteHand a n).flips = d.flips ∧
    (d.noteHand a n).regs = d.regs ∧ (d.noteHand a n).tents = d.tents ∧ (d.noteHand a n).time = d.time ∧
    (d.noteHand a n).fresh = d.fresh ∧ (d.noteHand a n).lastRead = d.lastRead ∧
    (d.noteHand a n).stores = d.stores ∧ (d.noteHand a n).nextStore = d.nextStore ∧
    (d.noteHand a n).response = d.response ∧ (d.noteHand a n).tids = d.tids ∧ (d.noteHand a n).tidAt = d.tidAt ∧
    (d.noteHand a n).nextTid = d.nextTid ∧ (d.noteHand a n).rings = d.rings ∧ (d.noteHand a n).events = d.events ∧
    (d.noteHand a n).errCounts = d.errCounts ∧ (d.noteHand a n).evSeq = d.evSeq ∧
    (d.noteHand a n).evRing = d.evRing ∧ (d.noteHand a n).pulses = d.pulses ∧ (d.noteHand a n).watch = d.watch ∧
    (d.noteHand a n).watchService = d.watchService ∧ (d.noteHand a n).watchKit = d.watchKit ∧
    (d.noteHand a n).watchTable = d.watchTable ∧ (d.noteHand a n).watchLimit = d.watchLimit ∧
    (d.noteHand a n).watchWindow = d.watchWindow ∧ (d.noteHand a n).gyl = d.gyl ∧
    (d.noteHand a n).armed = d.armed ∧ (d.noteHand a n).clearRun = d.clearRun ∧
    (d.noteHand a n).clearWait = d.clearWait ∧ (d.noteHand a n).lowering = d.lowering ∧
    (d.noteHand a n).rowSaves = d.rowSaves ∧ (d.noteHand a n).bankCopies = d.bankCopies ∧
    (d.noteHand a n).pprUsed = d.pprUsed ∧ (d.noteHand a n).sparesUsed = d.sparesUsed ∧
    (d.noteHand a n).bankMap = d.bankMap ∧ (d.noteHand a n).memDown = d.memDown ∧
    (d.noteHand a n).selfRefresh = d.selfRefresh ∧ (d.noteHand a n).packGenClr = d.packGenClr ∧
    (d.noteHand a n).expertGenClr = d.expertGenClr ∧ (d.noteHand a n).gylGenClr = d.gylGenClr ∧
    (d.noteHand a n).ctxs = d.ctxs ∧ (d.noteHand a n).waitPkts = d.waitPkts ∧ (d.noteHand a n).heldGo = d.heldGo ∧
    (d.noteHand a n).ucie = d.ucie ∧ (d.noteHand a n).rehash = d.rehash ∧
    (d.noteHand a n).routersOut = d.routersOut ∧ (d.noteHand a n).links = d.links ∧
    (d.noteHand a n).ports = d.ports ∧ (d.noteHand a n).mcasts = d.mcasts ∧ (d.noteHand a n).mcIn = d.mcIn ∧
    (d.noteHand a n).mcWaits = d.mcWaits ∧ (d.noteHand a n).host = d.host ∧ (d.noteHand a n).devId = d.devId ∧
    (d.noteHand a n).role = d.role ∧ (d.noteHand a n).camp = d.camp ∧ (d.noteHand a n).baseId = d.baseId ∧
    (d.noteHand a n).standbyId = d.standbyId ∧ (d.noteHand a n).power = d.power ∧ (d.noteHand a n).rstN = d.rstN ∧
    (d.noteHand a n).pwrGood = d.pwrGood ∧ (d.noteHand a n).alertN = d.alertN ∧
    (d.noteHand a n).refclk = d.refclk ∧ (d.noteHand a n).kitApplied = d.kitApplied ∧
    (d.noteHand a n).tampered = d.tampered ∧ (d.noteHand a n).debugOpen = d.debugOpen ∧
    (d.noteHand a n).halted = d.halted ∧ (d.noteHand a n).lanA = d.lanA ∧ (d.noteHand a n).lanB = d.lanB ∧
    (d.noteHand a n).mgmtSeq = d.mgmtSeq ∧ (d.noteHand a n).campTarget = d.campTarget ∧
    (d.noteHand a n).qm = d.qm ∧ (d.noteHand a n).striking = d.striking ∧
    (d.noteHand a n).strikeRgn = d.strikeRgn ∧ (d.noteHand a n).strikeCount = d.strikeCount ∧
    (d.noteHand a n).strikeRec = d.strikeRec ∧ (d.noteHand a n).jobHere = d.jobHere ∧
    (d.noteHand a n).jobStart = d.jobStart ∧ (d.noteHand a n).startWait = d.startWait ∧
    (d.noteHand a n).owedStart = d.owedStart ∧ (d.noteHand a n).owedRestore = d.owedRestore ∧
    (d.noteHand a n).stashAcks = d.stashAcks ∧ (d.noteHand a n).stashSeal = d.stashSeal ∧
    (d.noteHand a n).pull = d.pull ∧ (d.noteHand a n).evacWait = d.evacWait ∧
    (d.noteHand a n).evacLater = d.evacLater ∧ (d.noteHand a n).resp = d.resp ∧
    (d.noteHand a n).report = d.report ∧ (d.noteHand a n).smbus = d.smbus ∧
    (d.noteHand a n).compassRead = d.compassRead ∧ (d.noteHand a n).warm = d.warm ∧
    (d.noteHand a n).warmAsked = d.warmAsked := by
  unfold Dev.noteHand; dsimp only; split <;> simp

/-- A pulse changes the pulses, or a register. -/
@[simp] theorem Dev.pulse_frame (d : Dev) (src : Nat) :
    (d.pulse src).mem = d.mem ∧ (d.pulse src).bad = d.bad ∧ (d.pulse src).flips = d.flips ∧
    (d.pulse src).tents = d.tents ∧ (d.pulse src).time = d.time ∧ (d.pulse src).fresh = d.fresh ∧
    (d.pulse src).lastRead = d.lastRead ∧ (d.pulse src).stores = d.stores ∧ (d.pulse src).nextStore = d.nextStore ∧
    (d.pulse src).response = d.response ∧ (d.pulse src).tids = d.tids ∧ (d.pulse src).tidAt = d.tidAt ∧
    (d.pulse src).nextTid = d.nextTid ∧ (d.pulse src).rings = d.rings ∧ (d.pulse src).events = d.events ∧
    (d.pulse src).errCounts = d.errCounts ∧ (d.pulse src).evSeq = d.evSeq ∧ (d.pulse src).evRing = d.evRing ∧
    (d.pulse src).watch = d.watch ∧ (d.pulse src).watchService = d.watchService ∧
    (d.pulse src).watchKit = d.watchKit ∧ (d.pulse src).watchTable = d.watchTable ∧
    (d.pulse src).watchLimit = d.watchLimit ∧ (d.pulse src).watchWindow = d.watchWindow ∧
    (d.pulse src).gyl = d.gyl ∧ (d.pulse src).armed = d.armed ∧ (d.pulse src).clearRun = d.clearRun ∧
    (d.pulse src).clearWait = d.clearWait ∧ (d.pulse src).lowering = d.lowering ∧
    (d.pulse src).rowSaves = d.rowSaves ∧ (d.pulse src).bankCopies = d.bankCopies ∧
    (d.pulse src).pprUsed = d.pprUsed ∧ (d.pulse src).sparesUsed = d.sparesUsed ∧
    (d.pulse src).bankMap = d.bankMap ∧ (d.pulse src).memDown = d.memDown ∧
    (d.pulse src).selfRefresh = d.selfRefresh ∧ (d.pulse src).packGenClr = d.packGenClr ∧
    (d.pulse src).expertGenClr = d.expertGenClr ∧ (d.pulse src).gylGenClr = d.gylGenClr ∧
    (d.pulse src).ctxs = d.ctxs ∧ (d.pulse src).waitPkts = d.waitPkts ∧ (d.pulse src).heldGo = d.heldGo ∧
    (d.pulse src).ucie = d.ucie ∧ (d.pulse src).rehash = d.rehash ∧ (d.pulse src).routersOut = d.routersOut ∧
    (d.pulse src).links = d.links ∧ (d.pulse src).ports = d.ports ∧ (d.pulse src).mcasts = d.mcasts ∧
    (d.pulse src).mcIn = d.mcIn ∧ (d.pulse src).mcWaits = d.mcWaits ∧ (d.pulse src).host = d.host ∧
    (d.pulse src).devId = d.devId ∧ (d.pulse src).role = d.role ∧ (d.pulse src).camp = d.camp ∧
    (d.pulse src).baseId = d.baseId ∧ (d.pulse src).standbyId = d.standbyId ∧ (d.pulse src).power = d.power ∧
    (d.pulse src).rstN = d.rstN ∧ (d.pulse src).pwrGood = d.pwrGood ∧ (d.pulse src).alertN = d.alertN ∧
    (d.pulse src).refclk = d.refclk ∧ (d.pulse src).kitApplied = d.kitApplied ∧
    (d.pulse src).tampered = d.tampered ∧ (d.pulse src).debugOpen = d.debugOpen ∧ (d.pulse src).halted = d.halted ∧
    (d.pulse src).lanA = d.lanA ∧ (d.pulse src).lanB = d.lanB ∧ (d.pulse src).mgmtSeq = d.mgmtSeq ∧
    (d.pulse src).campTarget = d.campTarget ∧ (d.pulse src).qm = d.qm ∧ (d.pulse src).striking = d.striking ∧
    (d.pulse src).strikeRgn = d.strikeRgn ∧ (d.pulse src).strikeCount = d.strikeCount ∧
    (d.pulse src).strikeRec = d.strikeRec ∧ (d.pulse src).jobHere = d.jobHere ∧
    (d.pulse src).jobStart = d.jobStart ∧ (d.pulse src).startWait = d.startWait ∧
    (d.pulse src).owedStart = d.owedStart ∧ (d.pulse src).owedRestore = d.owedRestore ∧
    (d.pulse src).stashAcks = d.stashAcks ∧ (d.pulse src).stashSeal = d.stashSeal ∧ (d.pulse src).pull = d.pull ∧
    (d.pulse src).evacWait = d.evacWait ∧ (d.pulse src).evacLater = d.evacLater ∧ (d.pulse src).resp = d.resp ∧
    (d.pulse src).report = d.report ∧ (d.pulse src).smbus = d.smbus ∧ (d.pulse src).compassRead = d.compassRead ∧
    (d.pulse src).warm = d.warm ∧ (d.pulse src).warmAsked = d.warmAsked ∧ (d.pulse src).preset = d.preset := by
  unfold Dev.pulse Dev.bump Dev.setReg; split <;> simp

/-- An event changes what events are in. -/
@[simp] theorem Dev.raise_frame (d : Dev) (src cls code unit detail : Nat) :
    (d.raise src cls code unit detail).mem = d.mem ∧ (d.raise src cls code unit detail).bad = d.bad ∧
    (d.raise src cls code unit detail).flips = d.flips ∧ (d.raise src cls code unit detail).tents = d.tents ∧
    (d.raise src cls code unit detail).time = d.time ∧ (d.raise src cls code unit detail).fresh = d.fresh ∧
    (d.raise src cls code unit detail).lastRead = d.lastRead ∧
    (d.raise src cls code unit detail).stores = d.stores ∧
    (d.raise src cls code unit detail).nextStore = d.nextStore ∧
    (d.raise src cls code unit detail).response = d.response ∧ (d.raise src cls code unit detail).tids = d.tids ∧
    (d.raise src cls code unit detail).tidAt = d.tidAt ∧ (d.raise src cls code unit detail).nextTid = d.nextTid ∧
    (d.raise src cls code unit detail).rings = d.rings ∧
    (d.raise src cls code unit detail).errCounts = d.errCounts ∧
    (d.raise src cls code unit detail).evSeq = d.evSeq ∧ (d.raise src cls code unit detail).evRing = d.evRing ∧
    (d.raise src cls code unit detail).watch = d.watch ∧
    (d.raise src cls code unit detail).watchService = d.watchService ∧
    (d.raise src cls code unit detail).watchKit = d.watchKit ∧
    (d.raise src cls code unit detail).watchTable = d.watchTable ∧
    (d.raise src cls code unit detail).watchLimit = d.watchLimit ∧
    (d.raise src cls code unit detail).watchWindow = d.watchWindow ∧
    (d.raise src cls code unit detail).gyl = d.gyl ∧ (d.raise src cls code unit detail).armed = d.armed ∧
    (d.raise src cls code unit detail).clearRun = d.clearRun ∧
    (d.raise src cls code unit detail).clearWait = d.clearWait ∧
    (d.raise src cls code unit detail).lowering = d.lowering ∧
    (d.raise src cls code unit detail).pprUsed = d.pprUsed ∧
    (d.raise src cls code unit detail).sparesUsed = d.sparesUsed ∧
    (d.raise src cls code unit detail).bankMap = d.bankMap ∧
    (d.raise src cls code unit detail).memDown = d.memDown ∧
    (d.raise src cls code unit detail).selfRefresh = d.selfRefresh ∧
    (d.raise src cls code unit detail).packGenClr = d.packGenClr ∧
    (d.raise src cls code unit detail).expertGenClr = d.expertGenClr ∧
    (d.raise src cls code unit detail).gylGenClr = d.gylGenClr ∧ (d.raise src cls code unit detail).ctxs = d.ctxs ∧
    (d.raise src cls code unit detail).waitPkts = d.waitPkts ∧
    (d.raise src cls code unit detail).heldGo = d.heldGo ∧ (d.raise src cls code unit detail).ucie = d.ucie ∧
    (d.raise src cls code unit detail).rehash = d.rehash ∧
    (d.raise src cls code unit detail).routersOut = d.routersOut ∧
    (d.raise src cls code unit detail).links = d.links ∧ (d.raise src cls code unit detail).ports = d.ports ∧
    (d.raise src cls code unit detail).mcasts = d.mcasts ∧ (d.raise src cls code unit detail).mcIn = d.mcIn ∧
    (d.raise src cls code unit detail).mcWaits = d.mcWaits ∧ (d.raise src cls code unit detail).host = d.host ∧
    (d.raise src cls code unit detail).devId = d.devId ∧ (d.raise src cls code unit detail).role = d.role ∧
    (d.raise src cls code unit detail).camp = d.camp ∧ (d.raise src cls code unit detail).baseId = d.baseId ∧
    (d.raise src cls code unit detail).standbyId = d.standbyId ∧
    (d.raise src cls code unit detail).power = d.power ∧ (d.raise src cls code unit detail).rstN = d.rstN ∧
    (d.raise src cls code unit detail).pwrGood = d.pwrGood ∧ (d.raise src cls code unit detail).refclk = d.refclk ∧
    (d.raise src cls code unit detail).kitApplied = d.kitApplied ∧
    (d.raise src cls code unit detail).tampered = d.tampered ∧
    (d.raise src cls code unit detail).debugOpen = d.debugOpen ∧ (d.raise src cls code unit detail).lanA = d.lanA ∧
    (d.raise src cls code unit detail).lanB = d.lanB ∧ (d.raise src cls code unit detail).mgmtSeq = d.mgmtSeq ∧
    (d.raise src cls code unit detail).campTarget = d.campTarget ∧ (d.raise src cls code unit detail).qm = d.qm ∧
    (d.raise src cls code unit detail).striking = d.striking ∧
    (d.raise src cls code unit detail).strikeRgn = d.strikeRgn ∧
    (d.raise src cls code unit detail).strikeCount = d.strikeCount ∧
    (d.raise src cls code unit detail).strikeRec = d.strikeRec ∧
    (d.raise src cls code unit detail).jobHere = d.jobHere ∧
    (d.raise src cls code unit detail).jobStart = d.jobStart ∧
    (d.raise src cls code unit detail).startWait = d.startWait ∧
    (d.raise src cls code unit detail).owedStart = d.owedStart ∧
    (d.raise src cls code unit detail).owedRestore = d.owedRestore ∧
    (d.raise src cls code unit detail).stashAcks = d.stashAcks ∧
    (d.raise src cls code unit detail).stashSeal = d.stashSeal ∧ (d.raise src cls code unit detail).pull = d.pull ∧
    (d.raise src cls code unit detail).evacLater = d.evacLater ∧ (d.raise src cls code unit detail).resp = d.resp ∧
    (d.raise src cls code unit detail).report = d.report ∧ (d.raise src cls code unit detail).smbus = d.smbus ∧
    (d.raise src cls code unit detail).compassRead = d.compassRead ∧
    (d.raise src cls code unit detail).warm = d.warm ∧ (d.raise src cls code unit detail).warmAsked = d.warmAsked ∧
    (d.raise src cls code unit detail).preset = d.preset := by
  simp [Dev.raise]

/-- An event joins those raised. -/
@[simp] theorem Dev.raise_events (d : Dev) (src cls code unit detail : Nat) :
    (d.raise src cls code unit detail).events =
      d.events ++ [⟨src, cls, code, unit, d.job + d.epoch * 2 ^ 12, d.gen, d.time, detail⟩] := rfl

/-- Only a DEVICE event abandons the live-service procedures. -/
theorem Dev.raise_procedures (d : Dev) (src cls code unit detail : Nat) (h : cls ≠ clsDevice) :
    (d.raise src cls code unit detail).rowSaves = d.rowSaves ∧
      (d.raise src cls code unit detail).bankCopies = d.bankCopies ∧
      (d.raise src cls code unit detail).evacWait = d.evacWait := by
  simp [Dev.raise, h]

/-- An error record changes its count and what events are in. -/
@[simp] theorem Dev.logErr_frame (d : Dev) (src unit blk cls cause : Nat) (i : ErrInfo) :
    (d.logErr src unit blk cls cause i).mem = d.mem ∧ (d.logErr src unit blk cls cause i).bad = d.bad ∧
    (d.logErr src unit blk cls cause i).flips = d.flips ∧ (d.logErr src unit blk cls cause i).tents = d.tents ∧
    (d.logErr src unit blk cls cause i).time = d.time ∧ (d.logErr src unit blk cls cause i).fresh = d.fresh ∧
    (d.logErr src unit blk cls cause i).lastRead = d.lastRead ∧
    (d.logErr src unit blk cls cause i).stores = d.stores ∧
    (d.logErr src unit blk cls cause i).nextStore = d.nextStore ∧
    (d.logErr src unit blk cls cause i).response = d.response ∧ (d.logErr src unit blk cls cause i).tids = d.tids ∧
    (d.logErr src unit blk cls cause i).tidAt = d.tidAt ∧ (d.logErr src unit blk cls cause i).nextTid = d.nextTid ∧
    (d.logErr src unit blk cls cause i).rings = d.rings ∧ (d.logErr src unit blk cls cause i).evSeq = d.evSeq ∧
    (d.logErr src unit blk cls cause i).evRing = d.evRing ∧ (d.logErr src unit blk cls cause i).watch = d.watch ∧
    (d.logErr src unit blk cls cause i).watchService = d.watchService ∧
    (d.logErr src unit blk cls cause i).watchKit = d.watchKit ∧
    (d.logErr src unit blk cls cause i).watchTable = d.watchTable ∧
    (d.logErr src unit blk cls cause i).watchLimit = d.watchLimit ∧
    (d.logErr src unit blk cls cause i).watchWindow = d.watchWindow ∧
    (d.logErr src unit blk cls cause i).gyl = d.gyl ∧ (d.logErr src unit blk cls cause i).armed = d.armed ∧
    (d.logErr src unit blk cls cause i).clearRun = d.clearRun ∧
    (d.logErr src unit blk cls cause i).clearWait = d.clearWait ∧
    (d.logErr src unit blk cls cause i).lowering = d.lowering ∧
    (d.logErr src unit blk cls cause i).pprUsed = d.pprUsed ∧
    (d.logErr src unit blk cls cause i).sparesUsed = d.sparesUsed ∧
    (d.logErr src unit blk cls cause i).bankMap = d.bankMap ∧
    (d.logErr src unit blk cls cause i).memDown = d.memDown ∧
    (d.logErr src unit blk cls cause i).selfRefresh = d.selfRefresh ∧
    (d.logErr src unit blk cls cause i).packGenClr = d.packGenClr ∧
    (d.logErr src unit blk cls cause i).expertGenClr = d.expertGenClr ∧
    (d.logErr src unit blk cls cause i).gylGenClr = d.gylGenClr ∧
    (d.logErr src unit blk cls cause i).ctxs = d.ctxs ∧ (d.logErr src unit blk cls cause i).waitPkts = d.waitPkts ∧
    (d.logErr src unit blk cls cause i).heldGo = d.heldGo ∧ (d.logErr src unit blk cls cause i).ucie = d.ucie ∧
    (d.logErr src unit blk cls cause i).rehash = d.rehash ∧
    (d.logErr src unit blk cls cause i).routersOut = d.routersOut ∧
    (d.logErr src unit blk cls cause i).links = d.links ∧ (d.logErr src unit blk cls cause i).ports = d.ports ∧
    (d.logErr src unit blk cls cause i).mcasts = d.mcasts ∧ (d.logErr src unit blk cls cause i).mcIn = d.mcIn ∧
    (d.logErr src unit blk cls cause i).mcWaits = d.mcWaits ∧ (d.logErr src unit blk cls cause i).host = d.host ∧
    (d.logErr src unit blk cls cause i).devId = d.devId ∧ (d.logErr src unit blk cls cause i).role = d.role ∧
    (d.logErr src unit blk cls cause i).camp = d.camp ∧ (d.logErr src unit blk cls cause i).baseId = d.baseId ∧
    (d.logErr src unit blk cls cause i).standbyId = d.standbyId ∧
    (d.logErr src unit blk cls cause i).power = d.power ∧ (d.logErr src unit blk cls cause i).rstN = d.rstN ∧
    (d.logErr src unit blk cls cause i).pwrGood = d.pwrGood ∧
    (d.logErr src unit blk cls cause i).refclk = d.refclk ∧
    (d.logErr src unit blk cls cause i).kitApplied = d.kitApplied ∧
    (d.logErr src unit blk cls cause i).tampered = d.tampered ∧
    (d.logErr src unit blk cls cause i).debugOpen = d.debugOpen ∧
    (d.logErr src unit blk cls cause i).lanA = d.lanA ∧ (d.logErr src unit blk cls cause i).lanB = d.lanB ∧
    (d.logErr src unit blk cls cause i).mgmtSeq = d.mgmtSeq ∧
    (d.logErr src unit blk cls cause i).campTarget = d.campTarget ∧ (d.logErr src unit blk cls cause i).qm = d.qm ∧
    (d.logErr src unit blk cls cause i).striking = d.striking ∧
    (d.logErr src unit blk cls cause i).strikeRgn = d.strikeRgn ∧
    (d.logErr src unit blk cls cause i).strikeCount = d.strikeCount ∧
    (d.logErr src unit blk cls cause i).strikeRec = d.strikeRec ∧
    (d.logErr src unit blk cls cause i).jobHere = d.jobHere ∧
    (d.logErr src unit blk cls cause i).jobStart = d.jobStart ∧
    (d.logErr src unit blk cls cause i).startWait = d.startWait ∧
    (d.logErr src unit blk cls cause i).owedStart = d.owedStart ∧
    (d.logErr src unit blk cls cause i).owedRestore = d.owedRestore ∧
    (d.logErr src unit blk cls cause i).stashAcks = d.stashAcks ∧
    (d.logErr src unit blk cls cause i).stashSeal = d.stashSeal ∧
    (d.logErr src unit blk cls cause i).pull = d.pull ∧
    (d.logErr src unit blk cls cause i).evacLater = d.evacLater ∧
    (d.logErr src unit blk cls cause i).resp = d.resp ∧ (d.logErr src unit blk cls cause i).report = d.report ∧
    (d.logErr src unit blk cls cause i).smbus = d.smbus ∧
    (d.logErr src unit blk cls cause i).compassRead = d.compassRead ∧
    (d.logErr src unit blk cls cause i).warm = d.warm ∧
    (d.logErr src unit blk cls cause i).warmAsked = d.warmAsked ∧
    (d.logErr src unit blk cls cause i).preset = d.preset := by
  simp [Dev.logErr]

/-! ### Reads after updates -/

/-- What a register reads after a write of one. -/
theorem Dev.reg_setReg (d : Dev) (a v b : Nat) : (d.setReg a v).reg b = if b = a then v % 2 ^ 64 else d.reg b := by
  unfold Dev.reg Dev.setReg
  simp only [look_put]
  split <;> simp

@[simp] theorem Dev.reg_setReg_self (d : Dev) (a v : Nat) : (d.setReg a v).reg a = v % 2 ^ 64 := by
  simp [Dev.reg_setReg]

theorem Dev.reg_setReg_ne (d : Dev) {a b : Nat} (v : Nat) (h : b ≠ a) : (d.setReg a v).reg b = d.reg b := by
  simp [Dev.reg_setReg, h]

/-- A register is a 64-bit number. -/
theorem Dev.reg_lt (d : Dev) (a : Nat) : d.reg a < 2 ^ 64 := (look regReset d.regs a).isLt

/-- What a register reads after a tent update. -/
@[simp] theorem Dev.reg_setTent (d : Dev) (t : Nat) (x : Tent) (b : Nat) : (d.setTent t x).reg b = d.reg b := rfl

/-- What a tent holds after an update of one. -/
theorem Dev.tent_setTent (d : Dev) (t : Nat) (x : Tent) (u : Nat) :
    (d.setTent t x).tent u = if u = t then x else d.tent u := by
  unfold Dev.tent Dev.setTent
  simp only [look_put]

@[simp] theorem Dev.tent_setTent_self (d : Dev) (t : Nat) (x : Tent) : (d.setTent t x).tent t = x := by
  simp [Dev.tent_setTent]

@[simp] theorem Dev.tent_setReg (d : Dev) (a v t : Nat) : (d.setReg a v).tent t = d.tent t := rfl

@[simp] theorem Dev.core_setReg (d : Dev) (a v t n : Nat) : (d.setReg a v).core t n = d.core t n := rfl

@[simp] theorem Dev.queue_setReg (d : Dev) (a v t q : Nat) : (d.setReg a v).queue t q = d.queue t q := rfl

/-- What an S-core holds after an update of one. -/
theorem Dev.core_setCore (d : Dev) (t n : Nat) (c : Core) (u m : Nat) :
    (d.setCore t n c).core u m = if u = t ∧ m = n then c else d.core u m := by
  unfold Dev.core Dev.setCore Dev.modTent
  rw [Dev.tent_setTent]
  by_cases hu : u = t
  · subst hu
    by_cases hm : m = n <;> simp [hm, look_put]
  · simp [hu]

@[simp] theorem Dev.core_setCore_self (d : Dev) (t n : Nat) (c : Core) : (d.setCore t n c).core t n = c := by
  simp [Dev.core_setCore]

@[simp] theorem Dev.reg_setCore (d : Dev) (t n : Nat) (c : Core) (b : Nat) : (d.setCore t n c).reg b = d.reg b := rfl

@[simp] theorem Dev.queue_setCore (d : Dev) (t n : Nat) (c : Core) (u q : Nat) :
    (d.setCore t n c).queue u q = d.queue u q := by
  unfold Dev.queue Dev.setCore Dev.modTent
  rw [Dev.tent_setTent]
  by_cases hu : u = t
  · subst hu; simp
  · simp [hu]

/-- What a queue holds after an update of one. -/
theorem Dev.queue_setQueue (d : Dev) (t q : Nat) (x : Queue) (u p : Nat) :
    (d.setQueue t q x).queue u p = if u = t ∧ p = q then x else d.queue u p := by
  unfold Dev.queue Dev.setQueue Dev.modTent
  rw [Dev.tent_setTent]
  by_cases hu : u = t
  · subst hu
    by_cases hm : p = q <;> simp [hm, look_put]
  · simp [hu]

@[simp] theorem Dev.queue_setQueue_self (d : Dev) (t q : Nat) (x : Queue) : (d.setQueue t q x).queue t q = x := by
  simp [Dev.queue_setQueue]

@[simp] theorem Dev.core_setQueue (d : Dev) (t q : Nat) (x : Queue) (u n : Nat) :
    (d.setQueue t q x).core u n = d.core u n := by
  unfold Dev.core Dev.setQueue Dev.modTent
  rw [Dev.tent_setTent]
  by_cases hu : u = t
  · subst hu; simp
  · simp [hu]

/-- What a register of an S-core reads after a write of one: s0 discards writes and reads zero. -/
theorem Core.get_set (c : Core) (k j : Nat) (v : Word) :
    (c.set k v).get j = if j = 0 then 0 else if j = k then v else c.get j := by
  unfold Core.set Core.get
  by_cases hj : j = 0
  · simp [hj]
  · by_cases hk : k = 0
    · simp [hk, hj]
    · simp [hj, hk, look_put]

/-- A register write of an S-core changes its registers only. -/
@[simp] theorem Core.set_frame (c : Core) (k : Nat) (v : Word) :
    (c.set k v).running = c.running ∧ (c.set k v).stopPending = c.stopPending ∧ (c.set k v).pc = c.pc ∧
      (c.set k v).wait = c.wait := by
  unfold Core.set; split <;> simp

@[simp] theorem Dev.core_setSreg_self (d : Dev) (t n k : Nat) (v : Word) :
    (d.setSreg t n k v).core t n = (d.core t n).set k v := by
  simp [Dev.setSreg]

/-! ### What commands leave -/

theorem lift_next (f : Dev → Dev) (s : State) : lift f s = .next { s with dev := f s.dev } := rfl

/-- A command whose accesses may reach registers, where none asks for a WARM reset. -/
theorem liftBus_next (f : Perm → Dev → Dev) (s : State) (h : (f s.perm s.dev).warmAsked = false) :
    liftBus f s = .next { s with dev := f s.perm s.dev } := by
  simp [liftBus, liftAll, settle, h]

theorem asWriter_next (w v : Writer) (f : Writer → State → Out) (s : State) (h : s.acting w = some v) :
    asWriter w f s = f v s := by
  simp [asWriter, h]

theorem asWriter_none (w : Writer) (f : Writer → State → Out) (s : State) (h : s.acting w = none) :
    asWriter w f s = .next s := by
  simp [asWriter, h]

/-- A requester is itself in the world it acts in. -/
theorem acting_who (s : State) (w v : Writer) (h : s.acting w = some v) : v.who = w.who := by
  unfold State.acting at h
  rw [Option.map_eq_some_iff] at h
  obtain ⟨b, -, rfl⟩ := h
  rfl

theorem liftP_next (f : Perm → Dev → Dev) (s : State) : liftP f s = .next { s with dev := f s.perm s.dev } := rfl

end Sys2Proof.Machine
end

