-- ==== Sys2Proof/Laws/SCore.lean ====
section
/-! SUPPORT. What one instruction of an S-core does, said once: on an S-core before a legal instruction of the row's
opcode it is the row's action; on one that stands elsewhere, a fault or nothing. -/

namespace Sys2Proof.Machine

/-- No stop is pending: nothing to apply. -/
theorem applyStop_eq (d : Dev) (t n : Nat) (h : (d.core t n).stopPending = false) : d.applyStop t n = d := by
  simp [Dev.applyStop, h]

/-- The parts of standing before an instruction. -/
theorem before_iff (d : Dev) (t n op : Nat) :
    d.before t n op = true ↔
      d.halted = false ∧ (d.core t n).running = true ∧ (d.core t n).stopPending = false ∧
        (d.core t n).wait = .none ∧ (d.core t n).pc ≤ 4095 ∧ (d.fetchIns t n).legal = true ∧
          (d.fetchIns t n).op = op := by
  simp only [Dev.before, Bool.and_eq_true, Bool.not_eq_true', beq_iff_eq, decide_eq_true_eq, and_assoc]

/-- The row acts. -/
theorem execIns_before (d : Dev) (t n op : Nat) (act : Ins → Dev → Dev) (h : d.before t n op = true) :
    d.execIns t n op act = act (d.fetchIns t n) d := by
  obtain ⟨h1, h2, h3, h4, h5, h6, h7⟩ := (before_iff d t n op).mp h
  unfold Dev.execIns
  simp only [applyStop_eq d t n h3]
  rw [if_neg (by simp [Dev.coreReady, h1, h2, h4]), if_neg (by omega), if_neg (by simp [h6]), if_neg (by simp [h7])]

/-- The word is no legal instruction. -/
theorem execIns_illegal (d : Dev) (t n op : Nat) (act : Ins → Dev → Dev) (h1 : d.halted = false)
    (h2 : (d.core t n).running = true) (h3 : (d.core t n).stopPending = false) (h4 : (d.core t n).wait = .none)
    (h5 : (d.core t n).pc ≤ 4095) (h6 : (d.fetchIns t n).legal = false) :
    d.execIns t n op act = d.coreFault t n 0x01 (d.fetchIns t n).op 0 (d.core t n).pc := by
  unfold Dev.execIns
  simp only [applyStop_eq d t n h3]
  rw [if_neg (by simp [Dev.coreReady, h1, h2, h4]), if_neg (by omega), if_pos (by simp [h6])]
  rfl

/-- The program counter lies outside the store. -/
theorem execIns_outside (d : Dev) (t n op : Nat) (act : Ins → Dev → Dev) (h1 : d.halted = false)
    (h2 : (d.core t n).running = true) (h3 : (d.core t n).stopPending = false) (h4 : (d.core t n).wait = .none)
    (h5 : 4095 < (d.core t n).pc) : d.execIns t n op act = d.coreFault t n 0x03 0 0 (d.core t n).pc := by
  unfold Dev.execIns
  simp only [applyStop_eq d t n h3]
  rw [if_neg (by simp [Dev.coreReady, h1, h2, h4]), if_pos h5]

/-- The S-core does not run: the row does nothing. -/
theorem execIns_idle (d : Dev) (t n op : Nat) (act : Ins → Dev → Dev) (h3 : (d.core t n).stopPending = false)
    (h : d.coreReady t n = false) : d.execIns t n op act = d := by
  unfold Dev.execIns
  simp only [applyStop_eq d t n h3]
  rw [if_pos (by simp [h])]

end Sys2Proof.Machine
end

