-- ==== Sys2Proof/WellFormed.lean ====
section
/-! DEFINITION. The commands that name parts the module has: ports and links (R262, R263), arrays (R32), rings (R255),
die pairs (R13), memory channels, whole packets and groups, accesses that fit. exec is total on the others too. -/

namespace Sys2Proof

/-- A requester that exists: arrays 0 to 5, rings of the memory-side and I/O dies. -/
def Master.wf : Master → Bool
  | .score _ _ => true
  | .mover _ => true
  | .arrayPort _ a => decide (a.toNat < 6)
  | .forage _ => true
  | .vector _ => true
  | .pack _ => true
  | .ring d _ => decide (2 ≤ d.toNat)
  | .host => true
  | .debug => true
  | .lantern _ => true
  | .device _ => true

/-- Its writer exists. -/
def Writer.wf (w : Writer) : Bool := w.who.wf

/-- A write of at least one byte that does not pass the end of the address space. -/
def WAccess.wf (a : WAccess) : Bool :=
  a.by_.wf && decide (1 ≤ a.data.length) && decide (a.addr.toNat + a.data.length ≤ 2 ^ 64)

/-- A read of at least one byte that does not pass the end of the address space. -/
def RAccess.wf (a : RAccess) : Bool :=
  a.by_.wf && decide (1 ≤ a.len) && decide (a.addr.toNat + a.len ≤ 2 ^ 64)

/-- Of either kind. -/
def Access.wf : Access → Bool
  | .write a => a.wf
  | .read a => a.wf

/-- Bytes of an operation. -/
def PadOp.size : PadOp → Nat
  | .read n => n
  | .write bs => bs.length

/-- At least one byte. -/
def PadOp.wf (o : PadOp) : Bool := decide (1 ≤ o.size)

/-- A ring channel of a die that has them, or a tent mover (R255). -/
def MoverId.wf : MoverId → Bool
  | .tent _ => true
  | .ring d _ => decide (2 ≤ d.toNat)

/-- The payload has LEN bytes (R284). -/
def SbFrame.wf (f : SbFrame) : Bool := decide (f.payload.length = f.len.toNat)

/-- The routing header is whole (Table 9.4). -/
def RoutePkt.wf (p : RoutePkt) : Bool := decide (32 ≤ p.body.length)

/-- The channel, module or link exists. -/
def Recal.wf : Recal → Bool
  | .hbm ch => decide (ch.toNat < 384)
  | .lpddr ch => decide (ch.toNat < 96)
  | .ucie pair _ => decide (pair.toNat < 13)
  | .trail l => decide (l.toNat < 48)

/-- The command is well formed. -/
def Instr.wf (i : Instr) : Bool :=
  match i with
  | .registerWrite a => a.wf
  | .d2dFrameReceive pair _ _ f _ => decide (pair.toNat < 13) && f.flit.length == 64
  | .ucieLaneParityFail pair _ => decide (pair.toNat < 13)
  | .ucieRetrainDone pair _ _ => decide (pair.toNat < 13)
  | .linkUpTimeout port => decide (port.toNat < 24)
  | .shutdownTemperature _ => true
  | .arrangeWrite _ w _ => w.wf
  | .arrangeTakeEffect _ => true
  | .add _ _ => true
  | .sub _ _ => true
  | .and _ _ => true
  | .or _ _ => true
  | .xor _ _ => true
  | .sll _ _ => true
  | .srl _ _ => true
  | .sra _ _ => true
  | .slt _ _ => true
  | .sltu _ _ => true
  | .addi _ _ => true
  | .andi _ _ => true
  | .ori _ _ => true
  | .xori _ _ => true
  | .slli _ _ => true
  | .srli _ _ => true
  | .srai _ _ => true
  | .lih _ _ => true
  | .mul _ _ => true
  | .mulh _ _ => true
  | .mulhu _ _ => true
  | .beq _ _ => true
  | .bne _ _ => true
  | .blt _ _ => true
  | .bge _ _ => true
  | .bltu _ _ => true
  | .bgeu _ _ => true
  | .jal _ _ => true
  | .jr _ _ => true
  | .ld1 _ _ => true
  | .ld2 _ _ => true
  | .ld4 _ _ => true
  | .ld8 _ _ => true
  | .st1 _ _ => true
  | .st2 _ _ => true
  | .st4 _ _ => true
  | .st8 _ _ => true
  | .qpush _ _ => true
  | .queuePushAccept _ _ => true
  | .qfree _ _ => true
  | .psig _ _ => true
  | .pwait _ _ => true
  | .csrr _ _ => true
  | .fence _ _ => true
  | .fenceDone _ _ => true
  | .halt _ _ => true
  | .loadDataReturn _ _ => true
  | .runStart _ _ w => w.wf
  | .runStop _ _ w => w.wf
  | .instrStoreWrite _ _ w _ data => w.wf && decide (1 ≤ data.length)
  | .scratchpadAccess _ _ _ off op _ _ => op.wf && decide (off.toNat % 256 + op.size ≤ 256)
  | .meshPortAccess _ a _ => a.wf
  | .segWorldWrite _ w _ => w.wf
  | .segmentClearDone _ => true
  | .gbankWrite _ w _ => w.wf
  | .gbankTakeEffect _ => true
  | .transparentTestRow _ _ => true
  | .pass _ a => decide (a.toNat < 6)
  | .drain _ a => decide (a.toNat < 6)
  | .preload _ a => decide (a.toNat < 6)
  | .arrayClear _ a => decide (a.toNat < 6)
  | .arrayWait _ a => decide (a.toNat < 6)
  | .arrayNop _ a => decide (a.toNat < 6)
  | .arrayCommandComplete _ a _ => decide (a.toNat < 6)
  | .gather _ => true
  | .scatter _ => true
  | .scatterAdd _ => true
  | .merge _ => true
  | .intersect _ => true
  | .convert _ => true
  | .spprod _ => true
  | .feed _ => true
  | .forageNop _ => true
  | .forageWait _ => true
  | .forageCommandComplete _ => true
  | .scoutNop _ => true
  | .select _ => true
  | .audit _ => true
  | .step _ => true
  | .scoutCommandComplete _ => true
  | .vecLoad _ => true
  | .vecStore _ _ => true
  | .recipe _ _ => true
  | .vecReduce _ _ => true
  | .vecWait _ => true
  | .vecNop _ => true
  | .vecCommandComplete _ _ => true
  | .push _ => true
  | .pop _ => true
  | .drop _ => true
  | .packNop _ => true
  | .packWait _ => true
  | .packCommandComplete _ => true
  | .packSpill _ => true
  | .packRefill _ => true
  | .packGenClear => true
  | .packConfigWrite _ w _ _ => w.wf
  | .route _ => true
  | .dispatch _ => true
  | .answer _ => true
  | .dispatchPacketArrive p => p.wf
  | .answerArrive p => p.wf
  | .expertGenClear => true
  | .memoryRead a _ _ => a.wf
  | .memoryWrite a _ => a.wf
  | .memoryAccumulate a _ _ => a.wf
  | .memoryResponse who _ => who.wf
  | .rowRepairDone _ => true
  | .bankCopyDone _ => true
  | .scrub _ _ _ => true
  | .clearGo w => w.wf
  | .clearDone => true
  | .regionWrite w _ which _ => w.wf && decide (which.toNat < 3)
  | .regionLowerDone _ => true
  | .move m => m.wf
  | .fill m => m.wf
  | .moverNop m => m.wf
  | .moverWait _ => true
  | .moverCommandComplete m _ => m.wf
  | .tentAccumWrite a _ => a.wf
  | .ringDoorbell d _ w _ => decide (2 ≤ d.toNat) && w.wf
  | .ringCtlWrite d _ w _ _ => decide (2 ≤ d.toNat) && w.wf
  | .plotMovingReread m _ => m.wf
  | .plotBusyTimeout m _ => m.wf
  | .groupReceive l errs head slots => decide (l.toNat < 48) && (errs.length == 2 && errs.all fun n => decide (n ≤ 544)) && decide (head.length = 64) && (slots.length == 19 && slots.all fun x => x.length == 64)
  | .retrain port w => decide (port.toNat < 24) && w.wf
  | .retrainDone l _ => decide (l.toNat < 48)
  | .trailLaneFail l => decide (l.toNat < 48)
  | .packetTransit l pkt => decide (l.toNat < 48) && decide (32 ≤ pkt.length)
  | .qrel port w => decide (port.toNat < 24) && w.wf
  | .trailWrite l pkt => decide (l.toNat < 48) && decide (32 ≤ pkt.length)
  | .trailRead l pkt => decide (l.toNat < 48) && decide (32 ≤ pkt.length)
  | .rdata l pkt => decide (l.toNat < 48) && decide (32 ≤ pkt.length)
  | .compl l pkt => decide (l.toNat < 48) && decide (32 ≤ pkt.length)
  | .mcast l pkt => decide (l.toNat < 48) && decide (32 ≤ pkt.length)
  | .nak l pkt => decide (l.toNat < 48) && decide (32 ≤ pkt.length)
  | .mcBranchAbandon l => decide (l.toNat < 48)
  | .mcComplTimeout _ => true
  | .presence port f => decide (port.toNat < 24) && f.wf
  | .partnerAbsent port => decide (port.toNat < 24)
  | .wake port f => decide (port.toNat < 24) && f.wf
  | .violation port f => decide (port.toNat < 24) && f.wf
  | .sbRelease port f => decide (port.toNat < 24) && f.wf
  | .train port f => decide (port.toNat < 24) && f.wf
  | .recoverRsp port f => decide (port.toNat < 24) && f.wf
  | .hostBarAccess bar off op => op.wf && (bar != 7 ||
      decide (off.toNat + (match op with | .read n => n | .write bs => bs.length) ≤ 4096))
  | .doorbell _ => true
  | .relayTimeout _ => true
  | .functionLevelReset => true
  | .perstNDeassert => true
  | .pcieConfigRequest => true
  | .jobWrite w _ => w.wf
  | .cancel w => w.wf
  | .contextCancel => true
  | .reshard w => w.wf
  | .reshardComplete => true
  | .reshardDrainTimeout => true
  | .go _ w => w.wf
  | .reducePacket l pkt => decide (l.toNat < 48) && decide (32 ≤ pkt.length)
  | .openWaitTimeout _ => true
  | .progressTimeout _ => true
  | .submit _ => true
  | .hostCancel _ => true
  | .query _ => true
  | .loaded _ => true
  | .hostRelease _ => true
  | .hold _ => true
  | .jobStart => true
  | .strikeComplete => true
  | .jobComplete _ _ => true
  | .deadlineExpiry _ => true
  | .containedReplay _ => true
  | .deviceLoss _ => true
  | .pegSig w _ _ => w.wf
  | .pegSet w _ _ => w.wf
  | .pegWaitGrant _ _ => true
  | .pegIoWaitArm _ _ w _ => w.wf
  | .pegWaitEvent _ _ => true
  | .pegPacket l pkt => decide (l.toNat < 48) && decide (32 ≤ pkt.length)
  | .gylArrive _ w _ _ => w.wf
  | .guylineArrivalSend _ _ => true
  | .guylineCounterArrival _ => true
  | .guylineUp _ _ _ => true
  | .guylineDown _ _ _ => true
  | .guylineRelease _ _ => true
  | .guylineForcedRelease => true
  | .gylForce w _ => w.wf
  | .gylCountWrite w _ _ => w.wf
  | .gylMaskWrite w _ _ => w.wf
  | .wchCommit w _ => w.wf
  | .wchCommitApply _ => true
  | .wchModeWrite w _ _ => w.wf
  | .wchReqWrite w _ _ _ => w.wf
  | .quotaWindowReload _ => true
  | .eventGrant => true
  | .pllLockLoss _ _ => true
  | .refclkLoss => true
  | .refclkReturn => true
  | .droopTrip _ => true
  | .stretchLimit _ _ => true
  | .coldReset => true
  | .lifecycle => true
  | .debug => true
  | .ksvn => true
  | .cert => true
  | .kitSlotSwap => true
  | .blkWorldWrite _ w _ => w.wf
  | .blkWorldApply _ _ => true
  | .tamper => true
  | .heartbeat _ _ => true
  | .timeSync _ _ => true
  | .timeReply _ _ => true
  | .eventFwd _ _ => true
  | .cmd _ _ => true
  | .cmdRsp _ _ => true
  | .rstNAssert => true
  | .rstNRelease => true
  | .lanResetWarm w => w.wf
  | .softReset w => w.wf
  | .tentReset w _ => w.wf
  | .portReset port w => decide (port.toNat < 24) && w.wf
  | .tentEvacuation _ => true
  | .evacQuiesceTimeout => true
  | .bivEnter w => w.wf
  | .bivWake w => w.wf
  | .wakeN => true
  | .bivouacWakeDone => true
  | .handover w _ => w.wf
  | .recalibration part => part.wf
  | .watchdogFirst _ _ => true
  | .watchdogSecond _ _ => true
  | .heartbeatLoss => true
  | .recover port f => decide (port.toNat < 24) && f.wf
  | .recoverStatus port => decide (port.toNat < 24)
  | .resetLanternA port => decide (port.toNat < 24)
  | .resetLanternB port => decide (port.toNat < 24)
  | .recoverWarm port => decide (port.toNat < 24)
  | .recoverWake port => decide (port.toNat < 24)
  | .recoverLost port => decide (port.toNat < 24)
  | .recoverKit port => decide (port.toNat < 24)
  | .kitLoadFrame port f => decide (port.toNat < 24) && f.wf
  | .kitLoadTimeout => true
  | .standbyBasecampTakeover => true
  | .compassReport _ => true
  | .tempWarn _ _ => true
  | .clockGate _ blk => decide (blk.toNat < 14)
  | .memoryPowerDown ch => decide (ch.toNat < 480)
  | .laneIdleHalf l => decide (l.toNat < 48)
  | .smbusBlockRead _ => true
  | .alertClear => true
  | .powerDown => true
  | .inputUndervoltage => true
  | .presenceSend port => decide (port.toNat < 24)
  | .heartbeatSend => true
  | .mailboxLenWrite _ => true
  | .perstNAssert => true
  | .pcieHotReset => true
  | .stretchHoldoffEnd _ => true
  | .lanternRecoveryTimeout => true
  | .lostLanternReturn => true
  | .routerFailure r => decide (r.tent.toNat < 16640) && decide (r.net.toNat < 3)

/-- The same as a proposition. -/
abbrev Instr.WellFormed (i : Instr) : Prop := i.wf = true

end Sys2Proof
end

