-- ==== Sys2Proof/Tests/Slice0.lean ====
section
/-! SUPPORT. Tests: every check of WellFormed refuses an ill-formed command; for each statement, states and operands
that meet its hypotheses, clause by clause; worked effects of single commands, their expected values from the spec. -/

namespace Sys2Proof.Tests

open Sys2Proof Sys2Proof.Machine

-- one theorem is elaborated at a time, so that the kernel's evaluations do not add up in memory
set_option Elab.async false

/-! ### States -/

/-- The device after a command. -/
def after (i : Instr) (s : State) : Dev :=
  match exec i s with
  | .next t => t.dev
  | _ => {}

/-- A state of a device. -/
def on (d : Dev) : State := { dev := d }

/-- A form-R or form-I word of an S-core: opcode, d, a, imm16 (b in bits [15:11] of imm16). -/
def word (op d a imm : Nat) : Nat := op * 2 ^ 26 + d * 2 ^ 21 + a * 2 ^ 16 + imm

/-- Bytes in an otherwise empty memory. -/
def mem1 (a : Nat) (bs : List Byte) : List Host.Cell := putAll byte0 [] a bs

/-- S-core 1 of tent 5 runs before an instruction word, with its registers. -/
def core (w : Nat) (regs : List (Nat × Word)) : Dev :=
  { mem := mem1 (storeAddr 5 1 0) (leBytes 4 w), tents := [(5, { cores := [(1, { running := true, regs := regs })] })] }

/-- The same with other bytes in memory. -/
def coreWith (w : Nat) (regs : List (Nat × Word)) (a : Nat) (bs : List Byte) : Dev :=
  { core w regs with mem := putAll byte0 (core w regs).mem a bs }

/-- S-core 1 of tent 5 waits. -/
def waits (x : CoreWait) : Dev := { tents := [(5, { cores := [(1, { running := true, wait := x })] })] }

/-- A secure writer. -/
def sec : Writer := ⟨.lantern false, true⟩
/-- A non-secure one. -/
def non : Writer := ⟨.host, false⟩

/-- The default device with one tent changed. -/
def tent5 (x : Tent) : Dev := { tents := [(5, x)] }

/-- Device with arrangement k in force in tent 5. -/
def arranged (k : Nat) : Dev := ({} : Dev).setRegF (cfgAddr 5) 0 3 k

/-- Tent 15 is a member of guyline 5. -/
def member : Dev := ({} : Dev).setReg (rowMaskAddr 5 0) 0x8020

/-- An event of a source. -/
def event (src : Nat) : Event :=
  { src := src, cls := 0, code := 0x101, unit := 5, ident := 0, gen := 0, time := 0, detail := 0 }

/-- Lantern A active. -/
def running : Dev := { power := .on, pwrGood := true, lanA := { role := .active, kitOk := true }, kitApplied := true }

/-- A read by the host. -/
def readBy (w : Writer) (a n : Nat) : RAccess := ⟨w, BitVec.ofNat 64 a, n⟩

/-- A write. -/
def writeBy (w : Writer) (a : Nat) (bs : List Byte) : WAccess := ⟨w, BitVec.ofNat 64 a, bs⟩

/-- A 32-byte command from its fields: first bit and value. -/
def cmd (fs : List (Nat × Nat)) : Cmd := BitVec.ofNat 256 ((fs.map fun p => p.2 * 2 ^ p.1).sum)

/-- A command at the head of a queue of tent 5, with bytes of memory. -/
def queued (q : Nat) (c : Cmd) (mem : List (Nat × List Byte) := []) : Dev :=
  { tents := [(5, { queues := [(q, { entries := [c] })] })]
    mem := mem.foldl (fun m p => putAll byte0 m p.1 p.2) [] }

/-- A command in flight in a queue of tent 5. -/
def flying (q : Nat) (i : Issued) : Dev := tent5 { queues := [(q, { flight := [i] })] }

/-- Six 32-bit numbers. -/
def six (xs : List Nat) : List Byte := (List.range 6).flatMap fun k => leBytes 4 (xs.getD k 0)

/-- A descriptor of an operand in the scratchpad of tent 5 (Table 11.1): offset, FMT with FORM, layout, byte 10. -/
def desc (off fmt layout b10 : Nat) (dims strides : List Nat) (md : Nat := 0) : List Byte :=
  leBytes 8 (tentMem 5 off) ++ leBytes 1 fmt ++ leBytes 1 layout ++ leBytes 1 b10 ++ leBytes 1 0 ++ leBytes 4 md ++
    six dims ++ six strides

/-- The offset of descriptor k in the scratchpad of tent 5. -/
def descAt (k : Nat) : Nat := tentMem 5 (64 * k)

/-- A Forage command with its operands A, B, C and X at descriptors 0 to 3. -/
def forage (op extra : Nat) (a b c x : List Byte) : Dev :=
  queued 6 (cmd [(0, op), (32, 0), (64, 64 * b2n (op == 3 || op == 4 || op == 6)), (96, 128),
    (128, 192 * b2n (op == 1 || op == 2 || op == 7)), (160, extra)])
    [(descAt 0, a), (descAt 1, b), (descAt 2, c), (descAt 3, x), (tentMem 5 0x1000, [1, 2, 3, 4, 5, 6, 7, 8])]

/-- One Forage command of each row. -/
def forageOf (op : Nat) (accum : Bool) : Dev :=
  let fp32 (off n : Nat) (acc : Nat) := desc off 0 0 (1 + 32 * acc) [n] [1]
  let list := desc 0x1200 0x8C 0 1 [1] [1]
  match op with
  | 1 => forage 1 0 (fp32 0x1000 2 0) [] (fp32 0x1100 1 0) (desc 0x1200 12 0 1 [1] [1])
  | 2 => forage 2 0 (fp32 0x1000 1 0) [] (fp32 0x1100 2 (b2n accum)) (desc 0x1200 12 0 1 [1] [1])
  | 3 => forage 3 0 (fp32 0x1000 2 0) (fp32 0x1100 2 0) (desc 0x1300 0x10 0 1 [2] [] 0x400) list
  | 4 => forage 4 0 (fp32 0x1000 2 0) (fp32 0x1100 2 0) (desc 0x1300 0x10 0 1 [2] [] 0x400) list
  | 5 => forage 5 0 (fp32 0x1000 2 0) [] (desc 0x1300 0x10 0 1 [2] [] 0x400) list
  | 6 => forage 6 0 (desc 0x1000 3 0 2 [8, 1] [1, 8]) (desc 0x1100 3 0 2 [8, 1] [1, 8]) (desc 0x1300 0 0 2 [1, 1] [1, 1]) list
  | _ => forage 7 1 (desc 0x1000 3 0 2 [8, 1] [1, 8]) [] (desc 0x1300 3 2 2 [8, 1] []) (desc 0x1200 12 0 1 [1] [1])

/-- A command runs in the selector of tent 5. -/
def selecting (c : Cmd) (mem : List (Nat × List Byte)) : Dev :=
  { tents := [(5, { sel := { running := some c } })], mem := mem.foldl (fun m p => putAll byte0 m p.1 p.2) [] }

/-- A selector command with scores of 4 blocks by one column (Table 6.3), a list L and a set U. -/
def scout (op slot : Nat) : Dev :=
  selecting (cmd [(0, op), (32, 0), (64, 64), (96, 128 * b2n (op == 1)), (160, 1), (168, slot), (176, 2)])
    [(descAt 0, desc 0x1000 0 0 2 [4, 1] [1, 4]), (descAt 1, desc 0x1100 0x8C 0 2 [2, 1] [1, 2]),
      (descAt 2, desc 0x1200 0x8C 0 1 [4] [1])]

/-- A LOAD of eight BITS, a STORE of one FP32 element, a RECIPE without steps, a REDUCE of two elements. -/
def vector (op : Nat) : Dev :=
  match op with
  | 1 => queued 7 (cmd [(0, 1), (32, 8), (96, 7), (112, 31), (126, 1)])
  | 2 => queued 7 (cmd [(0, 2), (32, 64), (112, 31)]) [(descAt 1, desc 0x1000 0 0 1 [1] [1])]
  | 3 => queued 7 (cmd [(0, 3), (40, 1), (56, 1)])
  | _ => queued 7 (cmd [(0, 4), (40, 1), (56, 1), (72, 1), (88, 2)])

/-- Array 0 of tent 5 before a command; the arrangement at reset gives it 16 lanes. -/
def arrayCmd (c : Cmd) : Dev := queued 0 c [(tentMem 5 0, List.replicate 16 2)]

/-- An INT8 PASS of one vector into entry 63, a DRAIN of it to FP32, a PRELOAD of one lane. -/
def arrayOf (op : Nat) : Dev :=
  match op with
  | 1 => arrayCmd (cmd [(0, 1), (32, 8), (36, 8), (48, 63), (64, 0)])
  | 2 => arrayCmd (cmd [(0, 2), (48, 63), (64, 0x1000)])
  | _ => arrayCmd (cmd [(0, 3), (48, 63), (64, 0x1000)])

/-- The command at the front of a queue of tent 5. -/
def front (d : Dev) (q : Nat) : Cmd := (d.queue 5 q).entries.headD 0

/-- What the descriptor reads of a Forage command give. -/
def descsOf (c : Cmd) (d : Dev) : List Byte :=
  match (forDescs 5 c).run { dev := d } with
  | (.ok ds, _) => ds
  | _ => []

/-- An engine's read that gives these bytes and leaves the device as it finds it. -/
def reads (w : Eng (List Byte)) (d : Dev) (bs : List Byte) : Bool :=
  match w.run { dev := d } with
  | (.ok xs, x) => decide (xs = bs) && decide (x.dev = d) && decide (x.flags = 0) && decide (x.stage = []) &&
      decide (x.out = []) && decide (x.acks = []) && decide (x.pend = none)
  | _ => false

/-- A WAIT of n = 1 on peg 63 and a NOP, as each queue encodes them. -/
def waitCmd (op : Nat) : Cmd := cmd [(0, op), (8, 63), (32, 1)]

/-- A PUSH, POP or DROP of a frame of ID 7 with one part of 64 bytes at 0x1000 (Table 8.4). -/
def pckCmd (op : Nat) : Cmd := cmd [(0, op), (32, 7), (64, 0x1000), (96, 64)]

/-- The same of a device whose pack engines are on: parts of 1 MiB per tent, HIGH 15 and LOW 1. -/
def pckOn (d : Dev) : Dev :=
  ((d.setReg (pckReg 2 0) (1 + 15 * 2 + 1 * 32)).setReg (pckReg 2 4) 0x0101).setReg (pckReg 2 0x10) lpBase

/-- Frames on the stack of tent 5, a command at the head of its pack queue, the stack's header bytes. -/
def packed (op : Nat) (frames : List Frame) (hdr : List Byte) : Dev :=
  { tents := [(5, { stack := { frames := frames }, queues := [(9, { entries := [pckCmd op] })] })]
    mem := mem1 (5 * 2 ^ 20) hdr }

/-- The header of frame 0 for that command, with nothing else set. -/
def hdr0 : List Byte := ({} : Dev).frameHdr (pckCmd 2) 0

/-- A frame of 128 bytes at the bottom of the HBM part, or of the LPDDR part. -/
def frame (spilled : Bool) : Frame := ⟨0, 128, spilled⟩

/-- Directory entry of expert 0: valid, device 0, tent 5, one slot, its region at 0x8000, pieces of 16 bytes. -/
def dir0 : List Byte := leBytes 16 (2 ^ 15 + 5 * 2 ^ 16 + 1 * 2 ^ 48 + 0x8000 * 2 ^ 64 + 16 * 2 ^ 96)

/-- A routing command at the head of queue 8. -/
def routing (fs : List (Nat × Nat)) (mem : List (Nat × List Byte)) : Dev := queued 8 (cmd fs) ((0, dir0) :: mem)

/-- ROUTE of one token among one expert, DISPATCH of its choice, ANSWER of the expert's slots. -/
def routeOf (op : Nat) : Dev :=
  match op with
  | 0xC => routing [(0, 0xC), (32, 0), (64, 0x2000), (96, 0x3F00_0000)]
      [(descAt 0, desc 0x1000 0 0 2 [1, 1] [1, 1]), (tentMem 5 0x1000, leBytes 4 0x3F80_0000)]
  | 0xD => routing [(0, 0xD), (32, 0x2000), (64, 64), (96, 0x3000)]
      [(descAt 1, desc 0x1000 0 0 2 [4, 1] [1, 4]), (tentMem 5 0x2000, leBytes 8 (2 ^ 30 + 0x3F80_0000 * 2 ^ 32))]
  | _ => routing [(0, 0xE), (32, 0), (64, 64)] [(descAt 1, desc 0x1000 0 0 2 [4, 1] [1, 4])]

/-- A routing packet of this device to tent 5, of a KIND, JOB, GEN and EPOCH. -/
def packet (kind job gen epoch : Nat) : RoutePkt :=
  { t := 5, src := 0, tid := 0, secure := false
    body := ({ kind := kind, back := false, grp := 0, rank := 0, fmt := 0, expert := 0, job := job, epoch := epoch,
               gen := gen, slot := 0, piece := 0, token := 0, ret := tentMem 5 0x3000, len := 16,
               reserved := false } : RHdr).bytes ++ List.replicate 16 7 }

/-- Combine group 0 of tent 5 open, with n answers expected. -/
def groupOpen (n : Nat) : Dev :=
  (tent5 { groups := [(0, { off := 0x3000, nt := 1, k := 1, pb := 16, tbase := 0 })] }).setReg (grpAddr 5 0)
    (n + 2 ^ 42)

/-- Region 63 of the memory map: its range and its control bits. -/
def region (lo hi ctl : Nat) : Dev :=
  ((({} : Dev).setReg (rgnAddr 63) lo).setReg (rgnAddr 63 + 8) hi).setReg (rgnAddr 63 + 0x10) ctl

/-- The bounds of a fast clear. -/
def clearing (d : Dev) (lo hi : Nat) : Dev := (d.setReg clearAddr lo).setReg (clearAddr + 8) hi

/-- A FILL of four bytes and a MOVE of them in tent 5. -/
def moverOf (op : Nat) : Dev :=
  queued 8 (cmd [(0, op), (32, 0), (64, 64)])
    [(descAt 0, desc 0x1000 0 0 1 [1] [1]), (descAt 1, desc 0x1100 0 0 1 [1] [1])]

/-- Ring channel 15 of die 7 before a command whose ring lies at 0x10000 of the HBM. -/
def ringOf (op : Nat) : Dev :=
  let ds := desc 0x1000 0 0 1 [1] [1] ++ desc 0x1100 0 0 1 [1] [1]
  let d : Dev := { mem := putAll byte0 (mem1 0x1_0000 [BitVec.ofNat 8 op]) (0x1_0000 + 32) ds }
  ((d.setReg (ringReg 7 15 0) 0x1_0000).setReg (ringReg 7 15 8) (1 + 4 * 2)).setReg (ringReg 7 15 0x10) 1

/-- The state of a link. -/
def linkAt (d : Dev) (l st : Nat) : Dev := d.setRegF (linkStatus l) 0 3 st

/-- Link 47 in a state, its other part changed. -/
def link47 (st : Nat) (x : Link := {}) : Dev :=
  linkAt ((({ links := [(47, x)] } : Dev)).setReg (portReg 47 0) 0xFFFF_FFFF) 47 st

/-- A head whose checksum holds: SEQ and flags, the body checksum of the group before it. -/
def groupHead (seq crc : Nat) : List Byte :=
  let h := leBytes 2 seq ++ List.replicate 54 0 ++ leBytes 4 crc
  h ++ leBytes 4 (crc32c h)

/-- A group that link 47 holds. -/
def heldGroup (seq : Nat) (good : Bool) : HeldGroup := ⟨seq, good, [], 9⟩

/-- A packet of a type on a VC, addressed to an offset of a device, with AUX, ARG and tag. -/
def pkt (typ vc dev dest : Nat) (aux : Nat := 0) (arg : Nat := 0) (tid : Nat := 0) (body : List Byte := [])
    (job : Nat := 0) (gen : Nat := 0) : List Byte :=
  mkPkt { typ := typ, vc := vc, dest := dest + dev * 2 ^ 48, aux := aux, arg := arg, tid := tid, job := job, gen := gen }
    body

/-- A packet of a link's own VC is well formed. -/
def fine (p : List Byte) : Bool := !hdrBad (hdrOf p).vc p

/-- A sideband frame of a type. -/
def sb (typ : Nat) (body : List Byte := []) (ok : Bool := true) : SbFrame :=
  ⟨BitVec.ofNat 8 typ, BitVec.ofNat 8 body.length, 0, body, ok⟩

/-- A tag of this device and who waits for its answer. -/
def tagged (tid : Nat) (o : Owner) (d : Dev := {}) : Dev := { d with tids := [(tid, o)] }

/-- A host port out of reset with its link up, the kit applied. -/
def hostUp (h : HostPort := {}) (d : Dev := running) : Dev := { d with host := { h with perst := false } }.pcieUp

/-- Every module of every die pair is out. -/
def noPairs : Dev :=
  { ucie := (List.range 13).flatMap fun p => (List.range (pairModules p)).map fun m => (p * 32 + m, { out := true }) }

/-- Module 7 of the last pair is the only one that works. -/
def oneModule (x : Module := {}) : Dev := { ucie := ((List.range 7).map fun m => (12 * 32 + m, { out := true })) ++ [(12 * 32 + 7, x)] }

/-- A frame of a flit for an address. -/
def dieFrame (a : Nat) : DieFrame := ⟨BitVec.ofNat 64 a, true, List.replicate 64 1⟩

/-- A relayed read and a relayed write. -/
def relay (write : Bool) : Relay := ⟨65535, write, 0, 4⟩

/-- Context 63 in a state, with what it has taken. -/
def ctx63 (st : Nat) (x : Ctx := {}) (d : Dev := {}) : Dev :=
  ({ d with ctxs := [(63, x)] }.setReg (ctxReg 63 8) 1).setCtxState 63 st

/-- A descriptor of a tensor in HBM (Table 11.1): base, DIM[0], META_OFF. -/
def tensor (base n md : Nat) : List Byte :=
  leBytes 8 (2 ^ 58 + base) ++ leBytes 1 10 ++ leBytes 1 0 ++ leBytes 1 1 ++ leBytes 1 0 ++ leBytes 4 md ++
    six [n] ++ six [1]

/-- Context 63 of one member, its descriptors at 0x1000 and 0x1040, one element. -/
def alone : Dev :=
  let d := ctx63 0 {} { mem := mem1 0x1000 (tensor 0x2000 1 0x100 ++ tensor 0x3000 1 0x100) }
  (((((d.setReg (ctxReg 63 0x10) 0x1000).setReg (ctxReg 63 0x18) 0x1040).setReg (ctxReg 63 0x20) 0x4010).setReg
    (ctxReg 63 0x28) 0x4020).setReg (ctxReg 63 0x30) 0x4000).setReg (ctxReg 63 0x38) 0x4040

/-- A REDUCE packet for context 63: phase, step, sender, blocks, body. -/
def redPkt (phase step from_ nb : Nat) (body : List Byte) (job : Nat := 0) (gen : Nat := 0) (epoch : Nat := 0) :
    List Byte :=
  mkPkt { typ := 7, vc := 1, job := job, gen := gen, epoch := epoch }
    (leBytes 32 (63 + phase * 2 ^ 8 + 3 * 2 ^ 11 + nb * 2 ^ 16 + step * 2 ^ 32 + from_ * 2 ^ 96) ++ body)

/-- A basecamp with an active Lantern. -/
def base : Dev := { running with role := 1 }

/-- A job of a number in a state. -/
def job (num state : Nat) (devices : List Nat := []) : Job :=
  { ref := 77, mbox := 127, seq := 1, manifest := [], image := [], num := num, state := state, devices := devices }

/-- A message of a type in mailbox 127, with its doorbell rung. -/
def mailed (typ : Nat) (body : List Byte := []) (q : Quarter := {}) : Dev :=
  let msg := leBytes 2 typ ++ leBytes 2 0 ++ leBytes 4 5 ++ leBytes 4 77 ++ body
  let d : Dev := { base with qm := { q with rung := [127] } }
  ({ d with host := { d.host with mail := putAll byte0 [] (0x1000 * 127) msg } }).setMailLen 127 80

/-- A signed command of a TYPE with a payload, and life-cycle code. -/
def blobOf (typ : Nat) (payload : List Byte) (dst : Nat := 0) : List Byte :=
  leBytes 4 0x4443_4E4C ++ leBytes 1 typ ++ leBytes 1 0 ++ leBytes 2 payload.length ++ leBytes 8 0 ++
    List.replicate 32 0 ++ leBytes 1 dst ++ List.replicate 15 0 ++ payload ++ List.replicate sigLen 0

/-- Lantern A holds a signed command. -/
def busyWith (blob : List Byte) : Dev := { running with lanA := { running.lanA with busy := some blob } }

/-- A standby Lantern beside the active one. -/
def pair : Dev := { running with lanB := { role := .standby } }

/-- A recovery command of an action that its port 23 has brought. -/
def recover (action : Nat) : List Byte := leBytes 1 action ++ List.replicate 63 0

/-- A device whose responder has it ready. -/
def ready (action : Nat) : Dev := { running with resp := { ready := some (23, recover action) } }

/-! ### Well-formed commands -/

/-- A port, a link, an array, a block or a channel that the module does not have. -/
theorem wf_refuses_parts :
    ∀ i ∈ [Instr.linkUpTimeout 24, .retrain 24 sec, .presenceSend 31, .retrainDone 48 true, .laneIdleHalf 63,
        .packetTransit 48 (List.replicate 32 0), .pass 5 6, .arrayCommandComplete 5 7 0, .clockGate 5 14,
        .memoryPowerDown 480, .ucieLaneParityFail 13 ⟨0, 63⟩, .ucieRetrainDone 13 0 true, .routerFailure ⟨16640, 0⟩,
        .routerFailure ⟨0, 3⟩, .portReset 24 sec, .regionWrite sec 0 3 0, .recalibration (.hbm 384),
        .recalibration (.lpddr 96), .recalibration (.ucie 13 0), .recalibration (.trail 48)], i.wf = false := by
  decide +kernel

/-- A requester, a ring or a mover of a die without rings. -/
theorem wf_refuses_rings :
    ∀ i ∈ [Instr.memoryResponse (.arrayPort 5 6) 0, .memoryResponse (.ring 1 0) 0, .jobWrite ⟨.ring 0 0, true⟩ 1,
        .moverNop (.ring 1 15), .ringDoorbell 1 0 sec 0, .ringCtlWrite 0 0 sec 0 0], i.wf = false := by
  decide +kernel

/-- An access of no bytes, or past the end of the address space; an operation of no bytes, or past its row. -/
theorem wf_refuses_accesses :
    ∀ i ∈ [Instr.registerWrite ⟨sec, 0, []⟩, .registerWrite ⟨sec, BitVec.ofNat 64 (2 ^ 64 - 1), [1, 2]⟩,
        .memoryRead ⟨sec, 0, 0⟩ [] [], .memoryRead ⟨sec, BitVec.ofNat 64 (2 ^ 64 - 8), 9⟩ [] [],
        .meshPortAccess 5 (.read ⟨sec, 0, 0⟩) [], .meshPortAccess 5 (.write ⟨sec, 0, []⟩) [],
        .hostBarAccess 0 0 (.write []), .hostBarAccess 0 0 (.read 0), .hostBarAccess 7 0 (.read 0),
        .hostBarAccess 7 4095 (.read 2), .hostBarAccess 7 4094 (.write [1, 2, 3]), .instrStoreWrite 5 1 sec 0 [],
        .scratchpadAccess 5 3 false 255 (.read 2) [] []], i.wf = false := by
  decide +kernel

/-- A frame whose payload is not of LEN bytes, a flit that is not of 64, packets without a whole header, a group of the
wrong size, or without two codewords of 544 symbols. -/
theorem wf_refuses_packets :
    ∀ i ∈ [Instr.presence 0 ⟨1, 2, 0, [0], true⟩, .packetTransit 0 (List.replicate 31 0),
        .reducePacket 0 [], .dispatchPacketArrive ⟨5, 0, 0, false, List.replicate 31 0⟩,
        .d2dFrameReceive 12 true 0 ⟨0, true, List.replicate 63 0⟩ true,
        .d2dFrameReceive 13 true 0 ⟨0, true, List.replicate 64 0⟩ true,
        .groupReceive 0 [0, 0] (List.replicate 63 0) (List.replicate 19 (List.replicate 64 0)),
        .groupReceive 0 [0, 0] (List.replicate 64 0) (List.replicate 18 (List.replicate 64 0)),
        .groupReceive 0 [0, 0] (List.replicate 64 0) (List.replicate 19 (List.replicate 63 0)),
        .groupReceive 0 [0] (List.replicate 64 0) (List.replicate 19 (List.replicate 64 0)),
        .groupReceive 0 [0, 545] (List.replicate 64 0) (List.replicate 19 (List.replicate 64 0))], i.wf = false := by
  decide +kernel

/-- The same at the ends of their ranges are well formed. -/
theorem wf_accepts :
    ∀ i ∈ [Instr.linkUpTimeout 23, .retrainDone 47 true, .pass 5 5, .clockGate 5 13, .memoryPowerDown 479,
        .ucieLaneParityFail 12 ⟨0, 63⟩, .routerFailure ⟨16639, 2⟩, .hostBarAccess 7 4094 (.read 2),
        .d2dFrameReceive 12 true 0 ⟨0, true, List.replicate 64 0⟩ true, .regionWrite sec 0 2 0, .recalibration (.hbm 383), .moverNop (.ring 2 15),
        .registerWrite ⟨sec, BitVec.ofNat 64 (2 ^ 64 - 1), [1]⟩, .hostBarAccess 0 0 (.read 1),
        .scratchpadAccess 5 3 false 254 (.read 2) [] [], .presence 23 ⟨1, 1, 0, [0], true⟩,
        .packetTransit 47 (List.replicate 32 0),
        .groupReceive 47 [0, 544] (List.replicate 64 0) (List.replicate 19 (List.replicate 64 0))], i.wf = true := by
  decide +kernel

/-! ### Worlds -/

/-- A Lantern's access carries its own world, the host's is non-secure, in every state. -/
theorem witness_acting (s : State) : s.acting sec = some sec ∧ s.acting non = some non ∧ sec.secure = true ∧
    non.secure = false ∧ s.acting sec ≠ none :=
  ⟨rfl, rfl, rfl, rfl, by simp [State.acting, worldOf, sec]⟩

/-! ### S-cores -/

theorem witness_ScoreArithmetic_register :
    ∀ r ∈ scoreRegisterRows, (core (word r.2.1 3 1 (2 * 2 ^ 11)) [(1, 7), (2, 3)]).before 5 1 r.2.1 = true := by
  decide +kernel

theorem witness_ScoreArithmetic_immediate :
    (∀ r ∈ scoreImmediateRows, (core (word r.2.1 3 1 63) [(1, 7)]).before 5 1 r.2.1 = true) ∧
      (core (word 0x12 3 0 0xFFFF) [(3, 1)]).before 5 1 0x12 = true := by
  decide +kernel

theorem witness_ScoreBranchesAndJumps :
    (∀ r ∈ scoreBranchRows, (core (word r.2.1 1 2 0xFFFF) [(1, 7)]).before 5 1 r.2.1 = true) ∧
      (core (word 0x1C 31 0 0x8000) []).before 5 1 0x1C = true ∧
      (core (word 0x1D 1 1 0) [(1, 7)]).before 5 1 0x1D = true := by
  decide +kernel

/-- Own scratchpad, its last aligned word; a misaligned address; an unmapped one; HBM. -/
theorem witness_ScoreStores :
    ∀ r ∈ scoreStoreRows,
      (let d := core (word r.2.1 2 1 0) [(1, BitVec.ofNat 64 (tentMem 5 0x17FF8))]
       d.before 5 1 r.2.1 = true ∧ d.place (tentMem 5 0x17FF8) = .here (tentMem 5 0x17FF8) ∧
         tentMem 5 0x17FF8 % r.2.2 = 0 ∧ d.touchesSecure 5 0x17FF8 r.2.2 = false ∧
         d.touchesClearing 5 0x17FF8 r.2.2 = false ∧ d.quiet (tentMem 5 0x17FF8) r.2.2 = true ∧
         d.blockedBy (tentMem 5 0x17FF8) r.2.2 = []) ∧
      (let d := core (word r.2.1 2 1 0xFFFF) [(1, 2)]
       d.before 5 1 r.2.1 = true ∧ (r.2.2 ≠ 1 → 1 % r.2.2 ≠ 0)) ∧
      (let d := core (word r.2.1 2 1 0) [(1, BitVec.ofNat 64 hbmEnd)]
       d.before 5 1 r.2.1 = true ∧ hbmEnd % r.2.2 = 0 ∧ d.place hbmEnd = .bad) ∧
      (let d := core (word r.2.1 2 1 0) [(1, 64)]
       d.before 5 1 r.2.1 = true ∧ 64 % r.2.2 = 0 ∧ d.place 64 = .here 64 ∧
         ownTent 5 64 = false) := by
  decide +kernel

theorem witness_ScoreLoads :
    (∀ r ∈ scoreLoadRows,
      (let d := core (word r.2.1 2 1 0) [(1, BitVec.ofNat 64 (tentMem 5 0x17FF8))]
       d.before 5 1 r.2.1 = true ∧ d.place (tentMem 5 0x17FF8) = .here (tentMem 5 0x17FF8) ∧
         ownTent 5 (tentMem 5 0x17FF8) = true ∧ d.heldHere (tentMem 5 0x17FF8) r.2.2 = false ∧
         (d.readHere {} (d.coreWriter 5 1) (tentMem 5 0x17FF8) r.2.2).1.status = 0) ∧
      (let d : Dev := { core (word r.2.1 2 1 0) [(1, BitVec.ofNat 64 (tentMem 5 0x17FF8))] with
          bad := [tentMem 5 0x17FF0] }
       (d.readHere {} (d.coreWriter 5 1) (tentMem 5 0x17FF8) r.2.2).1.status ≠ 0) ∧
      (let d := core (word r.2.1 2 1 0) [(1, BitVec.ofNat 64 hbmEnd)]
       d.before 5 1 r.2.1 = true ∧ d.place hbmEnd = .bad) ∧
      (let d := core (word r.2.1 2 1 0) [(1, 64)]
       d.before 5 1 r.2.1 = true ∧ d.place 64 = .here 64 ∧ ownTent 5 64 = false) ∧
      (r.2.2 ≠ 1 → (65 : Nat) % r.2.2 ≠ 0)) ∧
    (∀ st ∈ [0, 4], (waits (.load 2 8 64 (some ⟨st, leBytes 8 9⟩))).halted = false ∧
      ((waits (.load 2 8 64 (some ⟨st, leBytes 8 9⟩))).core 5 1).stopPending = false ∧
      ((waits (.load 2 8 64 (some ⟨st, leBytes 8 9⟩))).core 5 1).wait = .load 2 8 64 (some ⟨st, leBytes 8 9⟩)) ∧
    (core (word 0x30 0 0 0) []).before 5 1 0x30 = true ∧
    (let x : Store := { seq := 0, t := 5, core := 1, secure := false, addr := 64, data := [1] }
     let d : Dev := { core (word 0x30 0 0 0) [] with stores := [x] }
     d.before 5 1 0x30 = true ∧ x ∈ d.stores ∧ x.t = 5 ∧ x.core = 1) ∧
    ((waits .fence).core 5 1).wait = .fence := by
  decide +kernel

/-- Queue 0 with room; full, so that the push stalls; the same command waiting. -/
theorem witness_ScoreQueuesPegsHalt :
    (let d := core (word 0x28 0 4 0) []
     d.before 5 1 0x28 = true ∧ d.pushStalls 5 0 (d.pushed 5 1 4) = false ∧ d.pushDiscards 5 0 = false ∧
       pushCause 0 (d.pushed 5 1 4) = 0) ∧
    (let d := (core (word 0x28 0 4 0) []).modQueue 5 0 fun x => { x with entries := List.replicate 32 0 }
     d.before 5 1 0x28 = true ∧ d.pushStalls 5 0 (d.pushed 5 1 4) = true ∧ d.pushDiscards 5 0 = false) ∧
    (let d := waits (.push 0 0)
     d.halted = false ∧ (d.core 5 1).stopPending = false ∧ (d.core 5 1).wait = .push 0 0 ∧
       d.pushStalls 5 0 0 = false ∧ d.pushDiscards 5 0 = false ∧ pushCause 0 0 = 0) ∧
    (core (word 0x29 3 9 0) []).before 5 1 0x29 = true ∧
    (core (word 0x2A 0 1 63) [(1, 5)]).before 5 1 0x2A = true ∧
    (∀ k ∈ ([0, 1, 65535, 65536] : List Nat),
      (core (word 0x2B 0 1 63) [(1, BitVec.ofNat 64 k)]).before 5 1 0x2B = true ∧
        ((core (word 0x2B 0 1 63) [(1, BitVec.ofNat 64 k)]).sreg 5 1 1).toNat = k) ∧
    (∀ m ∈ List.range 6, (core (word 0x2C 3 0 m) []).before 5 1 0x2C = true ∧
      ((core (word 0x2C 3 0 m) []).fetchIns 5 1).imm = m) ∧
    (core (word 0x3F 0 0 0) []).before 5 1 0x3F = true ∧
    ((core (word 0x3F 0 0 0) []).setReg (ctlAddr 5 1) 8).regF (ctlAddr 5 1) 3 1 = 1 := by
  decide +kernel

theorem witness_ScoreFaultsAndControl :
    (let d := core 0 []
     d.halted = false ∧ (d.core 5 1).running = true ∧ (d.core 5 1).stopPending = false ∧ (d.core 5 1).wait = .none ∧
       (d.core 5 1).pc ≤ 4095 ∧ (d.fetchIns 5 1).legal = false) ∧
    (let d : Dev := { tents := [(5, { cores := [(1, { running := true, pc := 4096 })] })] }
     (d.core 5 1).running = true ∧ (d.core 5 1).wait = .none ∧ 4095 < (d.core 5 1).pc) ∧
    (({} : Dev).blkSecure 5 1 = false ∧ (({} : Dev).core 5 1).running = false) ∧
    ((core 0 []).blkSecure 5 1 = false ∧ ((core 0 []).core 5 1).running = true) ∧
    (non.secure = false ∧ (({} : Dev).setReg (tentReg 5 0x18) 2).blkSecure 5 1 = true) := by
  decide +kernel

/-! ### Tents, pegs, guylines, watch tables, clocks, UCIe -/

theorem witness_ArrangementAndGradientBank :
    (∀ v ∈ [0, 1, 2, 4, 7], bitAt v 8 = false) ∧ (arranged 1).arrange 5 = 1 ∧
    ((tent5 { pendArr := some 2 }).tent 5).pendArr = some 2 ∧
    (∀ q ∈ (tent5 { pendArr := some 2 }).arrays 5, (tent5 { pendArr := some 2 }).queueIdle 5 q = true) ∧
    (arranged 1).bwArray 5 = none ∧ (arranged 0).bwArray 5 = some 2 ∧
    ((tent5 { pendGb := some 6 }).tent 5).pendGb = some 6 ∧
    (∀ q ∈ [2], (tent5 { pendGb := some 6 }).bwArray 5 = some q → (tent5 { pendGb := some 6 }).queueIdle 5 q = true) := by
  decide +kernel

theorem witness_SegmentAndBlockWorlds :
    sec.secure = true ∧ non.secure = false ∧ ((tent5 { segClear := [11, 0] }).tent 5).segClear = 11 :: [0] ∧
    255 % 256 ≠ ({} : Dev).regF (tentReg 5 0x18) 0 8 ∧
    (∀ b ∈ List.range 8,
      ((tent5 { pendBlk := some 255 }).tent 5).pendBlk = some 255 ∧
        bitAt 255 b ≠ (tent5 { pendBlk := some 255 }).blkSecure 5 b ∧
        (if b = 4 then (tent5 { pendBlk := some 255 }).queueIdle 5 8
          else (tent5 { pendBlk := some 255 }).blkIdle 5 b) = true) := by
  decide +kernel

/-- The whole last row of the scratchpad; a secure segment; the last word through the mesh port; the test of row 383,
with a spare left. -/
theorem witness_ScratchpadMeshTestRouter :
    (∀ d ∈ [tent5 {}], (0x17F00 % 256 + 256 ≤ 256) ∧ 0x17F00 + 256 ≤ 0x1_8000 ∧
      d.touchesClearing 5 0x17F00 256 = false ∧ d.touchesSecure 5 0x17F00 256 = false ∧
      d.quiet (tentMem 5 0x17F00) 256 = true ∧ d.badIn (tentMem 5 0x17F00) 256 = false ∧
      d.blockedBy (tentMem 5 0x17F00) 256 = []) ∧
    (let d := ({} : Dev).setRegF (tentReg 5 0x10) 11 1 1
     d.touchesSecure 5 0x17F00 256 = true ∧ d.touchesClearing 5 0x17F00 256 = false) ∧
    (({} : Dev).place (tentMem 5 0x17FFF) = .here (tentMem 5 0x17FFF) ∧
      ({} : Dev).heldFor .host true (tentMem 5 0x17FFF) 1 = false ∧ ({} : Dev).quiet (tentMem 5 0x17FFF) 1 = true) ∧
    (way (.tent 0 3 1) (.tent 0 9 64)).1.any (·.meets (65 * 9 + 64)) = true ∧
    (let d := ({} : Dev).setReg (tentReg 5 0x100) (1 + 383 * 2)
     d.regF (tentReg 5 0x100) 0 1 = 1 ∧ d.regF (tentReg 5 0x100) 1 9 = 383 ∧
       (((d.tent 5).remaps.filter fun p => p.1 == 15).length < 2)) := by
  decide +kernel

theorem witness_PegSignalsAndWaits :
    ({} : Dev).peg 5 63 + (2 ^ 32 - 1) < 2 ^ 32 ∧
    (2 ^ 32 ≤ (({} : Dev).setReg (pegAddr 5 63) (2 ^ 32 - 1)).peg 5 63 + 1) ∧
    ({} : Dev).place (tentReg 5 0x40_03F0) = .here (tentReg 5 (0x40_0000 + 0x10 * 63)) ∧
    ({} : Dev).place (tentReg 5 0x40_03F8) = .here (tentReg 5 (0x40_0008 + 0x10 * 63)) ∧
    (look (fun _ => 0) ({} : Dev).armed (7 * 1024 + 1023) = 0 ∧ ({} : Dev).reg (ioPegAddr 7 1023) < 1) ∧
    (let x : PegWait := ⟨63, 13, 65535, false⟩
     let d := (tent5 { pegWaits := [x] }).setRegF (tentReg 5 0x40_0450) 0 16 1
     d.regF (tentReg 5 0x40_0450) 0 16 ≠ 0 ∧ ((d.tent 5).pegWaits.find? fun w => w.peg == 63 && !w.told) = some x) ∧
    (let w : PegWait := ⟨63, 1, 2, false⟩
     let d := (tent5 { pegWaits := [w] }).setReg (pegAddr 5 63) 2
     ((d.tent 5).pegWaits.filter fun x => x.peg == 63) = [w] ∧ w.n ≤ d.peg 5 63 ∧ (d.core 5 1).pc < 4095) := by
  decide +kernel

theorem witness_Guylines :
    (let d : Dev := { member with tents := [(5, { held := [⟨5, 1, 63, 0⟩] })] }
     (d.tent 5).held = [⟨5, 1, 63, 0⟩] ∧ d.stores = [] ∧ d.isMember 5 5 = true ∧ d.regF (gylStat 5) 5 1 = 0 ∧
       (d.setRegF (gylStat 5) 5 1 1).regF (gylStat 5) 5 1 = 1 ∧ (d.setRegF (gylStat 5) 5 1 1).regF (gylPend 5) 5 1 = 0) ∧
    (let d := ({ member with gyl := [.release 5 5 true], tents := [(5, { rpeg := [(5, 63)] })] } : Dev).setRegF (gylStat 5) 5 1 1
     d.gyl = [.release 5 5 true] ∧ d.regF (gylStat 5) 5 1 = 1 ∧ d.regF (gylPend 5) 5 1 = 0 ∧
       look (fun _ => 0) (d.tent 5).rpeg 5 < 64 ∧ d.peg 5 63 < 2 ^ 32 - 1) ∧
    (let d : Dev := { member with gyl := [.toRow 5 5] }
     d.gyl = [.toRow 5 5] ∧ d.regF (rowCntAddr 5 (5 / 64)) 0 7 + 1 < d.rowTarget 5 (5 / 64) ∧
       (let e := d.setRegF (rowCntAddr 5 0) 0 7 1
        0 < e.rowTarget 5 0 ∧ e.rowTarget 5 0 ≤ e.regF (rowCntAddr 5 0) 0 7 + 1)) ∧
    (({} : Dev).gen ≠ 1 ∧ ({} : Dev).gen = 0) ∧
    (let d := (({} : Dev).setRegF (campAddr 5) 11 5 1).setRegF (campAddr 5 + 0x10) 0 10 3
     3 ∈ d.children 5 ∧ 4 ∉ d.children 5) ∧
    (let d := (({} : Dev).setRegF (campAddr 5) 0 10 3).setRegF (campAddr 5) 10 1 1
     let e := d.setRegF (campAddr 5) 16 1 1
     e.regF (campAddr 5) 10 1 = 1 ∧ e.regF (campAddr 5) 0 10 = 3 ∧ e.regF (campAddr 5) 16 1 = 1) ∧
    (({} : Dev).place (rowMaskAddr 3 200) = .here (rowMaskAddr 3 200) ∧
      gylRegOf (rowMaskAddr 3 200) = .rowMask 3 200 ∧ ({} : Dev).roundOpen 3 = false) ∧
    (({} : Dev).place (rowCntAddr 15 255) = .here (rowCntAddr 15 255) ∧
      gylRegOf (rowCntAddr 15 255) = .rowCnt 15 255) ∧
    ({ gylGenClr := true } : Dev).gylGenClr = true := by
  decide +kernel

theorem witness_WatchTablesAndEvents :
    isWch (eventWch false) = true ∧
    (let d := ({} : Dev).setRegF (eventWch false) 2 1 1
     d.regF (eventWch false) 2 1 = 1 ∧ (d.watchAt (eventWch false)).pointer = 0) ∧
    (let d : Dev := { watch := [(eventWch false, { service := some true, winPos := 4096 })] }
     d.inService (eventWch false) = true ∧ d.windowLen (eventWch false) ≤ (d.watchAt (eventWch false)).winPos) ∧
    (let d : Dev := { running with events := [event 31] }
     d.active = some false ∧ d.events = [event 31] ∧ (event 31).cls = 0 ∧ d.evRing.length < 4096 ∧
       (d.grant (eventWch false) [31]).2 = some 31) := by
  decide +kernel

theorem witness_ClocksAndDroop :
    (∀ die < 6, pllExists die 1 = true) ∧ pllExists 1 2 = true ∧ ({} : Dev).refclk = true ∧
    ({ refclk := false } : Dev).refclk = false ∧ ({} : Dev).regF (clkStat 5) 0 2 = 0 ∧
    (∀ k ∈ [64, 65], let d := (tent5 { stretch := k }).setRegF (clkStat 5) 0 1 1
      d.regF (clkStat 5) 0 1 = 1 ∧ (d.tent 5).stretch = k) := by
  decide +kernel

/-- The only module of a pair carries every frame. -/
theorem witness_UcieModules_hash (a : Nat) : hashPick [7] a = some 7 := by simp [hashPick, Nat.mod_one]

/-- The next frame, an earlier one, a later one with another before it in the replay buffer; a pair without a module. -/
theorem witness_UcieModules_frames :
    (oneModule.rehashAt 12).owed = [] ∧ oneModule.working 12 = [7] ∧ (noPairs.rehashAt 12).owed = [] ∧
    hashPick (noPairs.working 12) 0 = none ∧
    (let x : Module := { next := [5, 9], buf := [(true, 9, dieFrame 0)] }
     let y := (oneModule x).module 12 7
     let kept := y.buf.filter fun b => b.1 == true
     y.next.getD (b2n true) 0 = 9 ∧ kept ≠ [] ∧ kept.length < 64 ∧ ∀ b ∈ kept, b.2.1 = 9 → b.2.2 = dieFrame 0) := by
  decide +kernel

theorem witness_UcieModules :
    7 < pairModules 12 ∧ 19 < pairModules 3 ∧ (({} : Dev).module 12 7).out = false ∧
    (({ ucie := [(12 * 32 + 7, { out := true, training := true, fails := 2 })] } : Dev).module 12 7).training = true ∧
    (({ ucie := [(12 * 32 + 7, { out := true, training := true, fails := 2 })] } : Dev).module 12 7).fails + 1 = 3 ∧
    (1 ≠ (({} : Dev).module 12 7).next.getD (b2n true) 0) := by
  decide +kernel

/-! ### Engines -/

theorem witness_QueuesIssueAndComplete_issue :
    (∀ r ∈ queueNopRows, ∃ q ∈ [6, 7, 9], r.2.1 (queued q 0) 5 = some 0) ∧
    (∀ r ∈ queueWaitRows, ∃ op < 9, r.2.2 (queued r.2.1 (waitCmd op)) 5 = some (waitCmd op)) ∧
    (queued 2 0).arrayHead 5 2 0 = some 0 ∧ (queued 2 (waitCmd 5)).arrayHead 5 2 5 = some (waitCmd 5) ∧
    (queued 8 0).movHead 5 0 = some 0 ∧ ((queued 8 0).queue 5 8).flight = [] ∧ (queued 8 0).warmAsked = false ∧
    (selecting 0 []).sctHead 5 0 = some 0 := by
  decide +kernel

theorem witness_QueuesIssueAndComplete_complete :
    (∀ q ∈ List.range 8, (flying q { cmd := 0, flags := 1 }).completing 5 q 0 = some { cmd := 0, flags := 1 }) ∧
    (∀ i ∈ [({ cmd := 0, done := false } : Issued), { cmd := 0, acks := [3] }], (flying 6 i).completing 5 6 0 = some i) ∧
    (({} : Dev).reg (tentReg 5 0x10_0010) < 2 ^ 64 - 1 ∧ tentReg 5 0x10_0000 % 8 = 0) ∧
    (flying 9 { cmd := cmd [(0, 1), (4, 1), (8, 63)] }).completing 5 9 0 =
      some { cmd := cmd [(0, 1), (4, 1), (8, 63)] } ∧
    (let d := tent5 { sel := { running := some 0, issued := true } }
     (d.tent 5).sel.running = some 0 ∧ (d.tent 5).sel.issued = true ∧ d.halted = false) ∧
    (let i : Issued := { cmd := cmd [(0, 11)] }
     ((flying 8 i).queue 5 8).flight[0]? = some i ∧ i.done = true ∧ i.acks = [] ∧ cmdOp i.cmd < 12) ∧
    cmdSig (cmd [(4, 1), (8, 63)]) = true ∧ cmdSig 0 = false := by
  decide +kernel

theorem witness_PassAddsIntoEntries :
    let d := arrayOf 1
    let c := cmd [(0, 1), (32, 8), (36, 8), (48, 63), (64, 0)]
    let p := passOf c
    d.arrayHead 5 0 1 = some c ∧ arrayIssueCause (d.arrayWidth 5 0) [] c = 0 ∧
      d.imageOf 5 0 16 p = some (d.rd (tentMem 5 0) 128) ∧
      ((passSpans (d.noTile 5 0) (d.arrayWidth 5 0) p).all fun x => d.padReads (d.arrayPort 5 0) x.1 x.2) = true ∧
      (let e := d.modQueue 5 0 fun x => { x with tiles := [⟨List.replicate 128 3, none⟩] }
       e.imageOf 5 0 16 p = some (List.replicate 128 3) ∧ e.noTile 5 0 = false) ∧
      (∀ j < p.count, ((d.tent 5).entry 0 (p.acc + j)).empty = true) ∧ cellMode p.fs p.fm = some .single ∧
      p.sref = 0 ∧ passLanes p .single (d.arrayWidth 5 0) = 16 := by
  decide +kernel

/-- Work that ends; a fault (segment 0 is secure, the arrays are not); an issue check that fails. -/
theorem witness_ArrayCommandsIssue :
    (∀ r ∈ arrayWorkRows, let d := arrayOf r.2.1
      let c := front d 0
      d.arrayHead 5 0 r.2.1 = some c ∧
        arrayIssueCause (d.arrayWidth 5 0) (d.entryLanes 5 0 c) c = 0 ∧
        (workEnds (r.2.2 0 (d.arrayPort 5 0) (d.arrayWidth 5 0) c) d).isSome = true ∧
        (workFaults (r.2.2 0 (d.arrayPort 5 0) (d.arrayWidth 5 0) c)
          (d.setRegF (tentReg 5 0x10) 0 1 1)).isSome = true) ∧
    (∀ fs ∈ [[(0, 1), (32, 8), (36, 8), (64, 0x17FF0)], [(0, 2), (64, 0x17FF0)], [(0, 3), (40, 31)]],
      let c := cmd fs
      (arrayCmd c).arrayHead 5 0 (cmdOp c) = some c ∧
        arrayIssueCause 16 ((arrayCmd c).entryLanes 5 0 c) c ≠ 0) ∧
    (arrayCmd (cmd [(0, 4), (56, 63)])).arrayHead 5 0 4 = some (cmd [(0, 4), (56, 63)]) := by
  decide +kernel

/-- The sum's bound at one lane, and a saturated one. -/
theorem witness_AccumulatorIsOrderFree :
    (let l : Lane := {}
     [(1 : Int), -2].Perm [-2, 1] ∧
       (l.total.natAbs : Int) + (([1, -2] : List Int).map fun x => (x.natAbs : Int)).sum < 32766 * 2 ^ 96 ∧
       -(2 ^ 95) ≤ l.i ∧ l.i < 2 ^ 95) ∧
    (let l : Lane := { w := 32767 }
     l.saturated = true ∧ l.s = 0 ∧ ({ l with s := 3 } : Lane).s = 3) := by
  decide +kernel

theorem witness_ForageCommandsIssue :
    ∀ r ∈ forageRows, let d := forageOf r.2.1 (r.2.2.getD false)
      let c := front d 6
      let ds := descsOf c d
      d.head 5 6 = some c ∧ (d.queue 5 6).flight = [] ∧ cmdOp c = r.2.1 ∧
        r.2.2.getD (d.headAccum 5 c) = d.headAccum 5 c ∧ 0 < d.queueFree 5 8 ∧
        reads (forDescs 5 c) d ds = true ∧
        (workEnds (forWork ⟨5, {}, c, d.reg (forReg 5 0xC)⟩ ds)
          (d.forIssue 5 { cmd := c, descs := ds, done := false, ctl := d.reg (forReg 5 0xC) })).any
          (fun x => !(x.dev.flush (.queue 5 6) { job := d.job } (x.out.take 64)).2.warmAsked) = true := by
  decide +kernel

/-- A GATHER of an operand that does not lie in the scratchpad faults. -/
theorem witness_ForageCommandsIssue_fault :
    let d := forage 1 0 (desc 0x1000 0 0 1 [2] [1]) [] (desc 0x17FFC 0 0 1 [2] [1]) (desc 0x1200 12 0 1 [2] [1])
    let c := front d 6
    let ds := descsOf c d
    reads (forDescs 5 c) d ds = true ∧
      (workFaults (forWork ⟨5, {}, c, d.reg (forReg 5 0xC)⟩ ds)
        (d.forIssue 5 { cmd := c, descs := ds, done := false, ctl := d.reg (forReg 5 0xC) })).any
        (fun x => !x.2.2.warmAsked) = true := by
  decide +kernel

theorem witness_SparseOperations :
    ([(0, 1), (5, 2)] : List (Nat × Nat)).Nodup ∧ (([(0, 1), (5, 2)] : List (Nat × Nat)).map Prod.fst).Nodup ∧
      atPos [(0, 1), (5, 2)] 5 = some 2 ∧ atPos [(0, 1), (5, 2)] 4 = none := by
  decide +kernel

theorem witness_SelectionChoosesTheLargest :
    (let x := sctOf (cmd [(160, 1), (176, 2)])
     let scores : List Machine.Num := [fp32.decode 0x3F80_0000, fp32.decode 0x7FC0_0000, fp32.decode 0x4000_0000]
     x.topk = true ∧ (choose x scores).map Prod.fst = [0, 2] ∧ (scores.map (·.isNaN)) = [false, true, false]) ∧
    (sctOf (cmd [(192, 0x3F80_0000)])).topk = false := by
  decide +kernel

/-- Slot 63: SELECT that ends, on a DENSE slot, and one that faults; AUDIT likewise; STEP; a trip. -/
theorem witness_ScoutCommands :
    (∀ op ∈ [1, 2, 3], (scout op 63).sctHead 5 op = some (((scout op 63).tent 5).sel.running.getD 0)) ∧
    (let d := (scout 1 63).modSel 5 fun y => { y with denseTaken := false }
     let x := sctOf (((scout 1 63).tent 5).sel.running.getD 0)
     (workEnds (selectWork (d.sctPort 5) x) d).isSome = true ∧
       d.regF (slotReg 5 x.slot + 4) 28 1 = 0 ∧ (d.setRegF (slotReg 5 x.slot + 4) 28 1 1).regF (slotReg 5 x.slot + 4) 28 1 = 1) ∧
    (let d := (scout 2 63).setRegF (slotReg 5 63) 0 4 12
     let x := sctOf ((d.tent 5).sel.running.getD 0)
     d.regF (slotReg 5 x.slot) 0 4 < 13 ∧ (workEnds (auditWork (d.sctPort 5) x true) d).isSome = true ∧
       13 ≤ (d.setRegF (slotReg 5 x.slot) 0 4 13).regF (slotReg 5 x.slot) 0 4 ∧
       (workEnds (auditWork (d.sctPort 5) x false) (d.setRegF (slotReg 5 x.slot) 0 4 13)).isSome = true) ∧
    (∀ op ∈ [1, 2], let d := selecting (cmd [(0, op), (160, 1)]) []
     (workFaults (if op = 1 then selectWork (d.sctPort 5) (sctOf (cmd [(0, op), (160, 1)]))
       else auditWork (d.sctPort 5) (sctOf (cmd [(0, op), (160, 1)]))
         (decide (d.regF (slotReg 5 (sctOf (cmd [(0, op), (160, 1)])).slot) 0 4 < 13))) d).isSome = true) ∧
    63 ∈ ((tent5 { sel := { tripped := [63] } }).tent 5).sel.tripped ∧
    (let a := slotReg 5 63
     let d := ((({} : Dev).setReg a 0x30).setReg (a + 8) 1).setReg (a + 16) 1
     63 ∉ (d.tent 5).sel.tripped ∧ d.regF a 4 2 ≠ 0 ∧ 64 * d.regF a 22 10 ≤ d.reg (a + 8) ∧
       d.regF a 6 16 * d.reg (a + 8) < d.reg (a + 16) * 2 ^ 16 ∧ d.regF a 4 1 = 1 ∧ d.regF a 5 1 = 1) := by
  decide +kernel

/-- Each row's work ends, and each faults: an address out of range, a register element that cannot be read, a
malformed step. -/
theorem witness_VectorCommands :
    (∀ r ∈ vectorRows, let d := vector r.2.1
      d.vecHead 5 r.2.1 = some (front d 7) ∧ (workEnds (r.2.2 (d.vecPort 5) (front d 7)) d).isSome = true) ∧
    (∀ fs ∈ [[(0, 1), (32, 4), (126, 1)], [(0, 2), (32, 4)], [(0, 3)], [(0, 4), (72, 1), (88, 2)]],
      let d := ({ queued 7 (cmd fs) with bad := [vecElem 5 1 0] } : Dev).setReg (vecReg 5 0x1000) 63
      d.vecHead 5 (cmdOp (cmd fs)) = some (cmd fs) ∧
        ((vectorRows.filter fun r => r.2.1 == cmdOp (cmd fs)).all fun r =>
          (workFaults (r.2.2 (d.vecPort 5) (cmd fs)) d).isSome) = true) ∧
    (fp32.decode 0x7FC0_0000).isNaN = true := by
  decide +kernel

/-! ### Pack, routing, memory, movers, registers -/

theorem witness_PackStackOrder :
    (∀ op ∈ [1, 2, 3], cmdOp (pckCmd op) = op) ∧
    (let d := (pckOn (packed 1 [frame false, ⟨128, 128, false⟩] hdr0)).modStack 5 fun x => { x with spilling := true }
     let e := d.setRegF (pckReg 2 0) 1 4 0
     e.halted = false ∧ (e.stack 5).stopped = false ∧ (e.stack 5).spilling = true ∧
       (e.stack 5).inPart false = frame false :: [⟨128, 128, false⟩] ∧ e.spillNeeded 5 = true ∧
       (e.stack 5).used true + 128 ≤ e.partCap 5 true ∧ [(⟨128, 128, false⟩ : Frame)] ≠ [] ∧
       (workEnds (moveFrame 5 (frame false) ⟨(e.stack 5).used true, 128, true⟩) e).isSome = true) ∧
    (let d := (pckOn (packed 1 [frame true] [])).modStack 5 fun x => { x with refilling := true }
     (d.stack 5).refilling = true ∧ ((d.stack 5).inPart true).getLast? = some (frame true) ∧
       (d.stack 5).used false + 128 ≤ d.partCap 5 false ∧ (d.stack 5).inPart false = [] ∧
       (workEnds (moveFrame 5 (frame true) ⟨0, 128, false⟩) d).isSome = true) := by
  decide +kernel

/-- PUSH: pack off; no part big enough; the part full; it fits. POP and DROP: pack off; stack empty; header of another
frame; the right header. -/
theorem witness_PackCommands_issue :
    ((packed 1 [] []).pckHead 5 1 = some (pckCmd 1) ∧ (packed 1 [] []).regF (pckReg 2 0) 0 1 = 0) ∧
    (let d := (packed 1 [] []).setReg (pckReg 2 0) 1
     d.regF (pckReg 2 0) 0 1 = 1 ∧ d.partCap 5 false < frameSize (pckCmd 1)) ∧
    (let d := pckOn (packed 1 [⟨0, 2 ^ 20, false⟩] [])
     frameSize (pckCmd 1) ≤ d.partCap 5 false ∧ (d.stack 5).canHold (d.partCap 5 false) (d.partCap 5 true) 128 = true ∧
       d.partCap 5 false < (d.stack 5).used false + frameSize (pckCmd 1)) ∧
    (let d := pckOn (packed 1 [] [])
     d.regF (pckReg 2 0) 0 1 = 1 ∧ (d.stack 5).canHold (d.partCap 5 false) (d.partCap 5 true) 128 = true ∧
       (d.stack 5).used false + 128 ≤ d.partCap 5 false ∧
       (workEnds (pushWork 5 (pckCmd 1) ⟨(d.stack 5).nextOff (d.partCap 5 false), 128, false⟩) d).isSome = true) ∧
    (∀ op ∈ [2, 3], (pckOn (packed op [] [])).pckHead 5 op = some (pckCmd op) ∧
      ((pckOn (packed op [] [])).stack 5).frames = [] ∧
      (let d := pckOn (packed op [frame false] hdr0)
       (d.stack 5).frames.getLast? = some (frame false) ∧ reads (packRead 5 (d.framePieces 5 (frame false) 0 24)) d hdr0 ∧
         hdr0 = d.frameHdr (pckCmd op) 0) ∧
      (let d := pckOn (packed op [frame false] [1])
       reads (packRead 5 (d.framePieces 5 (frame false) 0 24)) d (leBytes 24 1) ∧
         leBytes 24 1 ≠ d.frameHdr (pckCmd op) 0)) ∧
    (let d := pckOn (packed 2 [frame false] hdr0)
     reads (packRead 5 (d.framePieces 5 (frame false) 64 (cmdB (pckCmd 2) 12 4))) d (List.replicate 64 0) ∧
       cmdB (pckCmd 2) 20 4 = 0 ∧ d.padWrites (d.pckPort 5) (cmdB (pckCmd 2) 8 4) 64 = true ∧
       (frame false).spilled = false) := by
  decide +kernel

/-- A GEN change owed; configuration writes: held frames, a legal and an illegal PCK_CTL. -/
theorem witness_PackCommands_settings :
    ({ packGenClr := true } : Dev).packGenClr = true ∧ (packed 1 [frame false] []).pckHeld 0 = true ∧
    ({} : Dev).pckHeld 3 = false ∧ sec.secure = true ∧ non.secure = false ∧ bitAt 0x1FE 0 = false ∧ bitAt 0x1FE 9 = false ∧
    (let d := pckOn {}
     ∀ v ∈ [0x21, 0x1FF], bitAt v 0 = true ∧ bitAt v 9 = false ∧
       (regionOk (d.reg (pckReg 2 8)) (field (d.reg (pckReg 2 4)) 0 8) 0 hbmEnd &&
         regionOk (d.reg (pckReg 2 0x10)) (field (d.reg (pckReg 2 4)) 8 8) lpBase lpEnd &&
         decide (field v 5 4 < field v 1 4)) = false) ∧
    (let d := pckOn {}
     bitAt 0x3F 0 = true ∧ (regionOk (d.reg (pckReg 2 8)) (field (d.reg (pckReg 2 4)) 0 8) 0 hbmEnd &&
       regionOk (d.reg (pckReg 2 0x10)) (field (d.reg (pckReg 2 4)) 8 8) lpBase lpEnd &&
       decide (field 0x3F 5 4 < field 0x3F 1 4)) = true) := by
  decide +kernel

theorem witness_RoutingCommands_issue :
    (∀ op ∈ [0xC, 0xD, 0xE], (routeOf op).movHead 5 op = some (front (routeOf op) 8)) ∧
    (workEnds (routeWork 5 (front (routeOf 0xC) 8)) (routeOf 0xC)).isSome = true ∧
    (workEnds (dispatchWork 5 (front (routeOf 0xD) 8)) (routeOf 0xD)).isSome = true ∧
    (match (answerWork 5 (front (routeOf 0xE) 8)).run { dev := routeOf 0xE } with
      | (.ok _, _) => true
      | _ => false) = true ∧
    (∀ op ∈ [0xC, 0xD], (workFaults (if op = 0xC then routeWork 5 (front (routing [(0, op), (32, 4), (64, 4)] []) 8)
      else dispatchWork 5 (front (routing [(0, op), (32, 4), (64, 4)] []) 8))
        (routing [(0, op), (32, 4), (64, 4)] [])).isSome = true) ∧
    (routeOf 0xD).regF (grpAddr 5 0) 42 1 = 0 ∧ ((routeOf 0xD).setReg (grpAddr 5 0) (2 ^ 42)).regF (grpAddr 5 0) 42 1 = 1 := by
  decide +kernel

/-- Packets of another job, GEN or EPOCH; a dispatch that is accepted; the last answer of a group and an earlier one. -/
theorem witness_RoutingCommands_arrive :
    (∀ k ∈ [1, 2], ∀ x ∈ [(1, 0, 0), (0, 1, 0), (0, 0, 1), (0, 0, 0)],
      let p := packet k x.1 x.2.1 x.2.2
      p.src.toNat = 0 ∧ (rhdrOf p.body).reserved = false ∧ (rhdrOf p.body).kind = k ∧ (rhdrOf p.body).job = x.1 ∧
        (rhdrOf p.body).gen = x.2.1 ∧ (rhdrOf p.body).epoch = x.2.2) ∧
    (workEnds (arriveWork 5 (rhdrOf (packet 1 0 0 0).body) (packet 1 0 0 0).body) { mem := mem1 0 dir0 }).isSome = true ∧
    (∀ n ∈ [1, 2], let d := groupOpen n
      let h := rhdrOf (packet 2 0 0 0).body
      let g := d.group 5 h.grp
      d.regF (grpAddr 5 h.grp) 42 1 = 1 ∧ (d.regF (grpAddr 5 h.grp) 43 1 == 1) = h.back ∧ g.tbase ≤ h.token ∧
        h.token - g.tbase < g.nt ∧ h.rank < g.k ∧
        h.ret = d.devId * 2 ^ 48 + tentMem 5 (g.sub (h.token - g.tbase) h.rank) ∧ h.len = g.pb ∧
        d.padWrites (d.rtePort 5) (g.sub (h.token - g.tbase) h.rank) g.pb = true ∧
        (d.regF (grpAddr 5 h.grp) 17 17 + 1 = d.regF (grpAddr 5 h.grp) 0 17 ↔ n = 1)) ∧
    ({ expertGenClr := true } : Dev).expertGenClr = true := by
  decide +kernel

/-- The last granule of each tier; a secure region; a granule that cannot be corrected; the accumulate formats. -/
theorem witness_MemoryRequests :
    (∀ x ∈ [hbmEnd - 64, lpEnd - 64], ({} : Dev).memHere x 64 = some x ∧ ({} : Dev).memSecure x 64 = false ∧
      ({} : Dev).badIn x 64 = false ∧ ({} : Dev).blockedBy x 64 = [] ∧ x % 4 = 0 ∧
      ∀ w ∈ [sec.who, non.who], ({} : Dev).ready w true x 64 = true ∧ ({} : Dev).ready w false x 64 = true) ∧
    (noPairs.memHere 64 64 = some 64 ∧ noPairs.cutOff .host true 64 64 = true ∧ noPairs.cutOff .host false 64 64 = true) ∧
    ((region 0 0x10_0000 3).ready non.who true 64 64 = true ∧ ({ bad := [64] } : Dev).ready non.who true 64 64 = true) ∧
    ((region 0 0x10_0000 3).memHere 64 64 = some 64 ∧ (region 0 0x10_0000 3).memSecure 64 64 = true) ∧
    ({ bad := [64] } : Dev).badIn 64 64 = true ∧ accBytes 1 = 0 ∧ (accElem 0 0 0x3F80_0000).isSome = true ∧
    (accElem 9 0x7FFF_FFFF 1) = some ⟨2 ^ 31 - 1, true, false⟩ := by
  decide +kernel

theorem witness_MemoryResponsesAndRepair :
    (let d : Dev := { response := some (.host, ⟨0, []⟩) }
     d.response = some (.host, ⟨0, []⟩) ∧ d.warmAsked = false) ∧
    (∀ st ∈ [1, 7], let d : Dev := { flying 7 { cmd := 0 } with response := some (.vector 5, ⟨st, []⟩) }
      d.response = some (.vector 5, ⟨st, []⟩) ∧ (d.queue 5 7).flight[0]? = some { cmd := 0 }) ∧
    (let d : Dev := { flying 5 { cmd := 0 } with response := some (.arrayPort 5 5, ⟨1, []⟩) }
     d.response = some (.arrayPort 5 5, ⟨1, []⟩) ∧ (d.queue 5 5).flight[0]? = some { cmd := 0 }) ∧
    (let x : Store := { seq := 0, t := 5, core := 1, secure := false, addr := 64, data := [1] }
     let d : Dev := { stores := [x] }
     d.oldestStore 5 1 = some x ∧ d.place 64 = .here 64 ∧ regionOf 64 = .hbm ∧ inTier 64 1 = true ∧
       d.memSecure 64 1 = false ∧ d.blockedBy 64 1 = [] ∧ d.ready (.score 5 1) false 64 1 = true) ∧
    (({} : Dev).memHere 100 8 = some 100 ∧ ({} : Dev).ready sec.who true 100 8 = true ∧ ({} : Dev).badIn 100 8 = false ∧
      64 % 64 = 0 ∧ unitLen 64 = 64 ∧ 100 < 64 + 64 ∧ 64 < 100 + 8 ∧ regionOf 64 = .hbm ∧ regionOf lpBase = .lpddr ∧
      corrects 64 < 4 ∧ 4 ≤ detects 64) ∧
    (({} : Dev).flips = [] ∧ ({} : Dev).bad = [] ∧ ({} : Dev).ofController 8 0 = true) ∧
    (({} : Dev).regF (dieReg 2 0x200_0000) 0 8 ≠ 0 ∧ (({} : Dev).memLoc 0).key = 8 ∧
      (({} : Dev).setRegF (dieReg 2 0x200_0000) 0 8 0).regF (dieReg 2 0x200_0000) 0 8 = 0) ∧
    (([(23, 5)] : List (Nat × Nat)).find? (·.1 == 8 + 15) = some (23, 5)) := by
  decide +kernel

/-- A range of the LPDDR tier; bounds that are not whole 64 KiB; an empty range; a secure granule; one running, one
waiting. -/
theorem witness_FastClear :
    clearBounds lpBase lpEnd = true ∧ clearBounds 1 0x1_0000 = false ∧ clearBounds 0 0 = true ∧
    (clearing {} lpBase lpEnd).reg clearAddr = lpBase ∧ (clearing {} lpBase lpEnd).reg (clearAddr + 8) = lpEnd ∧
    ((clearing (region 0 0x10_0000 3) 0 0x1_0000).memSecure 0 0x1_0000 = true) ∧
    ({ clearRun := some ⟨0, 0x1_0000, none⟩, clearWait := some ⟨0x1_0000, 0x2_0000, none⟩ } : Dev).clearRun.isSome := by
  decide +kernel

theorem witness_RegionWrites :
    ({} : Dev).rgnSecure 63 = false ∧ (({} : Dev).lowering.find? fun p => p.1 == 63) = none ∧
    ((region 0 0x10_0000 3).rgnSecure 63 = true ∧ 1 % 4 ≠ 3 ∧
      ((region 0 0x10_0000 3).rgnRange 63).1 < ((region 0 0x10_0000 3).rgnRange 63).2 ∧
      ∀ m < 64, m ≠ 63 → (region 0 0x10_0000 3).rgnKeeps m 0 = false) ∧
    (({ lowering := [(63, 0, 0x10_0000, 1)] } : Dev).lowering.find? (·.1 == 63)) = some (63, 0, 0x10_0000, 1) := by
  decide +kernel

/-- The tent mover and ring channel 15 of die 7 before each command; one that faults. -/
theorem witness_MoversAndRings_issue :
    (∀ op ∈ [1, 2], let d := moverOf op
      let ds := (match (tentDescs 5 (front d 8)).run { dev := d } with | (.ok bs, _) => bs | _ => [])
      let i : Issued := { cmd := front d 8, descs := ds, done := false }
      let m : MoverId := .tent 5
      let e := d.issue 5 8 i
      d.movRetry m op = none ∧ d.movHead 5 op = some (front d 8) ∧ (d.movQueue m).flight.length = 0 ∧ reads (tentDescs 5 (front d 8)) d ds ∧
        (workEnds (moverWork {} m i e) e).any (fun x =>
          decide (((moverSent m i e x).2.movQueue m).flight[0]? = some i) && !(moverDone m 0 i e x).warmAsked) = true) ∧
    (∀ op ∈ [1, 2], let d := queued 8 (cmd [(0, op), (64, 64)]) [(descAt 0, desc 0x1000 0 0 1 [1] [1]), (descAt 1, desc 0x1100 0 0x77 1 [1] [1])]
      let ds := (match (tentDescs 5 (front d 8)).run { dev := d } with | (.ok bs, _) => bs | _ => [])
      let i : Issued := { cmd := front d 8, descs := ds, done := false }
      let e := d.issue 5 8 i
      (workFaults (moverWork {} (.tent 5) i e) e).any (fun x => !x.2.2.warmAsked &&
        decide ((x.2.2.movQueue (.tent 5)).flight = (e.movQueue (.tent 5)).flight)) = true) := by
  decide +kernel

theorem witness_MoversAndRings_ring :
    (∀ op ∈ [1, 2], let d := ringOf op
      let m : MoverId := .ring 7 15
      let c := cmd [(0, op)]
      let bs := lookAll byte0 d.mem 0x1_0000 160
      let i : Issued := { cmd := c, descs := bs.drop 32, done := false }
      let a := ringReg 7 15 0xC
      let e := (d.setReg a ((d.reg a + 1) % 2 ^ 32)).modMov m fun x => { x with flight := x.flight ++ [i] }
      ringDie 7 = true ∧ cmdOp c = op ∧ (d.movQueue m).flight = [] ∧ d.movRetry m op = none ∧ (d.ringHead {} m 7 15).1 = some (c, bs) ∧
        (workEnds (moverWork {} m i e) e).any (fun x =>
          decide (((moverSent m i e x).2.movQueue m).flight[0]? = some i) && !(moverDone m 0 i e x).warmAsked) = true) ∧
    (ringOf 1).ringOn 7 15 = true ∧ ({} : Dev).ringOn 2 0 = false ∧ ({} : Dev).ringStopped 2 0 = false ∧
    (4 ≤ field (4 * 2 + 1) 1 4 ∧ field (4 * 2 + 1) 1 4 ≤ 12 ∧ ¬ field (13 * 2 + 1) 1 4 ≤ 12) := by
  decide +kernel

theorem witness_TentAccumulateAndPlotWaits :
    (({} : Dev).place (tentMem 5 0x17FFC) = .here (tentMem 5 0x17FFC) ∧ 0x17FFC + 4 ≤ 0x1_8000 ∧
      ({} : Dev).touchesClearing 5 0x17FFC 4 = false ∧ ({} : Dev).touchesSecure 5 0x17FFC 4 = false ∧
      ({} : Dev).quiet (tentMem 5 0x17FFC) 4 = true ∧ ({} : Dev).badIn (tentMem 5 0x17FFC) 4 = false ∧ (accElem 9 0 1).isSome = true ∧ (accElem 0 0 1).isSome = true) ∧
    (({} : Dev).setRegF (tentReg 5 0x10) 11 1 1).touchesSecure 5 0x17FFC 4 = true ∧
    (let ds := desc 0x1000 0 0 1 [1] [1] ++ desc 0x1100 0 0 1 [1] [1]
     let j : Issued := { cmd := cmd [(0, 2)], descs := ds, done := false }
     let d := flying 8 { j with moving := true }
     let e := (d.bump (movReg 5 0x38) 1).modMov (.tent 5) fun y => { y with flight := setNth y.flight 0 j }
     (d.queue 5 8).flight[0]? = some { j with moving := true } ∧ j.stage = [] ∧ j.acks = [] ∧
       (workEnds (moverWork {} (.tent 5) j e) e).any (fun x =>
         (x.dev.movQueue (.tent 5)).flight[0]?.isSome && !x.dev.warmAsked && x.out.isEmpty) = true) := by
  decide +kernel

/-- The debug port in END; SCT_SEED of a tent, VEC_IRQ of a tent in the secure world, and a register of the clock window
of die 7. -/
theorem witness_RegisterWrites :
    (({ perm := { fuses := { lcLog := [4] } } } : State).acting ⟨.debug, true⟩ = none ∧
      ({ perm := { fuses := { lcLog := [1, 2] } } } : State).perm.fuses.lifecycle = 2) ∧
    (let a := tentReg 5 0x60_0010
     ({} : Dev).place a = .here a ∧ homeOf a = a ∧ hitsPeg a 8 = false ∧
       (regAt a).any (fun r => r.addr == a && r.row.bytes == 8 &&
         !(({} : Dev).regWrite non r 0 (leBytes 8 1)).2.warmAsked) = true ∧
       (match regionOf a with | .tentR _ _ => true | _ => false) = true) ∧
    (regAt (tentReg 5 0x10)).any (fun r => !({} : Dev).regWorldOk non r) = true ∧
    (let a := dieReg 7 0x1500_0004
     (match regionOf a with | .dieR 7 o => o / 0x100_0000 == 21 | _ => false) = true ∧ wchBaseOf a = none ∧
       ({} : Dev).kitApplied = false ∧
       (regAt a).any (fun r => r.addr == a && ({} : Dev).regWorldOk sec r) = true) := by
  decide +kernel

/-! ### Trail links and packets -/

theorem witness_GroupsAreTakenInOrder :
    (link47 4).linkUp 47 = false ∧
    (let h := groupHead 4095 0
     (link47 2).linkUp 47 = true ∧ headGood h ∧ ((link47 2).link 47).held = none ∧ bitAt (leAt h 0 2) 12 = false ∧
       (link47 2).reg (linkCnt 47 0x10) + [15, 0].sum < 2 ^ 64) ∧
    (let h := groupHead 0x1000 9
     headGood h ∧ bitAt (leAt h 0 2) 12 = true ∧ leAt h 56 4 = (heldGroup 4095 true).crc ∧
       (heldGroup 4095 true).good = true ∧
       ∀ n ∈ [4095, 0], (link47 2 { rxSeq := n, held := some (heldGroup 4095 true) }).linkUp 47 = true ∧
         ((link47 2 { rxSeq := n, held := some (heldGroup 4095 true) }).link 47).held = some (heldGroup 4095 true)) ∧
    (let h := List.replicate 64 (1 : Byte)
     let d := link47 2 { refused := 6 }
     d.linkUp 47 = true ∧ ¬ headGood h ∧ (d.link 47).held = none ∧ (d.link 47).refused < 7) := by
  unfold headGood
  decide +kernel

/-- RETRAIN and QREL of port 23 in each state; the end of a retrain after none and after two failures; a lane that
fails. -/
theorem witness_LinksRetrainAndPass_links :
    non.secure = false ∧ sec.secure = true ∧
    (∀ st ∈ [0, 2, 4, 5], 46 ∈ (linkAt {} 46 st).portLinks 23 ∧ (linkAt {} 46 st).linkState 46 = st ∧
      47 ∈ (link47 st).portLinks 23 ∧ (link47 st).linkState 47 = st) ∧
    (∀ st ∈ [1, 3], ∀ k ∈ [0, 1, 2], let d := link47 st { failed := k, lanesOut := 1 }
      d.linkState 47 = st ∧ (d.link 47).lanesBad = 0 ∧ (d.link 47).lanesOut + d.laneMin 47 ≤ d.laneCount 47 ∧
        (d.link 47).failed = k ∧ d.allocFits 47 = true) ∧
    ((link47 3).setCredWord 47 0 (2 ^ 64 - 1)).allocFits 47 = false ∧
    (link47 2).linkState 47 = 2 := by
  decide +kernel

/-- A packet for device 1,023 with and without a route, with every link of it down, behind another of its VC; an idle
link; a port without its partner, and with it. -/
theorem witness_LinksRetrainAndPass_packets :
    (let p := pkt 1 3 1023 0x1334
     let d := ({} : Dev).setReg (dieReg 6 (0xC01_0000 + 4 * 1023)) (2 ^ 26 + 2 ^ 24 + 46 * 64 + 47)
     field (hdrOf p).dest 48 10 ≠ d.devId ∧ ((d.consume 5 p).routeOf (hdrOf p).dest).isSome = true ∧
       (({} : Dev).consume 5 p).routeOf (hdrOf p).dest = none ∧ d.routeLinks 1023 = [47, 46] ∧ d.turnOf 5 p = true ∧
       d.routeOf (hdrOf p).dest = some 46 ∧ (linkAt d 46 2).linkUp 46 = true ∧
       (let e := linkAt d 46 2
        e.egressOf (hdrOf p).dest = some 46 ∧ (e.consume 5 p).egressOf (hdrOf p).dest = some 46) ∧
       (let e := linkAt (linkAt d 46 4) 47 4
        ((e.consume 5 p).routeOf (hdrOf p).dest).isSome = true ∧ (e.consume 5 p).egressOf (hdrOf p).dest = none) ∧
       ({ d with links := [(5, { inbox := [pkt 1 3 1022 0x1334] })] } : Dev).turnOf 5 p = false) ∧
    (let d := (link47 2).setRegF (dieReg (linkDie 47) 0x1800_0000) 18 10 1
     d.linkUp 47 = true ∧ (d.link 47).queue = [] ∧ (d.link 47).branch = [] ∧
       d.regF (dieReg (linkDie 47) 0x1800_0000) 18 10 ≠ 0) ∧
    ({} : Dev).regF (linkStatus 46) 23 1 = 0 ∧ (({} : Dev).setRegF (linkStatus 46) 23 1 1).regF (linkStatus 46) 23 1 = 1 := by
  decide +kernel

theorem witness_Sideband :
    (∀ f ∈ [sb 0x01 [] false, sb 0x55, sb 0x01 (List.replicate 241 0)], sbBad f = true) ∧
    (∀ typ ∈ [0x03, 0x04, 0x11, 0x01, 0x05], sbBad (sb typ (List.replicate 240 1)) = false ∧
      (sb typ (List.replicate 240 1)).typ = BitVec.ofNat 8 typ) ∧
    (let l := 2 * 23 + leAt (sb 0x05 (List.replicate 2 1)).payload 0 1 % 2
     (link47 2).linkExists l = true ∧ (link47 2).linkState l = 2 ∧ (link47 4).linkState l = 4 ∧
       (link47 5).linkState l = 5) ∧
    (∀ x ∈ [Power.on, Power.bivouac], x ≠ .off ∧ x ≠ .held) := by
  decide +kernel

/-- A bad write, a write with and without an acknowledgement, a read of 4,096 bytes; one behind another of its VC; one
to a segment that is being cleared; both worlds of a tier. -/
theorem witness_TrailTransactions_here :
    (∀ p ∈ [mkPkt { typ := 1, vc := 0, dest := 0x1000 } [1], mkPkt { typ := 1, vc := 3, dest := 0x1000 } [1],
        mkPkt { typ := 1, vc := 3, dest := 0x1000, ackReq := true } [1], pkt 2 3 0 0x1000 4096 7],
      let h := hdrOf p
      field h.dest 48 10 = ({} : Dev).devId ∧ ({} : Dev).warmAsked = false ∧
        ({} : Dev).turnOf 47 p = true ∧
        (h.typ = 1 → ({} : Dev).pktHeld 47 p false (landed p).length = false) ∧
        (h.typ = 2 → ({} : Dev).pktHeld 47 p true h.aux = false) ∧
        hdrBad h.vc p = decide (h.vc = 0) ∧ destHere h = some 0x1000 ∧
        (({} : Dev).consume 47 p).warmAsked = false ∧ ((({} : Dev).consume 47 p).violate 47 1 p).warmAsked = false ∧
        (let r := (({} : Dev).consume 47 p).landPacket h p
         (if h.ackReq then r.2.sendCompl h r.1 else r.2).warmAsked = false)) ∧
    regionOf 0x1000 = .hbm ∧ inTier 0x1000 64 = true ∧ sec.secure = true ∧ ({} : Dev).memSecure 0x1000 64 = false ∧
      ({} : Dev).blockedBy 0x1000 64 = [] ∧ ({} : Dev).quiet 0x1000 64 = true ∧
    (let p := mkPkt { typ := 1, vc := 3, dest := tentMem 5 0x1000 } [1]
     (hdrOf p).comp = false ∧ (destHere (hdrOf p)).isSome = true ∧ hdrBad (hdrOf p).vc p = false ∧
       (tent5 { segClear := [0] }).pktHeld 47 p false (landed p).length = true ∧
       ({ links := [(47, { inbox := [pkt 2 3 0 0x1000 64 7] })] } : Dev).turnOf 47 p = false) := by
  decide +kernel

/-- RDATA of a load; COMPL of a store, with OK and with a status; NAK of a management packet. -/
theorem witness_TrailTransactions_answers :
    (∀ p ∈ [pkt 3 7 0 0 0 2 65535 [1, 2], pkt 4 0 0 0 0 0 65535, pkt 4 0 0 0 0 5 65535, pkt 9 0 0 0 0 1 65535],
      let h := hdrOf p
      hdrBad h.vc p = false ∧ field h.dest 48 10 = ({} : Dev).devId ∧ h.tid = 65535) ∧
    (let d := tagged 65535 (.core 5 3) (tent5 { cores := [(3, { running := true, wait := .load 31 8 0 none })] })
     d.host.held = [] ∧ d.warmAsked = false ∧ (d.mcasts.any fun x => x.tid == 65535) = false ∧
       d.ownerOf 65535 = some (.core 5 3) ∧ (d.core 5 3).wait = .load 31 8 0 none) ∧
    (let x : Store := ⟨4, 16383, 3, false, 0, [1], 9, some 65535⟩
     let d := tagged 65535 (.core 16383 3) { stores := [x] }
     d.ownerOf 65535 = some (.core 16383 3) ∧ (d.stores.find? fun y => y.tid == some 65535) = some x ∧
       x.t < 16384 ∧ x.core < 4) ∧
    (hdrOf (payloadOf (pkt 9 0 0 0 0 1 9
      (({ typ := 1, vc := 7, mgmt := true } : Hdr).bytes)))).mgmt = true := by
  decide +kernel

/-- A valid group without and with local delivery, one that is not valid; a branch with room, and one that another packet
waits for; a transfer whose last packet is out. -/
theorem witness_MulticastAndPegPackets_multicast :
    (let p := mkPkt { typ := 5, vc := 6, dest := 0x1000, aux := 255 } [1]
     let h := hdrOf p
     let grp := dieReg 6 (0xC02_0000 + 8 * 255)
     h.typ = 5 ∧ hdrBad h.vc p = false ∧ h.aux % 256 = 255 ∧
       ∀ v ∈ [0, 2 ^ 59 + 2 ^ 47 + 1, 2 ^ 59 + 2 ^ 48], let d := ({} : Dev).setReg grp v
         d.warmAsked = false ∧ d.turnOf 47 p = true ∧ d.mcWaits = [] ∧
           d.mcValid 255 = decide (v ≠ 0) ∧ ((d.mcLinks 255).filter fun k => !d.branchTakes p k) = [] ∧
           bitAt (d.reg (dieReg 6 (0xC02_0000 + 8 * 255))) 48 = decide (v = 2 ^ 59 + 2 ^ 48) ∧
           d.pktHeld 47 p false (landed p).length = false ∧ ((d.consume 47 p).violate 47 4 p).warmAsked = false ∧
           ((((d.consume 47 p).branchCopy (some 47) p (d.mcLinks 255)).mcLocal h p).warmAsked = false) ∧
           (v = 2 ^ 59 + 2 ^ 47 + 1 → d.mcLinks 255 = [0, 47] ∧
             (∀ k ∈ d.mcLinks 255, (d.link k).abandoned.contains (mcKey h) = false) ∧
             (let e : Dev := { d with mcWaits := [⟨none, [], [47]⟩] }
              ((e.mcLinks 255).filter fun k => !e.branchTakes p k) = [47] ∧
                (e.mcWaits.any fun w => w.ingress == some 47 && w.pkt == p) = false))) ∧
    (let p := mkPkt { typ := 5, vc := 6 } [1]
     ((link47 2 { branch := [p] }).link 47).branch = p :: [] ∧ (hdrOf p).ackReq = false ∧ (link47 2).mcWaits = []) ∧
    (let x : Mcast := ⟨65535, 7, 15, 255, 2, [1], [], true⟩
     let d : Dev := { mcasts := [x] }
     (d.mcasts.find? fun x => x.tid == 65535 && x.lastSent) = some x ∧ (d.mcFinish x).warmAsked = false) := by
  decide +kernel

/-- PEG packets of the job and GEN in force, of another job, of another GEN, of no peg's address. -/
theorem witness_MulticastAndPegPackets_pegs :
    ∀ q ∈ [(4095, 255), (0, 255), (4095, 0)],
      let d := ({} : Dev).setReg identAddr (4095 + 255 * 2 ^ 16)
      let p := pkt 8 0 0 (tentReg 16383 (0x40_0000 + 0x10 * 63)) 0 (2 ^ 32 - 1) 0 [] q.1 q.2
      let h := hdrOf p
      h.typ = 8 ∧ hdrBad h.vc p = false ∧ field h.dest 48 10 = d.devId ∧ h.mgmt = false ∧ h.job = q.1 ∧ h.gen = q.2 ∧
        d.turnOf 47 p = true ∧
        d.job = 4095 ∧ d.gen = 255 ∧ h.dest % 2 ^ 48 = tentReg 16383 (0x40_0000 + 0x10 * 63) ∧ d.jobCtxs h.job = [] ∧
        d.peg 16383 63 + h.arg % 2 ^ 32 < 2 ^ 32 := by
  decide +kernel

/-! ### The host port -/

theorem witness_HostPort_access :
    (let op : PadOp := .read 4096
     (hostUp).hostOpen = true ∧ hostTooLong op = false ∧ hostTooLong (.read 4097) = true ∧
       hostTooLong (.write (List.replicate 513 0)) = true ∧ (hostUp).warmAsked = false ∧
       (hostUp {} {}).kitApplied = false ∧ (hostUp {} {}).hostOpen = true) ∧
    (let d := hostUp { relays := [relay true] }
     d.kitApplied = true ∧ d.host.held = [] ∧ d.writesOut = true ∧ d.ordered 4 0 (.read 4) = true ∧
       d.ordered 4 0 (.write [1]) = false ∧ d.hostCutOff 4 0 (.write [1]) = false ∧
       (d.barAccess {} 4 0 (.write [1])).warmAsked = false) ∧
    (hostUp {} { running with ucie := noPairs.ucie }).hostCutOff 4 0x1000 (.read 4) = true ∧
    (let d := hostUp
     (d.writesOut && d.ordered 4 0x1000 (.read 4)) = false ∧ d.hostCutOff 4 0x1000 (.read 4) = false ∧
       d.quiet 0x1000 4 = true ∧
       (d.barAccess {} 4 0x1000 (.read 4)).warmAsked = false ∧ d.barTarget 4 0x1000 = some (0x1000, 5) ∧
       d.place 0x1000 = .here 0x1000 ∧ regionOf 0x1000 = .hbm ∧ inTier 0x1000 4 = true ∧
       d.memSecure 0x1000 4 = false ∧ d.badIn 0x1000 4 = false) ∧
    (let d := hostUp {} ((running.setReg (rgnAddr 0) 0).setReg (rgnAddr 0 + 8) 0x10_0000)
     ∃ ctl ∈ [0, 1, 2, 3], let e := d.setReg (rgnAddr 0 + 0x10) ctl
       e.memSecure 0x1000 4 = true ∧ e.quiet 0x1000 4 = true) := by
  decide +kernel

theorem witness_HostPort_commands :
    ((hostUp { relays := [relay true] }).writesOut = true) ∧
    (let d := hostUp {} base
     d.hostOpen = true ∧ d.kitApplied = true ∧ d.writesOut = false ∧ d.host.held = [] ∧ d.qmHere = true) ∧
    (let d := hostUp { relays := [relay false] }
     d.pcieRuns = true ∧ ({} : Dev).pcieRuns = false ∧ (hostUp {} {}).pcieRuns = true ∧
       (d.host.relays.find? fun r => r.tid == 65535) = some (relay false) ∧ (relay false).write = false ∧
       d.host.flr = false ∧ d.host.held = [] ∧ d.warmAsked = false ∧ d.host.perst = false) ∧
    (∀ op ∈ [PadOp.read 4, .write [1]],
      let d := hostUp { asked := [(4092, op), (0, .read 4)] }
      (7 : BitVec 3) ≠ 4 ∧ d.pcieRuns = true ∧ d.host.asked = (4092, op) :: [(0, .read 4)] ∧ d.kitApplied = true ∧
        (hostUp { asked := [(4092, op)] } {}).kitApplied = false ∧ (hostUp {} {}).host.asked = []) ∧
    ((hostUp.askConfig 4092 (.read 4)).host.asked = [(4092, .read 4)] ∧
      (({} : Dev).askConfig 4092 (.read 4)).host.asked = []) := by
  decide +kernel

/-! ### Reduction -/

theorem witness_ReductionIdentityAndClosing :
    (({} : Dev).jobCtxs 0 = [] ∧ ((ctx63 1).jobCtxs (ctx63 1).job) ≠ []) ∧
    (let d := (ctx63 3).setReg identAddr (7 * 2 ^ 16)
     ((d.jobCtxs d.job).filter fun c => decide (d.ctxGen c ≠ d.gen)) = [63] ∧
       ((({} : Dev).jobCtxs 0).filter fun c => decide (({} : Dev).ctxGen c ≠ 0)) = [] ∧ ({} : Dev).waitPkts = []) ∧
    (let d := ({} : Dev).setRegF identAddr 26 1 1
     d.regF identAddr 26 1 = 1 ∧ d.jobCtxs d.job = [] ∧ d.heldGo = [] ∧ d.waitPkts = [] ∧ d.jobHere = none ∧
       ({ d with jobHere := some (job 5 2) } : Dev).jobHere = some (job 5 2)) ∧
    (let d := (ctx63 3).setRegF identAddr 26 1 1
     d.regF identAddr 26 1 = 1 ∧ d.jobCtxs d.job = [63]) ∧
    (let d := (ctx63 3).setReg (ctxReg 63 0x48) 0x4000
     d.memSecure 0x4000 64 = false ∧ d.badIn 0x4000 64 = false ∧ d.quiet 0x4000 64 = true ∧
       (d.ctx 63).tally.length = 4 ∧
       d.reg (ctxReg 63 0x48) = 0x4000) := by
  decide +kernel

/-- Blocks whose sums fit, and whose sums do not; a block with OVF; elements of 64 bits. -/
theorem witness_ReductionArithmetic :
    let x : Blk := { els := List.replicate 64 32766 }
    let y : Blk := { els := List.replicate 64 1 }
    let z : Blk := { els := List.replicate 63 1 ++ [2] }
    (∀ b ∈ [x, y, z], b.ovf = false ∧ b.nf = false ∧ b.els.length = 64) ∧
      (∀ v ∈ (x.els.zip y.els).map fun p => p.1 + p.2, -contMax true - 1 ≤ v ∧ v ≤ contMax true) ∧
      ¬ (∀ v ∈ (x.els.zip z.els).map fun p => p.1 + p.2, -contMax true - 1 ≤ v ∧ v ≤ contMax true) ∧
      ({ x with ovf := true } : Blk).ovf = true ∧ [x, z].Perm [z, x] ∧
      ∀ v ∈ [-(2 ^ 63 : Int), 2 ^ 63 - 1], -(2 ^ 63) ≤ v ∧ v < 2 ^ 63 := by
  decide +kernel

/-- GO of a closed context: held by a re-shard; ends; faults. GO of one that has agreed: ends; faults. GO and a stop of
progress elsewhere. -/
theorem witness_ReductionRuns_go :
    (let d := ({} : Dev).setRegF identAddr 26 1 1
     d.ctxState 63 = 0 ∧ d.regF identAddr 26 1 = 1 ∧ d.ctxJob 63 = d.job) ∧
    (alone.ctxState 63 = 0 ∧ ¬ (alone.regF identAddr 26 1 = 1 ∧ alone.ctxJob 63 = alone.job) ∧
      (workEnds (goOpen 63 false) alone).isSome = true ∧ (workFaults (goOpen 63 false) {}).isSome = true) ∧
    (let x : Ctx := { members := [0], nblk := 1, dim := 1, cBase := 0x2000, cExp := 0x2100, rBase := 0x3000, rExp := 0x3100 }
     let d := ctx63 2 x alone
     d.ctxState 63 = 2 ∧ (workEnds (goOn 63) d).isSome = true ∧
       (let e : Dev := { d with mem := putAll byte0 d.mem 0x2100 [1] }
        e.ctxState 63 = 2 ∧ (workFaults (goOn 63) e).isSome = true)) ∧
    ∀ st ∈ [1, 3, 4], (ctx63 st).ctxState 63 ≠ 0 ∧ (ctx63 st).ctxState 63 ≠ 2 := by
  decide +kernel

/-- REDUCE packets: of an unknown job, another GEN, another EPOCH, in step and accepted, in step and not expected; one
that waits. -/
theorem witness_ReductionRuns_packets :
    (let d := ({} : Dev).setReg identAddr (4095 + 2 ^ 12 + 255 * 2 ^ 16)
     d.waitPkts = [] ∧ (∀ p ∈ [redPkt 0 0 0 1 [1] 1, redPkt 0 0 0 1 [1] 4095 1, redPkt 0 0 0 1 [1] 4095 255 2],
       (hdrOf p).typ = 7 ∧ d.turnOf 47 p = true ∧
         ({ d with links := [(47, { inbox := [redPkt 0 0 0 1 [2] 1] })] } : Dev).turnOf 47 p = false) ∧
       (let h := hdrOf (redPkt 0 0 0 1 [1] 1)
        h.job ≠ d.job ∧ d.jobCtxs h.job = []) ∧
       (let h := hdrOf (redPkt 0 0 0 1 [1] 4095 1)
        h.job = d.job ∧ h.gen ≠ d.gen) ∧
       (let h := hdrOf (redPkt 0 0 0 1 [1] 4095 255 2)
        h.job = d.job ∧ h.gen = d.gen ∧ h.epoch ≠ d.epoch ∧ d.regF identAddr 26 1 = 0)) ∧
    (let x : Ctx := { members := [0, 1], nblk := 2, dim := 128, cBase := 0x2000, cExp := 0x2100, rBase := 0x3000, rExp := 0x3100 }
     let d := (ctx63 1 x alone).setReg (ctxReg 63 8) 2
     let p := redPkt 0 0 1 1 [9]
     d.redFate p = .go ∧ (redHdrOf p).ctx = 63 ∧ (workEnds (redTake 63 p) d).isSome = true ∧
       (workFaults (redTake 63 (redPkt 0 0 0 1 [9])) d).isSome = true ∧ d.redFate (redPkt 0 0 0 1 [9]) = .go) ∧
    (let d : Dev := { waitPkts := [redPkt 0 9 0 1 [1]] }
     d.waitPkts[0]? = some (redPkt 0 9 0 1 [1]) ∧ d.jobCtxs (hdrOf (redPkt 0 9 0 1 [1])).job = []) := by
  decide +kernel

/-! ### The Quartermaster -/

theorem witness_HostMessages :
    (∀ typ ∈ [1, 2, 3, 4, 5, 6], ((mailed typ).inbound 127 typ).isSome = true) ∧
    (manifestForm ((({} : Dev).lanRead 0 64).getD []) 77 = false) ∧
    (let msg := ((mailed 2).inbound 127 2).getD []
     leAt msg 8 4 = 77 ∧ [job 1 0].find? (·.ref == 77) = some (job 1 0) ∧
       [job 1 2].find? (fun j => j.ref == leAt msg 8 4 && decide (j.state ≠ 3)) = some (job 1 2)) ∧
    (let q : Quarter := { running := [job 1 3] }
     let d := mailed 5 [] q
     (d.inbound 127 5).isSome = true ∧ (d.qm.running.find? fun j => j.ref == 77 && j.state == 3) = some (job 1 3) ∧
       d.qm.queue = []) ∧
    (let q : Quarter := { running := [{ job 1 2 with ref := 78 }], queue := [{ job 2 0 with ref := 79 }] }
     let d := mailed 3 [] q
     ∀ j ∈ d.qm.running ++ d.qm.queue, 77 ≠ 0 ∧ j.ref ≠ 77) ∧
    ((mailed 3 [] { running := [job 1 2] }).qm.running = [job 1 2] ∧ (job 1 2).ref = 77) ∧
    (let d := mailed 4 [] { running := [job 1 1] }
     ∀ j ∈ d.qm.running, j.ref = 77 ∧ j.state = 1 ∧ stashDue j 1 = false) := by
  decide +kernel

theorem witness_JobStarts :
    (let d : Dev := { base with qm := { running := [job 4095 4] } }
     d.qmHere = true ∧ d.halted = false ∧ d.waitingTakeOver = none ∧
       d.qm.running.find? (·.state == 4) = some (job 4095 4) ∧ d.striking = none ∧
       mval (fieldsIn (job 4095 4).manifest) 0x0F08 [] = []) ∧
    (∀ h ∈ [true, false], let d : Dev := { base with qm := { queue := [job 0 0, job 0 0], hold := h } }
     d.qmHere = true ∧ d.halted = false ∧ d.waitingTakeOver = none ∧ d.qm.running.find? (·.state == 4) = none ∧
       d.qm.queue = job 0 0 :: [job 0 0] ∧ d.qm.hold = h) ∧
    (let d : Dev := { base with striking := some 5 }
     d.strikeCleared = true ∧ d.evacLater = [] ∧ d.owedStart = none) := by
  decide +kernel

/-- A manifest of one field. -/
def manifestOf (tag : Nat) (v : List Byte) : List Byte :=
  slice (leBytes 4 0x5446_4E4D ++ leBytes 2 1 ++ leBytes 2 1 ++ leBytes 4 (64 + 4 + v.length) ++ leBytes 4 77) 0 64 ++
    leBytes 2 tag ++ leBytes 2 v.length ++ v

theorem witness_JobsEnd :
    (∀ m ∈ [[], manifestOf 0x0F0A (leBytes 8 9)],
      let d : Dev := { base with qm := { running := [{ job 4095 2 [1023] with manifest := m }] } }
      d.runningJob 4095 = some { job 4095 2 [1023] with manifest := m }) ∧
    mnum (fieldsIn (job 4095 2).manifest) 0x0F0A 0 = 0 ∧
    mnum (fieldsIn (manifestOf 0x0F0A (leBytes 8 9))) 0x0F0A 0 ≠ 0 ∧
    base.runningJob 4095 = none ∧ running.qmHere = false ∧ base.qmHere = true ∧
      (∀ j ∈ [job 4095 2 [1022]], 1023 ∉ j.devices) := by
  decide +kernel

/-! ### Signed commands, management, Lanterns -/

theorem witness_SignedCommands :
    (({} : Dev).active = none ∧ running.active = some false ∧ (running.lan false).busy = none) ∧
    (∀ r ∈ [1, 2, 3, 4, 5], let b := blobOf r [1]
      (busyWith b).active = some false ∧ ((busyWith b).lan false).busy = some b ∧ blobType b = r ∧
        blobType b ≠ r % 5 + 1) ∧
    (∀ r ∈ [1, 2, 3, 5], payloadOk (blobOf r [1]) = false) ∧
    (∀ r ∈ [1, 2, 3, 4], payloadOk (blobOf r []) = true ∧ leAt (blobOf r []) 8 8 = 0) ∧
    payloadOk (blobOf 5 (List.replicate 13 0)) = true ∧ ({ uid := 1 } : Fuses).uid.toNat ≠ 0 := by
  decide +kernel

theorem witness_TamperClears : ({} : Dev).power = .off ∧ running.power ≠ .off := by decide

/-- Fuses of a module in FIELD; a step of the idle block. -/
theorem witness_LifeCycleStaysLegal :
    let f : Fuses := { lcLog := [1, 2], owners := [0] }
    f.legal = true ∧ step { perm := { fuses := f } } = .next { perm := { fuses := f } } := ⟨rfl, rfl⟩

theorem witness_ManagementMessages :
    (∀ typ ∈ [msgHeartbeat, msgTimeSync, msgTimeReply, msgEventFwd, msgCmd, msgCmdRsp],
      leAt (leBytes 2 typ ++ List.replicate 70 0) 0 2 = typ) ∧
    (let d := pair.takeMgmt 0 []
     0 = d.devId ∧ d.active = some false ∧ d.standby = some true) ∧
    (let d := ({ running with devId := 1, role := 2 } : Dev).takeMgmt 0 []
     0 ≠ d.devId ∧ d.role = 2 ∧ 0 = d.baseId) ∧
    (let d := ({ running with devId := 1 } : Dev).takeMgmt 1 []
     1 = d.devId ∧ d.baseId ≠ d.devId ∧ d.active = some false) ∧
    (let d := base.takeMgmt 1023 []
     1023 ≠ d.devId ∧ d.role = 1 ∧ d.active = some false ∧ d.qmHere = true ∧ look (fun _ => 0) (d.lan false).lastSeq 1023 = 0) := by
  decide +kernel

theorem witness_LanternsTakeOver :
    (pair.standby = some true ∧ pair.qmHere = false ∧ pair.active = some false) ∧
    (∀ n ∈ [9, 10], let d := pair.setLan true { pair.lan true with missed := n }
      d.standby = some true ∧ (d.lan true).missed = n ∧ (d.lan false).role = .active ∧ (d.lan false).lost = false) ∧
    ((pair.lan false).lost = false ∧ 3 ∉ (pair.lan false).barked ∧
      (let d := pair.setLan false { pair.lan false with barked := [3] }
       3 ∈ (d.lan false).barked ∧ (d.lan false).role = .active ∧ (d.lan false).lost = false ∧
         d.standby = some (!false))) ∧
    (let d := running.setLan true { running.lan true with lost := true }
     d.active = some false ∧ (d.lan (!false)).lost = true) ∧
    ({} : Dev).active = none ∧ sec.secure = true ∧ non.secure = false := by
  decide +kernel

/-! ### Resets and live service -/

theorem witness_ResetsOfTheModule :
    (running.pwrGood = true ∧ ({} : Dev).pwrGood = false ∧ ({} : Dev).rstN = true ∧
      ({ rstN := false } : Dev).rstN = false) ∧
    (running.dark = false ∧ ({} : Dev).dark = true ∧ running.power ≠ .held ∧ running.rstN = true) ∧
    ({} : Perm).flash.slots = [[], [], [], []] ∧ ({} : Perm).fuses.lifecycle ≠ 4 := by
  decide +kernel

theorem witness_ResetsOfBlocks :
    non.secure = false ∧ sec.secure = true ∧
    (let a := tentReg 16383 8
     tentOffOf a = some (16383, 8) ∧ keptTentReg .soft 8 = false ∧ keptTentReg .tent 8 = false) ∧
    ((tent5 {}).tents.map Prod.fst).Nodup := by
  decide +kernel

theorem witness_LiveService :
    (running.power = .on ∧ ({} : Dev).power ≠ .on ∧ running.jobPlaced = false ∧ base.role = 1 ∧
      ({ power := .bivouac } : Dev).power = .bivouac ∧ ({ power := .waking } : Dev).power = .waking) ∧
    (sbBad (sb 0x02) = false ∧ (sb 0x02).typ = 0x02) ∧
    (16383 ∉ ({} : Dev).evacWait ∧
      (let d : Dev := { evacWait := [16383] }
       16383 ∈ d.evacWait ∧ d.rowMapped 16383 = false ∧ d.badOf 16383 = [] ∧
         (d.setReg (rowMapAddr 16383) 64).rowMapped 16383 = true)) := by
  decide +kernel

theorem witness_RecoveryCommands :
    (∀ p ∈ [sb 0x10 (List.replicate 8 0), sb 0x10 (List.replicate 64 0)], sbBad p = false ∧ p.typ = 0x10) ∧
    (running.power ≠ .off ∧ running.power ≠ .logicOff ∧ running.resp.load.map (·.port) ≠ some 23) ∧
    (let bs := look (fun _ => []) running.resp.frags 23 ++ List.replicate 8 (0 : Byte)
     bs.length < recoverLen bs) ∧
    (let bs := look (fun _ => []) running.resp.frags 23 ++ List.replicate 64 (0 : Byte)
     recoverLen bs ≤ bs.length) ∧
    running.resp.ready = none ∧
    (∀ n ∈ [0, 1, 2, 3, 4, 5, 6], (ready n).resp.ready = some (23, recover n) ∧ leAt (recover n) 0 1 = n ∧
      (ready n).dark = false ∧ (ready n).rstN = true) := by
  decide +kernel

theorem witness_KitLoadsAndTakeover :
    (let k : KitLoad := { lanB := true, slotB := true, length := 241, port := 23 }
     let d : Dev := { running with resp := { load := some k } }
     d.resp.load = some k ∧ 22 ≠ k.port ∧ sbBad (sb 0x10 (List.replicate 240 7)) = false ∧
       ((k.got ++ List.replicate 240 (7 : Byte)).take k.length).length < k.length ∧
       (let l : KitLoad := { k with got := [7] }
        l.length ≤ ((l.got ++ List.replicate 240 (7 : Byte)).take l.length).length)) ∧
    (base.role ≠ 2 ∧ ({ running with role := 2 } : Dev).role = 2 ∧
      ({ running with role := 2 } : Dev).active = some false) := by
  decide +kernel

theorem witness_CompassAndPower :
    (63 ∈ ({ warm := [63] } : Dev).warm ∧ 63 ∉ ({} : Dev).warm) ∧
    (let d := ({} : Dev).setRegF (dieReg 1 0x1800_0000) 0 8 1
     13 ∉ (d.tent 16383).gated ∧ d.blockIdle 16383 13 = true ∧ d.regF (dieReg (16383 / 8192) 0x1800_0000) 0 8 ≠ 0) ∧
    (core 0 []).blockIdle 5 1 = false ∧
    (let d := ({} : Dev).setRegF (dieReg 5 0x1800_0000) 8 10 1
     479 ∉ d.memDown ∧ d.regF (dieReg (2 + (479 - 384) / 24) 0x1800_0000) 8 10 ≠ 0) ∧
    running.power ≠ .off := by
  decide +kernel

/-- A list of blocks of one length. -/
theorem flatMap_length {α β : Type} (xs : List α) (f : α → List β) (n : Nat) (h : ∀ x, (f x).length = n) :
    (xs.flatMap f).length = n * xs.length := by
  induction xs with
  | nil => simp
  | cons x xs ih => simp [h, ih, Nat.mul_succ, Nat.add_comm]

/-- Counters of a report are of 8 bytes each. -/
theorem words_length (d : Dev) (as : List Nat) : (d.words as).length = 8 * as.length :=
  flatMap_length as _ 8 fun _ => by simp [leBytes]

/-- The lengths of the sections that registers fill. -/
theorem sections_length (d : Dev) : d.droopSection.length = 266240 ∧ d.memSection.length = 640 ∧
    d.expertSection.length = 26890240 ∧ d.linkCounters.length = 1280 := by
  refine ⟨?_, ?_, ?_, ?_⟩
  · rw [Dev.droopSection, words_length, flatMap_length _ _ 2 (fun _ => rfl), allTents, List.length_range]
  · rw [Dev.memSection, words_length, flatMap_length _ _ 5 (fun _ => rfl), List.length_range]
  · rw [Dev.expertSection, words_length, flatMap_length _ _ 202, allTents, List.length_range]
    intro t
    rw [List.length_append, List.length_append, flatMap_length _ _ 3 (fun _ => rfl)]
    rfl
  · have h (p : Nat) : ((List.range (pairModules p)).flatMap fun m => leBytes 8 (d.module p m).replays).length =
        8 * pairModules p := by
      rw [flatMap_length _ _ 8 (fun _ => by simp [leBytes]), List.length_range]
    simp only [Dev.linkCounters, List.length_flatMap, h]
    rfl

/-- A report without readings: where it goes, and that it fits the tier there. -/
theorem witness_CompassAndPower_report :
    let d := (({} : Dev).setReg (dieReg 6 0x1800_0010) 0x4000).compassTotals
    let body := d.sections ⟨[], [], [], [], []⟩
    let n := (leBytes 4 0x5053_4D43 ++ leBytes 4 0 ++ leBytes 8 0 ++ leBytes 4 0 ++ leBytes 4 (64 + body.length) ++
      leBytes 40 0 ++ body).length
    (({} : Dev).compassTotals.reg (dieReg 6 0x1800_0010) = 0 ∧ d.reg (dieReg 6 0x1800_0010) = 0x4000) ∧
      n = 27158464 ∧ d.memHere 0x4000 n = some 0x4000 ∧ d.memSecure 0x4000 n = false ∧ d.quiet 0x4000 n = true ∧
      d.blockedBy 0x4000 n = [] := by
  intro d b n
  have hb : b.length = 27158400 := by
    obtain ⟨h1, h2, h3, h4⟩ := sections_length d
    simp only [b, Dev.sections, List.length_append, h1, h2, h3, h4, List.length_nil]
  have hn : n = 27158464 := by simp only [n, List.length_append, hb]; simp [leBytes]
  rw [hn]
  decide +kernel

/-- A command in front of the queue runs; a step without power, and one of a module that wakes. -/
theorem witness_StepRunsFrontCommand :
    ({} : State).pending = [] ∧ ({} : Dev).warmAsked = false ∧ ({} : Dev).power = .off ∧
      ({ power := .logicOff } : Dev).power = .logicOff ∧ ({ power := .waking } : Dev).power = .waking := by
  decide +kernel

/-- A command that runs keeps the queue: RST_N asserted without power, another command waiting. -/
theorem witness_CommandsKeepTheQueue :
    let s : State := { pending := [.wakeN] }
    exec .rstNAssert s = .next { s with dev := { s.dev with rstN := false } } := rfl

/-- A step that leaves the fuses, and one that could burn them. -/
theorem witness_FusesOnlyGain :
    step { pending := [.wakeN] } = .next {} ∧ step { pending := [.lifecycle] } = .next {} := ⟨rfl, rfl⟩

/-! ### Worked effects -/

/-- The worked intersection of 05 (before R129): E4M3 vectors in BBM form, products in FP32. -/
def worked : Dev :=
  queued 6 (cmd [(0, 4), (32, 0), (64, 0x40), (96, 0x80), (168, 2)])
    [(descAt 0, desc 0x1000 0x13 0 1 [128] [] 0x40), (descAt 1, desc 0x1120 0x13 0 1 [128] [] 0x40),
      (descAt 2, desc 0x1280 0x10 0 1 [128] [] 0x240),
      (tentMem 5 0x1000, leBytes 8 0x0000_0100_0000_0222 ++ [0x38, 0x40, 0x30, 0xBC]),
      (tentMem 5 0x1010, leBytes 8 0xD ++ [0x48, 0x28, 0x38]), (tentMem 5 0x1040, leBytes 4 0 ++ leBytes 4 0x10),
      (tentMem 5 0x1120, leBytes 8 0x8000_0100_0000_0060 ++ [0x44, 0x38, 0x48, 0x28]),
      (tentMem 5 0x1130, leBytes 8 0x2_0008 ++ [0x30, 0x40]), (tentMem 5 0x1160, leBytes 4 0 ++ leBytes 4 0x10)]

/-- Its results as the section lists them: two packed groups and their offsets. -/
theorem test_intersect_worked :
    let e := after (.intersect 5) (on worked)
    e.rd (tentMem 5 0x1280) 32 = leBytes 8 0x0000_0100_0000_0020 ++ leBytes 4 0x40C0_0000 ++ leBytes 4 0xC0C0_0000 ++
        leBytes 8 8 ++ leBytes 4 0x3F00_0000 ++ leBytes 4 0 ∧
      e.rd (tentMem 5 0x14C0) 8 = leBytes 4 0 ++ leBytes 4 0x10 := by
  decide +kernel

/-- The check of the same section: SPPROD of the same vectors drains to 0.5. -/
theorem test_spprod_worked :
    let c := cmd [(0, 6), (32, 0), (64, 0x40), (96, 0x80), (128, 0)]
    let d0 := worked
    let d := { d0 with
      tents := [(5, { queues := [(6, { entries := [c] })] })]
      mem := putAll byte0 (putAll byte0 (putAll byte0 d0.mem (descAt 0) (desc 0x1000 0x13 0 2 [128, 1] [] 0x40))
        (descAt 1) (desc 0x1120 0x13 0 2 [128, 1] [] 0x40)) (descAt 2) (desc 0x1280 0 0 2 [1, 1] [1, 1]) }
    (after (.spprod 5) (on d)).rdNat (tentMem 5 0x1280) 4 = 0x3F00_0000 := by
  decide +kernel

/-- S-core 1 of tent 5 runs an instruction of opcode op on s1 and s2 into s3. -/
def ran (i : TentId → CoreNo → Instr) (op a b : Nat) : Nat :=
  ((after (i 5 1) (on (core (word op 3 1 (2 * 2 ^ 11)) [(1, BitVec.ofNat 64 a), (2, BitVec.ofNat 64 b)]))).sreg 5 1 3).toNat

/-- Table 2.5, at the edges of 64 bits: sums wrap, SRA keeps the sign, the shift count is b mod 64, SLT is signed and
SLTU is not, MULH and MULHU give the high halves. -/
theorem test_score_results :
    ran .add 0x01 (2 ^ 64 - 1) 2 = 1 ∧ ran .sub 0x02 1 2 = 2 ^ 64 - 1 ∧ ran .sll 0x06 1 65 = 2 ∧
      ran .srl 0x07 (2 ^ 63) 63 = 1 ∧ ran .sra 0x08 (2 ^ 63) 63 = 2 ^ 64 - 1 ∧ ran .slt 0x09 (2 ^ 64 - 1) 0 = 1 ∧
      ran .sltu 0x0A (2 ^ 64 - 1) 0 = 0 ∧ ran .mul 0x13 (2 ^ 64 - 1) 3 = 2 ^ 64 - 3 ∧
      ran .mulh 0x14 (2 ^ 64 - 1) (2 ^ 64 - 1) = 0 ∧ ran .mulhu 0x15 (2 ^ 64 - 1) (2 ^ 64 - 1) = 2 ^ 64 - 2 := by
  decide +kernel

/-- A write to s0 is discarded (R36): ADD s0, s1, s2. -/
theorem test_s0_stays_zero :
    (after (.add 5 1) (on (core (word 0x01 0 1 (2 * 2 ^ 11)) [(1, 7), (2, 3)]))).sreg 5 1 0 = 0 := by
  decide +kernel

/-- The worked store of 02 (before Table 2.11): tent 8,529 is 0x2151, its offset 0x12340 is camp address
0x02A5_E000_42A3_2340, in segment 9. The next instruction follows. -/
theorem test_store_worked :
    tentMem 0x2151 0x1_2340 = 0xE000_42A3_2340 ∧ regionOf 0xE000_42A3_2340 = .scratch 8529 0x1_2340 ∧
      0x1_2340 / 8192 = 9 ∧ ({ devId := 0x2A5 } : Dev).place 0x02A5_E000_42A3_2340 = .here 0xE000_42A3_2340 := by
  decide +kernel

/-- The worked address of 10 (R218, R219): HBM3E address 0x12_3456_7000 with G = 4 KiB lies in stack 7, which is
stack 1 of MSD2, pseudo-channel 8, at location 203,612,160; under scope DIE in stack 1 of MSD0. -/
theorem test_interleave_worked :
    let d := ({} : Dev).setRegF msdCtl 0 2 2
    interleave (d.regF msdCtl 0 2) = 4096 ∧ d.memLoc 0x12_3456_7000 = ⟨2, 1, 8, 203612160⟩ ∧
      ((d.setRegF msdCtl 2 1 1).memLoc 0x12_3456_7000).msd = 0 := by
  decide +kernel

/-- The worked conversions of R74: 460 to E4M3 is 448 and INEXACT, 470 saturates to 448 with OVERFLOW. -/
theorem test_e4m3_worked :
    let conv := fun x : Nat => (elemFmt 3).narrow .rne 0 false (fp32.decode x)
    (conv 0x43E6_0000).1 = 0x7E ∧ (conv 0x43EB_0000).1 = 0x7E ∧ (conv 0x43E6_0000).2 ≠ (conv 0x43EB_0000).2 := by
  decide +kernel

/-- The worked block of 13 (before R314): m_1 saturates the block; the re-pitch round finds k = 1 and the tie rounds to
even; NEXT is 150. -/
theorem test_reduction_worked :
    (addBlk false { els := [1500000000, 1200000000] } { els := [1000000000, 1100000000] }).2 = true ∧
      shortfall false [1200000000, 2400000001] = 1 ∧ rneShift 2400000001 1 = 1200000000 ∧
      nextOf false 1 140 141 [600000000, 1200000000] = 150 := by
  decide +kernel

/-- The routing example of 09 (before R202): experts 3, 5 and 6 with capacities 4, 6 and 2, source group 1 of 2. -/
def routed : Dev :=
  let dir := fun e valid cap : Nat => (16 * e, leBytes 16 (valid * 2 ^ 15 + cap * 2 ^ 48 + 16 * 2 ^ 96))
  let s := fun e t x : Nat => (tentMem 5 (0x1000 + 4 * (7 * t + e)), leBytes 4 x)
  queued 8 (cmd [(0, 0xC), (32, 0), (64, 0x2000), (96, 0x3E80_0000), (128, 1), (144, 1), (160, 1), (164, 1)])
    [(descAt 0, desc 0x1000 0 0 2 [7, 4] [1, 7]), dir 0 0 1, dir 1 0 1, dir 2 0 1,
      dir 3 1 4, dir 4 0 1, dir 5 1 6, dir 6 1 2, s 3 0 0x3F40_0000, s 5 0 0x3E80_0000,
      s 6 0 0x3E80_0000, s 3 1 0x3F00_0000, s 6 1 0x3F00_0000, s 3 2 0x3F20_0000, s 6 2 0x3EC0_0000,
      s 6 3 0x3E80_0000]

/-- Its choice table, entry by entry. -/
theorem test_route_worked :
    (after (.route 5) (on routed)).rd (tentMem 5 0x2000) 64 =
      leBytes 8 0x3F40_0000_4002_0003 ++ leBytes 8 0x3E80_0000_4003_0005 ++ leBytes 8 0x3F80_0000_4003_0003 ++
        leBytes 8 0x0000_0000_8000_0006 ++ leBytes 8 0x0000_0000_8000_0003 ++ leBytes 8 0x0000_0000_8000_0006 ++
        leBytes 8 0x3F80_0000_4001_0006 ++ leBytes 8 0 := by
  decide +kernel

/-- CRC-32C of the nine digits (R268 names the code): its published check value. -/
theorem test_crc32c : crc32c [0x31, 0x32, 0x33, 0x34, 0x35, 0x36, 0x37, 0x38, 0x39] = 0xE306_9283 := by
  decide +kernel

/-- A signal past 2^32 − 1 leaves the peg there (R368). -/
theorem test_peg_saturates :
    let d := after (.pegSig sec (BitVec.ofNat 64 (tentReg 5 0x40_0000)) 9)
      (on (after (.pegSig sec (BitVec.ofNat 64 (tentReg 5 0x40_0000)) 0xFFFF_FFFA) (on {})))
    d.peg 5 0 = 2 ^ 32 - 1 := by
  decide +kernel

/-- Decoding and queueing: the table gives no row any bits, so no word spells a command. -/
theorem test_no_word_decodes : decodeTableWord 32 0 = none ∧ ({} : State).withFetchWord 32 0 = {} := by
  decide +kernel

end Sys2Proof.Tests
end

/-! The host port (R289 to R294, R460): what its operations leave, the read of memory that a bar access makes, the
branches of an access, and the resets, for O40. -/

namespace Sys2Proof.Machine

/-! ### Operations of the port: what each leaves -/

/-- A counter is a register: adding to it changes registers only. -/
@[simp] theorem Dev.bump_frame (d : Dev) (a n : Nat) :
    (d.bump a n).mem = d.mem ∧ (d.bump a n).host = d.host ∧ (d.bump a n).events = d.events ∧ (d.bump a n).qm = d.qm ∧
      (d.bump a n).jobHere = d.jobHere ∧ (d.bump a n).warmAsked = d.warmAsked := by
  simp [Dev.bump]

@[simp] theorem Dev.reg_bump_self (d : Dev) (a n : Nat) : (d.bump a n).reg a = (d.reg a + n) % 2 ^ 64 := by
  simp [Dev.bump]

/-- An error of the port is noted in its configuration space. -/
@[simp] theorem Dev.aer_frame (d : Dev) (bit : Nat) :
    (d.aer bit).mem = d.mem ∧ (∀ a, (d.aer bit).reg a = d.reg a) ∧ (d.aer bit).events = d.events ∧
      (d.aer bit).qm = d.qm ∧ (d.aer bit).jobHere = d.jobHere ∧ (d.aer bit).warmAsked = d.warmAsked ∧
      (d.aer bit).host.out = d.host.out ∧ (d.aer bit).host.relays = d.host.relays ∧
      (d.aer bit).host.held = d.host.held :=
  ⟨rfl, fun _ => rfl, rfl, rfl, rfl, rfl, rfl, rfl, rfl⟩

/-- What leaves for the host joins what left before. -/
@[simp] theorem Dev.toHost_frame (d : Dev) (x : HostOut) :
    (d.toHost x).mem = d.mem ∧ (∀ a, (d.toHost x).reg a = d.reg a) ∧ (d.toHost x).events = d.events ∧
      (d.toHost x).qm = d.qm ∧ (d.toHost x).jobHere = d.jobHere ∧ (d.toHost x).warmAsked = d.warmAsked ∧
      (d.toHost x).host.out = d.host.out ++ [x] ∧ (d.toHost x).host.relays = d.host.relays ∧
      (d.toHost x).host.held = d.host.held :=
  ⟨rfl, fun _ => rfl, rfl, rfl, rfl, rfl, rfl, rfl, rfl⟩

@[simp] theorem Dev.hold_warmAsked (d : Dev) (h : HeldHost) : (d.hold h).warmAsked = d.warmAsked := rfl

@[simp] theorem Dev.hostNothing_warmAsked (d : Dev) (op : PadOp) : (d.hostNothing op).warmAsked = d.warmAsked := by
  cases op <;> simp [Dev.hostNothing]

@[simp] theorem Dev.askConfig_warmAsked (d : Dev) (off : Nat) (op : PadOp) :
    (d.askConfig off op).warmAsked = d.warmAsked := by
  unfold Dev.askConfig; split <;> rfl

/-- An answered tag changes the tags only. -/
@[simp] theorem Dev.dropTid_frame (d : Dev) (tid : Nat) :
    (d.dropTid tid).mem = d.mem ∧ (∀ a, (d.dropTid tid).reg a = d.reg a) ∧ (d.dropTid tid).events = d.events ∧
      (d.dropTid tid).qm = d.qm ∧ (d.dropTid tid).jobHere = d.jobHere ∧
      (d.dropTid tid).warmAsked = d.warmAsked ∧ (d.dropTid tid).host = d.host :=
  ⟨rfl, fun _ => rfl, rfl, rfl, rfl, rfl, rfl⟩

/-- The end of a relayed access changes the relays, and the reset that waits for them. -/
@[simp] theorem Dev.relayOver_frame (d : Dev) (tid : Nat) :
    (d.relayOver tid).mem = d.mem ∧ (∀ a, (d.relayOver tid).reg a = d.reg a) ∧ (d.relayOver tid).events = d.events ∧
      (d.relayOver tid).qm = d.qm ∧ (d.relayOver tid).jobHere = d.jobHere ∧
      (d.relayOver tid).warmAsked = d.warmAsked ∧ (d.relayOver tid).host.out = d.host.out ∧
      (d.relayOver tid).host.held = d.host.held ∧
      (d.relayOver tid).host.relays = d.host.relays.filter fun r => r.tid != tid :=
  ⟨rfl, fun _ => rfl, rfl, rfl, rfl, rfl, rfl, rfl, rfl⟩

/-- With nothing held, no held operation goes on. -/
theorem Dev.hostGo_none (d : Dev) (p : Perm) (h : d.host.held = []) : d.hostGo p = d := by
  simp [Dev.hostGo, h, Dev.hostDrain]

/-! ### A read of memory -/

/-- A read of units in which no error waits meets none. -/
theorem Dev.meet_quiet (d : Dev) (a n : Nat) (h : d.quiet a n = true) : d.meet a n = d := by
  have hno : ∀ p ∈ d.flips, (decide (p.1 < a + n) && decide (a < p.1 + unitLen p.1)) = false :=
    fun p hp => by simpa only [Bool.not_eq_true'] using List.all_eq_true.mp h p hp
  have hmet : (d.flips.filter fun p => decide (p.1 < a + n) && decide (a < p.1 + unitLen p.1)) = [] :=
    List.filter_eq_nil_iff.mpr fun p hp => by simp [hno p hp]
  have hrest : (d.flips.filter fun p => !(decide (p.1 < a + n) && decide (a < p.1 + unitLen p.1))) = d.flips :=
    List.filter_eq_self.mpr fun p hp => by simp [hno p hp]
  unfold Dev.meet Dev.meetWhere
  split
  · rfl
  · rw [hmet, hrest]; rfl

/-- A channel that wakes leaves memory, its worlds and its errors, and the host. -/
@[simp] theorem Dev.memWake_frame (d : Dev) (a n : Nat) :
    (d.memWake a n).mem = d.mem ∧ (d.memWake a n).host = d.host ∧ (d.memWake a n).warmAsked = d.warmAsked ∧
      (∀ b m, (d.memWake a n).memSecure b m = d.memSecure b m) ∧
      (∀ b m, (d.memWake a n).quiet b m = d.quiet b m) ∧ ∀ b m, (d.memWake a n).badIn b m = d.badIn b m := by
  unfold Dev.memWake
  split <;> exact ⟨rfl, rfl, rfl, fun _ _ => rfl, fun _ _ => rfl, fun _ _ => rfl⟩

/-- A refusal of the region table is counted and recorded. -/
@[simp] theorem Dev.msdRefuse_frame (d : Dev) (q : MemReq) (a n : Nat) :
    (d.msdRefuse q a n).mem = d.mem ∧ (d.msdRefuse q a n).host = d.host ∧
      (d.msdRefuse q a n).warmAsked = d.warmAsked := by
  simp [Dev.msdRefuse, Dev.msdEvent, Dev.dieErr]

/-- The host's read of a secure range of HBM is refused (R238, R291). -/
theorem Dev.hostRead_hbm_secure (d : Dev) (p : Perm) (a n : Nat) (hr : regionOf a = .hbm)
    (ht : inTier a n = true) (hs : d.memSecure a n = true) :
    ∃ e : Dev, d.readHere p hostWriter a n = (⟨2, List.replicate n 0⟩, e) ∧ e.mem = d.mem ∧ e.host = d.host ∧
      e.warmAsked = d.warmAsked := by
  refine ⟨(d.memWake a n).msdRefuse (d.memReqFor hostWriter none) a n, ?_, by simp, by simp, by simp⟩
  simp [Dev.readHere, hr, ht, Dev.memRead, hs, Dev.memReqFor, Dev.memReq, hostWriter]

/-- The host's read of a non-secure range of HBM without errors is answered with its bytes. -/
theorem Dev.hostRead_hbm_open (d : Dev) (p : Perm) (a n : Nat) (hr : regionOf a = .hbm)
    (ht : inTier a n = true) (hq : d.quiet a n = true) (hs : d.memSecure a n = false) (hb : d.badIn a n = false) :
    d.readHere p hostWriter a n = (⟨0, d.rd a n⟩, d.memWake a n) := by
  have hmeet : (d.memWake a n).meet a n = d.memWake a n := Dev.meet_quiet _ a n (by simp [hq])
  simp [Dev.readHere, hr, ht, Dev.memRead, hs, hmeet, hb, Dev.rd]

/-! ### HOST_BAR_ACCESS -/

/-- Where a BAR leads to this device, the access is made there. -/
theorem Dev.barAccess_here (d : Dev) (p : Perm) (bar off x vc a : Nat) (op : PadOp)
    (hx : d.barTarget bar off = some (x, vc)) (ha : d.place x = .here a) :
    d.barAccess p bar off op = d.hostLocal p a op := by
  simp [Dev.barAccess, hx, Dev.hostCamp, ha]

/-- A refused read of this device is zero (R291). -/
theorem Dev.hostLocal_hbm_secure (d : Dev) (p : Perm) (a n : Nat) (hr : regionOf a = .hbm)
    (ht : inTier a n = true) (hs : d.memSecure a n = true) :
    let e := d.hostLocal p a (.read n)
    e.host.out = d.host.out ++ [.completion 0 (List.replicate n 0)] ∧ e.mem = d.mem ∧ e.warmAsked = d.warmAsked := by
  obtain ⟨e, hread, hmem, hhost, hwarm⟩ := d.hostRead_hbm_secure p a n hr ht hs
  simp [Dev.hostLocal, hread, hmem, hhost, hwarm]

theorem Dev.hostLocal_hbm_open (d : Dev) (p : Perm) (a n : Nat) (hr : regionOf a = .hbm)
    (ht : inTier a n = true) (hq : d.quiet a n = true) (hs : d.memSecure a n = false) (hb : d.badIn a n = false) :
    let e := d.hostLocal p a (.read n)
    e.host.out = d.host.out ++ [.completion 0 (d.rd a n)] ∧ e.mem = d.mem ∧ e.warmAsked = d.warmAsked := by
  simp [Dev.hostLocal, d.hostRead_hbm_open p a n hr ht hq hs hb]

section
variable (d : Dev) (p : Perm) (bar off : Nat) (op : PadOp) (ho : d.hostOpen = true)
include ho

/-- An access longer than the port takes is only reported (R289). -/
theorem Dev.hostAccess_tooLong (hl : hostTooLong op = true) : d.hostAccess p bar off op = d.aer 18 := by
  simp [Dev.hostAccess, ho, hl]

/-- Before the device is autonomous the access decodes to nothing (R460). -/
theorem Dev.hostAccess_early (hl : hostTooLong op = false) (hk : d.kitApplied = false) :
    d.hostAccess p bar off op = d.hostNothing op := by
  simp [Dev.hostAccess, ho, hl, hk]

/-- An access whose order asks for it (R292), or whose way is cut (R19), waits. -/
theorem Dev.hostAccess_waits (hl : hostTooLong op = false) (hk : d.kitApplied = true)
    (hw : d.writesOut = true ∧ d.ordered bar off op = true ∨ d.hostCutOff bar off op = true) :
    d.hostAccess p bar off op = d.hold (.access bar off op) := by
  rcases hw with ⟨hout, hord⟩ | hcut
  · simp [Dev.hostAccess, ho, hl, hk, hout, hord]
  · simp [Dev.hostAccess, ho, hl, hk, hcut]

/-- Otherwise the access goes where its BAR leads (R290). -/
theorem Dev.hostAccess_goes (hl : hostTooLong op = false) (hk : d.kitApplied = true) (hh : d.host.held = [])
    (hord : (d.writesOut && d.ordered bar off op) = false) (hcut : d.hostCutOff bar off op = false) :
    d.hostAccess p bar off op = d.barAccess p bar off op := by
  simp [Dev.hostAccess, ho, hl, hk, hh, hord, hcut]

end

/-- A configuration request arrives as an access of space 7. -/
theorem yields_hostBarAccess_config (s : State) (off : BitVec 36) (op : PadOp) (hw : s.dev.warmAsked = false) :
    Yields (.hostBarAccess 7 off op) s (s.dev.askConfig off.toNat op) := by
  show execHostBarAccess 7 off op s = _
  unfold execHostBarAccess
  rw [liftBus_next] <;> simp only [if_true, Dev.askConfig_warmAsked, hw]

/-- HOST_BAR_ACCESS of a BAR is an access of the port, where it asks for no WARM reset. -/
theorem yields_hostBarAccess (s : State) (bar : BitVec 3) (off : BitVec 36) (op : PadOp) (e : Dev) (hb : bar ≠ 7)
    (he : s.dev.hostAccess s.perm bar.toNat off.toNat op = e) (hw : e.warmAsked = false) :
    Yields (.hostBarAccess bar off op) s e := by
  show execHostBarAccess bar off op s = _
  unfold execHostBarAccess
  rw [liftBus_next] <;> simp only [if_neg hb, he, hw]

section
variable (s : State) (bar : BitVec 3) (off : BitVec 36) (hb : bar ≠ 7) (ho : s.dev.hostOpen = true)
  (hw : s.dev.warmAsked = false) (hk : s.dev.kitApplied = true) (hh : s.dev.host.held = [])
include hb ho hk hh

/-- An access that waits for nothing leaves what its BAR leads to. -/
theorem yields_hostBarAccess_goes (op : PadOp) (hl : hostTooLong op = false)
    (hord : (s.dev.writesOut && s.dev.ordered bar.toNat off.toNat op) = false)
    (hcut : s.dev.hostCutOff bar.toNat off.toNat op = false)
    (he : (s.dev.barAccess s.perm bar.toNat off.toNat op).warmAsked = false) :
    Yields (.hostBarAccess bar off op) s (s.dev.barAccess s.perm bar.toNat off.toNat op) :=
  yields_hostBarAccess s bar off op _ hb (s.dev.hostAccess_goes s.perm _ _ op ho hl hk hh hord hcut) he

include hw

/-- A read of this device through a BAR: what the read there leaves. -/
theorem does_hostBarAccess_local (x vc a : Nat) (op : PadOp) (bs : List Byte) (hl : hostTooLong op = false)
    (hord : (s.dev.writesOut && s.dev.ordered bar.toNat off.toNat op) = false)
    (hcut : s.dev.hostCutOff bar.toNat off.toNat op = false)
    (hx : s.dev.barTarget bar.toNat off.toNat = some (x, vc)) (ha : s.dev.place x = .here a)
    (hlocal : let e := s.dev.hostLocal s.perm a op
      e.host.out = s.dev.host.out ++ [.completion 0 bs] ∧ e.mem = s.dev.mem ∧ e.warmAsked = s.dev.warmAsked) :
    Does (.hostBarAccess bar off op) s fun f =>
      f.host.out = s.dev.host.out ++ [.completion 0 bs] ∧ f.mem = s.dev.mem := by
  obtain ⟨hout, hmem, hwarm⟩ := hlocal
  have hgoes := yields_hostBarAccess_goes s bar off hb ho hk hh op hl hord hcut
  rw [s.dev.barAccess_here s.perm _ _ x vc a op hx ha] at hgoes
  exact ⟨_, hgoes (hwarm.trans hw), hout, hmem⟩

end

/-! ### Doorbells and relayed reads -/

/-- A doorbell of a host mailbox is an event of the Quartermaster, where it runs (R290, R294). -/
theorem Dev.ring_here (d : Dev) (m : Nat) (hm : m < 128) (hq : d.qmHere = true) :
    m ∈ (d.ring m).qm.rung ∧ (d.ring m).mem = d.mem ∧
      ∃ y : Event, (d.ring m).events = d.events ++ [y] ∧ y.cls = 0 ∧ y.code = 0x301 := by
  have hc : ¬(128 ≤ m ∨ (!d.qmHere) = true) := by simp [hq]; omega
  rw [Dev.ring, if_neg hc]
  refine ⟨?_, by simp, _, Dev.raise_events _ _ _ _ _ _, rfl, rfl⟩
  by_cases h : m ∈ d.qm.rung <;> simp [Dev.modQm, h]

/-- A relayed read not answered in time completes with Completer Abort and is counted (R293). -/
theorem Dev.relayTimeout_read (d : Dev) (tid : Nat) (r : Relay)
    (hf : (d.host.relays.find? fun r => r.tid == tid) = some r) (hr : r.write = false) (hflr : d.host.flr = false) :
    d.relayTimeout tid =
      ((((d.dropTid tid).relayOver tid).bump (dieReg 6 0x1400_0020) 1).aer 15).toHost (.completion 2 []) := by
  simp [Dev.relayTimeout, hf, hr, hflr]

/-- Nothing of a job changes with it, and with nothing held nothing else goes on. -/
theorem does_relayTimeout (s : State) (tid : BitVec 16) (r : Relay)
    (hf : (s.dev.host.relays.find? fun r => r.tid == tid.toNat) = some r) (hr : r.write = false)
    (hflr : s.dev.host.flr = false) (hh : s.dev.host.held = []) (hw : s.dev.warmAsked = false) :
    Does (.relayTimeout tid) s fun e =>
      e.host.out = s.dev.host.out ++ [.completion 2 []] ∧ (∀ x ∈ e.host.relays, x.tid ≠ tid.toNat) ∧
        e.reg (dieReg 6 0x1400_0020) = (s.dev.reg (dieReg 6 0x1400_0020) + 1) % 2 ^ 64 ∧ e.mem = s.dev.mem ∧
        e.events = s.dev.events ∧ e.qm = s.dev.qm ∧ e.jobHere = s.dev.jobHere := by
  have he := s.dev.relayTimeout_read tid.toNat r hf hr hflr
  have hgo := Dev.hostGo_none (s.dev.relayTimeout tid.toNat) s.perm (by simp [he, hh])
  have hwarm : (s.dev.relayTimeout tid.toNat).warmAsked = false := by simp [he, hw]
  have hy : Yields (.relayTimeout tid) s (s.dev.relayTimeout tid.toNat) := by
    show execRelayTimeout tid s = _
    unfold execRelayTimeout
    rw [liftBus_next] <;> simp only [hgo, hwarm]
  exact ⟨_, hy, by simp [he]⟩

theorem yields_doorbell (s : State) (m : BitVec 8) : Yields (.doorbell m) s (s.dev.doorbell m.toNat) := rfl

section
variable (d : Dev) (m : Nat) (ho : d.hostOpen = true) (hk : d.kitApplied = true)
include ho hk

/-- A doorbell comes after the writes before it (R292). -/
theorem Dev.doorbell_waits (hw : d.writesOut = true) : d.doorbell m = d.hold (.doorbell m) := by
  simp [Dev.doorbell, ho, hk, hw]

theorem Dev.doorbell_rings (hw : d.writesOut = false) (hh : d.host.held = []) : d.doorbell m = d.ring m := by
  simp [Dev.doorbell, ho, hk, hw, hh]

end

theorem yields_mailboxLenWrite (s : State) (m : BitVec 7) (ho : s.dev.hostOpen = true)
    (hk : s.dev.kitApplied = true) : Yields (.mailboxLenWrite m) s (s.dev.lenWritten (m.toNat + 128) 0) := by
  show execMailboxLenWrite m s = _
  simp only [execMailboxLenWrite, lift_next, ho, hk, Bool.and_true, if_true]

/-! ### Resets of the port -/

/-- To forget the tags of relayed accesses leaves memory and registers. -/
theorem Dev.foldl_dropTid_frame (d : Dev) (rs : List Relay) :
    let e := rs.foldl (fun (d : Dev) r => d.dropTid r.tid) d
    e.mem = d.mem ∧ e.regs = d.regs := by
  induction rs generalizing d with
  | nil => exact ⟨rfl, rfl⟩
  | cons r rs ih => exact ih (d.dropTid r.tid)

/-- e has the host's state clear, as every reset of the port leaves it (R294), and the memory of d. -/
def Dev.HostClear (d e : Dev) : Prop :=
  e.host.mail = [] ∧ e.host.msix = [] ∧ e.host.held = [] ∧ e.reg (dieReg 6 0x1400_0008) = 0 ∧
    e.reg (dieReg 6 0x1400_0010) = 0 ∧ e.mem = d.mem

theorem Dev.hostClear_hostCleared (d : Dev) : d.HostClear d.hostCleared := by
  have hne : dieReg 6 0x1400_0008 ≠ dieReg 6 0x1400_0010 := by decide
  exact ⟨rfl, rfl, rfl, (Dev.reg_setReg_ne _ 0 hne).trans (Dev.reg_setReg_self d _ 0),
    Dev.reg_setReg_self (d.setReg (dieReg 6 0x1400_0008) 0) (dieReg 6 0x1400_0010) 0, rfl⟩

theorem Dev.HostClear.dropRelays {d e : Dev} (h : d.HostClear e) : d.HostClear e.dropRelays := by
  obtain ⟨hmail, hmsix, hheld, hbase, hsel, hmem⟩ := h
  obtain ⟨hfmem, hfregs⟩ := e.foldl_dropTid_frame e.host.relays
  have hreg : ∀ a, e.dropRelays.reg a = e.reg a := fun a => congrArg (fun m => (look regReset m a).toNat) hfregs
  exact ⟨hmail, hmsix, hheld, (hreg _).trans hbase, (hreg _).trans hsel, hfmem.trans hmem⟩

theorem Dev.HostClear.cfgCleared {d e : Dev} (h : d.HostClear e) (sticky : Bool) :
    d.HostClear (e.cfgCleared sticky) := h

/-- Only PCI_STATUS tells that the link is down. -/
theorem Dev.HostClear.pcieDown {d e : Dev} (h : d.HostClear e) : d.HostClear e.pcieDown := by
  obtain ⟨hmail, hmsix, hheld, hbase, hsel, hmem⟩ := h
  have hreg : ∀ a, a ≠ dieReg 6 0x1400_0000 → e.pcieDown.reg a = e.reg a := fun a ha => Dev.reg_setReg_ne e _ ha
  exact ⟨hmail, hmsix, hheld, (hreg _ (by decide)).trans hbase, (hreg _ (by decide)).trans hsel, hmem⟩

/-- PERST_N ends the relayed accesses too (R23). -/
theorem does_perstNAssert (s : State) :
    Does .perstNAssert s fun e => s.dev.HostClear e ∧ e.host.perst = true ∧ e.host.relays = [] :=
  ⟨_, rfl, (s.dev.hostClear_hostCleared.dropRelays.cfgCleared false).pcieDown, rfl, rfl⟩

theorem does_pcieHotReset (s : State) (h : s.dev.host.perst = false) :
    Does .pcieHotReset s fun e => s.dev.HostClear e ∧ e.host.relays = [] := by
  refine ⟨s.dev.hostCleared.dropRelays.cfgCleared true, ?_, s.dev.hostClear_hostCleared.dropRelays.cfgCleared true, rfl⟩
  show execPcieHotReset s = _
  simp only [execPcieHotReset, lift_next, h, Bool.false_eq_true, if_false]

/-- A Function Level Reset waits for what is relayed (R294). -/
theorem does_functionLevelReset (s : State) (h : s.dev.host.perst = false) :
    Does .functionLevelReset s fun e => s.dev.HostClear e ∧ e.host.relays = s.dev.host.relays ∧
      (e.host.flr = true ↔ s.dev.host.relays ≠ []) := by
  let d1 := s.dev.hostCleared.cfgCleared true
  refine ⟨{ d1 with host := { d1.host with flr := !d1.host.relays.isEmpty } }, ?_,
    s.dev.hostClear_hostCleared.cfgCleared true, rfl, ?_⟩
  · show execFunctionLevelReset s = _
    simp only [execFunctionLevelReset, lift_next, h, Bool.false_eq_true, if_false, d1]
  · show (!s.dev.host.relays.isEmpty) = true ↔ s.dev.host.relays ≠ []
    simp

theorem does_perstNDeassert (s : State) :
    Does .perstNDeassert s fun e => e.host.perst = false ∧ e.mem = s.dev.mem := by
  refine ⟨_, rfl, ?_⟩
  dsimp only
  split <;> exact ⟨rfl, rfl⟩

/-! ### Configuration requests -/

/-- With the link down no request arrives. -/
theorem yields_pcieConfigRequest_down (s : State) (hr : s.dev.pcieRuns = false) :
    Yields .pcieConfigRequest s s.dev := by
  show execPcieConfigRequest s = _
  simp only [execPcieConfigRequest, lift_next, hr, Bool.not_false, if_true]

section
variable (s : State) (hr : s.dev.pcieRuns = true)
include hr

/-- Until the device is autonomous a configuration request is to be tried again, and is taken off (R460). -/
theorem yields_pcieConfigRequest_retry (more : List (Nat × PadOp)) (ha : s.dev.host.asked.drop 1 = more)
    (hk : s.dev.kitApplied = false) :
    Yields .pcieConfigRequest s ({ s.dev with host := { s.dev.host with asked := more } }.toHost .configRetry) := by
  show execPcieConfigRequest s = _
  simp only [execPcieConfigRequest, lift_next, hr, ha, hk, Bool.not_true, Bool.not_false, Bool.false_eq_true, if_false,
    if_true]

/-- The oldest configuration request is done: a read or a write of the configuration space (R289). -/
theorem yields_pcieConfigRequest_done (o : Nat) (op : PadOp) (more : List (Nat × PadOp))
    (ha : s.dev.host.asked = (o, op) :: more) (hk : s.dev.kitApplied = true) :
    let d1 := { s.dev with host := { s.dev.host with asked := more } }
    (∀ n, op = .read n → Yields .pcieConfigRequest s
      (d1.toHost (.configDone (lookAll cfgReset s.dev.host.cfg o n)))) ∧
    ∀ bs, op = .write bs → Yields .pcieConfigRequest s ((d1.cfgWrite o bs).toHost (.configDone [])) := by
  show (∀ n, op = .read n → execPcieConfigRequest s = _) ∧ ∀ bs, op = .write bs → execPcieConfigRequest s = _
  constructor <;> rintro _ rfl <;>
    simp only [execPcieConfigRequest, lift_next, HostPort.request, hr, ha, hk, Bool.not_true, Bool.false_eq_true,
      if_false, List.headD_cons, List.drop_succ_cons, List.drop_zero]

end

/-- Settles O40: the branches of a BAR access, then the port's other commands, one lemma each. -/
theorem hostPort : Obligations.HostPort := by
  refine ⟨fun s bar off op => ⟨?_, fun hb ho hw => ⟨?_, fun hl => ⟨?_, ?_, ?_⟩⟩⟩, fun s => ?_, by decide⟩
  · rintro rfl hw
    exact yields_hostBarAccess_config s off op hw
  · intro hl
    exact yields_hostBarAccess s bar off op _ hb (s.dev.hostAccess_tooLong s.perm _ _ op ho hl) (by simp [hw])
  · intro hk
    exact yields_hostBarAccess s bar off op _ hb (s.dev.hostAccess_early s.perm _ _ op ho hl hk) (by simp [hw])
  · intro hk _ hwait
    exact yields_hostBarAccess s bar off op _ hb (s.dev.hostAccess_waits s.perm _ _ op ho hl hk hwait) (by simp [hw])
  · intro hk hh hord hcut
    refine ⟨yields_hostBarAccess_goes s bar off hb ho hk hh op hl hord hcut, ?_⟩
    rintro x vc a n hx ha rfl hr ht hq
    have hread := does_hostBarAccess_local s bar off hb ho hw hk hh x vc a (.read n)
    exact ⟨fun hs => hread _ hl hord hcut hx ha (s.dev.hostLocal_hbm_secure s.perm a n hr ht hs),
      fun hs hbad => hread _ hl hord hcut hx ha (s.dev.hostLocal_hbm_open s.perm a n hr ht hq hs hbad)⟩
  · refine ⟨fun m ho hk => ⟨fun hout => ?_, fun hout hh hm hq => ?_⟩, fun m => yields_mailboxLenWrite s m,
      fun tid r => does_relayTimeout s tid r, does_perstNAssert s,
      fun hp => ⟨does_pcieHotReset s hp, does_functionLevelReset s hp⟩, does_perstNDeassert s,
      yields_pcieConfigRequest_down s, fun o op more hr ha => ⟨?_, yields_pcieConfigRequest_done s hr o op more ha⟩,
      fun hr ha => ?_⟩
    · exact s.dev.doorbell_waits m.toNat ho hk hout ▸ yields_doorbell s m
    · exact ⟨_, yields_doorbell s m, (s.dev.doorbell_rings m.toNat ho hk hout hh) ▸ s.dev.ring_here m.toNat hm hq⟩
    · exact yields_pcieConfigRequest_retry s hr more (by simp [ha])
    · exact yields_pcieConfigRequest_retry s hr s.dev.host.asked (by simp [ha])

end Sys2Proof.Machine

/-! Pegs (R362 to R371): where their registers lie, what an error record leaves as it was, a signal, a set, a wait that
is armed, told of or granted, for O11. -/

namespace Sys2Proof.Machine

/-! ### Where the registers of a peg lie -/

/-- In the register windows of the tents, what is no instruction store is registers. -/
theorem regionOf_registers {a : Nat} (hfrom : tentRegBase ≤ a) (hto : a < spareRegBase)
    (hoff : 0x2_0000 ≤ (a - tentRegBase) % 0x100_0000) :
    regionOf a = .tentR ((a - tentRegBase) / 0x100_0000) ((a - tentRegBase) % 0x100_0000) := by
  have hhbm : ¬a < hbmEnd := by unfold tentRegBase at hfrom; unfold hbmEnd; omega
  have hlp : ¬(lpBase ≤ a ∧ a < lpEnd) := by unfold tentRegBase at hfrom; unfold lpEnd; omega
  have htent : ¬(tentBase ≤ a ∧ a < tentBase + 0x8000_0000) := by unfold tentRegBase at hfrom; unfold tentBase; omega
  have hwin : tentRegBase ≤ a ∧ a < spareRegBase + 0x1_0000_0000  := ⟨hfrom, Nat.lt_add_right _ hto⟩
  have hstore : ¬(0x1_0000 ≤ (a - tentRegBase) % 0x100_0000 ∧ (a - tentRegBase) % 0x100_0000 < 0x2_0000) := by omega
  simp only [regionOf, if_neg hhbm, if_neg hlp, if_neg htent, if_pos hwin, if_neg hstore]

theorem pegRegOf_registers {a t o : Nat} (h : regionOf a = .tentR t o) (ho : 0x40_0000 ≤ o ∧ o < 0x40_0400) :
    pegRegOf a = .tent t ((o - 0x40_0000) / 16) (o % 16) := by
  simp only [pegRegOf, h, if_pos ho]

theorem pegTargetOf_pegSig {a t p : Nat} (h : pegRegOf a = .tent t p 0) : pegTargetOf a = .tent t p := by
  simp only [pegTargetOf, h]

section
variable {t : Nat} (ht : t < 16384)
include ht

theorem tentReg_lt_spareRegBase {o : Nat} (ho : o < 0x100_0000) : tentReg t o < spareRegBase := by
  unfold tentReg tentRegBase spareRegBase; omega

/-- The register windows of the tents lie below the blocks of the dies (Table 2.10). -/
theorem tentReg_lt_dieBase {o : Nat} (ho : o < 0x100_0000) : tentReg t o < dieBase :=
  (tentReg_lt_spareRegBase ht ho).trans (by unfold spareRegBase dieBase; omega)

/-- Above the instruction stores, a register window is registers. -/
theorem regionOf_tentReg {o : Nat} (hlo : 0x2_0000 ≤ o) (hhi : o < 0x100_0000) :
    regionOf (tentReg t o) = .tentR t o := by
  have hdiv : (tentReg t o - tentRegBase) / 0x100_0000 = t := by unfold tentReg; omega
  have hmod : (tentReg t o - tentRegBase) % 0x100_0000 = o := by unfold tentReg; omega
  have hfrom : tentRegBase ≤ tentReg t o := by unfold tentReg; omega
  have hto := tentReg_lt_spareRegBase ht hhi
  generalize tentReg t o = a at hdiv hmod hfrom hto
  rw [regionOf_registers hfrom hto (by omega), hdiv, hmod]

/-- Peg p of a tent has the 16 bytes from 0x40_0000 + 16 p. -/
theorem pegRegOf_tentReg {p o k : Nat} (hp : p < 64) (hk : k < 16) (ho : o = 0x40_0000 + k) :
    pegRegOf (tentReg t (o + 0x10 * p)) = .tent t p k := by
  have hdiv : (o + 0x10 * p - 0x40_0000) / 16 = p := by omega
  have hmod : (o + 0x10 * p) % 16 = k := by omega
  exact (pegRegOf_registers (regionOf_tentReg ht (by omega) (by omega)) (by omega)).trans
    (congrArg₂ (PegReg.tent t) hdiv hmod)

/-- PEG_SIG_p is a peg target (Table 16.1). -/
theorem pegTargetOf_tentReg {p : Nat} (hp : p < 64) : pegTargetOf (tentReg t (0x40_0000 + 0x10 * p)) = .tent t p :=
  pegTargetOf_pegSig (pegRegOf_tentReg ht hp (by omega) rfl)

theorem pegAddr_lt_dieBase {p : Nat} (hp : p < 64) : pegAddr t p < dieBase := tentReg_lt_dieBase ht (by omega)

end

/-- No count of a peg lies in PEG_SAT. -/
theorem pegAddr_ne_pegSat (t p : Nat) : pegAddr t p ≠ tentReg t 0x40_0448 := by
  unfold pegAddr tentReg; omega

/-! ### What an error record leaves as it was -/

/-- A notice that merges into one not acknowledged is counted in a register of a die (R392). -/
theorem Dev.reg_pulse (d : Dev) (src : Nat) {a : Nat} (ha : a < dieBase) : (d.pulse src).reg a = d.reg a := by
  have hne : a ≠ dieReg (dieOfSrc src) 0x1500_0008 := by unfold dieReg; omega
  unfold Dev.pulse
  split
  · exact Dev.reg_setReg_ne d _ hne
  · rfl

theorem Dev.reg_tentErr (d : Dev) (t blk cls cause : Nat) (i : ErrInfo) {a : Nat} (ha : a < dieBase) :
    (d.tentErr t blk cls cause i).reg a = d.reg a :=
  Dev.reg_pulse { d with errCounts := _ } (pitchOf t) ha

@[simp] theorem Dev.tentErr_frame (d : Dev) (t blk cls cause : Nat) (i : ErrInfo) :
    (d.tentErr t blk cls cause i).tents = d.tents ∧ (d.tentErr t blk cls cause i).mem = d.mem := by
  simp [Dev.tentErr]

/-- The record of a tent's block: its class, block and unit, its cause and its address (R442). -/
theorem Dev.tentErr_events (d : Dev) (t blk cls cause : Nat) (i : ErrInfo) (hc : cause < 256) :
    ∃ x : Event, (d.tentErr t blk cls cause i).events = d.events ++ [x] ∧ x.cls = cls ∧ x.code = 0x400 + blk ∧
      x.unit = t ∧ x.detail % 256 = cause ∧ x.detail / 2 ^ 64 % 2 ^ 64 = i.addr % 2 ^ 64 := by
  refine ⟨_, Dev.raise_events _ _ _ _ _ _, rfl, rfl, rfl, ?_, ?_⟩
  · dsimp only; omega
  · dsimp only; omega

/-! ### Signals (R363, R368) -/

/-- A bit set in a register reads as set. -/
theorem Dev.bitAt_orReg (d : Dev) (a : Nat) {i : Nat} (hi : i < 64) : bitAt ((d.orReg a (2 ^ i)).reg a) i = true := by
  have hbit : bitAt ((d.orReg a (2 ^ i)).reg a) i = ((d.orReg a (2 ^ i)).reg a).testBit i := by
    simp [bitAt, field, Nat.testBit_eq_decide_div_mod_eq, Bool.beq_eq_decide_eq]
  rw [hbit, Dev.orReg, Dev.reg_setReg_self, Nat.testBit_mod_two_pow]
  simp [hi]

/-- A signal that the count holds adds to it. -/
theorem Dev.pegSig_fits (d : Dev) (t p c : Nat) (h : d.peg t p + c < 2 ^ 32) :
    d.pegSig t p c = d.setReg (pegAddr t p) (d.peg t p + c) := if_pos h

/-- A signal beyond 2^32 - 1 leaves the count there, sets SAT and is recorded (R368). -/
theorem Dev.pegSig_saturates (d : Dev) (t p c : Nat) (h : 2 ^ 32 ≤ d.peg t p + c) :
    d.pegSig t p c = ((d.setReg (pegAddr t p) (2 ^ 32 - 1)).orReg (tentReg t 0x40_0448) (2 ^ p)).tentErr t 1
      clsContained 0x12 { addr := tentReg t (0x40_0000 + 0x10 * p) } := if_neg (by omega)

section
variable (d : Dev) {t p c : Nat} (ht : t < 16384) (hp : p < 64) (h : 2 ^ 32 ≤ d.peg t p + c)
include ht hp h

theorem Dev.peg_pegSig_saturated : (d.pegSig t p c).peg t p = 2 ^ 32 - 1 := by
  rw [d.pegSig_saturates t p c h, Dev.peg, Dev.reg_tentErr _ _ _ _ _ _ (pegAddr_lt_dieBase ht hp), Dev.orReg,
    Dev.reg_setReg_ne _ _ (pegAddr_ne_pegSat t p), Dev.reg_setReg_self]
  omega

theorem Dev.sat_pegSig_saturated : bitAt ((d.pegSig t p c).reg (tentReg t 0x40_0448)) p = true := by
  rw [d.pegSig_saturates t p c h, Dev.reg_tentErr _ _ _ _ _ _ (tentReg_lt_dieBase ht (by omega))]
  exact Dev.bitAt_orReg _ _ hp

theorem Dev.events_pegSig_saturated :
    ∃ x : Event, (d.pegSig t p c).events = d.events ++ [x] ∧ x.cls = 2 ∧ x.code = 0x401 ∧ x.unit = t ∧
      x.detail % 256 = 0x12 ∧ x.detail / 2 ^ 64 % 2 ^ 64 = tentReg t (0x40_0000 + 0x10 * p) := by
  have haddr : tentReg t (0x40_0000 + 0x10 * p) < 2 ^ 64 :=
    (tentReg_lt_dieBase ht (by omega)).trans (by unfold dieBase; omega)
  obtain ⟨x, hx, hcls, hcode, hunit, hcause, hat⟩ :=
    Dev.tentErr_events ((d.setReg (pegAddr t p) (2 ^ 32 - 1)).orReg (tentReg t 0x40_0448) (2 ^ p)) t 1 clsContained 0x12
      { addr := tentReg t (0x40_0000 + 0x10 * p) } (by omega)
  simp only [Dev.orReg, Dev.setReg_frame, Nat.mod_eq_of_lt haddr] at hx hat
  exact ⟨x, d.pegSig_saturates t p c h ▸ hx, hcls, hcode, hunit, hcause, hat⟩

end

@[simp] theorem length_leBytes (n x : Nat) : (leBytes n x).length = n := by
  induction n generalizing x with
  | zero => rfl
  | succ n ih => simp [leBytes, ih]

/-- The number in the bytes of a number. -/
theorem leNat_leBytes (n x : Nat) : leNat (leBytes n x) = x % 256 ^ n := by
  induction n generalizing x with
  | zero => simp [leBytes, leNat, Nat.mod_one]
  | succ n ih =>
    have hbyte : (BitVec.ofNat 8 x).toNat = x % 256 := by simp
    rw [leBytes, leNat, ih, hbyte, Nat.pow_succ', Nat.mod_mul]

/-- A signal at a tent's peg goes no further. The recursion is opened while the fuel is still a variable: opened at a
successor (as by its equation lemmas), the kernel would evaluate the decode of an address that is not a numeral. -/
theorem Dev.signalHere_tent (d : Dev) (die src n : Nat) {fuel a t p : Nat} (hfuel : 0 < fuel)
    (ha : pegTargetOf a = .tent t p) : d.signalHere die src a n fuel = d.pegSig t p n := by
  delta Dev.signalHere
  rw [Nat.brecOn.eq]
  cases fuel with
  | zero => exact absurd hfuel (by omega)
  | succ fuel => simp only [Dev.signalHere._f, ha]

/-- A 4-byte write at a tent's peg target signals the peg by the number written (R363). -/
theorem Dev.windowWrite_peg (d : Dev) (w : Writer) {a t p : Nat} (bs : List Byte) (ha : pegTargetOf a = .tent t p)
    (h4 : a % 4 = 0) (hbs : bs.length = 4) : (d.windowWrite w a bs).2 = d.pegSig t p (leNat bs) := by
  have hhit : hitsPeg a bs.length = true := by
    have hone : (a % 4 + 4 + 3) / 4 = 1 := by omega
    have hword : a / 4 * 4 = a := by omega
    simp [hitsPeg, hbs, hone, hword, ha]
  rw [Dev.windowWrite, if_pos hhit, if_pos ⟨hbs, h4⟩]
  exact d.signalHere_tent 6 _ _ (by omega) ha

/-- PEG_SIG at a tent's peg, by a requester that makes its access. -/
theorem yields_pegSig (s : State) (w u : Writer) (addr : Word) (v : Half) {a t p : Nat} (hw : s.acting w = some u)
    (hplace : s.dev.place addr.toNat = .here a) (ha : pegTargetOf a = .tent t p) (h4 : a % 4 = 0) :
    Yields (.pegSig w addr v) s (s.dev.pegSig t p v.toNat) := by
  have hval : leNat (leBytes 4 v.toNat) = v.toNat := (leNat_leBytes 4 _).trans (Nat.mod_eq_of_lt v.isLt)
  have hwrite := s.dev.windowWrite_peg u (leBytes 4 v.toNat) ha h4 (length_leBytes 4 _)
  rw [hval] at hwrite
  show execPegSig w addr v s = _
  rw [execPegSig, asWriter_next w u _ s hw, lift_next]
  simp [hplace, ha, h4, hwrite]

/-! ### Sets (R371) -/

section
variable (d : Dev) (u : Writer) {a t p : Nat} (ha : pegRegOf a = .tent t p 8)
include ha

/-- A set that is accepted is logged with the old and the new count. -/
theorem Dev.pegSet_accepted (v : Nat) (hu : u.secure = true ∨ u.who = .debug) :
    d.pegSet u a v = (d.setReg (pegAddr t p) v).tentErr t 0x0F clsCorrected 0x02
      { op := writerCode u, addr := a, spec := d.peg t p + v * 2 ^ 32 } := by
  have hok : (u.secure || u.who == .debug) = true := by simpa using hu
  simp [Dev.pegSet, ha, hok]

theorem Dev.pegSet_refused (v : Nat) (hs : u.secure = false) (hw : u.who ≠ .debug) :
    d.pegSet u a v = d.tentRefused t u a := by
  simp [Dev.pegSet, ha, hs, hw]

end

theorem yields_pegSet (s : State) (w u : Writer) (addr : Word) (v : Half) {a : Nat} (hw : s.acting w = some u)
    (hplace : s.dev.place addr.toNat = .here a) : Yields (.pegSet w addr v) s (s.dev.pegSet u a v.toNat) := by
  show execPegSet w addr v s = _
  rw [execPegSet, asWriter_next w u _ s hw, lift_next, hplace]

section
variable (s : State) (w u : Writer) (addr : Word) (v : Half) {a t p : Nat} (ht : t < 16384) (hp : p < 64)
  (hw : s.acting w = some u) (hplace : s.dev.place addr.toNat = .here a) (ha : pegRegOf a = .tent t p 8)
include ht hp hw hplace ha

theorem does_pegSet_accepted (hu : u.secure = true ∨ u.who = .debug) :
    Does (.pegSet w addr v) s fun e => e.peg t p = v.toNat ∧ e.tents = s.dev.tents ∧ e.mem = s.dev.mem ∧
      ∃ x : Event, e.events = s.dev.events ++ [x] ∧ x.cls = 1 ∧ x.code = 0x40F := by
  refine ⟨_, yields_pegSet s w u addr v hw hplace, ?_⟩
  rw [s.dev.pegSet_accepted u ha _ hu]
  obtain ⟨x, hx, hcls, hcode, -⟩ := Dev.tentErr_events (s.dev.setReg (pegAddr t p) v.toNat) t 0x0F clsCorrected 0x02
    { op := writerCode u, addr := a, spec := s.dev.peg t p + v.toNat * 2 ^ 32 } (by omega)
  simp only [Dev.setReg_frame] at hx
  refine ⟨?_, by simp, by simp, x, hx, hcls, hcode⟩
  rw [Dev.peg, Dev.reg_tentErr _ _ _ _ _ _ (pegAddr_lt_dieBase ht hp), Dev.reg_setReg_self]
  exact Nat.mod_eq_of_lt (by omega)

theorem does_pegSet_refused (hs : u.secure = false) (hd : u.who ≠ .debug) :
    Does (.pegSet w addr v) s fun e => e.peg t p = s.dev.peg t p ∧ e.tents = s.dev.tents := by
  refine ⟨_, yields_pegSet s w u addr v hw hplace, ?_⟩
  rw [s.dev.pegSet_refused u ha _ hs hd]
  exact ⟨Dev.reg_tentErr _ _ _ _ _ _ (pegAddr_lt_dieBase ht hp), (Dev.tentErr_frame _ _ _ _ _ _).1⟩

end

/-! ### Waits on an I/O die peg (R369) -/

/-- An armed wait that the count does not reach stays armed. -/
theorem Dev.ioPegTest_below (d : Dev) (die n : Nat)
    (h : d.reg (ioPegAddr die n) < look (fun _ => 0) d.armed (die * 1024 + n)) : d.ioPegTest die n = d :=
  if_neg fun hreach => absurd hreach.2 (by omega)

/-- A wait is armed where there is none, and holds while the count is below it. -/
theorem Dev.pegArm_below (d : Dev) (u : Writer) (die n v : Nat) (hu : u.secure = true)
    (hfree : look (fun _ => 0) d.armed (die * 1024 + n) = 0) (hv : d.reg (ioPegAddr die n) < v) :
    d.pegArm u die n v = { d with armed := put (fun _ => 0) d.armed (die * 1024 + n) v } := by
  simp only [Dev.pegArm, hu, hfree, Bool.not_true, Bool.false_eq_true, if_false, ne_eq, not_true_eq_false]
  exact Dev.ioPegTest_below { d with armed := _ } die n (by rw [look_put_self]; exact hv)

theorem yields_pegIoWaitArm (s : State) (iod : Bool) (p : BitVec 10) (w u : Writer) (v : Half)
    (hw : s.acting w = some u) :
    Yields (.pegIoWaitArm iod p w v) s (s.dev.pegArm u (6 + b2n iod) p.toNat v.toNat) := by
  show execPegIoWaitArm iod p w v s = _
  rw [execPegIoWaitArm, asWriter_next w u _ s hw, lift_next]

/-! ### Waits on a tent's peg (R364, R371) -/

/-- The oldest wait of the peg that is not told of is told of, once WAIT_EVT is set. -/
theorem Dev.pegWaitEvent_tells (d : Dev) (t p : Nat) (x : PegWait) (hset : d.regF (tentReg t 0x40_0450) 0 16 ≠ 0)
    (hx : ((d.tent t).pegWaits.find? fun w => w.peg == p && !w.told) = some x) :
    d.pegWaitEvent t p =
      (d.modTent t fun y =>
        { y with pegWaits := y.pegWaits.map fun v => if v = x then { v with told := true } else v }).raise
          (t / 4096) 0 0x0104 t (p + x.waiter * 256 + d.peg t p * 65536) := by
  rw [Dev.pegWaitEvent, if_neg hset]
  simp only [hx]
  norm_num

/-- The granted waits are the longest front that the count covers. -/
theorem granted_longest_front (c : Nat) (ws : List PegWait) :
    ∃ rest, ws = granted c ws ++ rest ∧ ((granted c ws).map (·.n)).sum ≤ c ∧
      ∀ w ∈ rest.head?, c < ((granted c ws).map (·.n)).sum + w.n := by
  induction ws generalizing c with
  | nil => exact ⟨[], by simp [granted]⟩
  | cons w ws ih =>
    by_cases hw : w.n ≤ c
    · obtain ⟨rest, hws, hsum, hnext⟩ := ih (c - w.n)
      refine ⟨rest, ?_, ?_, fun x hx => ?_⟩ <;> simp only [granted, if_pos hw, List.map_cons, List.sum_cons]
      · rw [List.cons_append, ← hws]
      · omega
      · have hlt := hnext x hx; omega
    · exact ⟨w :: ws, by simp [granted, hw]; omega⟩

/-- An S-core whose PWAIT is granted goes on at the next instruction of its store. -/
theorem Dev.releaseWaiter_core (d : Dev) (t : Nat) {n : Nat} (hn : n < 4) (hpc : (d.core t n).pc < 4095) :
    d.releaseWaiter t n = d.setCore t n { d.core t n with pc := (d.core t n).pc + 1, wait := .none } := by
  rw [Dev.releaseWaiter, if_pos hn, Dev.corePc, if_neg (by omega)]

/-- A grant that finds one wait of a peg and enough count takes it, and releases its waiter. -/
theorem Dev.pegGrant_one (d : Dev) (t p : Nat) (w : PegWait)
    (hmine : ((d.tent t).pegWaits.filter fun x => x.peg == p) = [w]) (hw : w.n ≤ d.peg t p) :
    d.pegGrant t p = (((d.setReg (pegAddr t p) (d.peg t p - w.n)).modTent t fun x =>
      { x with pegWaits := x.pegWaits.filter (· ≠ w) }).releaseWaiter t w.waiter) := by
  have hgranted : granted (d.peg t p) [w] = [w] := by simp [granted, hw]
  simp [Dev.pegGrant, hmine, hgranted]

/-- To set a peg's count and choose among the tent's waits leaves the S-cores and the memory. -/
theorem Dev.takeWaits_frame (d : Dev) (t p v : Nat) (f : List PegWait → List PegWait) (hv : v < 2 ^ 64) :
    let e := (d.setReg (pegAddr t p) v).modTent t fun x => { x with pegWaits := f x.pegWaits }
    e.peg t p = v ∧ (e.tent t).pegWaits = f (d.tent t).pegWaits ∧ (∀ n, e.core t n = d.core t n) ∧ e.mem = d.mem := by
  refine ⟨?_, ?_, fun n => ?_, (Dev.setTent_frame _ _ _).1.trans (Dev.setReg_frame _ _ _).1⟩
  · rw [Dev.peg, Dev.modTent, Dev.reg_setTent, Dev.reg_setReg_self, Nat.mod_eq_of_lt hv]
  · rw [Dev.modTent, Dev.tent_setTent_self, Dev.tent_setReg]
  · rw [Dev.core, Dev.modTent, Dev.tent_setTent_self, Dev.tent_setReg, Dev.core]

/-- A change of an S-core leaves the pegs, their waits and the memory. -/
theorem Dev.setCore_pegs (d : Dev) (t n p : Nat) (c : Core) :
    (d.setCore t n c).peg t p = d.peg t p ∧ ((d.setCore t n c).tent t).pegWaits = (d.tent t).pegWaits ∧
      (d.setCore t n c).mem = d.mem := by
  simp [Dev.peg, Dev.setCore, Dev.modTent]

/-- A grant that finds one wait of an S-core and enough count releases that S-core. -/
theorem Dev.pegGrant_core (d : Dev) (t p : Nat) {n : Nat} (hn : n < 4) (w : PegWait)
    (hmine : ((d.tent t).pegWaits.filter fun x => x.peg == p) = [w]) (hwaiter : w.waiter = n) (hw : w.n ≤ d.peg t p)
    (hpc : (d.core t n).pc < 4095) :
    (d.pegGrant t p).peg t p = d.peg t p - w.n ∧
      ((d.pegGrant t p).tent t).pegWaits = (d.tent t).pegWaits.filter (· ≠ w) ∧
      ((d.pegGrant t p).core t n).wait = .none ∧ ((d.pegGrant t p).core t n).pc = (d.core t n).pc + 1 ∧
      (d.pegGrant t p).mem = d.mem := by
  have hlt : d.peg t p - w.n < 2 ^ 64 := Nat.sub_lt_of_lt (d.reg_lt _)
  obtain ⟨hpeg, hwaits, hcore, hmem⟩ := d.takeWaits_frame t p _ (·.filter (· ≠ w)) hlt
  rw [d.pegGrant_one t p w hmine hw, hwaiter, Dev.releaseWaiter_core _ t hn (by rw [hcore]; exact hpc), hcore]
  obtain ⟨hpeg', hwaits', hmem'⟩ := Dev.setCore_pegs _ t n p _
  exact ⟨hpeg'.trans hpeg, hwaits'.trans hwaits, by simp, by simp, hmem'.trans hmem⟩

/-- Settles O11: signals, sets, waits armed and told of, then the front of waits that a count grants. -/
theorem pegSignalsAndWaits : Obligations.PegSignalsAndWaits := by
  refine ⟨⟨Dev.pegSig_fits, fun d t p c h => ?_, fun s t p n sec addr v hplace => ?_,
    fun s w u t p addr v hw hplace => ?_, fun s iod p w u v hw hu hfree hv => ?_, fun s t p x hset hx => ?_⟩,
    granted_longest_front, fun s t p n w hmine hwaiter hw hpc => ⟨_, rfl, ?_⟩⟩
  · exact ⟨d.peg_pegSig_saturated t.isLt p.isLt h, d.sat_pegSig_saturated t.isLt p.isLt h,
      d.events_pegSig_saturated t.isLt p.isLt h⟩
  · exact yields_pegSig s _ _ addr v rfl hplace (pegTargetOf_tentReg t.isLt p.isLt) (by unfold tentReg tentRegBase; omega)
  · have ha := pegRegOf_tentReg t.isLt p.isLt (k := 8) (by omega) rfl
    exact ⟨does_pegSet_accepted s w u addr v t.isLt p.isLt hw hplace ha,
      does_pegSet_refused s w u addr v t.isLt p.isLt hw hplace ha⟩
  · exact s.dev.pegArm_below u _ _ _ hu hfree hv ▸ yields_pegIoWaitArm s iod p w u v hw
  · exact s.dev.pegWaitEvent_tells t.toNat p.toNat x hset hx ▸ rfl
  · exact s.dev.pegGrant_core t.toNat p.toNat n.isLt w hmine hwaiter hw hpc

end Sys2Proof.Machine

/-! What every command leaves of the queue and of the fuses (R405, R408 to R410), for O1, O49 and O51. -/

namespace Sys2Proof.Machine

/-! ### What a reset, a boot and a Lantern that comes back leave of the fuses -/

@[simp] theorem boot_fuses (p : Perm) (d : Dev) : (boot p d).1.fuses = p.fuses := by
  unfold boot
  dsimp only
  split
  · rfl
  · split <;> rfl

@[simp] theorem warmReset_fuses (p : Perm) (d : Dev) : (warmReset p d).1.fuses = p.fuses := by
  unfold warmReset
  split_ifs <;> simp

@[simp] theorem settle_fuses (x : Perm × Dev) : (settle x).1.fuses = x.1.fuses := by
  unfold settle
  split <;> simp

@[simp] theorem lanternReturn_fuses (p : Perm) (d : Dev) (b : Bool) : (lanternReturn p d b).1.fuses = p.fuses := by
  unfold lanternReturn
  dsimp only
  split_ifs <;> rfl

/-! ### What a command leaves of the queue and of the fuses -/

/-- What a command may burn (R405, R409): LIFECYCLE a transition of Table 18.9 for which the fuse rows have room, KSVN
bits of its thermometer, any other command nothing. -/
inductive Burns : Instr → Fuses → Fuses → Prop
  | nothing (c : Instr) (f : Fuses) : Burns c f f
  | transition (f : Fuses) (dst : Nat) (payload : List Byte) (hmove : (transition f.lifecycle dst).isSome)
      (hlog : f.lcLog.length < 16) (howner : f.lifecycle = 3 → dst = 2 → f.owners.length < 4) :
      Burns .lifecycle f (f.moved dst payload)
  | ksvn (f : Fuses) (k : Nat) : Burns .ksvn f { f with ksvn := max f.ksvn k }

/-- The next state t has the queue of s, and of its fuses only what the command may burn is burned. -/
def Leaves (c : Instr) (s t : State) : Prop := t.pending = s.pending ∧ Burns c s.perm.fuses t.perm.fuses

section
variable {c : Instr} {s t : State}

theorem Leaves.of_fuses (hq : t.pending = s.pending) (hf : t.perm.fuses = s.perm.fuses) : Leaves c s t :=
  ⟨hq, hf ▸ Burns.nothing c _⟩

theorem Leaves.asWriter {w : Writer} {f : Writer → State → Out} (hf : ∀ v, f v s = .next t → Leaves c s t)
    (h : asWriter w f s = .next t) : Leaves c s t := by
  unfold Machine.asWriter at h
  split at h
  · exact hf _ h
  · cases h
    exact .of_fuses rfl rfl

end

/-! ### Commands that may change what survives every reset -/

@[simp] theorem strikeComplete_fuses (p : Perm) (d : Dev) : (strikeComplete p d).1.fuses = p.fuses := by
  unfold strikeComplete
  dsimp only
  split
  · rfl
  · split <;> rfl

@[simp] theorem tentEvacuation_fuses (p : Perm) (d : Dev) (t : Nat) : (tentEvacuation p d t).1.fuses = p.fuses := by
  unfold tentEvacuation
  dsimp only
  split_ifs <;> rfl

@[simp] theorem standbyTakeover_fuses (p : Perm) (d : Dev) : (standbyTakeover p d).1.fuses = p.fuses := by
  unfold standbyTakeover
  dsimp only
  split_ifs <;> rfl

@[simp] theorem doTamper_fuses (p : Perm) (d : Dev) : (doTamper p d).1.fuses = p.fuses := by
  unfold doTamper
  dsimp only
  split_ifs <;> rfl

@[simp] theorem doSlot_fuses (p : Perm) (d : Dev) (blob : List Byte) : (doSlot p d blob).1.fuses = p.fuses := by
  unfold doSlot
  dsimp only
  split_ifs <;> rfl

@[simp] theorem kitLoadEnd_fuses (p : Perm) (d : Dev) (k : KitLoad) : (kitLoadEnd p d k).1.fuses = p.fuses := by
  unfold kitLoadEnd
  dsimp only
  split_ifs <;> simp [Flash.setSlot]

@[simp] theorem kitLoadFrame_fuses (p : Perm) (d : Dev) (port : Nat) (f : SbFrame) :
    (kitLoadFrame p d port f).1.fuses = p.fuses := by
  unfold kitLoadFrame
  split
  · rfl
  · dsimp only
    split_ifs <;> simp

/-- A recovery command leaves of the fuses what its action leaves. -/
theorem recoverAct_fuses {action port : Nat} {act : Perm → Dev → List Byte → Perm × Dev}
    (hact : ∀ p d c, (act p d c).1.fuses = p.fuses) (p : Perm) (d : Dev) :
    (recoverAct action port act p d).1.fuses = p.fuses := by
  unfold recoverAct
  split
  · rfl
  · split_ifs
    · rfl
    · exact hact _ _ _

/-- A signed command either leaves the fuses, or its blob passes every check and it acts (R410). -/
theorem signedCommand_fuses (typ : Nat) (act : Perm → Dev → List Byte → Perm × Dev) (p : Perm) (d : Dev) :
    (signedCommand typ act p d).1.fuses = p.fuses ∨
      ∃ b blob, blobType blob = typ ∧ d.checkBlob p b blob = 0 ∧
        (signedCommand typ act p d).1 = (act p (d.cmdResult b 0) blob).1 := by
  unfold signedCommand
  split
  · exact .inl rfl
  · next b hb =>
    split
    · exact .inl rfl
    · next blob hblob =>
      dsimp only
      split_ifs with htyp hres
      · exact .inl rfl
      · exact .inl rfl
      · exact .inr ⟨b, blob, not_not.mp htyp, not_not.mp hres, rfl⟩

theorem signedCommand_keepsFuses {typ : Nat} {act : Perm → Dev → List Byte → Perm × Dev}
    (hact : ∀ p d c, (act p d c).1.fuses = p.fuses) (p : Perm) (d : Dev) :
    (signedCommand typ act p d).1.fuses = p.fuses := by
  rcases signedCommand_fuses typ act p d with h | ⟨b, blob, -, -, h⟩
  · exact h
  · rw [h, hact]

/-- A blob that passes the checks has a signer allowed for its TYPE. -/
theorem signerAllowed_of_checkBlob {p : Perm} {d : Dev} {b : Bool} {blob : List Byte}
    (h : d.checkBlob p b blob = 0) : signerAllowed p.fuses blob = true := by
  by_contra hno
  simp only [Dev.checkBlob] at h
  split_ifs at h <;> simp_all

/-- LIFECYCLE burns a transition of Table 18.9, or nothing. -/
theorem lifecycle_burns (p : Perm) (d : Dev) :
    Burns .lifecycle p.fuses (signedCommand 1 doLifecycle p d).1.fuses := by
  rcases signedCommand_fuses 1 doLifecycle p d with h | ⟨b, blob, htyp, hcheck, h⟩
  · exact h ▸ Burns.nothing _ _
  · have hact : (doLifecycle p (d.cmdResult b 0) blob).1.fuses =
        p.fuses.moved (leAt blob 48 1) (blobPayload blob) := warmReset_fuses _ _
    rw [h, hact]
    have hallowed := signerAllowed_of_checkBlob hcheck
    simp only [signerAllowed, htyp, Bool.and_eq_true, decide_eq_true_eq] at hallowed
    obtain ⟨⟨hsigner, hlog⟩, howner⟩ := hallowed
    refine Burns.transition _ _ _ ?_ hlog fun h3 h2 => ?_
    · cases ht : transition p.fuses.lifecycle (leAt blob 48 1) with
      | none => simp [ht] at hsigner
      | some v => rfl
    · simpa [h3, h2] using howner

/-- KSVN burns bits of its thermometer, or nothing. -/
theorem ksvn_burns (p : Perm) (d : Dev) : Burns .ksvn p.fuses (signedCommand 3 doKsvn p d).1.fuses := by
  rcases signedCommand_fuses 3 doKsvn p d with h | ⟨b, blob, -, -, h⟩
  · exact h ▸ Burns.nothing _ _
  · rw [h]
    exact Burns.ksvn _ _

/-- Every command leaves the queue, and burns only what it may. -/
theorem exec_leaves (c : Instr) {s t : State} (h : exec c s = .next t) : Leaves c s t := by
  cases c with
  | lifecycle =>
    cases h
    exact ⟨rfl, lifecycle_burns s.perm s.dev⟩
  | ksvn =>
    cases h
    exact ⟨rfl, ksvn_burns s.perm s.dev⟩
  | registerWrite =>
    exact Leaves.asWriter (fun _ h => by cases h; exact .of_fuses rfl (settle_fuses _)) h
  | lanResetWarm =>
    refine Leaves.asWriter (fun v h => ?_) h
    cases h
    refine .of_fuses rfl ?_
    dsimp only
    split_ifs <;> simp
  | rowRepairDone | bankCopyDone | kitLoadTimeout =>
    cases h
    refine .of_fuses rfl ?_
    dsimp only
    split <;> rfl
  | coldReset | rstNRelease =>
    cases h
    refine .of_fuses rfl ?_
    dsimp only
    split_ifs <;> simp
  | lostLanternReturn =>
    cases h
    refine .of_fuses rfl ?_
    dsimp only
    split
    · rfl
    · split_ifs <;> simp
  | strikeComplete => cases h; exact .of_fuses rfl (strikeComplete_fuses _ _)
  | tentEvacuation => cases h; exact .of_fuses rfl (tentEvacuation_fuses _ _ _)
  | standbyBasecampTakeover => cases h; exact .of_fuses rfl (standbyTakeover_fuses _ _)
  | tamper => cases h; exact .of_fuses rfl (doTamper_fuses _ _)
  | kitLoadFrame => cases h; exact .of_fuses rfl (kitLoadFrame_fuses _ _ _ _)
  | debug | cert => cases h; exact .of_fuses rfl (signedCommand_keepsFuses (fun _ _ _ => rfl) _ _)
  | kitSlotSwap => cases h; exact .of_fuses rfl (signedCommand_keepsFuses doSlot_fuses _ _)
  | resetLanternA | resetLanternB =>
    cases h
    exact .of_fuses rfl (recoverAct_fuses (fun _ _ _ => lanternReturn_fuses _ _ _) _ _)
  | recoverWarm => cases h; exact .of_fuses rfl (recoverAct_fuses (fun _ _ _ => warmReset_fuses _ _) _ _)
  | recoverStatus | recoverWake | recoverLost | recoverKit =>
    cases h
    exact .of_fuses rfl (recoverAct_fuses (fun _ _ _ => rfl) _ _)
  | arrangeWrite | runStart | runStop | instrStoreWrite | segWorldWrite | gbankWrite | packConfigWrite
  | memoryRead | memoryWrite | memoryAccumulate | clearGo | regionWrite | tentAccumWrite | ringDoorbell
  | ringCtlWrite | retrain | qrel | jobWrite | cancel | reshard | go | pegSig | pegSet | pegIoWaitArm
  | gylArrive | gylForce | gylCountWrite | gylMaskWrite | wchCommit | wchModeWrite | wchReqWrite
  | blkWorldWrite | softReset | tentReset | portReset | bivEnter | bivWake | handover | meshPortAccess =>
    exact Leaves.asWriter (fun _ h => by cases h; exact .of_fuses rfl rfl) h
  | gather | scatter | scatterAdd | merge | intersect | convert | spprod | feed | memoryResponse | move | fill
  | moverNop | plotMovingReread | trailWrite | rdata | compl | mcast | mcComplTimeout | hostBarAccess
  | relayTimeout | st1 | st2 | st4 | st8 =>
    cases h
    exact .of_fuses rfl (settle_fuses _)
  | d2dFrameReceive | ucieLaneParityFail | ucieRetrainDone | linkUpTimeout | shutdownTemperature
  | arrangeTakeEffect | queuePushAccept | fenceDone | scratchpadAccess | segmentClearDone | gbankTakeEffect
  | transparentTestRow | pass | drain | preload | arrayClear | arrayWait | arrayNop | arrayCommandComplete
  | forageNop | forageWait | forageCommandComplete | scoutNop | select | audit | step | scoutCommandComplete
  | vecLoad | vecStore | recipe | vecReduce | vecWait | vecNop | vecCommandComplete | push | pop | drop
  | packNop | packWait | packCommandComplete | packSpill | packRefill | packGenClear | route | dispatch
  | answer | dispatchPacketArrive | answerArrive | expertGenClear | scrub | clearDone | regionLowerDone
  | moverWait | moverCommandComplete | plotBusyTimeout | groupReceive | retrainDone | trailLaneFail
  | packetTransit | nak | mcBranchAbandon | presence | partnerAbsent | wake | violation | sbRelease | train
  | recoverRsp | doorbell | functionLevelReset | perstNDeassert | pcieConfigRequest | contextCancel
  | reshardComplete | reshardDrainTimeout | reducePacket | openWaitTimeout | progressTimeout | submit | query
  | loaded | hostRelease | hold | jobStart | pegWaitGrant | pegWaitEvent | pegPacket | guylineArrivalSend
  | guylineCounterArrival | guylineUp | guylineDown | guylineRelease | guylineForcedRelease | wchCommitApply
  | quotaWindowReload | eventGrant | pllLockLoss | refclkLoss | refclkReturn | droopTrip | stretchLimit
  | blkWorldApply | heartbeat | timeSync | timeReply | eventFwd | cmdRsp | rstNAssert | evacQuiesceTimeout
  | wakeN | recalibration | watchdogFirst | watchdogSecond | heartbeatLoss | compassReport | tempWarn
  | clockGate | memoryPowerDown | laneIdleHalf | smbusBlockRead | alertClear | powerDown | inputUndervoltage
  | presenceSend | heartbeatSend | mailboxLenWrite | perstNAssert | pcieHotReset | stretchHoldoffEnd
  | lanternRecoveryTimeout | routerFailure | add | sub | and | or | xor | sll | srl | sra | slt | sltu | addi
  | andi | ori | xori | slli | srli | srai | lih | mul | mulh | mulhu | beq | bne | blt | bge | bltu | bgeu
  | jal | jr | qpush | qfree | psig | pwait | csrr | fence | halt | ld1 | ld2 | ld4 | ld8 | loadDataReturn
  | trailRead | hostCancel | jobComplete | deadlineExpiry | containedReplay | deviceLoss | cmd
  | bivouacWakeDone | recover =>
    cases h
    exact .of_fuses rfl rfl

/-- A step burns what the command at the front may burn; an idle one nothing. -/
theorem step_burns {s t : State} (h : step s = .next t) :
    s.perm.fuses = t.perm.fuses ∨ ∃ c, s.pending.head? = some c ∧ Burns c s.perm.fuses t.perm.fuses := by
  unfold step at h
  split at h
  · cases h
    exact .inl (settle_fuses (s.perm, _)).symm
  · next c rest hq =>
    obtain ⟨-, hb⟩ := exec_leaves c h
    exact .inr ⟨c, by simp [hq], hb⟩

/-- Settles O1: what every command leaves, read at the queue. -/
theorem commandsKeepTheQueue : Obligations.CommandsKeepTheQueue := fun c _ _ h => (exec_leaves c h).1

/-! ### Fuses only gain bits -/

theorem Fuses.grows_refl (f : Fuses) : f.grows f :=
  ⟨rfl, rfl, rfl, List.prefix_rfl, List.prefix_rfl, List.prefix_rfl, le_rfl⟩

theorem Fuses.grows_moved (f : Fuses) (dst : Nat) (payload : List Byte) : f.grows (f.moved dst payload) := by
  unfold Fuses.moved
  dsimp only
  split <;>
    exact ⟨rfl, rfl, rfl, by simp, by simp, by simp, le_rfl⟩

theorem Burns.grows {c : Instr} {f g : Fuses} (h : Burns c f g) : f.grows g := by
  cases h with
  | nothing => exact f.grows_refl
  | transition _ dst payload => exact f.grows_moved dst payload
  | ksvn => exact ⟨rfl, rfl, rfl, List.prefix_rfl, List.prefix_rfl, List.prefix_rfl, le_max_left _ _⟩

/-- Only LIFECYCLE and KSVN burn any. -/
theorem Burns.eq_of_ne {c : Instr} {f g : Fuses} (h : Burns c f g) (hl : c ≠ .lifecycle) (hk : c ≠ .ksvn) : g = f := by
  cases h with
  | nothing => rfl
  | transition => exact absurd rfl hl
  | ksvn => exact absurd rfl hk

/-- Settles O51: what the command at the front may burn, in its two readings. -/
theorem fusesOnlyGain : Obligations.FusesOnlyGain := by
  intro s t h
  rcases step_burns h with hf | ⟨c, hc, hb⟩
  · exact ⟨hf ▸ s.perm.fuses.grows_refl, fun _ _ => hf.symm⟩
  · exact ⟨hb.grows, fun hl hk => hb.eq_of_ne (by rintro rfl; exact hl hc) (by rintro rfl; exact hk hc)⟩

/-! ### Legal fuses stay legal (R408, R409) -/

/-- A path goes on by a transition from its last state. -/
theorem lcPath_append (x : Nat) (l : List Nat) (dst : Nat) :
    lcPath x (l ++ [dst]) = (lcPath x l && (transition (l.getLastD x) dst).isSome) := by
  induction l generalizing x with
  | nil => simp [lcPath]
  | cons y l ih => rw [List.cons_append, lcPath, ih, lcPath, List.getLastD_cons, Bool.and_assoc]

/-- Table 18.9: no transition leaves END or leads into MANUFACTURE, PROVISIONED comes after MANUFACTURE, and FIELD after
PROVISIONED or RETURN. -/
theorem transition_isSome {x y : Nat} (h : (transition x y).isSome) : x < 4 ∧ y ≠ 0 ∧ (y = 1 → x = 0) ∧
    (y = 2 → x = 1 ∨ x = 3) := by
  unfold transition at h
  split_ifs at h with hx hy
  · simp at h
  · omega
  · split at h
    iterate 4 omega
    simp at h

/-- A log that ends in PROVISIONED has that one entry: only MANUFACTURE leads there, and nothing leads to it. -/
theorem lcPath_provisioned {l : List Nat} (h : lcPath 0 l = true) (h1 : l.getLastD 0 = 1) : l = [1] := by
  rcases List.eq_nil_or_concat l with rfl | ⟨l, y, rfl⟩
  · simp at h1
  · obtain rfl : y = 1 := by simpa using h1
    rw [List.concat_eq_append, lcPath_append, Bool.and_eq_true] at h
    obtain ⟨hpath, hmove⟩ := h
    obtain ⟨-, -, hfrom, -⟩ := transition_isSome hmove
    rcases List.eq_nil_or_concat l with rfl | ⟨l, z, rfl⟩
    · rfl
    · obtain rfl : z = 0 := by simpa using hfrom rfl
      rw [List.concat_eq_append, lcPath_append, Bool.and_eq_true] at hpath
      exact absurd rfl (transition_isSome hpath.2).2.1

/-- What the fuses are legal by. -/
theorem Fuses.legal_iff (f : Fuses) : f.legal = true ↔
    lcPath 0 f.lcLog = true ∧ f.lcLog.length ≤ 16 ∧ f.owners.length = f.lcLog.count 2 ∧ f.owners.length ≤ 4 ∧
      f.revoked.length = f.lcLog.count 3 := by
  simp only [Fuses.legal, Bool.and_eq_true, decide_eq_true_eq, and_assoc]

/-- What a transition does to the fuses: its entry in the log, an OWNER slot burned into FIELD, one revoked into
RETURN (Table 18.9). -/
theorem Fuses.moved_counts (f : Fuses) (dst : Nat) (payload : List Byte) :
    (f.moved dst payload).lcLog = f.lcLog ++ [dst] ∧
      (f.moved dst payload).owners.length = f.owners.length + [dst].count 2 ∧
      (f.moved dst payload).revoked.length = f.revoked.length + [dst].count 3 := by
  unfold Fuses.moved
  dsimp only
  split
  · simp
  · simp
  · next h2 h3 => simpa [List.count_cons] using ⟨h2, h3⟩

/-- A transition into FIELD finds an OWNER slot that is not used up. -/
theorem Fuses.owners_lt {f : Fuses} (hf : f.legal = true) (hmove : (transition f.lifecycle 2).isSome)
    (howner : f.lifecycle = 3 → f.owners.length < 4) : f.owners.length < 4 := by
  obtain ⟨-, -, -, hinto⟩ := transition_isSome hmove
  rcases hinto rfl with h1 | h3
  · obtain ⟨hpath, -, hcount, -, -⟩ := f.legal_iff.mp hf
    rw [hcount, lcPath_provisioned hpath h1]
    decide
  · exact howner h3

theorem Burns.legal {c : Instr} {f g : Fuses} (h : Burns c f g) (hf : f.legal = true) : g.legal = true := by
  cases h with
  | nothing => exact hf
  | ksvn => exact hf
  | transition _ dst payload hmove hlog howner =>
    obtain ⟨hpath, -, hcount, hmax, hrevoked⟩ := f.legal_iff.mp hf
    obtain ⟨hlc, ho, hr⟩ := f.moved_counts dst payload
    rw [Fuses.legal_iff, hlc, ho, hr, List.count_append, List.count_append, List.length_append, lcPath_append]
    refine ⟨by rw [hpath]; exact hmove, by simpa using hlog, by omega, ?_, by omega⟩
    by_cases h2 : dst = 2
    · subst h2
      have hlt := f.owners_lt hf hmove fun h3 => howner h3 rfl
      simpa using hlt
    · simpa [h2] using hmax

/-- Settles O49: what the command at the front burns leaves legal fuses legal. -/
theorem lifeCycleStaysLegal : Obligations.LifeCycleStaysLegal := by
  intro s t hs h
  rcases step_burns h with hf | ⟨c, -, hb⟩
  · exact hf ▸ hs
  · exact hb.legal hs

end Sys2Proof.Machine

/-! The step of the block and the block at reset (R22, R57 to R59), for O50 and O60. -/

namespace Sys2Proof.Machine

/-! ### The step -/

/-- A tick asks for no reset. -/
theorem idle_of_tick {s : State} {e : Dev} (h : s.dev.tick s.perm = e) (hw : e.warmAsked = false) :
    idle s = .next { s with dev := e } := by
  subst h
  exact liftBus_next _ s hw

theorem step_idle {s : State} (h : s.pending = []) : step s = idle s := by
  rw [step, h]

/-- Settles O60: the two cases of a queue, then what a tick does where the module does not run. -/
theorem stepRunsFrontCommand : Obligations.StepRunsFrontCommand := by
  refine ⟨⟨fun _ _ => rfl, fun s h => step_idle h⟩, fun s hq hw => ⟨fun hp => ?_, fun hp => ?_⟩⟩ <;> rw [step_idle hq]
  · exact idle_of_tick (if_pos hp) hw
  · have hon : ¬(s.dev.power = .off ∨ s.dev.power = .logicOff) := by rcases hp with h | h | h <;> simp [h]
    have hrun : ¬s.dev.power = .on := by rcases hp with h | h | h <;> simp [h]
    exact idle_of_tick ((if_neg hon).trans (if_neg hrun)) hw

/-! ### Tent registers at reset -/

/-- Below the instruction stores, a tent's window is registers. -/
theorem regionOf_tentReg_low {t o : Nat} (ht : t < 16384) (ho : o < 0x1_0000) :
    regionOf (tentReg t o) = .tentR t o := by
  have hdiv : (tentReg t o - tentRegBase) / 0x100_0000 = t := by unfold tentReg; omega
  have hmod : (tentReg t o - tentRegBase) % 0x100_0000 = o := by unfold tentReg; omega
  have hfrom : tentRegBase ≤ tentReg t o := by unfold tentReg; omega
  have hto := tentReg_lt_spareRegBase ht (by omega : o < 0x100_0000)
  generalize tentReg t o = a at hdiv hmod hfrom hto
  have hhbm : ¬a < hbmEnd := by unfold tentRegBase at hfrom; unfold hbmEnd; omega
  have hlp : ¬(lpBase ≤ a ∧ a < lpEnd) := by unfold tentRegBase at hfrom; unfold lpEnd; omega
  have htent : ¬(tentBase ≤ a ∧ a < tentBase + 0x8000_0000) := by unfold tentRegBase at hfrom; unfold tentBase; omega
  have hwin : tentRegBase ≤ a ∧ a < spareRegBase + 0x1_0000_0000 := ⟨hfrom, Nat.lt_add_right _ hto⟩
  have hstore : ¬(0x1_0000 ≤ (a - tentRegBase) % 0x100_0000 ∧ (a - tentRegBase) % 0x100_0000 < 0x2_0000) := by omega
  simp only [regionOf, if_neg hhbm, if_neg hlp, if_neg htent, if_pos hwin, if_neg hstore]
  rw [hdiv, hmod]

theorem tentRows_low {o : Nat} (ho : o < 0x1_0000) : tentRows o = rowsTnt := by
  have hdiv : o / 0x10_0000 = 0 := by omega
  simp only [tentRows, hdiv]

/-- No watch table lies below the event tables of a tent (Table 16.4). -/
theorem wchBaseOf_tentR_low {a t o : Nat} (hr : regionOf a = .tentR t o) (ho : o < 0x50_0000) : wchBaseOf a = none := by
  simp only [wchBaseOf, hr]
  exact if_neg (by omega)

/-- A tent's register is its own home copy (R239). -/
theorem homeOf_tentR {a t o : Nat} (hr : regionOf a = .tentR t o) : homeOf a = a := by
  simp only [homeOf, hr]

/-- A register of a tent below its watch tables is found in the tables of its window. -/
theorem regAt_tentR {a t o o' i : Nat} {r : RegRow} (hr : regionOf a = .tentR t o) (ho : o < 0x50_0000)
    (hrow : findRow (tentRows o) o = some (o', i, r)) : regAt a = some ⟨tentReg t o', i, r⟩ := by
  unfold regAt
  simp only [wchBaseOf_tentR_low hr ho, homeOf_tentR hr, hr, hrow, Option.map_some]

theorem regReset_tentR {a t o : Nat} {x : RegAt} (hr : regionOf a = .tentR t o) (hat : regAt a = some x) :
    regReset a = BitVec.ofNat 64 (rowReset x.row.fields) := by
  simp only [regReset, hat, hr]

/-- The reset value of a tent's own registers is that of their row of TNT. -/
theorem regReset_tentReg {t o o' i : Nat} {r : RegRow} (ht : t < 16384) (ho : o < 0x1_0000)
    (hrow : findRow rowsTnt o = some (o', i, r)) : regReset (tentReg t o) = BitVec.ofNat 64 (rowReset r.fields) :=
  have hr := regionOf_tentReg_low ht ho
  regReset_tentR hr (regAt_tentR hr (by omega) (tentRows_low ho ▸ hrow))

/-- At reset a register reads its reset value. -/
theorem reg_reset (a : Nat) : State.reset.dev.reg a = (regReset a).toNat := rfl

/-- No context is open at reset. -/
theorem openCtxs_reset : State.reset.dev.openCtxs = [] := by
  decide

/-- Settles O50: empty lists and default values, then each tent register by its row. -/
theorem resetState : Obligations.ResetState := by
  refine ⟨⟨rfl, rfl, rfl, rfl, rfl, openCtxs_reset, by decide, by decide, by decide, fun _ _ => rfl, fun t ht => ?_⟩, rfl⟩
  refine ⟨?_, ?_, ?_, ?_, ?_⟩ <;> rw [reg_reset, regReset_tentReg ht (by omega) rfl] <;> rfl

end Sys2Proof.Machine

/-! S-cores (R36 to R40, R465), for O2 to O6. -/

namespace Sys2Proof.Machine

/-! ### One instruction -/

section
variable {s : State} {t : TentId} {n : CoreNo} {op : Nat} {act : Nat → Nat → Ins → Dev → Dev}

/-- A row of an S-core that stands before an instruction of the row's opcode is the row's action. -/
theorem insRow_before (h : s.dev.before t.toNat n.toNat op = true) :
    insRow t n op act s =
      .next { s with dev := act t.toNat n.toNat (s.dev.fetchIns t.toNat n.toNat) s.dev } := by
  rw [insRow, lift_next, execIns_before _ _ _ _ _ h]

theorem fetchIns_op (h : s.dev.before t.toNat n.toNat op = true) : (s.dev.fetchIns t.toNat n.toNat).op = op :=
  ((before_iff _ _ _ _).mp h).2.2.2.2.2.2

end

/-- After a register write the next instruction follows. -/
theorem Dev.coreNext_setSreg (d : Dev) (t n k : Nat) (v : Word) :
    (d.setSreg t n k v).coreNext t n = (d.setSreg t n k v).corePc t n ((d.core t n).pc + 1) := by
  simp [Dev.coreNext]

/-! ### imm16 -/

theorem fetchIns_imm_lt (d : Dev) (t n : Nat) : (d.fetchIns t n).imm < 2 ^ 16 := Nat.mod_lt _ (by decide)

/-- imm16 zero-extended, of a field of 16 bits. -/
theorem Ins.zimm_eq {i : Ins} (h : i.imm < 2 ^ 16) : i.zimm = (BitVec.ofNat 16 i.imm).zeroExtend 64 := by
  apply BitVec.eq_of_toNat_eq
  simp only [Ins.zimm, BitVec.toNat_ofNat, BitVec.zeroExtend, BitVec.toNat_setWidth]
  omega

theorem Ins.zimm_toNat {i : Ins} (h : i.imm < 2 ^ 16) : i.zimm.toNat = (BitVec.ofNat 16 i.imm).toNat := by
  simp only [Ins.zimm, BitVec.toNat_ofNat]
  omega

theorem wordOf_slt (x y : Word) : wordOf (x.slt y) = if x.toInt < y.toInt then 1 else 0 := by
  simp [wordOf, BitVec.slt_iff_toInt_lt]

theorem wordOf_ult (x y : Word) : wordOf (x.ult y) = if x.toNat < y.toNat then 1 else 0 := by
  simp [wordOf, BitVec.ult]

/-! ### Arithmetic -/

/-- The result of a register-form row, in the terms of Table 2.5. -/
theorem opR_eq (f g : Word → Word → Word) (h : ∀ x y, f x y = g x y) (t n : Nat) (i : Ins) (d : Dev) :
    opR f t n i d = (d.setSreg t n i.d (g (d.sreg t n i.a) (d.sreg t n i.b))).corePc t n ((d.core t n).pc + 1) := by
  rw [opR, Dev.coreNext_setSreg, h]

/-- The result of an immediate-form row. -/
theorem opI_eq (f : Word → Word → Word) (imm : Ins → Word) (g : Word → BitVec 16 → Word) {i : Ins}
    (h : ∀ x, f x (imm i) = g x (BitVec.ofNat 16 i.imm)) (t n : Nat) (d : Dev) :
    opI f imm t n i d =
      (d.setSreg t n i.d (g (d.sreg t n i.a) (BitVec.ofNat 16 i.imm))).corePc t n ((d.core t n).pc + 1) := by
  rw [opI, Dev.coreNext_setSreg, h]

/-- A register-form row does as its entry of Table 2.5 says. -/
def RegisterRow (r : (TentId → CoreNo → Instr) × Nat × (Word → Word → Word)) : Prop :=
  ∃ f, (∀ x y, f x y = r.2.2 x y) ∧ ∀ t n s, exec (r.1 t n) s = insRow t n r.2.1 (opR f) s

theorem registerRows : ∀ r ∈ scoreRegisterRows, RegisterRow r := by
  simp only [scoreRegisterRows, List.forall_mem_cons, List.not_mem_nil, false_implies, implies_true, and_true]
  refine ⟨⟨_, ?_, fun _ _ _ => rfl⟩, ⟨_, ?_, fun _ _ _ => rfl⟩, ⟨_, ?_, fun _ _ _ => rfl⟩, ⟨_, ?_, fun _ _ _ => rfl⟩,
    ⟨_, ?_, fun _ _ _ => rfl⟩, ⟨_, ?_, fun _ _ _ => rfl⟩, ⟨_, ?_, fun _ _ _ => rfl⟩, ⟨_, ?_, fun _ _ _ => rfl⟩,
    ⟨_, wordOf_slt, fun _ _ _ => rfl⟩, ⟨_, wordOf_ult, fun _ _ _ => rfl⟩, ⟨_, ?_, fun _ _ _ => rfl⟩,
    ⟨_, ?_, fun _ _ _ => rfl⟩, ⟨_, ?_, fun _ _ _ => rfl⟩⟩ <;> exact fun _ _ => rfl

theorem RegisterRow.yields {r : (TentId → CoreNo → Instr) × Nat × (Word → Word → Word)} (hr : RegisterRow r)
    {s : State} {t : TentId} {n : CoreNo} (h : s.dev.before t.toNat n.toNat r.2.1 = true) :
    let d := s.dev
    let i := d.fetchIns t.toNat n.toNat
    Yields (r.1 t n) s
      ((d.setSreg t.toNat n.toNat i.d (r.2.2 (d.sreg t.toNat n.toNat i.a) (d.sreg t.toNat n.toNat i.b))).corePc
        t.toNat n.toNat ((d.core t.toNat n.toNat).pc + 1)) := by
  obtain ⟨f, hf, hexec⟩ := hr
  intro d i
  rw [Yields, hexec, insRow_before h, opR_eq f r.2.2 hf]

/-- An immediate-form row does as its entry of Table 2.5 says. -/
def ImmediateRow (r : (TentId → CoreNo → Instr) × Nat × (Word → BitVec 16 → Word)) : Prop :=
  ∃ f imm, (∀ i : Ins, i.imm < 2 ^ 16 → ∀ x, f x (imm i) = r.2.2 x (BitVec.ofNat 16 i.imm)) ∧
    ∀ t n s, exec (r.1 t n) s = insRow t n r.2.1 (opI f imm) s

theorem immediateRows : ∀ r ∈ scoreImmediateRows, ImmediateRow r := by
  simp only [scoreImmediateRows, List.forall_mem_cons, List.not_mem_nil, false_implies, implies_true, and_true]
  refine ⟨⟨_, _, ?addi, fun _ _ _ => rfl⟩, ⟨_, _, ?andi, fun _ _ _ => rfl⟩, ⟨_, _, ?ori, fun _ _ _ => rfl⟩,
    ⟨_, _, ?xori, fun _ _ _ => rfl⟩, ⟨_, _, ?slli, fun _ _ _ => rfl⟩, ⟨_, _, ?srli, fun _ _ _ => rfl⟩,
    ⟨_, _, ?srai, fun _ _ _ => rfl⟩⟩
  case addi => exact fun _ _ _ => rfl
  case andi => exact fun _ hi x => congrArg (x &&& ·) (Ins.zimm_eq hi)
  case ori => exact fun _ hi x => congrArg (x ||| ·) (Ins.zimm_eq hi)
  case xori => exact fun _ hi x => congrArg (x ^^^ ·) (Ins.zimm_eq hi)
  case slli => exact fun _ hi x => congrArg (x <<< ·) (Ins.zimm_toNat hi)
  case srli => exact fun _ hi x => congrArg (x >>> ·) (Ins.zimm_toNat hi)
  case srai => exact fun _ hi x => congrArg x.sshiftRight (Ins.zimm_toNat hi)

theorem ImmediateRow.yields {r : (TentId → CoreNo → Instr) × Nat × (Word → BitVec 16 → Word)} (hr : ImmediateRow r)
    {s : State} {t : TentId} {n : CoreNo} (h : s.dev.before t.toNat n.toNat r.2.1 = true) :
    let d := s.dev
    let i := d.fetchIns t.toNat n.toNat
    Yields (r.1 t n) s
      ((d.setSreg t.toNat n.toNat i.d (r.2.2 (d.sreg t.toNat n.toNat i.a) (BitVec.ofNat 16 i.imm))).corePc
        t.toNat n.toNat ((d.core t.toNat n.toNat).pc + 1)) := by
  obtain ⟨f, imm, hf, hexec⟩ := hr
  intro d i
  rw [Yields, hexec, insRow_before h, opI_eq f imm r.2.2 (hf _ (fetchIns_imm_lt _ _ _))]

theorem yields_lih {s : State} {t : TentId} {n : CoreNo} (h : s.dev.before t.toNat n.toNat 0x12 = true) :
    let d := s.dev
    let i := d.fetchIns t.toNat n.toNat
    Yields (.lih t n) s
      ((d.setSreg t.toNat n.toNat i.d ((d.sreg t.toNat n.toNat i.d <<< 16) ||| BitVec.ofNat 64 i.imm)).corePc
        t.toNat n.toNat ((d.core t.toNat n.toNat).pc + 1)) := by
  intro d i
  exact (insRow_before h).trans (by rw [opLih, Dev.coreNext_setSreg]; rfl)

/-- Settles O2: s0 and the other registers, then the rows of Table 2.5 one form at a time. -/
theorem scoreArithmetic : Obligations.ScoreArithmetic := by
  refine ⟨⟨fun _ => rfl, fun _ _ => rfl, fun c k v hk => ?_, fun c k j v hj => ?_⟩,
    fun r hr s t n h => (registerRows r hr).yields h, fun r hr s t n h => (immediateRows r hr).yields h,
    fun s t n h => yields_lih h⟩
  · rw [Core.get_set, if_neg hk, if_pos rfl]
  · rw [Core.get_set, if_neg hj]
    exact ite_eq_right_iff.mpr fun h0 => by rw [h0]; rfl

/-! ### Branches and jumps -/

theorem signed16_eq (x : Nat) : signed 16 x = (BitVec.ofNat 16 x).toInt := by
  simp only [signed, BitVec.toInt, BitVec.toNat_ofNat, Int.ofNat_eq_natCast]
  split_ifs <;> omega

theorem targetOf_eq (i : Ins) (pc : Nat) :
    targetOf pc i = unsigned 64 ((pc : Int) + (BitVec.ofNat 16 i.imm).toInt) := by
  rw [targetOf, signed16_eq]

/-- A branch row branches on its condition of Table 2.5. -/
def BranchRow (r : (TentId → CoreNo → Instr) × Nat × (Word → Word → Bool)) : Prop :=
  ∃ f, (∀ x y, f x y = r.2.2 x y) ∧ ∀ t n s, exec (r.1 t n) s = insRow t n r.2.1 (opBranch f) s

theorem slt_eq (x y : Word) : x.slt y = decide (x.toInt < y.toInt) := rfl

theorem branchRows : ∀ r ∈ scoreBranchRows, BranchRow r := by
  simp only [scoreBranchRows, List.forall_mem_cons, List.not_mem_nil, false_implies, implies_true, and_true]
  refine ⟨⟨_, ?beq, fun _ _ _ => rfl⟩, ⟨_, ?bne, fun _ _ _ => rfl⟩, ⟨_, ?blt, fun _ _ _ => rfl⟩,
    ⟨_, ?bge, fun _ _ _ => rfl⟩, ⟨_, ?bltu, fun _ _ _ => rfl⟩, ⟨_, ?bgeu, fun _ _ _ => rfl⟩⟩ <;> intro x y
  case beq => exact beq_eq_decide x y
  case bne => exact Bool.eq_iff_iff.mpr (by simp)
  case blt => rfl
  case bge => simp only [slt_eq, ← decide_not, not_lt]
  case bltu => rfl
  case bgeu => simp only [BitVec.ult, ← decide_not, not_lt]

theorem BranchRow.yields {r : (TentId → CoreNo → Instr) × Nat × (Word → Word → Bool)} (hr : BranchRow r)
    {s : State} {t : TentId} {n : CoreNo} (h : s.dev.before t.toNat n.toNat r.2.1 = true) :
    let d := s.dev
    let i := d.fetchIns t.toNat n.toNat
    let pc := (d.core t.toNat n.toNat).pc
    Yields (r.1 t n) s
      (d.corePc t.toNat n.toNat
        (if r.2.2 (d.sreg t.toNat n.toNat i.d) (d.sreg t.toNat n.toNat i.a) then
          unsigned 64 ((pc : Int) + (BitVec.ofNat 16 i.imm).toInt) else pc + 1)) := by
  obtain ⟨f, hf, hexec⟩ := hr
  intro d i pc
  rw [Yields, hexec, insRow_before h, opBranch, hf, targetOf_eq]

/-- Settles O3: the branch rows, then the two jumps. -/
theorem scoreBranchesAndJumps : Obligations.ScoreBranchesAndJumps := by
  refine ⟨fun r hr s t n h => (branchRows r hr).yields h, fun s t n h => ?_, fun s t n h => insRow_before h⟩
  exact (insRow_before h).trans (by rw [opJal, targetOf_eq])

/-! ### Loads and fences -/

/-- A row of a load that has the width of its opcode. -/
def LoadRow (r : (TentId → CoreNo → Instr) × Nat × Nat) : Prop :=
  accessSize r.2.1 = r.2.2 ∧ r.2.1 = 0x20 + Nat.log2 r.2.2 ∧ ∀ t n s, exec (r.1 t n) s = loadRow t n r.2.1 s

theorem loadRows : ∀ r ∈ scoreLoadRows, LoadRow r := by
  simp only [scoreLoadRows, List.forall_mem_cons, List.not_mem_nil, false_implies, implies_true, and_true]
  exact ⟨⟨rfl, by decide, fun _ _ _ => rfl⟩, ⟨rfl, by decide, fun _ _ _ => rfl⟩, ⟨rfl, by decide, fun _ _ _ => rfl⟩,
    ⟨rfl, by decide, fun _ _ _ => rfl⟩⟩

/-- A load that stands before its instruction, its width and opcode those of its row. -/
theorem LoadRow.yields {r : (TentId → CoreNo → Instr) × Nat × Nat} (hr : LoadRow r) {s : State} {t : TentId}
    {n : CoreNo} (h : s.dev.before t.toNat n.toNat r.2.1 = true) {e : Dev}
    (he : opLoad s.perm t.toNat n.toNat (s.dev.fetchIns t.toNat n.toNat) s.dev = e) : Yields (r.1 t n) s e := by
  rw [Yields, hr.2.2, loadRow, liftP_next, execIns_before _ _ _ _ _ h, he]

section
variable (d : Dev) (p : Perm) (t n : Nat) (i : Ins)

theorem opLoad_misaligned (h : d.insAddr t n i % accessSize i.op ≠ 0) :
    opLoad p t n i d = d.coreFault t n 0x02 i.op (d.insAddr t n i) (d.core t n).pc := if_pos h

variable (h : d.insAddr t n i % accessSize i.op = 0)
include h

theorem opLoad_bad (hp : d.place (d.insAddr t n i) = .bad) :
    opLoad p t n i d = d.coreFault t n 0x04 i.op (d.insAddr t n i) (d.core t n).pc := by
  simp [opLoad, h, hp, Dev.insFault]

theorem opLoad_elsewhere {a : Nat} (hp : d.place (d.insAddr t n i) = .here a) (ho : ownTent t a = false) :
    opLoad p t n i d = d.setCore t n
      { d.core t n with wait := .load i.d (accessSize i.op) (BitVec.ofNat 64 (d.insAddr t n i)) none } := by
  simp [opLoad, h, hp, ho]

theorem opLoad_own {a : Nat} (hp : d.place (d.insAddr t n i) = .here a) (ho : ownTent t a = true)
    (hh : d.heldHere a (accessSize i.op) = false) :
    opLoad p t n i d = (d.readHere p (d.coreWriter t n) a (accessSize i.op)).2.loadReturn t n i.d (accessSize i.op)
      (d.insAddr t n i) (d.readHere p (d.coreWriter t n) a (accessSize i.op)).1 := by
  simp [opLoad, h, hp, ho, hh]

end

/-- What a load returns with: data, or the fault of its status. -/
theorem Dev.loadReturn_ok (d : Dev) (t n rd size addr : Nat) (a : Answer) (h : a.status = 0) :
    d.loadReturn t n rd size addr a =
      (d.setSreg t n rd (BitVec.ofNat 64 (leNat a.data))).corePc t n ((d.core t n).pc + 1) := by
  rw [Dev.loadReturn, if_pos h, Dev.coreNext_setSreg]

theorem Dev.loadReturn_fault (d : Dev) (t n rd size addr : Nat) (a : Answer) (h : a.status ≠ 0) :
    d.loadReturn t n rd size addr a =
      d.coreFault t n (coreCause a.status) (0x20 + Nat.log2 size) addr (d.core t n).pc := if_neg h

section
variable (d : Dev) (t n : Nat) (hh : d.halted = false) (hs : (d.core t n).stopPending = false)
include hh hs

/-- An S-core that waits for a load takes the answer that has come. -/
theorem Dev.dataReturn_answered (p : Perm) {rd size : Nat} {addr : Word} {a : Answer}
    (hw : (d.core t n).wait = .load rd size addr (some a)) :
    d.dataReturn p t n = d.loadReturn t n rd size addr.toNat a := by
  simp [Dev.dataReturn, applyStop_eq d t n hs, hh, hw]

theorem Dev.fenceDone_fenced (hw : (d.core t n).wait = .fence) (hf : d.fenced t n = true) :
    d.fenceDone t n = d.corePc t n ((d.core t n).pc + 1) := by
  simp [Dev.fenceDone, applyStop_eq d t n hs, hh, hw, hf, Dev.coreNext]

end

/-- Every earlier store of the S-core has landed: none on its way is its own. -/
theorem Dev.fenced_iff (d : Dev) (t n : Nat) : d.fenced t n = true ↔ ∀ x ∈ d.stores, ¬(x.t = t ∧ x.core = n) := by
  simp [Dev.fenced]

/-- Settles O5: a load by where its address leads, then the answers and fences that an S-core waits for. -/
theorem scoreLoads : Obligations.ScoreLoads := by
  refine ⟨fun r hr s t n h => ?_, fun s t n rd size addr a => ?_, fun s t n h => ⟨fun hf => ?_, ?_⟩,
    fun s t n => ?_⟩
  · have hrow := loadRows r hr
    obtain ⟨hsize, hop, -⟩ := id hrow
    have hi := fetchIns_op h
    rw [← hsize] at hop ⊢
    intro d i x
    change i.op = r.2.1 at hi
    rw [← hi] at hop ⊢
    refine ⟨fun hx => ?_, fun hx hp => ?_, fun a hx hp => ⟨fun ho => ?_, fun ho hheld => ?_⟩⟩
    · exact hrow.yields h (opLoad_misaligned d s.perm _ _ i hx)
    · exact hrow.yields h (opLoad_bad d s.perm _ _ i hx hp)
    · exact hrow.yields h (opLoad_elsewhere d s.perm _ _ i hx hp ho)
    · have hown := opLoad_own d s.perm _ _ i hx hp ho hheld
      refine ⟨fun hst => ?_, fun hst => ?_⟩
      · exact hrow.yields h (hown.trans (Dev.loadReturn_ok _ _ _ _ _ _ _ hst))
      · refine hrow.yields h (hown.trans ((Dev.loadReturn_fault _ _ _ _ _ _ _ hst).trans ?_))
        rw [← hop]
        rfl
  · intro d hh hs hw
    have hret := d.dataReturn_answered _ _ hh hs s.perm hw
    refine ⟨fun hst => ?_, fun hst => ?_⟩
    · exact congrArg (fun e => Host.Outcome.next { s with dev := e }) (hret.trans (Dev.loadReturn_ok _ _ _ _ _ _ _ hst))
    · exact congrArg (fun e => Host.Outcome.next { s with dev := e }) (hret.trans (Dev.loadReturn_fault _ _ _ _ _ _ _ hst))
  · exact (insRow_before h).trans (by rw [opFence, if_pos ((Dev.fenced_iff _ _ _).mpr hf)]; rfl)
  · rintro ⟨x, hx, hxt⟩
    have hno : ¬s.dev.fenced t.toNat n.toNat = true := fun hf => (Dev.fenced_iff _ _ _).mp hf x hx hxt
    exact (insRow_before h).trans (by rw [opFence, if_neg hno])
  · intro d hh hs hw hf
    exact congrArg (fun e => Host.Outcome.next { s with dev := e })
      (d.fenceDone_fenced _ _ hh hs hw ((Dev.fenced_iff _ _ _).mpr hf))

/-! ### Stores -/

/-- S-core 0 of tent 0 before an ST2 at address 1, in an access that has asked for a WARM reset. -/
def misalignedSt2 : Dev :=
  { mem := putAll byte0 [] (storeAddr 0 0 0) (leBytes 4 (0x25 * 2 ^ 26 + 1))
    tents := [(0, { cores := [(0, { running := true })] })]
    warmAsked := true }

/-- Whether a WARM reset is asked for after a command. -/
def warmAskedAfter (o : Out) : Option Bool :=
  match o with
  | .next s => some s.dev.warmAsked
  | _ => none

/-- Refutes O4: a store is an access that may ask for a WARM reset, and one asked for already is made with it (R424);
the statement leaves the request standing. -/
theorem not_scoreStores : ¬ Obligations.ScoreStores := by
  intro h
  obtain ⟨hmisaligned, -⟩ := h (.st2, 0x25, 2) (by simp [scoreStoreRows]) { dev := misalignedSt2 } 0 0 (by decide +kernel)
  have hnext := hmisaligned (by decide +kernel)
  have hreset : warmAskedAfter (exec (.st2 0 0) { dev := misalignedSt2 }) = some false := by decide +kernel
  rw [hnext] at hreset
  exact absurd hreset (by decide +kernel)

/-! ### QPUSH -/

/-- S-core 0 of tent 0 before a QPUSH of s4 to s7 to queue 0, with an INT8 PASS in those registers. -/
def qpushOfPass : Dev :=
  { mem := putAll byte0 [] (storeAddr 0 0 0) (leBytes 4 (0x28 * 2 ^ 26 + 4 * 2 ^ 16))
    tents := [(0, { cores := [(0, { running := true, regs := [(4, 1 + 8 * 2 ^ 32 + 8 * 2 ^ 36)] })] })] }

/-- The tile buffer of queue 0 of tent 0 after a command. -/
def tilesAfter (o : Out) : Option (List Tile) :=
  match o with
  | .next s => some (s.dev.queue 0 0).tiles
  | _ => none

/-- Refutes O6: where a PASS enters the queue of an array, the tile buffer reads its image at once (R88), which the
statement's next state does not. -/
theorem not_scoreQueuesPegsHalt : ¬ Obligations.ScoreQueuesPegsHalt := by
  rintro ⟨⟨hqpush, -⟩, -⟩
  obtain ⟨haccepted, -⟩ := hqpush { dev := qpushOfPass } 0 0 (by decide +kernel)
  have hnext := haccepted (by decide +kernel) (by decide +kernel) (by decide +kernel)
  have hread : tilesAfter (exec (.qpush 0 0) { dev := qpushOfPass }) = some [⟨List.replicate 128 0, none⟩] := by
    decide +kernel
  rw [hnext] at hread
  exact absurd hread (by decide +kernel)

end Sys2Proof.Machine

/-! The accumulator of a lane (R64, R67, R70), for O19. -/

namespace Sys2Proof.Machine

/-! ### The exact sum a lane holds (R64) -/

/-- The lane that holds t exactly: I the nearest part of 96 bits, W the rest. -/
def Lane.holding (l : Lane) (t : Int) : Lane := { l with i := t - (t + 2 ^ 95) / two96 * two96, w := (t + 2 ^ 95) / two96 }

/-- t lies within the accumulator, short of W's limits (R70). -/
def withinRange (t : Int) : Prop := -(32766 * 2 ^ 96) < t ∧ t < 32766 * 2 ^ 96

theorem Lane.holding_total (l : Lane) (t : Int) : (l.holding t).total = t := by
  simp only [Lane.total, Lane.holding]
  omega

theorem Lane.holding_holding (l : Lane) (t u : Int) : (l.holding t).holding u = l.holding u := rfl

/-- A lane whose I lies in its 96 bits holds its own total. -/
theorem Lane.holding_self (l : Lane) (hlo : -(2 ^ 95) ≤ l.i) (hhi : l.i < 2 ^ 95) : l.holding l.total = l := by
  have hw : (l.total + 2 ^ 95) / two96 = l.w := by
    simp only [Lane.total, two96]
    omega
  simp only [Lane.holding, hw]
  simp [Lane.total]

theorem holding_w_bounds {t : Int} (h : withinRange t) :
    -32768 < (t + 2 ^ 95) / two96 ∧ (t + 2 ^ 95) / two96 < 32767 := by
  obtain ⟨hlo, hhi⟩ := h
  unfold two96
  omega

theorem Lane.holding_unsaturated (l : Lane) {t : Int} (h : withinRange t) : (l.holding t).saturated = false := by
  obtain ⟨hlo, hhi⟩ := holding_w_bounds h
  simp only [Lane.saturated, Lane.holding, Bool.or_eq_false_iff, beq_eq_false_iff_ne]
  exact ⟨by omega, by omega⟩

/-- A contribution within the range adds exactly. -/
theorem Lane.addInt_holding (l : Lane) {t x : Int} (ht : withinRange t) (hx : withinRange (t + x)) :
    ((l.holding t).addInt x).1 = l.holding (t + x) := by
  obtain ⟨hlo, hhi⟩ := holding_w_bounds hx
  rw [Lane.addInt, l.holding_unsaturated ht, if_neg Bool.false_ne_true, Lane.holding_total, Lane.setTotal]
  simp only [ge_iff_le, if_neg (by omega : ¬(32767 : Int) ≤ (t + x + 2 ^ 95) / two96),
    if_neg (by omega : ¬(t + x + 2 ^ 95) / two96 ≤ -32768)]
  rfl

/-- Contributions whose magnitudes stay within the accumulator leave their exact sum. -/
theorem Lane.foldl_addInt (l : Lane) (zs : List Int) (t : Int)
    (h : (t.natAbs : Int) + (zs.map fun x => (x.natAbs : Int)).sum < 32766 * 2 ^ 96) :
    zs.foldl (fun k x => (k.addInt x).1) (l.holding t) = l.holding (t + zs.sum) ∧ withinRange (t + zs.sum) := by
  induction zs generalizing t with
  | nil =>
    simp only [List.map_nil, List.sum_nil] at h
    exact ⟨by simp, by unfold withinRange; simp only [List.sum_nil]; omega⟩
  | cons x zs ih =>
    have hrest : 0 ≤ (zs.map fun x => (x.natAbs : Int)).sum :=
      List.sum_nonneg fun y hy => by obtain ⟨z, -, rfl⟩ := List.mem_map.mp hy; omega
    simp only [List.map_cons, List.sum_cons] at h
    have hstep := l.addInt_holding (t := t) (x := x) (by unfold withinRange; omega) (by unfold withinRange; omega)
    obtain ⟨hfold, hin⟩ := ih (t + x) (by omega)
    rw [List.foldl_cons, hstep, hfold, List.sum_cons, ← Int.add_assoc]
    exact ⟨rfl, hin⟩

/-! ### Special values (R67) -/

/-- The special states of a lane join in any order. -/
theorem joinS_right_comm : ∀ s < 4, ∀ x < 4, ∀ y < 4, joinS (joinS s x) y = joinS (joinS s y) x := by decide

/-- NaN stays. -/
theorem joinS_three (x : Nat) : joinS 3 x = 3 := by
  simp [joinS]

/-- Settles O19: within the range every order leaves the lane that holds the exact sum; saturation and special values are
read off their definitions. -/
theorem accumulatorIsOrderFree : Obligations.AccumulatorIsOrderFree := by
  refine ⟨fun l xs ys hp h hlo hhi => ?_, fun l x hs => if_pos hs, fun l sref hs h0 => ?_, fun l x y hx hy hs => ?_,
    fun l x hs => ?_⟩
  · have hself := l.holding_self hlo hhi
    have hys := (hp.map fun x : Int => (x.natAbs : Int)).sum_eq ▸ h
    obtain ⟨hfx, hin⟩ := l.foldl_addInt xs l.total h
    obtain ⟨hfy, -⟩ := l.foldl_addInt ys l.total hys
    rw [hself] at hfx hfy
    dsimp only
    rw [hfx, hfy, hp.sum_eq]
    exact ⟨rfl, l.holding_total _, rfl, l.holding_unsaturated (hp.sum_eq ▸ hin)⟩
  · simp [drainFp, h0, hs]
  · exact congrArg (fun k => { l with s := k }) (joinS_right_comm l.s hs x hx y hy)
  · have hjoin : joinS l.s x = l.s := by rw [hs, joinS_three]
    simp [Lane.special, hjoin]

end Sys2Proof.Machine

/-! Selection (R137): the order of candidates, and the candidates that rank first, for O22. -/

namespace Sys2Proof.Machine

/-! ### The order of values -/

/-- The value of a finite number. -/
def finVal (s : Bool) (m : Nat) (e : Int) : ℚ := sgnInt s m * 2 ^ e

/-- The value of a number as a point of the extended line; NaN has none and stands at the bottom. -/
def Num.point : Num → WithBot (WithTop ℚ)
  | .fin s m e => ((finVal s m e : ℚ) : WithTop ℚ)
  | .inf true => ⊥
  | .inf false => ((⊤ : WithTop ℚ) : WithBot (WithTop ℚ))
  | .nan _ => ⊥

/-- A finite value at a smaller exponent. -/
theorem finVal_shift (s : Bool) (m : Nat) {e q : Int} (h : q ≤ e) :
    finVal s (m * 2 ^ (e - q).toNat) q = finVal s m e := by
  have hexp : (2 : ℚ) ^ e = 2 ^ (e - q).toNat * 2 ^ q := by
    rw [← zpow_natCast, Int.toNat_of_nonneg (by omega), ← zpow_add₀ (by norm_num)]
    congr 1
    omega
  cases s <;> simp [finVal, sgnInt, hexp, mul_assoc]

theorem Num.lt_fin (s t : Bool) (m n : Nat) (e k : Int) :
    (Num.fin s m e).lt (.fin t n k) = true ↔ finVal s m e < finVal t n k := by
  rw [← finVal_shift s m (min_le_left e k), ← finVal_shift t n (min_le_right e k), finVal, finVal,
    mul_lt_mul_iff_left₀ (by positivity), Int.cast_lt]
  simp [Num.lt]

/-- The strict order of values is that of their points. -/
theorem Num.lt_iff {x y : Num} (hx : x.isNaN = false) (hy : y.isNaN = false) :
    x.lt y = true ↔ x.point < y.point := by
  cases x with
  | nan => simp [Num.isNaN] at hx
  | inf s =>
    cases y with
    | nan => simp [Num.isNaN] at hy
    | inf t => cases s <;> cases t <;> simp [Num.lt, Num.point]
    | fin t n k => cases s <;> simp [Num.lt, Num.point]
  | fin s m e =>
    cases y with
    | nan => simp [Num.isNaN] at hy
    | inf t =>
      have htop : ((finVal s m e : ℚ) : WithTop ℚ) < (⊤ : WithTop ℚ) := WithTop.coe_lt_top _
      cases t
      · exact iff_of_true rfl (WithBot.coe_lt_coe.mpr htop)
      · simp [Num.lt, Num.point]
    | fin t n k => rw [Num.lt_fin]; simp [Num.point]

/-! ### The order of candidates -/

/-- Where a candidate ranks: by its key, the largest first, then by its number. -/
def Cand.place (c : Cand) : (WithBot (WithTop ℚ))ᵒᵈ ×ₗ Nat := toLex (OrderDual.toDual c.2.point, c.1)

theorem Cand.before_iff {x y : Cand} (hx : x.2.isNaN = false) (hy : y.2.isNaN = false) :
    x.before y = true ↔ x.place < y.place := by
  simp only [Cand.before, Bool.or_eq_true, Bool.and_eq_true, Bool.not_eq_true', decide_eq_true_eq,
    Num.lt_iff hy hx, ← Bool.not_eq_true, Num.lt_iff hx hy, not_lt, Cand.place, Prod.Lex.toLex_lt_toLex,
    OrderDual.toDual_lt_toDual, OrderDual.toDual_inj]
  constructor
  · rintro (h | ⟨h, hn⟩)
    · exact .inl h
    · rcases h.lt_or_eq with h | h
      · exact .inl h
      · exact .inr ⟨h.symm, hn⟩
  · rintro (h | ⟨h, hn⟩)
    · exact .inl h
    · exact .inr ⟨h.ge, hn⟩

/-! ### The elements of a list that rank first -/

section
variable {α β : Type} [LinearOrder β] (f : α → β)

/-- How many elements of a list rank before x. -/
def rankIn (xs : List α) (x : α) : Nat := (xs.filter fun y => decide (f y < f x)).length

theorem rankIn_lt_length {xs : List α} {x : α} (hx : x ∈ xs) : rankIn f xs x < xs.length :=
  List.length_filter_lt_length_iff_exists.mpr ⟨x, hx, by simp⟩

/-- What ranks before another has the lower rank. -/
theorem rankIn_lt_rankIn {xs : List α} {x y : α} (hx : x ∈ xs) (h : f x < f y) : rankIn f xs x < rankIn f xs y := by
  have hfilter : xs.filter (fun z => decide (f z < f x)) =
      (xs.filter fun z => decide (f z < f y)).filter fun z => decide (f z < f x) := by
    rw [List.filter_filter]
    refine List.filter_congr fun z _ => ?_
    by_cases hz : f z < f x
    · simp [hz, hz.trans h]
    · simp [hz]
  rw [rankIn, hfilter]
  exact List.length_filter_lt_length_iff_exists.mpr ⟨x, List.mem_filter.mpr ⟨hx, by simpa using h⟩, by simp⟩

/-- The ranks of a list of distinct places are the numbers below its length. -/
theorem ranks_perm_range {xs : List α} (hxs : (xs.map f).Nodup) : (xs.map (rankIn f xs)).Perm (List.range xs.length) := by
  have hinj : ∀ x ∈ xs, ∀ y ∈ xs, rankIn f xs x = rankIn f xs y → f x = f y := by
    intro x hx y hy h
    rcases lt_trichotomy (f x) (f y) with hlt | heq | hgt
    · have := rankIn_lt_rankIn f hx hlt; omega
    · exact heq
    · have := rankIn_lt_rankIn f hy hgt; omega
  have hnodup : (xs.map (rankIn f xs)).Nodup := by
    refine (List.Nodup.of_map f hxs).map_on fun x hx y hy h => ?_
    exact List.inj_on_of_nodup_map hxs hx hy (hinj x hx y hy h)
  have hsub : xs.map (rankIn f xs) ⊆ List.range xs.length := by
    intro r hr
    obtain ⟨x, hx, rfl⟩ := List.mem_map.mp hr
    exact List.mem_range.mpr (rankIn_lt_length f hx)
  exact (hnodup.subperm hsub).perm_of_length_le (by simp)

/-- As many elements have a rank below k as there are, up to k. -/
theorem length_filter_rankIn {xs : List α} (hxs : (xs.map f).Nodup) (k : Nat) :
    (xs.filter fun x => decide (rankIn f xs x < k)).length = min k xs.length := by
  have hrange : ((List.range xs.length).filter fun r => decide (r < k)).length = min k xs.length := by
    rw [← List.countP_eq_length_filter]
    induction xs.length with
    | zero => simp
    | succ n ih =>
      rw [List.range_succ, List.countP_append, ih, List.countP_singleton]
      split_ifs with hn <;> simp only [decide_eq_true_eq] at hn <;> omega
  rw [← hrange, ← (ranks_perm_range f hxs).filter _ |>.length_eq, List.filter_map, List.length_map]
  rfl

end

/-! ### The candidates of a column -/

/-- The key of a score: its value, or its magnitude. -/
def keyOf (x : SctCmd) (v : Num) : Num := if x.abs then v.mag else v

theorem keyOf_isNaN (x : SctCmd) (v : Num) : (keyOf x v).isNaN = v.isNaN := by
  unfold keyOf
  split
  · cases v <;> rfl
  · rfl

/-- The candidates of a column: the scores that are not NaN, with their numbers. -/
def candidates (x : SctCmd) (scores : List Num) : List Cand :=
  scores.zipIdx.filterMap fun (v, n) => if v.isNaN then none else some (n, keyOf x v)

theorem choose_topk {x : SctCmd} (h : x.topk = true) (scores : List Num) :
    choose x scores = topOf x.k (candidates x scores) := if_pos h

theorem choose_threshold {x : SctCmd} (h : x.topk = false) (scores : List Num) :
    choose x scores = (candidates x scores).filter fun c => !c.2.lt (fp32.decode x.thresh) := by
  simp only [choose, h]
  rfl

theorem mem_candidates {x : SctCmd} {scores : List Num} {c : Cand} :
    c ∈ candidates x scores ↔ ∃ v, scores[c.1]? = some v ∧ v.isNaN = false ∧ c.2 = keyOf x v := by
  simp only [candidates, List.mem_filterMap, Prod.exists, List.mem_zipIdx_iff_getElem?]
  constructor
  · rintro ⟨v, n, hv, hc⟩
    split at hc
    · simp at hc
    · next hnan =>
      obtain rfl := Option.some.inj hc
      exact ⟨v, hv, by simpa using hnan, rfl⟩
  · rintro ⟨v, hv, hnan, hc⟩
    exact ⟨v, c.1, hv, by rw [if_neg (by simp [hnan]), ← hc]⟩

theorem length_candidates (x : SctCmd) (scores : List Num) :
    (candidates x scores).length = (scores.filter fun v => !v.isNaN).length := by
  rw [candidates, List.length_filterMap_eq_countP, ← List.countP_eq_length_filter]
  conv_rhs => rw [← List.zipIdx_map_fst 0 scores, List.countP_map]
  refine List.countP_congr fun p _ => ?_
  cases h : p.1.isNaN <;> simp [h]

/-- No two candidates have one number. -/
theorem candidates_numbers_nodup (x : SctCmd) (scores : List Num) :
    ((candidates x scores).map Prod.fst).Nodup := by
  have hsub : ∀ l : List (Num × Nat),
      ((l.filterMap fun (v, n) => if v.isNaN then none else some (n, keyOf x v)).map Prod.fst).Sublist (l.map Prod.snd) := by
    intro l
    induction l with
    | nil => exact .slnil
    | cons p l ih =>
      by_cases hp : p.1.isNaN = true
      · simpa [List.filterMap_cons, hp] using ih.cons _
      · simpa [List.filterMap_cons, hp] using ih
  refine (hsub scores.zipIdx).nodup ?_
  rw [List.zipIdx_map_snd]
  exact List.nodup_range'

theorem candidates_place_nodup (x : SctCmd) (scores : List Num) :
    ((candidates x scores).map Cand.place).Nodup := by
  have hnum : ((candidates x scores).map Cand.place).map (fun p => (ofLex p).2) = (candidates x scores).map Prod.fst := by
    rw [List.map_map]
    rfl
  exact List.Nodup.of_map _ (hnum ▸ candidates_numbers_nodup x scores)

theorem candidate_not_nan {x : SctCmd} {scores : List Num} {c : Cand} (h : c ∈ candidates x scores) :
    c.2.isNaN = false := by
  obtain ⟨v, -, hnan, hc⟩ := mem_candidates.mp h
  rw [hc, keyOf_isNaN, hnan]

/-- The candidates that rank first are those of the lowest ranks. -/
theorem topOf_candidates (k : Nat) (x : SctCmd) (scores : List Num) :
    topOf k (candidates x scores) =
      (candidates x scores).filter fun c => decide (rankIn Cand.place (candidates x scores) c < k) := by
  refine List.filter_congr fun c hc => ?_
  have hrank : (candidates x scores).filter (fun y => y.before c) =
      (candidates x scores).filter fun y => decide (y.place < c.place) := by
    refine List.filter_congr fun y hy => ?_
    rw [Bool.eq_iff_iff, Cand.before_iff (candidate_not_nan hy) (candidate_not_nan hc), decide_eq_true_iff]
  rw [hrank]
  rfl

/-- One of the first k comes before every other one. -/
theorem before_of_topOf {k : Nat} {x : SctCmd} {scores : List Num} {c e : Cand}
    (hc : c ∈ topOf k (candidates x scores)) (he : e ∈ candidates x scores) (hne : e ∉ topOf k (candidates x scores)) :
    c.before e = true := by
  rw [topOf_candidates, List.mem_filter, decide_eq_true_iff] at hc hne
  obtain ⟨hcm, hck⟩ := hc
  have hek : ¬rankIn Cand.place (candidates x scores) e < k := fun h => hne ⟨he, h⟩
  rw [Cand.before_iff (candidate_not_nan hcm) (candidate_not_nan he)]
  rcases lt_trichotomy c.place e.place with hlt | heq | hgt
  · exact hlt
  · have hce := List.inj_on_of_nodup_map (candidates_place_nodup x scores) hcm he heq
    exact absurd hck (hce ▸ hek)
  · have hlt := rankIn_lt_rankIn Cand.place he hgt
    omega

/-- Settles O22: every chosen one is a candidate; the first k by rank; the threshold's by their keys. -/
theorem selectionChoosesTheLargest : Obligations.SelectionChoosesTheLargest := by
  refine ⟨fun x scores c hc => ?_, fun x scores hk => ⟨?_, fun c hc n v hv hnan hno => ?_⟩, fun x scores n v hk hv hnan => ?_⟩
  · have hsub : choose x scores ⊆ candidates x scores := by
      cases hk : x.topk
      · exact choose_threshold hk scores ▸ List.filter_sublist.subset
      · exact choose_topk hk scores ▸ List.filter_sublist.subset
    exact mem_candidates.mp (hsub hc)
  · rw [choose_topk hk, topOf_candidates, length_filter_rankIn _ (candidates_place_nodup x scores), length_candidates]
  · rw [choose_topk hk] at hc hno
    have he : (n, keyOf x v) ∈ candidates x scores := mem_candidates.mpr ⟨v, hv, hnan, rfl⟩
    exact before_of_topOf hc he fun h => hno _ h rfl
  · have he : (n, keyOf x v) ∈ candidates x scores := mem_candidates.mpr ⟨v, hv, hnan, rfl⟩
    rw [choose_threshold hk, List.mem_filter]
    exact ⟨fun h => by simpa using h.2, fun h => ⟨he, by simpa using h⟩⟩

end Sys2Proof.Machine

/-! The arithmetic of a reduction (R309 to R312), for O42. -/

namespace Sys2Proof.Machine

/-! ### Containers (R310) -/

/-- The sums of two blocks, element by element. -/
def sumsOf (x y : Blk) : List Int := (x.els.zip y.els).map fun p => p.1 + p.2

theorem contMax_nonneg (bi12 : Bool) : 0 ≤ contMax bi12 := by
  cases bi12 <;> decide

section
variable (bi12 : Bool) {x y : Blk} (hxo : x.ovf = false) (hyo : y.ovf = false) (hxn : x.nf = false) (hyn : y.nf = false)
include hxo hyo hxn hyn

/-- Two finite blocks add to their clipped sums; OVF where one had to be clipped. -/
theorem addBlk_finite :
    addBlk bi12 x y =
      ({ els := (sumsOf x y).map fun v => max (-contMax bi12 - 1) (min (contMax bi12) v), mask := x.mask ||| y.mask
         ovf := (sumsOf x y).any fun v => decide (contMax bi12 < v) || decide (v < -contMax bi12 - 1) },
        (sumsOf x y).any fun v => decide (contMax bi12 < v) || decide (v < -contMax bi12 - 1)) := by
  simp [addBlk, hxo, hyo, hxn, hyn, sumsOf]

theorem addBlk_bounds : ∀ v ∈ (addBlk bi12 x y).1.els, -contMax bi12 - 1 ≤ v ∧ v ≤ contMax bi12 := by
  rw [addBlk_finite bi12 hxo hyo hxn hyn]
  intro v hv
  obtain ⟨u, -, rfl⟩ := List.mem_map.mp hv
  have := contMax_nonneg bi12
  omega

theorem addBlk_exact (h : ∀ v ∈ sumsOf x y, -contMax bi12 - 1 ≤ v ∧ v ≤ contMax bi12) :
    (addBlk bi12 x y).1.els = sumsOf x y ∧ (addBlk bi12 x y).1.ovf = false ∧ (addBlk bi12 x y).2 = false := by
  have hnone : ((sumsOf x y).any fun v => decide (contMax bi12 < v) || decide (v < -contMax bi12 - 1)) = false := by
    rw [List.any_eq_false]
    intro v hv
    have := h v hv
    simp only [Bool.or_eq_true, decide_eq_true_eq]
    omega
  rw [addBlk_finite bi12 hxo hyo hxn hyn]
  refine ⟨?_, hnone, hnone⟩
  refine (List.map_congr_left fun v hv => ?_).trans (List.map_id _)
  have := h v hv
  simp only [id]
  omega

theorem addBlk_overflow (h : ¬∀ v ∈ sumsOf x y, -contMax bi12 - 1 ≤ v ∧ v ≤ contMax bi12) :
    (addBlk bi12 x y).1.ovf = true ∧ (addBlk bi12 x y).2 = true := by
  push Not at h
  obtain ⟨v, hv, hout⟩ := h
  have hsome : ((sumsOf x y).any fun v => decide (contMax bi12 < v) || decide (v < -contMax bi12 - 1)) = true := by
    refine List.any_eq_true.mpr ⟨v, hv, ?_⟩
    simp only [Bool.or_eq_true, decide_eq_true_eq]
    omega
  rw [addBlk_finite bi12 hxo hyo hxn hyn]
  exact ⟨hsome, hsome⟩

end

/-- OVF passes on. -/
theorem addBlk_ovf (bi12 : Bool) (x y : Blk) (h : x.ovf = true ∨ y.ovf = true) :
    (addBlk bi12 x y).1.ovf = true ∧ (addBlk bi12 x y).2 = false := by
  have hor : (x.ovf || y.ovf) = true := Bool.or_eq_true_iff.mpr h
  simp [addBlk, hor]

/-! ### Wide sums (R311) -/

/-- Two wide blocks may be added to a third in either order. -/
theorem addWide_right_comm (b x y : Blk) : addWide (addWide b x) y = addWide (addWide b y) x := by
  have hels : ∀ bs xs ys : List Int, List.zipWith (· + ·) (List.zipWith (· + ·) bs xs) ys =
      List.zipWith (· + ·) (List.zipWith (· + ·) bs ys) xs := by
    intro bs
    induction bs with
    | nil => simp
    | cons b bs ih =>
      rintro (_ | ⟨x, xs⟩) (_ | ⟨y, ys⟩) <;> simp [ih, Int.add_right_comm]
  simp only [addWide, List.map_zip_eq_zipWith]
  exact congrArg (fun e => { b with els := e }) (hels b.els x.els y.els)

/-! ### Rounding to nearest even (R312) -/

/-- A rounded element is within half a step, and at half a step it is even. -/
theorem rneShift_nearest (s : Int) (k : Nat) : 2 * (rneShift s k * 2 ^ k - s).natAbs ≤ 2 ^ k ∧
    (2 * (rneShift s k * 2 ^ k - s).natAbs = 2 ^ k → rneShift s k % 2 = 0) := by
  have hpos : (0 : Int) < 2 ^ k := by positivity
  have hcast : ((2 ^ k : Nat) : Int) = 2 ^ k := by push_cast; rfl
  have hsplit := Int.ediv_mul_add_emod s (2 ^ k)
  have hr0 := Int.emod_nonneg s hpos.ne'
  have hr1 := Int.emod_lt_of_pos s hpos
  unfold rneShift
  dsimp only
  generalize s / 2 ^ k = q at *
  generalize s % 2 ^ k = r at *
  split_ifs with h0 hdown
  · subst h0
    simp
  · have hdiff : q * 2 ^ k - s = -r := by omega
    rw [hdiff]
    generalize (2 : Int) ^ k = m at *
    omega
  · have hdiff : (q + 1) * 2 ^ k - s = 2 ^ k - r := by rw [add_mul, one_mul]; omega
    rw [hdiff]
    generalize (2 : Int) ^ k = m at *
    omega

/-- Every 64-bit element rounds to 0, 1 or -1 at a shift of 63, which fits. -/
theorem fitsAt_63 (bi12 : Bool) {els : List Int} (h : ∀ v ∈ els, -(2 ^ 63) ≤ v ∧ v < 2 ^ 63) :
    fitsAt bi12 els 63 = true := by
  refine List.all_eq_true.mpr fun v hv => ?_
  obtain ⟨hlo, hhi⟩ := h v hv
  have hnear := (rneShift_nearest v 63).1
  have hmax : 1 ≤ contMax bi12 := by cases bi12 <;> decide
  simp only [Bool.and_eq_true, decide_eq_true_eq]
  omega

/-- The shortfall is the least shift that fits. -/
theorem shortfall_least (bi12 : Bool) {els : List Int} (h : ∀ v ∈ els, -(2 ^ 63) ≤ v ∧ v < 2 ^ 63) :
    fitsAt bi12 els (shortfall bi12 els) = true ∧ ∀ k < shortfall bi12 els, fitsAt bi12 els k = false := by
  cases hf : (List.range 64).find? fun k => fitsAt bi12 els k with
  | none =>
    have hno := List.find?_eq_none.mp hf 63 (by decide)
    exact absurd (fitsAt_63 bi12 h) hno
  | some m =>
    have hm : shortfall bi12 els = m := by rw [shortfall, hf]; rfl
    rw [hm]
    refine ⟨List.find?_some (p := fun k => fitsAt bi12 els k) hf, fun k hk => ?_⟩
    have hless := (List.find?_range_eq_some.mp hf).2.2 k hk
    simpa using hless

/-- Settles O42: one lemma a part. -/
theorem reductionArithmetic : Obligations.ReductionArithmetic := by
  refine ⟨fun bi12 x y hxo hyo hxn hyn _ _ => ⟨?_, addBlk_bounds bi12 hxo hyo hxn hyn, addBlk_exact bi12 hxo hyo hxn hyn,
    addBlk_overflow bi12 hxo hyo hxn hyn⟩, addBlk_ovf, fun b xs ys hp => ?_, rneShift_nearest,
    fun bi12 els => shortfall_least bi12⟩
  · rw [addBlk_finite bi12 hxo hyo hxn hyn]
  · exact hp.foldl_eq' (fun x _ y _ z => addWide_right_comm z x y) b

end Sys2Proof.Machine

/-! Arrangement changes (R33, R34, R88), for O8. -/

namespace Sys2Proof.Machine

/-- Tent 0 in arrangement 1, whose one array 0 is idle, with a change to arrangement 0 pending and an INT8 PASS left in
queue 1, which no array of arrangement 1 serves. -/
def pendingArrange : Dev :=
  { regs := [(cfgAddr 0, 1)]
    tents := [(0, {
      pendArr := some 0
      queues := [(1, { entries := [BitVec.ofNat 256 (1 + 8 * 2 ^ 32 + 8 * 2 ^ 36)] })] })] }

/-- The tile buffer of queue q of tent 0 after a command. -/
def tilesOfQueueAfter (q : Nat) (o : Out) : Option (List Tile) :=
  match o with
  | .next s => some (s.dev.queue 0 q).tiles
  | _ => none

/-- Refutes O8: array 1, which arrangement 0 brings into force, reads the image of the PASS that waits in its queue into
the tile buffer at once (R88), where the statement leaves every queue as before. -/
theorem not_arrangementAndGradientBank : ¬ Obligations.ArrangementAndGradientBank := by
  rintro ⟨⟨-, htakes⟩, -⟩
  obtain ⟨d, hnext, -, -, -, -, -, hqueues, -⟩ :=
    htakes { dev := pendingArrange } 0 0 (by decide +kernel) (by decide) (by decide +kernel)
  have hread : tilesOfQueueAfter 1 (exec (.arrangeTakeEffect 0) { dev := pendingArrange }) =
      some [⟨List.replicate 128 0, none⟩] := by
    decide +kernel
  rw [hnext] at hread
  have hsame : d.queue 0 1 = pendingArrange.queue 0 1 :=
    congrArg (look (fun _ => ({} : Queue)) · 1) hqueues
  rw [tilesOfQueueAfter, hsame] at hread
  exact absurd hread (by decide +kernel)

end Sys2Proof.Machine

/-! Fields of registers, error records of a die, clocks and droop (R387 to R389), for O14. -/

namespace Sys2Proof.Machine

/-- A command that changes the device and nothing that survives every reset, by what it leaves. -/
theorem yields_lift {i : Instr} {s : State} {e : Dev} (f : Dev → Dev) (hi : exec i s = lift f s) (he : f s.dev = e) :
    Yields i s e := by
  rw [Yields, hi, lift_next, he]

/-! ### Fields of registers -/

theorem withField_lt {x l w : Nat} (v : Nat) (hx : x < 2 ^ 64) (h : l + w ≤ 64) : withField x l w v < 2 ^ 64 := by
  have hpow : 2 ^ 64 = 2 ^ (64 - (l + w)) * 2 ^ (l + w) := by rw [← Nat.pow_add, Nat.sub_add_cancel h]
  have htop : x / 2 ^ (l + w) < 2 ^ (64 - (l + w)) := Nat.div_lt_of_lt_mul (by rwa [Nat.mul_comm, ← hpow])
  have hlow : v % 2 ^ w * 2 ^ l + x % 2 ^ l < 2 ^ (l + w) := by
    have hv : v % 2 ^ w + 1 ≤ 2 ^ w := Nat.mod_lt _ (Nat.two_pow_pos w)
    have hxl : x % 2 ^ l < 2 ^ l := Nat.mod_lt _ (Nat.two_pow_pos l)
    calc v % 2 ^ w * 2 ^ l + x % 2 ^ l < (v % 2 ^ w + 1) * 2 ^ l := by rw [Nat.succ_mul]; omega
      _ ≤ 2 ^ w * 2 ^ l := Nat.mul_le_mul_right _ hv
      _ = 2 ^ (l + w) := by rw [Nat.pow_add, Nat.mul_comm]
  rw [withField_eq, hpow, Nat.add_assoc]
  calc x / 2 ^ (l + w) * 2 ^ (l + w) + (v % 2 ^ w * 2 ^ l + x % 2 ^ l)
      < (x / 2 ^ (l + w) + 1) * 2 ^ (l + w) := by rw [Nat.succ_mul]; omega
    _ ≤ _ := Nat.mul_le_mul_right _ htop

theorem Dev.reg_setRegF_self (d : Dev) (a : Nat) {l w : Nat} (v : Nat) (h : l + w ≤ 64) :
    (d.setRegF a l w v).reg a = withField (d.reg a) l w v := by
  rw [Dev.setRegF, Dev.reg_setReg_self, Nat.mod_eq_of_lt (withField_lt v (d.reg_lt a) h)]

theorem Dev.reg_setRegF_ne (d : Dev) {a b : Nat} (l w v : Nat) (h : b ≠ a) : (d.setRegF a l w v).reg b = d.reg b :=
  d.reg_setReg_ne _ h

theorem Dev.regF_setRegF_self (d : Dev) (a : Nat) {l w : Nat} (v : Nat) (h : l + w ≤ 64) :
    (d.setRegF a l w v).regF a l w = v % 2 ^ w := by
  rw [Dev.regF, d.reg_setRegF_self a v h, field_withField]

/-- A field that does not meet the one written reads as before. -/
theorem Dev.regF_setRegF_apart (d : Dev) (a : Nat) {l w j k : Nat} (v : Nat) (h : l + w ≤ 64)
    (hj : j + k ≤ l ∨ l + w ≤ j) : (d.setRegF a l w v).regF a j k = d.regF a j k := by
  rw [Dev.regF, d.reg_setRegF_self a v h]
  rcases hj with hj | hj
  · exact field_withField_below _ _ _ _ _ _ hj
  · exact field_withField_above _ _ _ _ _ _ hj

theorem Dev.regF_setRegF_ne (d : Dev) {a b : Nat} (l w v j k : Nat) (h : b ≠ a) :
    (d.setRegF a l w v).regF b j k = d.regF b j k := by
  rw [Dev.regF, d.reg_setRegF_ne l w v h]; rfl

@[simp] theorem Dev.setRegF_frame (d : Dev) (a l w v : Nat) :
    (d.setRegF a l w v).mem = d.mem ∧ (d.setRegF a l w v).tents = d.tents ∧ (d.setRegF a l w v).time = d.time ∧
      (d.setRegF a l w v).events = d.events ∧ (d.setRegF a l w v).refclk = d.refclk ∧
      (d.setRegF a l w v).halted = d.halted := ⟨rfl, rfl, rfl, rfl, rfl, rfl⟩

/-! ### Error records -/

/-- An event writes no register but a die's count of merged notices. -/
theorem Dev.reg_raise_ne (d : Dev) (src cls code unit detail : Nat) {a : Nat}
    (ha : ∀ die, a ≠ dieReg die 0x1500_0008) : (d.raise src cls code unit detail).reg a = d.reg a := by
  change (d.pulse src).reg a = d.reg a
  unfold Dev.pulse
  split
  · exact d.reg_setReg_ne _ (ha _)
  · rfl

theorem Dev.reg_dieErr_ne (d : Dev) (die port blk cls cause : Nat) (i : ErrInfo) {a : Nat}
    (ha : ∀ die, a ≠ dieReg die 0x1500_0008) : (d.dieErr die port blk cls cause i).reg a = d.reg a :=
  Dev.reg_raise_ne { d with errCounts := _ } _ _ _ _ _ ha

@[simp] theorem Dev.dieErr_frame (d : Dev) (die port blk cls cause : Nat) (i : ErrInfo) :
    (d.dieErr die port blk cls cause i).mem = d.mem ∧ (d.dieErr die port blk cls cause i).tents = d.tents ∧
      (d.dieErr die port blk cls cause i).time = d.time ∧ (d.dieErr die port blk cls cause i).refclk = d.refclk := by
  simp [Dev.dieErr]

/-- A DEVICE error halts the device and drives ALERT_N low. -/
theorem Dev.dieErr_device (d : Dev) (die port blk cause : Nat) (i : ErrInfo) :
    (d.dieErr die port blk clsDevice cause i).halted = true ∧ (d.dieErr die port blk clsDevice cause i).alertN = false := by
  constructor <;> simp [Dev.dieErr, Dev.logErr, Dev.raise]

/-! ### PLLs -/

theorem clkLock_ne_merged (i die : Nat) : clkLock i ≠ dieReg die 0x1500_0008 := by
  unfold clkLock dieReg
  omega

theorem clkLock_ne_pcie (i : Nat) : clkLock i ≠ dieReg 6 0x1400_0000 := by
  unfold clkLock dieReg
  omega

theorem clkLock_inj {i j : Nat} (h : clkLock i = clkLock j) : i = j := by
  unfold clkLock dieReg at h
  omega

/-- LOCKED reads 0 and LOST 1. -/
def Dev.lostLock (d : Dev) (die pll : Nat) : Dev :=
  (d.setRegF (clkLock die) pll 1 0).setRegF (clkLock die) (4 + pll) 1 1

theorem Dev.lostLock_fields (d : Dev) (die : Nat) {pll : Nat} (hp : pll < 4) :
    (d.lostLock die pll).regF (clkLock die) pll 1 = 0 ∧ (d.lostLock die pll).regF (clkLock die) (4 + pll) 1 = 1 := by
  constructor
  · rw [Dev.lostLock, Dev.regF_setRegF_apart _ _ _ (by omega) (by omega), Dev.regF_setRegF_self _ _ _ (by omega)]
    rfl
  · exact Dev.regF_setRegF_self _ _ 1 (by omega)

theorem Dev.lostLock_timeFree (d : Dev) (die i : Nat) {pll : Nat} (hp : pll < 4) :
    (d.lostLock die pll).regF (clkLock i) 8 1 = d.regF (clkLock i) 8 1 := by
  by_cases hi : clkLock i = clkLock die
  · rw [hi, Dev.lostLock, Dev.regF_setRegF_apart _ _ _ (by omega) (by omega),
      Dev.regF_setRegF_apart _ _ _ (by omega) (by omega)]
  · rw [Dev.lostLock, Dev.regF_setRegF_ne _ _ _ _ _ _ hi, Dev.regF_setRegF_ne _ _ _ _ _ _ hi]

theorem Dev.pllLoss_eq (d : Dev) (die pll : Nat) : d.pllLoss die pll =
    if !pllExists die pll then d
    else if 6 ≤ die ∧ pll = 1 then (d.lostLock die pll).loseLantern (die == 7)
    else if die = 6 ∧ pll = 2 then (d.lostLock die pll).pcieDown.dieErr 6 0 0x12 clsCorrected 0x02 { tag := pll }
    else if die = 6 ∧ pll = 3 then d.lostLock die pll
    else (d.lostLock die pll).dieErr die 0 0x12 clsDevice 0x01 { tag := pll } := rfl

theorem Dev.pllLoss_device (d : Dev) {die pll : Nat} (hd : die < 6) (he : pllExists die pll = true) :
    d.pllLoss die pll = (d.lostLock die pll).dieErr die 0 0x12 clsDevice 0x01 { tag := pll } := by
  have h6 : ¬6 ≤ die := by omega
  have hne : die ≠ 6 := by omega
  simp [Dev.pllLoss_eq, he, h6, hne]

/-- Everything a lost PLL other than ACLK's leaves: REFCLK, global time, memory and TIME_FREE. -/
def Dev.SameClock (d e : Dev) : Prop :=
  e.refclk = d.refclk ∧ e.time = d.time ∧ e.mem = d.mem ∧ ∀ i, e.regF (clkLock i) 8 1 = d.regF (clkLock i) 8 1

theorem Dev.SameClock.dieErr {d e : Dev} (h : d.SameClock e) (die port blk cls cause : Nat) (i : ErrInfo) :
    d.SameClock (e.dieErr die port blk cls cause i) := by
  obtain ⟨hr, ht, hm, hf⟩ := h
  have hframe := e.dieErr_frame die port blk cls cause i
  refine ⟨hframe.2.2.2.trans hr, hframe.2.2.1.trans ht, hframe.1.trans hm, fun k => ?_⟩
  rw [Dev.regF, Dev.reg_dieErr_ne _ _ _ _ _ _ _ (clkLock_ne_merged k)]
  exact hf k

theorem Dev.SameClock.pcieDown {d e : Dev} (h : d.SameClock e) : d.SameClock e.pcieDown := by
  obtain ⟨hr, ht, hm, hf⟩ := h
  refine ⟨by simpa [Dev.pcieDown] using hr, by simpa [Dev.pcieDown] using ht, by simpa [Dev.pcieDown] using hm,
    fun i => ?_⟩
  rw [Dev.pcieDown, Dev.regF_setRegF_ne _ _ _ _ _ _ (clkLock_ne_pcie i), hf i]

theorem Dev.sameClock_lostLock (d : Dev) (die : Nat) {pll : Nat} (hp : pll < 4) : d.SameClock (d.lostLock die pll) :=
  ⟨by simp [Dev.lostLock], by simp [Dev.lostLock], by simp [Dev.lostLock], fun i => d.lostLock_timeFree die i hp⟩

theorem Dev.sameClock_pllLoss (d : Dev) {die pll : Nat} (hp : pll < 4) (ha : ¬(6 ≤ die ∧ pll = 1)) :
    d.SameClock (d.pllLoss die pll) := by
  have hlost := d.sameClock_lostLock die hp
  rw [Dev.pllLoss_eq]
  split
  · exact ⟨rfl, rfl, rfl, fun _ => rfl⟩
  split
  · exact hlost.pcieDown.dieErr _ _ _ _ _ _
  split
  · exact hlost
  · exact hlost.dieErr _ _ _ _ _ _

theorem Dev.sameClock_foldl_pllLoss (xs : List (Nat × Nat)) (hxs : ∀ x ∈ xs, x.2 < 4 ∧ ¬(6 ≤ x.1 ∧ x.2 = 1)) (d : Dev) :
    d.SameClock (xs.foldl (fun (d : Dev) x => d.pllLoss x.1 x.2) d) := by
  induction xs generalizing d with
  | nil => exact ⟨rfl, rfl, rfl, fun _ => rfl⟩
  | cons x xs ih =>
    obtain ⟨hx, hrest⟩ := List.forall_mem_cons.mp hxs
    obtain ⟨hr, ht, hm, hf⟩ := d.sameClock_pllLoss hx.1 hx.2
    obtain ⟨hr', ht', hm', hf'⟩ := ih hrest (d.pllLoss x.1 x.2)
    exact ⟨hr'.trans hr, ht'.trans ht, hm'.trans hm, fun i => (hf' i).trans (hf i)⟩

/-- ACLK falls back to its ring oscillator: TIME_FREE on both I/O dies. -/
def Dev.timeFree (d : Dev) : Dev :=
  [6, 7].foldl (fun (d : Dev) die => (d.setRegF (clkLock die) 1 1 0).setRegF (clkLock die) 8 1 1) d

theorem Dev.timeFree_fields (d : Dev) :
    d.timeFree.regF (clkLock 6) 8 1 = 1 ∧ d.timeFree.regF (clkLock 7) 8 1 = 1 := by
  have hne : clkLock 6 ≠ clkLock 7 := fun h => absurd (clkLock_inj h) (by decide)
  simp only [Dev.timeFree, List.foldl_cons, List.foldl_nil]
  constructor
  · rw [Dev.regF_setRegF_ne _ _ _ _ _ _ hne, Dev.regF_setRegF_ne _ _ _ _ _ _ hne, Dev.regF_setRegF_self _ _ _ (by decide)]
    rfl
  · rw [Dev.regF_setRegF_self _ _ _ (by decide)]
    rfl

theorem Dev.timeFree_frame (d : Dev) :
    d.timeFree.refclk = d.refclk ∧ d.timeFree.time = d.time ∧ d.timeFree.mem = d.mem := by
  simp [Dev.timeFree]

/-- ACLK relocks on both I/O dies. -/
def Dev.relock (d : Dev) : Dev := [6, 7].foldl (fun (d : Dev) die => d.setRegF (clkLock die) 1 1 1) d

theorem Dev.relock_fields (d : Dev) : d.relock.regF (clkLock 6) 1 1 = 1 ∧ d.relock.regF (clkLock 7) 1 1 = 1 := by
  have hne : clkLock 6 ≠ clkLock 7 := fun h => absurd (clkLock_inj h) (by decide)
  simp only [Dev.relock, List.foldl_cons, List.foldl_nil]
  constructor
  · rw [Dev.regF_setRegF_ne _ _ _ _ _ _ hne, Dev.regF_setRegF_self _ _ _ (by decide)]
    rfl
  · rw [Dev.regF_setRegF_self _ _ _ (by decide)]
    rfl

theorem Dev.relock_frame (d : Dev) :
    d.relock.refclk = d.refclk ∧ d.relock.time = d.time ∧ d.relock.events = d.events := by
  simp [Dev.relock]

theorem pllExists_lt {die pll : Nat} (h : pllExists die pll = true) : pll < 4 := by
  unfold pllExists at h
  split_ifs at h <;> have := of_decide_eq_true h <;> omega

theorem Dev.refclkLoss_eq (d : Dev) (h : d.refclk = true) : d.refclkLoss =
    refPlls.foldl (fun (d : Dev) x => d.pllLoss x.1 x.2) (Dev.timeFree { d with refclk := false }) :=
  if_neg (by simp [h])

theorem yields_refclkReturn (s : State) (h : s.dev.refclk = false) :
    Yields .refclkReturn s (Dev.relock { s.dev with refclk := true }) :=
  yields_lift (fun d => if d.refclk then d else Dev.relock { d with refclk := true }) rfl (if_neg (by simp [h]))

theorem yields_droopTrip (s : State) (t : TentId) (h : s.dev.regF (clkStat t.toNat) 0 2 = 0) :
    Yields (.droopTrip t) s (((s.dev.setRegF (clkStat t.toNat) 0 1 1).bump (tentReg t.toNat 0x80_0010) 1).modTent t.toNat
      fun x => { x with stretch := 64 }) := by
  have hexec : exec (.droopTrip t) s = execDroopTrip t s := rfl
  rw [Yields, hexec, execDroopTrip, lift_next, if_neg (not_not.mpr h)]

/-- The stretch limit of a tent whose stretch runs (R389). -/
theorem yields_stretchLimit (s : State) (t : TentId) (droop : Bool) (e : Dev)
    (h : s.dev.regF (clkStat t.toNat) 0 1 = 1)
    (he : (let run := (s.dev.tent t.toNat).stretch
      let d1 := if run = 64 then s.dev.bump (tentReg t.toNat 0x80_0008) 64 else s.dev
      if droop then
        let d2 := ((d1.bump (tentReg t.toNat 0x80_0008) 1).bump (tentReg t.toNat 0x80_0018) 1).modTent t.toNat fun x =>
          { x with stretch := run + 1 }
        if run = 64 then d2.tentErr t.toNat 0x12 clsCorrected 0x03 {} else d2
      else ((d1.setRegF (clkStat t.toNat) 0 1 0).setRegF (clkStat t.toNat) 1 1 1).modTent t.toNat fun x =>
        { x with stretch := 0 }) = e) :
    Yields (.stretchLimit t droop) s e := by
  refine (congrArg (fun e => Host.Outcome.next { s with dev := e }) ((if_neg ?_).trans he))
  rw [h]
  decide

/-- Settles O14: PLLs and REFCLK by the fields of CLK_LOCK, then the stretch of a tent case by case. -/
theorem clocksAndDroop : Obligations.ClocksAndDroop := by
  refine ⟨⟨fun s die pll hd he => ?_, fun s hr => ?_, fun s hr => ?_⟩, fun s t => ?_⟩
  · obtain ⟨hlocked, hlost⟩ := s.dev.lostLock_fields die.toNat (pllExists_lt he)
    obtain ⟨hhalted, halert⟩ := (s.dev.lostLock die.toNat pll.toNat).dieErr_device die.toNat 0 0x12 0x01
      { tag := pll.toNat }
    refine ⟨_, yields_lift (·.pllLoss die.toNat pll.toNat) rfl (s.dev.pllLoss_device hd he), hhalted, halert,
      ?_, ?_, ?_, ?_⟩
    · rw [Dev.regF, Dev.reg_dieErr_ne _ _ _ _ _ _ _ (clkLock_ne_merged _)]
      exact hlocked
    · rw [Dev.regF, Dev.reg_dieErr_ne _ _ _ _ _ _ _ (clkLock_ne_merged _)]
      exact hlost
    · simp [Dev.lostLock]
    · simp [Dev.lostLock]
  · obtain ⟨hrc, htime, hmem, hbits⟩ := Dev.sameClock_foldl_pllLoss refPlls (by decide)
      (Dev.timeFree { s.dev with refclk := false })
    obtain ⟨hrc', htime', hmem'⟩ := Dev.timeFree_frame { s.dev with refclk := false }
    obtain ⟨h6, h7⟩ := Dev.timeFree_fields { s.dev with refclk := false }
    exact ⟨_, yields_lift (·.refclkLoss) rfl (s.dev.refclkLoss_eq hr), hrc.trans hrc', (hbits 6).trans h6,
      (hbits 7).trans h7, htime.trans htime', hmem.trans hmem'⟩
  · obtain ⟨h6, h7⟩ := Dev.relock_fields { s.dev with refclk := true }
    obtain ⟨hrc, htime, hevents⟩ := Dev.relock_frame { s.dev with refclk := true }
    exact ⟨_, yields_refclkReturn s hr, hrc, h6, h7, htime, hevents⟩
  · intro d
    refine ⟨fun h => yields_droopTrip s t h, fun h hrun => ?_, fun h hrun => ?_, fun h hrun => ?_,
      rfl⟩
    · exact yields_stretchLimit s t _ _ h (by simp [hrun, d])
    · exact yields_stretchLimit s t _ _ h (by simp [hrun, clsCorrected, d])
    · exact yields_stretchLimit s t _ _ h (by simp [Nat.ne_of_gt hrun, d])

end Sys2Proof.Machine

/-! Arbiters' grants and the modules of a pair of dies (R15 to R19), for O15. -/

namespace Sys2Proof.Machine

/-! ### Grants -/

/-- Everything but registers and the state of arbiter instances is as before. -/
def Dev.onlyArbiters (d e : Dev) : Prop := e = { d with regs := e.regs, watch := e.watch }

theorem Dev.onlyArbiters_refl (d : Dev) : d.onlyArbiters d := rfl

theorem Dev.onlyArbiters.trans {d e f : Dev} (h : d.onlyArbiters e) (h' : e.onlyArbiters f) : d.onlyArbiters f := by
  unfold Dev.onlyArbiters at *
  rw [h', h]

theorem Dev.onlyArbiters.setReg {d e : Dev} (h : d.onlyArbiters e) (a v : Nat) : d.onlyArbiters (e.setReg a v) :=
  h.trans rfl

theorem Dev.onlyArbiters.setWatch {d e : Dev} (h : d.onlyArbiters e) (b : Nat) (w : Watch) :
    d.onlyArbiters (e.setWatch b w) :=
  h.trans rfl

/-- A grant of an arbiter changes its registers and its state (R378 to R382). -/
theorem Dev.onlyArbiters_grant (d : Dev) (base : Nat) (asking : List Nat) : d.onlyArbiters (d.grant base asking).1 := by
  unfold Dev.grant
  extract_lets d0 d1 g
  have h0 : d.onlyArbiters d0 := by
    unfold d0
    split
    · exact (d.onlyArbiters_refl.setWatch _ _).setReg _ _
    · rfl
  have h1 : d.onlyArbiters d1 := by
    unfold d1
    split
    · exact h0.setWatch _ _
    · exact h0
  split
  · exact (h1.setWatch _ _).setReg _ _
  · exact (((h1.setWatch _ _).setReg _ _).setReg _ _).setReg _ _

@[simp] theorem Dev.grant_frame (d : Dev) (base : Nat) (asking : List Nat) :
    (d.grant base asking).1.mem = d.mem ∧ (d.grant base asking).1.events = d.events ∧
      (d.grant base asking).1.ucie = d.ucie ∧ (d.grant base asking).1.rehash = d.rehash := by
  rw [d.onlyArbiters_grant base asking]
  exact ⟨rfl, rfl, rfl, rfl⟩

/-! ### Error records of a die -/

/-- The record of a die's block: its class, block and unit, its cause and its address (R442). -/
theorem Dev.dieErr_events (d : Dev) (die port blk cls cause : Nat) (i : ErrInfo) (hc : cause < 256) :
    ∃ x : Event, (d.dieErr die port blk cls cause i).events = d.events ++ [x] ∧ x.cls = cls ∧ x.code = 0x400 + blk ∧
      x.unit = die + port * 256 ∧ x.detail % 256 = cause ∧ x.detail / 2 ^ 64 % 2 ^ 64 = i.addr % 2 ^ 64 := by
  refine ⟨_, Dev.raise_events _ _ _ _ _ _, rfl, rfl, rfl, ?_, ?_⟩ <;> dsimp only <;> omega

/-! ### What a pair's records leave -/

/-- Memory, modules and frames owed are as before, and events only join those raised. -/
def Dev.onlyRecords (d e : Dev) : Prop :=
  e.mem = d.mem ∧ e.ucie = d.ucie ∧ e.rehash = d.rehash ∧ ∃ ys, e.events = d.events ++ ys

theorem Dev.onlyRecords_ucieErr (d : Dev) (pair m cls cause : Nat) : d.onlyRecords (d.ucieErr pair m cls cause) :=
  ⟨by simp [Dev.ucieErr, Dev.dieErr], by simp [Dev.ucieErr, Dev.dieErr], by simp [Dev.ucieErr, Dev.dieErr],
    _, Dev.raise_events _ _ _ _ _ _⟩

theorem Dev.onlyRecords_checkPair (d : Dev) (pair : Nat) : d.onlyRecords (d.checkPair pair) := by
  unfold Dev.checkPair
  split
  · exact ⟨rfl, rfl, rfl, [], (List.append_nil _).symm⟩
  · exact d.onlyRecords_ucieErr _ _ _ _

theorem Dev.onlyRecords.trans {d e f : Dev} (h : d.onlyRecords e) (h' : e.onlyRecords f) : d.onlyRecords f := by
  obtain ⟨hm, hu, hr, ys, hy⟩ := h
  obtain ⟨hm', hu', hr', zs, hz⟩ := h'
  exact ⟨hm'.trans hm, hu'.trans hu, hr'.trans hr, ys ++ zs, by rw [hz, hy, List.append_assoc]⟩

theorem Dev.onlyRecords.module {d e : Dev} (h : d.onlyRecords e) (pair m : Nat) : e.module pair m = d.module pair m := by
  unfold Dev.module
  rw [h.2.1]

theorem Dev.onlyRecords.rehashAt {d e : Dev} (h : d.onlyRecords e) (pair : Nat) : e.rehashAt pair = d.rehashAt pair := by
  unfold Dev.rehashAt
  rw [h.2.2.1]

theorem Dev.onlyRecords.working {d e : Dev} (h : d.onlyRecords e) (pair : Nat) : e.working pair = d.working pair := by
  simp only [Dev.working, h.module]

/-- The record of a pair's first die: cause and class. -/
theorem Dev.ucieErr_events (d : Dev) (pair m cls : Nat) {cause : Nat} (hc : cause < 256) :
    ∃ y : Event, (d.ucieErr pair m cls cause).events = d.events ++ [y] ∧ y.cls = cls ∧ y.code = 0x40E ∧
      y.detail % 256 = cause := by
  obtain ⟨y, he, hcls, hcode, -, hdetail, -⟩ := d.dieErr_events (pairDie pair) pair 0x0E cls cause { tag := m } hc
  exact ⟨y, he, hcls, hcode, hdetail⟩

theorem Dev.module_setModule (d : Dev) (pair m k : Nat) (x : Module) :
    (d.setModule pair m x).module pair k = if k = m then x else d.module pair k := by
  unfold Dev.module Dev.setModule
  rw [look_put]
  exact if_congr (by omega) rfl rfl

@[simp] theorem Dev.module_setModule_self (d : Dev) (pair m : Nat) (x : Module) :
    (d.setModule pair m x).module pair m = x := look_put_self _ _ _ _

@[simp] theorem Dev.module_setRehash (d : Dev) (pair m q : Nat) (x : Rehash) :
    (d.setRehash q x).module pair m = d.module pair m := rfl

@[simp] theorem Dev.rehashAt_setRehash_self (d : Dev) (pair : Nat) (x : Rehash) :
    (d.setRehash pair x).rehashAt pair = x := look_put_self _ _ _ _

/-! ### A module leaves the hash -/

/-- The frames owed once module m has left the hash. -/
def Dev.owedAfter (d : Dev) (pair m : Nat) : List (Bool × DieFrame) :=
  (d.rehashAt pair).owed ++
    ((d.module pair m).buf.map fun b => (b.1, b.2.2)).filter fun o => !(d.rehashAt pair).owed.contains o

/-- The device with module m out of the hash, before its record. -/
def Dev.outOfHash (d : Dev) (pair m : Nat) : Dev :=
  (d.setModule pair m { d.module pair m with out := true, training := true, fails := 0, buf := [] }).setRehash pair
    (if (d.owedAfter pair m).isEmpty then {}
      else { owed := d.owedAfter pair m
             before := if (d.rehashAt pair).owed.isEmpty then d.working pair else (d.rehashAt pair).before })

theorem Dev.moduleOut_eq (d : Dev) (pair m : Nat) (h : (d.module pair m).out = false) :
    d.moduleOut pair m = ((d.outOfHash pair m).ucieErr pair m clsCorrected 0x01).checkPair pair := by
  rw [Dev.moduleOut]
  exact if_neg (by simp [h])

theorem Dev.moduleOut_out (d : Dev) (pair m : Nat) (h : (d.module pair m).out = true) : d.moduleOut pair m = d := if_pos h

theorem Dev.onlyRecords_moduleOut (d : Dev) (pair m : Nat) (h : (d.module pair m).out = false) :
    (d.outOfHash pair m).onlyRecords (d.moduleOut pair m) := by
  rw [d.moduleOut_eq pair m h]
  exact (Dev.onlyRecords_ucieErr _ _ _ _ _).trans (Dev.onlyRecords_checkPair _ _)

/-- The first record of a module that leaves the hash says so. -/
theorem Dev.moduleOut_events (d : Dev) (pair m : Nat) (h : (d.module pair m).out = false) :
    ∃ (z : Event) (zs : List Event), (d.moduleOut pair m).events = d.events ++ z :: zs ∧ z.cls = 1 ∧ z.code = 0x40E ∧
      z.detail % 256 = 0x01 := by
  obtain ⟨z, hz, hz'⟩ := (d.outOfHash pair m).ucieErr_events pair m clsCorrected (cause := 0x01) (by decide)
  obtain ⟨-, -, -, zs, hzs⟩ := ((d.outOfHash pair m).ucieErr pair m clsCorrected 0x01).onlyRecords_checkPair pair
  refine ⟨z, zs, ?_, hz'⟩
  rw [d.moduleOut_eq pair m h, hzs, hz, List.append_assoc]
  rfl

theorem Dev.mem_outOfHash (d : Dev) (pair m : Nat) : (d.outOfHash pair m).mem = d.mem := by
  simp [Dev.outOfHash, Dev.setRehash]

theorem Dev.module_outOfHash (d : Dev) (pair m : Nat) : (d.outOfHash pair m).module pair m =
    { d.module pair m with out := true, training := true, fails := 0, buf := [] } := by
  rw [Dev.outOfHash, Dev.module_setRehash, Dev.module_setModule_self]

/-- Every frame that the module still held is owed. -/
theorem Dev.owed_outOfHash (d : Dev) (pair m : Nat) :
    ∀ b ∈ (d.module pair m).buf, (b.1, b.2.2) ∈ ((d.outOfHash pair m).rehashAt pair).owed := by
  intro b hb
  have hmem : (b.1, b.2.2) ∈ d.owedAfter pair m := by
    by_cases ho : (b.1, b.2.2) ∈ (d.rehashAt pair).owed
    · exact List.mem_append_left _ ho
    · exact List.mem_append_right _ (List.mem_filter.mpr ⟨List.mem_map_of_mem (f := fun b => (b.1, b.2.2)) hb, by simp [ho]⟩)
  have hne : (d.owedAfter pair m).isEmpty = false := List.isEmpty_eq_false_iff.mpr (List.ne_nil_of_mem hmem)
  rw [Dev.outOfHash, Dev.rehashAt_setRehash_self, hne]
  exact hmem

/-- Without its last working module the pair is down, a DEVICE error (R19). -/
theorem Dev.moduleOut_last (d : Dev) {pair m : Nat} (h : (d.module pair m).out = false)
    (hlast : d.working pair = [m]) :
    (d.moduleOut pair m).halted = true ∧ (d.moduleOut pair m).pairAlive pair = false := by
  have hnone : (d.outOfHash pair m).working pair = [] := by
    refine List.filter_eq_nil_iff.mpr fun k hk => ?_
    rw [Dev.outOfHash, Dev.module_setRehash, Dev.module_setModule]
    split
    · simp
    · next hne =>
      have : k ∉ d.working pair := by rw [hlast]; simpa using hne
      simpa [Dev.working, List.mem_range.mp hk] using this
  have hdead : ((d.outOfHash pair m).ucieErr pair m clsCorrected 0x01).pairAlive pair = false := by
    rw [Dev.pairAlive, (Dev.onlyRecords_ucieErr _ _ _ _ _).working, hnone]
    rfl
  constructor
  · rw [d.moduleOut_eq pair m h, Dev.checkPair, hdead]
    exact (Dev.dieErr_device _ _ _ _ _ _).1
  · rw [Dev.pairAlive, (d.onlyRecords_moduleOut pair m h).working, hnone]
    rfl

/-! ### Frames -/

theorem hashPick_granule {ms : List Nat} {a b m : Nat} (h : hashPick ms a = some m) :
    m ∈ ms ∧ (a / 256 = b / 256 → hashPick ms b = some m) := by
  refine ⟨?_, fun hab => by rw [← h, hashPick, hashPick, hab]⟩
  unfold hashPick at h
  split at h
  · cases h
  · next hne =>
    have hlen : 0 < ms.length := by
      rw [List.isEmpty_iff] at hne
      exact List.length_pos_iff.mpr hne
    obtain rfl := Option.some.inj h
    rw [List.getD_eq_getElem _ _ (Nat.mod_lt _ hlen)]
    exact List.getElem_mem _

/-- A discarded frame stands in the replay buffer. -/
theorem Module.mem_keep (x : Module) (dir : Bool) (num : Nat) (f : DieFrame)
    (hsame : ∀ b ∈ x.buf.filter (fun b => b.1 == dir), b.2.1 = num → b.2.2 = f) :
    (dir, num, f) ∈ (x.keep dir num f).buf := by
  unfold Module.keep
  split
  · next hany =>
    obtain ⟨b, hb, hb'⟩ := List.any_eq_true.mp hany
    obtain ⟨hdir, hnum⟩ := Bool.and_eq_true_iff.mp hb'
    have hf := hsame b (List.mem_filter.mpr ⟨hb, hdir⟩) (beq_iff_eq.mp hnum)
    rw [← beq_iff_eq.mp hdir, ← beq_iff_eq.mp hnum, ← hf]
    exact hb
  · exact List.mem_append_right _ (List.mem_singleton_self _)

@[simp] theorem Module.keep_frame (x : Module) (dir : Bool) (num : Nat) (f : DieFrame) :
    (x.keep dir num f).next = x.next ∧ (x.keep dir num f).out = x.out ∧ (x.keep dir num f).replays = x.replays ∧
      (x.keep dir num f).recent = x.recent := by
  unfold Module.keep
  split <;> exact ⟨rfl, rfl, rfl, rfl⟩

/-- A frame that its receiver discards as a bad one, before the module's share of replays is looked at. -/
def Dev.replayed (d : Dev) (pair m : Nat) (x : Module) : Dev :=
  (d.setModule pair m { x with replays := x.replays + 1, recent := x.recent + 1 }).ucieErr pair m clsCorrected 0x02

section
variable (s : State) (pair : BitVec 4) (dir : Bool) (num : Nat) (f : DieFrame) (ok : Bool)

/-- A frame that comes through no module. -/
theorem yields_d2dFrame_none (h : s.dev.moduleFor pair.toNat dir f = none) :
    Yields (.d2dFrameReceive pair dir num f ok) s s.dev := by
  have hexec : exec (.d2dFrameReceive pair dir num f ok) s = execD2dFrameReceive pair dir num f ok s := rfl
  rw [Yields, hexec, execD2dFrameReceive, lift_next]
  simp only [h]

variable {m : Nat} (h : s.dev.moduleFor pair.toNat dir f = some m)
include h

/-- A frame whose number its receiver is past. -/
theorem yields_d2dFrame_past (hn : num < (s.dev.module pair.toNat m).next.getD (b2n dir) 0) :
    Yields (.d2dFrameReceive pair dir num f ok) s s.dev := by
  have hexec : exec (.d2dFrameReceive pair dir num f ok) s = execD2dFrameReceive pair dir num f ok s := rfl
  rw [Yields, hexec, execD2dFrameReceive, lift_next]
  simp only [h, if_pos (Or.inl hn)]

/-- A frame that the replay buffers of its module can hold, its number not behind the receiver's. -/
theorem yields_d2dFrame (hn : (s.dev.module pair.toNat m).next.getD (b2n dir) 0 ≤ num)
    (hsame : ∀ b ∈ (s.dev.module pair.toNat m).buf.filter (fun b => b.1 == dir), b.2.1 = num → b.2.2 = f)
    (hroom : ((s.dev.module pair.toNat m).buf.filter fun b => b.1 == dir).length < 64 ∨
      ∃ b ∈ (s.dev.module pair.toNat m).buf.filter (fun b => b.1 == dir), b.2.1 = num)
    (hreplay : (s.dev.module pair.toNat m).next.getD (b2n dir) 0 < num →
      (s.dev.module pair.toNat m).buf.filter (fun b => b.1 == dir) ≠ []) :
    Yields (.d2dFrameReceive pair dir num f ok) s
      (let x := s.dev.module pair.toNat m
       let d := (s.dev.grant (pairWatch pair.toNat dir) [if f.mesh then 1 else 0]).1
       if x.next.getD (b2n dir) 0 < num then d.setModule pair.toNat m (x.keep dir num f)
       else if ok then d.frameTaken pair.toNat m dir num f
       else if Config.kitReplayRate (kitSection s.dev.kit 0xA) < x.recent + 1 then
         (d.replayed pair.toNat m (x.keep dir num f)).moduleOut pair.toNat m
       else d.replayed pair.toNat m (x.keep dir num f)) := by
  have hexec : exec (.d2dFrameReceive pair dir num f ok) s = execD2dFrameReceive pair dir num f ok s := rfl
  rw [Yields, hexec, execD2dFrameReceive, lift_next]
  simp only [h]
  rw [if_neg]
  · simp only [Dev.replayed, Module.keep_frame]
  · rintro (hlt | hother | ⟨hlt, hempty⟩ | ⟨hfull, hnew⟩)
    · omega
    · obtain ⟨b, hb, hb'⟩ := List.any_eq_true.mp hother
      obtain ⟨hnum, hne⟩ := Bool.and_eq_true_iff.mp hb'
      exact (bne_iff_ne.mp hne) (hsame b hb (beq_iff_eq.mp hnum))
    · exact hreplay hlt (List.isEmpty_iff.mp hempty)
    · rcases hroom with hlen | ⟨b, hb, hnum⟩
      · omega
      · have hold : ((s.dev.module pair.toNat m).buf.filter fun b => b.1 == dir).any (fun b => b.2.1 == num) = true :=
          List.any_eq_true.mpr ⟨b, hb, beq_iff_eq.mpr hnum⟩
        rw [hold] at hnew
        exact absurd hnew (by decide)

end

/-- What a bad frame leaves of the module that carried it: `y` is the module with the frame kept. -/
theorem Dev.replayed_module (d : Dev) (pair m : Nat) (y : Module) :
    (d.replayed pair m y).module pair m = { y with replays := y.replays + 1, recent := y.recent + 1 } := by
  rw [Dev.replayed, (Dev.onlyRecords_ucieErr _ _ _ _ _).module, Dev.module_setModule_self]

/-- The statement's view of a bad frame: its record is the first, the replay is counted, and a module that stays keeps the
frame. -/
def Dev.BadFrame (d e : Dev) (pair m : Nat) (y : Module) : Prop :=
  e.mem = d.mem ∧ (∃ (z : Event) (zs : List Event),
    e.events = d.events ++ z :: zs ∧ z.cls = 1 ∧ z.code = 0x40E ∧ z.detail % 256 = 0x02) ∧
  (e.module pair m).replays = y.replays + 1 ∧ (e.module pair m).next = y.next ∧
  ((e.module pair m).out = y.out → (e.module pair m).buf = y.buf)

theorem Dev.badFrame_replayed (d : Dev) (pair m : Nat) (y : Module) : d.BadFrame (d.replayed pair m y) pair m y := by
  obtain ⟨z, hz, hcls, hcode, hdetail⟩ := (d.setModule pair m
    { y with replays := y.replays + 1, recent := y.recent + 1 }).ucieErr_events pair m clsCorrected (cause := 0x02) (by decide)
  refine ⟨(Dev.onlyRecords_ucieErr _ _ _ _ _).1, ⟨z, [], hz, hcls, hcode, hdetail⟩, ?_⟩
  rw [d.replayed_module]
  exact ⟨rfl, rfl, fun _ => rfl⟩

theorem Dev.badFrame_moduleOut (d : Dev) (pair m : Nat) (y : Module) :
    d.BadFrame ((d.replayed pair m y).moduleOut pair m) pair m y := by
  have hrep := d.badFrame_replayed pair m y
  by_cases hout : ((d.replayed pair m y).module pair m).out = true
  · rwa [Dev.moduleOut_out _ _ _ hout]
  · have hin : ((d.replayed pair m y).module pair m).out = false := Bool.eq_false_iff.mpr hout
    obtain ⟨hmem, ⟨z, zs, hz, hz'⟩, hreplays, hnext, -⟩ := hrep
    have hrec := (d.replayed pair m y).onlyRecords_moduleOut pair m hin
    obtain ⟨hm, -, -, ys, hy⟩ := id hrec
    refine ⟨hm.trans hmem, ⟨z, zs ++ ys, ?_, hz'⟩, ?_⟩
    · rw [hy]
      change (d.replayed pair m y).events ++ ys = _
      rw [hz, List.append_assoc, List.cons_append]
    · rw [hrec.module, Dev.module_outOfHash]
      refine ⟨hreplays, hnext, fun h => ?_⟩
      rw [d.replayed_module] at hin
      exact absurd (show true = false from h.trans hin) (by decide)

/-! ### Lanes and trainings -/

/-- The module with a lane found failing, before it leaves the hash. -/
def Module.laneFailed (x : Module) (lane : Nat) : Module :=
  { x with failing := if x.failing.contains lane then x.failing else x.failing ++ [lane] }

theorem Module.mem_laneFailed (x : Module) (lane : Nat) : lane ∈ (x.laneFailed lane).failing := by
  unfold Module.laneFailed
  split
  · next h => exact List.contains_iff_mem.mp h
  · exact List.mem_append_right _ (List.mem_singleton_self _)

theorem yields_laneParityFail (s : State) (pair : BitVec 4) (m : BitVec 5) (lane : BitVec 6)
    (h : m.toNat < pairModules pair.toNat) :
    Yields (.ucieLaneParityFail pair ⟨m, lane⟩) s
      ((s.dev.setModule pair.toNat m.toNat ((s.dev.module pair.toNat m.toNat).laneFailed lane.toNat)).moduleOut
        pair.toNat m.toNat) := by
  have hexec : exec (.ucieLaneParityFail pair ⟨m, lane⟩) s = execUcieLaneParityFail pair ⟨m, lane⟩ s := rfl
  rw [Yields, hexec, execUcieLaneParityFail, lift_next, if_neg (Nat.not_le.mpr h)]
  rfl

/-- What a module's failure of a lane does to its set does not hang on the lane. -/
theorem Dev.working_setModule (d : Dev) (pair m : Nat) (y : Module) (h : y.out = (d.module pair m).out) :
    (d.setModule pair m y).working pair = d.working pair := by
  refine List.filter_congr fun k _ => ?_
  rw [Dev.module_setModule]
  split
  · next hk => rw [h, hk]
  · rfl

section
variable (s : State) (pair : BitVec 4) (m : BitVec 5) (clean : Bool)

/-- The end of a module's training (R17, R18). -/
theorem yields_retrainDone (h : (s.dev.module pair.toNat m.toNat).training = true) :
    Yields (.ucieRetrainDone pair m clean) s
      (let x := s.dev.module pair.toNat m.toNat
       let d := (s.dev.grant (pairWatch pair.toNat false) [2]).1
       if clean then d.setModule pair.toNat m.toNat x.trained
       else if x.fails + 1 < 3 then d.setModule pair.toNat m.toNat { x with fails := x.fails + 1 }
       else ((d.setModule pair.toNat m.toNat { x with fails := 3, training := false, dead := true }).ucieErr pair.toNat
         m.toNat clsCorrected 0x04).checkPair pair.toNat) := by
  refine congrArg (fun e => Host.Outcome.next { s with dev := e }) (if_neg ?_)
  rw [h]
  decide

end

theorem Module.mem_trained_repaired (x : Module) {l : Nat} (hl : l ∈ x.failing) : l ∈ x.trained.repaired := by
  by_cases h : l ∈ x.repaired
  · exact List.mem_append_left _ h
  · exact List.mem_append_right _ (List.mem_filter.mpr ⟨hl, by simp [h]⟩)

/-- Settles O15: frames by the module that carries them, then a failing lane and the end of a training. -/
theorem ucieModules : Obligations.UcieModules := by
  refine ⟨⟨fun ms a b m h => hashPick_granule h, fun s pair dir num f => ⟨fun howed => ?_,
    fun hnone ok => yields_d2dFrame_none s pair dir num f ok hnone, fun m hm => ?_⟩⟩, fun s pair m lane hmod => ?_⟩
  · rw [Dev.moduleFor, if_pos (List.isEmpty_iff.mpr howed)]
  · intro x d kept want
    refine ⟨fun hlt ok => yields_d2dFrame_past s pair dir num f ok hm hlt, fun hsame hroom => ⟨fun hw => ?_, fun hw => ?_,
      fun hlt hkept ok => ?_⟩⟩
    · have hy := yields_d2dFrame s pair dir num f true hm hw.ge hsame hroom fun h => absurd hw.symm (Nat.ne_of_lt h)
      rwa [if_neg (by rw [hw]; exact Nat.lt_irrefl _)] at hy
    · have hy := yields_d2dFrame s pair dir num f false hm hw.ge hsame hroom fun h => absurd hw.symm (Nat.ne_of_lt h)
      rw [if_neg (by rw [hw]; exact Nat.lt_irrefl _)] at hy
      have hbad : ∀ c : Prop, [Decidable c] → d.BadFrame (if c then
          (d.replayed pair.toNat m (x.keep dir num f)).moduleOut pair.toNat m
          else d.replayed pair.toNat m (x.keep dir num f)) pair.toNat m (x.keep dir num f) := fun c _ => by
        split
        · exact d.badFrame_moduleOut _ _ _
        · exact d.badFrame_replayed _ _ _
      obtain ⟨hmem, ⟨z, zs, hz, hz'⟩, hreplays, hnext, hbuf⟩ :=
        hbad (Config.kitReplayRate (kitSection s.dev.kit 0xA) < x.recent + 1)
      obtain ⟨hgm, hge, -, -⟩ := s.dev.grant_frame (pairWatch pair.toNat dir) [if f.mesh then 1 else 0]
      obtain ⟨hkn, hko, hkr, -⟩ := x.keep_frame dir num f
      refine ⟨_, hy, hmem.trans hgm, ⟨z, zs, hz.trans (congrArg (· ++ z :: zs) hge), hz'⟩, hreplays.trans (by rw [hkr]),
        hnext.trans hkn, fun hout => ?_⟩
      exact (hbuf (hout.trans hko.symm)) ▸ x.mem_keep dir num f hsame
    · have hy := yields_d2dFrame s pair dir num f ok hm hlt.le hsame hroom fun _ => hkept
      rwa [if_pos hlt] at hy
  · intro x d
    refine ⟨fun hin => ?_, fun htrain => ⟨yields_retrainDone s pair m true htrain, fun hfew => ?_, fun hthird => ?_⟩, rfl,
      rfl, fun l hl => x.mem_trained_repaired hl⟩
    · have hlaneIn : ((s.dev.setModule pair.toNat m.toNat (x.laneFailed lane.toNat)).module pair.toNat m.toNat).out =
          false := by
        rw [Dev.module_setModule_self]
        exact hin
      have hrec := Dev.onlyRecords_moduleOut _ _ _ hlaneIn
      have howed := Dev.owed_outOfHash (s.dev.setModule pair.toNat m.toNat (x.laneFailed lane.toNat)) pair.toNat m.toNat
      rw [Dev.module_setModule_self] at howed
      refine ⟨_, yields_laneParityFail s pair m lane hmod, ?_⟩
      dsimp only
      rw [hrec.module, Dev.module_outOfHash, Dev.module_setModule_self, hrec.rehashAt]
      refine ⟨rfl, rfl, rfl, x.mem_laneFailed lane.toNat, ?_, howed, ?_,
        fun hlast => ?_⟩
      · exact hrec.1.trans ((Dev.mem_outOfHash _ _ _).trans (by simp))
      · obtain ⟨z, zs, hz, hz'⟩ := Dev.moduleOut_events _ _ _ hlaneIn
        exact ⟨z, zs, hz.trans (by simp), hz'⟩
      · exact Dev.moduleOut_last _ hlaneIn ((s.dev.working_setModule _ _ (x.laneFailed lane.toNat) rfl).trans hlast)
    · have hy := yields_retrainDone s pair m false htrain
      rwa [if_neg Bool.false_ne_true, if_pos hfew] at hy
    · have hy := yields_retrainDone s pair m false htrain
      rw [if_neg Bool.false_ne_true, if_neg (Nat.not_lt.mpr hthird)] at hy
      refine ⟨_, hy, ?_⟩
      dsimp only
      rw [(Dev.onlyRecords_checkPair _ _).module, (Dev.onlyRecords_ucieErr _ _ _ _ _).module, Dev.module_setModule_self]
      exact ⟨rfl, rfl⟩

end Sys2Proof.Machine

/-! What a fault of an engine leaves, and the commands of an array (R96 to R104), for O18. -/

namespace Sys2Proof.Machine

/-! ### Tents and queues after a change -/

@[simp] theorem Dev.tent_modTent_self (d : Dev) (t : Nat) (f : Tent → Tent) : (d.modTent t f).tent t = f (d.tent t) :=
  d.tent_setTent_self t _

/-- What is not in a tent is as before. -/
@[simp] theorem Dev.modTent_frame (d : Dev) (t : Nat) (f : Tent → Tent) :
    (d.modTent t f).mem = d.mem ∧ (d.modTent t f).regs = d.regs ∧ (d.modTent t f).events = d.events ∧
      (d.modTent t f).halted = d.halted := by
  simp [Dev.modTent]

@[simp] theorem Dev.reg_modTent (d : Dev) (t : Nat) (f : Tent → Tent) (a : Nat) : (d.modTent t f).reg a = d.reg a := rfl

@[simp] theorem Dev.reg_modQueue (d : Dev) (t q : Nat) (f : Queue → Queue) (a : Nat) :
    (d.modQueue t q f).reg a = d.reg a := rfl

@[simp] theorem Dev.modQueue_frame (d : Dev) (t q : Nat) (f : Queue → Queue) :
    (d.modQueue t q f).mem = d.mem ∧ (d.modQueue t q f).regs = d.regs ∧ (d.modQueue t q f).events = d.events ∧
      (d.modQueue t q f).halted = d.halted := by
  simp [Dev.modQueue, Dev.setQueue]

@[simp] theorem Dev.queue_modQueue_self (d : Dev) (t q : Nat) (f : Queue → Queue) :
    (d.modQueue t q f).queue t q = f (d.queue t q) := d.queue_setQueue_self t q _

@[simp] theorem Dev.accs_modQueue (d : Dev) (t q : Nat) (f : Queue → Queue) :
    ((d.modQueue t q f).tent t).accs = (d.tent t).accs := by
  simp [Dev.modQueue, Dev.setQueue]

/-- A change of a tent that leaves its queues leaves each of them. -/
theorem Dev.queue_modTent (d : Dev) (t q : Nat) {f : Tent → Tent} (h : (f (d.tent t)).queues = (d.tent t).queues) :
    (d.modTent t f).queue t q = d.queue t q := by
  rw [Dev.queue, Dev.tent_modTent_self, h]
  rfl

/-! ### Faults of an engine (R100, R104) -/

section
variable (d : Dev) (t q : Nat) (e : ErrPlace) (c : Cmd) (cause addr : Nat)

@[simp] theorem Dev.recordFault_frame : (d.recordFault t e c cause addr).tents = d.tents ∧
    (d.recordFault t e c cause addr).mem = d.mem := by
  simp [Dev.recordFault]

theorem Dev.tent_recordFault : (d.recordFault t e c cause addr).tent t = d.tent t := by
  simp [Dev.tent]

theorem Dev.queue_recordFault : (d.recordFault t e c cause addr).queue t q = d.queue t q := by
  rw [Dev.queue, Dev.tent_recordFault]
  rfl

/-- One CONTAINED record of the engine's block, with the cause. -/
theorem Dev.recordFault_events : ∃ y : Event, (d.recordFault t e c cause addr).events = d.events ++ [y] ∧ y.cls = 2 ∧
    y.code = 0x400 + e.blk ∧ y.detail % 256 = cause % 256 := by
  refine ⟨_, Dev.raise_events _ _ _ _ _ _, rfl, rfl, ?_⟩
  dsimp only
  omega

theorem Dev.reg_recordFault (h : e.reg < dieBase) : (d.recordFault t e c cause addr).reg e.reg =
    (cause + cmdOp c * 2 ^ 8 + cmdTag c * 2 ^ 16) % 2 ^ 64 := by
  rw [Dev.recordFault, Dev.reg_tentErr _ _ _ _ _ _ h, Dev.reg_setReg_self]

/-- A run fault leaves an empty, stopped queue. -/
theorem Dev.queue_runFault : (d.runFault t q e c cause addr).queue t q = ⟨[], [], false, true, []⟩ := by
  rw [Dev.runFault, Dev.dropWaits, Dev.queue_modTent _ _ _ rfl, Dev.queue_modQueue_self]

/-- A check at issue that fails leaves what is in flight. -/
theorem Dev.queue_refuseIssue : (d.refuseIssue t q e c cause addr).queue t q =
    ⟨[], (d.queue t q).flight, false, true, []⟩ := by
  rw [Dev.refuseIssue, Dev.dropWaits, Dev.queue_modTent _ _ _ rfl, Dev.queue_modQueue_self, Dev.queue_recordFault]

@[simp] theorem Dev.runFault_mem : (d.runFault t q e c cause addr).mem = d.mem := by
  simp [Dev.runFault, Dev.dropWaits]

@[simp] theorem Dev.refuseIssue_mem : (d.refuseIssue t q e c cause addr).mem = d.mem := by
  simp [Dev.refuseIssue, Dev.dropWaits]

theorem Dev.runFault_events : ∃ y : Event, (d.runFault t q e c cause addr).events = d.events ++ [y] ∧ y.cls = 2 ∧
    y.code = 0x400 + e.blk ∧ y.detail % 256 = cause % 256 := by
  obtain ⟨y, hy⟩ := d.recordFault_events t e c cause addr
  exact ⟨y, by simpa [Dev.runFault, Dev.dropWaits] using hy⟩

theorem Dev.reg_runFault (h : e.reg < dieBase) : (d.runFault t q e c cause addr).reg e.reg =
    (cause + cmdOp c * 2 ^ 8 + cmdTag c * 2 ^ 16) % 2 ^ 64 := by
  rw [Dev.runFault, Dev.dropWaits, Dev.reg_modTent, Dev.reg_modQueue, Dev.reg_recordFault _ _ _ _ _ _ h]

theorem Dev.accs_refuseIssue : ((d.refuseIssue t q e c cause addr).tent t).accs = (d.tent t).accs := by
  rw [Dev.refuseIssue, Dev.dropWaits, Dev.tent_modTent_self, Dev.accs_modQueue, Dev.tent_recordFault]

end

/-! ### Faults of an array -/

section
variable (d : Dev) (t a o : Nat) (undef : Bool)

/-- ARY_ERR_OFF_n is written, and the array's entries are marked. -/
theorem Dev.aryFault_eq : ∃ r v, d.aryFault t a o undef = (d.setReg r v).modTent t fun x =>
    if undef && !x.accUndef.contains a then { x with accUndef := a :: x.accUndef } else x := ⟨_, _, rfl⟩

theorem Dev.queue_aryFault (q : Nat) : (d.aryFault t a o undef).queue t q = d.queue t q := by
  obtain ⟨r, v, h⟩ := d.aryFault_eq t a o undef
  rw [h, Dev.queue_modTent, Dev.queue_setReg]
  split <;> rfl

@[simp] theorem Dev.aryFault_frame : (d.aryFault t a o undef).mem = d.mem ∧ (d.aryFault t a o undef).events = d.events := by
  obtain ⟨r, v, h⟩ := d.aryFault_eq t a o undef
  simp [h]

theorem Dev.accs_aryFault : ((d.aryFault t a o undef).tent t).accs = (d.tent t).accs := by
  obtain ⟨r, v, h⟩ := d.aryFault_eq t a o undef
  rw [h, Dev.tent_modTent_self, Dev.tent_setReg]
  split <;> rfl

theorem Dev.accUndef_aryFault : a ∈ ((d.aryFault t a o true).tent t).accUndef := by
  obtain ⟨r, v, h⟩ := d.aryFault_eq t a o true
  rw [h, Dev.tent_modTent_self, Dev.tent_setReg]
  split
  · exact List.mem_cons_self
  · next h => simpa using h

theorem Dev.reg_aryFault : (d.aryFault t a o undef).reg (tentReg t (0x10_000C + 0x100 * a)) = o % 2 ^ 23 := by
  rw [Dev.aryFault, Dev.reg_modTent, Dev.reg_setReg_self]
  omega

end

/-! ### Issue -/

section
variable (d : Dev) (t a op : Nat) (work : PadPort → Nat → Cmd → Eng Unit) {c : Cmd} (h : d.arrayHead t a op = some c)
include h

theorem Dev.arrayRun_ends (hc : arrayIssueCause (d.arrayWidth t a) (d.entryLanes t a c) c = 0) {x : EngS}
    (hx : workEnds (work (d.arrayPort t a) (d.arrayWidth t a) c) d = some x) :
    d.arrayRun t a op work = x.dev.arrayIssue t a { cmd := c, flags := x.flags, olds := d.wordsLost x.dev } := by
  unfold workEnds at hx
  unfold Dev.entryLanes at hc
  simp only [Dev.arrayRun, h, hc]
  split at hx
  · next hrun =>
    obtain rfl := Option.some.inj hx
    simp [hrun]
  · cases hx

theorem Dev.arrayRun_faults (hc : arrayIssueCause (d.arrayWidth t a) (d.entryLanes t a c) c = 0) {k o : Nat} {e : Dev}
    (hx : workFaults (work (d.arrayPort t a) (d.arrayWidth t a) c) d = some (k, o, e)) :
    d.arrayRun t a op work = (e.runFault t a (aryErr t a) c k o).aryFault t a o true := by
  unfold workFaults at hx
  unfold Dev.entryLanes at hc
  simp only [Dev.arrayRun, h, hc]
  split at hx
  · next hrun =>
    obtain ⟨rfl, rfl, rfl⟩ := Prod.mk.injEq .. ▸ Option.some.inj hx
    simp [hrun]
  · cases hx

theorem Dev.arrayRun_refused (hc : arrayIssueCause (d.arrayWidth t a) (d.entryLanes t a c) c ≠ 0) :
    d.arrayRun t a op work = (d.refuseIssue t a (aryErr t a) c
      (arrayIssueCause (d.arrayWidth t a) (d.entryLanes t a c) c) 0).aryFault t a 0 false := by
  simp only [Dev.arrayRun, h]
  exact if_pos hc

end

/-- A row of the arrays runs the head of its array's queue. -/
theorem arrayWorkRows_exec : ∀ r ∈ arrayWorkRows, ∀ (t : TentId) (a : BitVec 3) (s : State),
    exec (r.1 t a) s = lift (·.arrayRun t.toNat a.toNat r.2.1 (r.2.2 a.toNat)) s := by
  simp only [arrayWorkRows, List.forall_mem_cons, List.not_mem_nil, false_implies, implies_true, and_true]
  exact ⟨fun _ _ _ => rfl, fun _ _ _ => rfl, fun _ _ _ => rfl⟩

/-! ### CLEAR (R99, R102) -/

theorem Tent.accs_clearEntries (a lo n : Nat) (x : Tent) : (clearEntries a lo n x).queues = x.queues ∧
    ∀ k, look (fun _ => {}) (clearEntries a lo n x).accs k =
      if a * 64 + lo ≤ k ∧ k < a * 64 + (lo + n) then {} else look (fun _ => ({} : Entry)) x.accs k := by
  induction n generalizing lo x with
  | zero => exact ⟨rfl, fun k => (if_neg (by omega)).symm⟩
  | succ n ih =>
    obtain ⟨hq, hk⟩ := ih (lo + 1) (x.setEntry a lo {})
    refine ⟨hq, fun k => (hk k).trans ?_⟩
    simp only [Tent.setEntry, look_put]
    by_cases hrest : a * 64 + (lo + 1) ≤ k ∧ k < a * 64 + (lo + 1 + n)
    · rw [if_pos hrest, if_pos (by omega)]
    · rw [if_neg hrest]
      by_cases hlo : k = a * 64 + lo
      · rw [if_pos hlo, if_pos (by omega)]
      · rw [if_neg hlo, if_neg (by omega)]

/-- The device with the entries of a CLEAR empty and its command out of the queue. -/
def Dev.cleared (d : Dev) (t a : Nat) (c : Cmd) : Dev :=
  (d.modTent t (clearEntries a (accRange c).1 (accRange c).2)).modQueue t a fun x => { x with entries := x.entries.tail }

theorem yields_arrayClear (s : State) (t : TentId) (a : BitVec 3) {c : Cmd}
    (h : s.dev.arrayHead t.toNat a.toNat 4 = some c) :
    Yields (.arrayClear t a) s (((s.dev.cleared t.toNat a.toNat c).fetchTiles t.toNat a.toNat).signal t.toNat c) := by
  have hexec : exec (.arrayClear t a) s = execArrayClear t a s := rfl
  rw [Yields, hexec, execArrayClear, lift_next]
  simp only [h]
  rfl

section
variable (d : Dev) (t a : Nat) (c : Cmd)

theorem Dev.look_accs_cleared (k : Nat) : look (fun _ => {}) ((d.cleared t a c).tent t).accs k =
    if a * 64 + (accRange c).1 ≤ k ∧ k < a * 64 + ((accRange c).1 + (accRange c).2) then {}
    else look (fun _ => ({} : Entry)) (d.tent t).accs k := by
  rw [Dev.cleared, Dev.accs_modQueue, Dev.tent_modTent_self]
  exact (Tent.accs_clearEntries _ _ _ _).2 k

theorem Dev.queue_cleared : (d.cleared t a c).queue t a = { d.queue t a with entries := (d.queue t a).entries.tail } := by
  rw [Dev.cleared, Dev.queue_modQueue_self, Dev.queue_modTent _ _ _ (Tent.accs_clearEntries _ _ _ _).1]

end

theorem Dev.signal_none (d : Dev) (t : Nat) {c : Cmd} (h : cmdSig c = false) : d.signal t c = d :=
  if_neg (by rw [h]; decide)

/-- SIG of a completing command adds one to its peg. -/
theorem Dev.peg_signal (d : Dev) (t : Nat) {c : Cmd} (h : cmdSig c = true) (hp : d.peg t (cmdPeg c) < 2 ^ 32 - 1) :
    (d.signal t c).peg t (cmdPeg c) = d.peg t (cmdPeg c) + 1 := by
  rw [Dev.signal, if_pos h, Dev.pegSig_fits _ _ _ _ (by omega), Dev.peg, Dev.reg_setReg_self]
  omega

/-- Settles O18: the work of a row by how it ends, then CLEAR. -/
theorem arrayCommandsIssue : Obligations.ArrayCommandsIssue := by
  refine ⟨fun r hr s t a c h => ?_, fun s t a c h => ?_⟩
  · have hexec := arrayWorkRows_exec r hr t a s
    intro d w work cause
    refine ⟨fun hc x hx => ?_, fun hc k o e hx => ?_, fun hc => ?_⟩
    · exact yields_lift _ hexec (s.dev.arrayRun_ends _ _ _ (r.2.2 a.toNat) h hc hx)
    · refine ⟨_, yields_lift _ hexec (s.dev.arrayRun_faults _ _ _ (r.2.2 a.toNat) h hc hx), ?_, ?_, ?_, ?_, ?_⟩
      · rw [Dev.queue_aryFault, Dev.queue_runFault]
      · exact Dev.accUndef_aryFault _ _ _ _
      · simp
      · exact Dev.reg_aryFault _ _ _ _ _
      · obtain ⟨y, hy⟩ := e.runFault_events t.toNat a.toNat (aryErr t.toNat a.toNat) c k o
        rw [← (Dev.aryFault_frame _ _ _ _ _).2] at hy
        exact ⟨y, hy⟩
    · refine ⟨_, yields_lift _ hexec (s.dev.arrayRun_refused _ _ _ (r.2.2 a.toNat) h hc), ?_⟩
      dsimp only
      rw [Dev.queue_aryFault, Dev.queue_refuseIssue, Dev.accs_aryFault, Dev.accs_refuseIssue]
      exact ⟨rfl, rfl, rfl, rfl, by simp [d]⟩
  · refine ⟨_, yields_arrayClear s t a h, fun k hk => ?_, fun j hj => ?_, ?_, ?_, ?_, ?_, fun hs => ?_, fun hs hp => ?_⟩
    · rw [Dev.look_accs_cleared, if_neg]
      rintro ⟨hlo, hhi⟩
      exact hk (k - (a.toNat * 64 + (accRange c).1)) (by omega) (by omega)
    · rw [Tent.entry, Dev.look_accs_cleared, if_pos (by omega)]
    · rw [Dev.queue_cleared]
    · rw [Dev.queue_cleared]
    · simp [Dev.cleared]
    · simp [Dev.cleared]
    · exact Dev.signal_none _ _ hs
    · exact Dev.peg_signal _ _ hs hp

end Sys2Proof.Machine

/-! The work of an engine step by step, and PASS (R83 to R96), for O17. -/

namespace Sys2Proof.Machine

/-! ### Work that ends -/

/-- The work ends with a value, from a state in another. -/
def Runs {α : Type} (w : Eng α) (x : EngS) (v : α) (y : EngS) : Prop := w.run x = (.ok v, y)

section
variable {α β : Type} {x y z : EngS}

theorem Runs.pure (v : α) (x : EngS) : Runs (pure v) x v x := rfl

theorem Runs.bind {w : Eng α} {f : α → Eng β} {v : α} {u : β} (h : Runs w x v y) (h' : Runs (f v) y u z) :
    Runs (w >>= f) x u z := by
  unfold Runs at *
  change ExceptT.run (ExceptT.bind w f) x = _
  simp only [ExceptT.bind, ExceptT.run_mk]
  change (StateT.bind w.run (ExceptT.bindCont f)) x = _
  simp only [StateT.bind]
  rw [h]
  exact h'

theorem Runs.askDev (f : Dev → α) (x : EngS) : Runs (askDev f) x (f x.dev) x := rfl

theorem Runs.onDev (f : Dev → Dev) (x : EngS) : Runs (onDev f) x () { x with dev := f x.dev } := rfl

theorem Runs.flag (m : Nat) (x : EngS) : Runs (flag m) x () { x with flags := x.flags ||| m } := rfl

theorem Runs.need {ok : Bool} (h : ok = true) (cause addr : Nat) (x : EngS) : Runs (need ok cause addr) x () x := by
  rw [Machine.need, if_pos h]
  exact Runs.pure () x

/-- Work that changes nothing, over a list. -/
theorem Runs.mapM {f : Nat → Eng β} {g : Nat → β} (xs : List Nat) (h : ∀ i ∈ xs, Runs (f i) x (g i) x) :
    Runs (xs.mapM f) x (xs.map g) x := by
  induction xs with
  | nil => exact Runs.pure _ _
  | cons i is ih =>
    obtain ⟨hi, his⟩ := List.forall_mem_cons.mp h
    rw [List.mapM_cons]
    exact hi.bind ((ih his).bind (Runs.pure _ _))

end

theorem Runs.workEnds {w : Eng Unit} {d : Dev} {x : EngS} (h : Runs w { dev := d } () x) : workEnds w d = some x := by
  unfold Runs at h
  rw [Machine.workEnds, h]

/-! ### Reads of the scratchpad (R41 to R44) -/

section
variable (p : PadPort) (o n : Nat) (x : EngS)

theorem Runs.padCheck (hr : o + n ≤ padLen) (hc : x.dev.touchesClearing p.t o n = false)
    (hs : p.secure = true ∨ x.dev.touchesSecure p.t o n = false) : Runs (padCheck p o n) x () x := by
  refine (Runs.need (decide_eq_true hr) _ _ x).bind ((Runs.askDev _ x).bind ?_)
  rw [if_neg (by simp [hc])]
  refine (Runs.askDev _ x).bind ?_
  rw [if_neg (by rcases hs with hs | hs <;> simp [hs])]
  exact Runs.pure _ x

/-- A read that Dev.padReads lets through gives the bytes that stand there. -/
theorem Runs.padRead (h : x.dev.padReads p o n = true) : Runs (padRead p o n) x (x.dev.rd (tentMem p.t o) n) x := by
  simp only [Dev.padReads, Bool.and_eq_true, Bool.or_eq_true, decide_eq_true_eq, Bool.not_eq_true'] at h
  obtain ⟨⟨⟨⟨⟨hr, hc⟩, hs⟩, hq⟩, hb⟩, hold⟩ := h
  have hmeet : x.dev.meet (tentMem p.t o) n = x.dev := x.dev.meet_quiet _ _ hq
  refine (Runs.padCheck p o n x hr hc hs).bind ((Runs.onDev _ x).bind ?_)
  rw [hmeet]
  refine (Runs.askDev _ x).bind ?_
  rw [if_neg (by simp [hb])]
  split
  · exact Runs.askDev _ x
  · next hreq =>
    have hempty : x.dev.oldWords (tentMem p.t o) (tentMem p.t o + n) = [] := by
      rcases hold with (hlo | hhi) | hold
      · exact absurd (Or.inl hlo) hreq
      · exact absurd (Or.inr hhi) hreq
      · exact List.isEmpty_iff.mp hold
    have hmixed : x.dev.rdMixed (tentMem p.t o) n = (x.dev.rd (tentMem p.t o) n, x.dev) := by
      rw [Dev.rdMixed, hempty, mixOld]
    refine (Runs.askDev _ x).bind ?_
    rw [hmixed]
    exact (Runs.onDev (fun _ => x.dev) x).bind (Runs.pure _ _)

end

/-! ### PASS -/

/-- The mode of a pass's formats. -/
def passMode (p : PassCmd) : CellMode := (cellMode p.fs p.fm).getD .single

/-- The entry that a pass adds into, before it adds: a fresh one where it names none or zeroes it (R83). -/
def passStart (p : PassCmd) (w : Nat) (old : Entry) : Entry :=
  if p.zero || old.empty then
    { empty := false, kind := if passMode p = .half then 1 else 0, sref := p.sref,
      lanes := List.replicate (passLanes p (passMode p) w) {} }
  else old

/-- A pass may add into an entry: of its KIND, SREF and lane count, with no open block but that of MX formats. -/
def PassFits (p : PassCmd) (w : Nat) (start : Entry) : Prop :=
  start.kind = (if passMode p = .half then 1 else 0) ∧ start.sref = p.sref ∧
    start.lanes.length = passLanes p (passMode p) w ∧ ((isMx p.fs && isMx p.fm) = true ∨ start.open_ = false)

/-- The lanes that moving vector j leaves of an entry, and their flags. -/
def passSum (p : PassCmd) (w : Nat) (x : PassData) (start : Entry) (j : Nat) : List Lane × Nat :=
  mapLanes (passLane p (passMode p) w x j) 0 start.lanes

/-- The tent with the entry of moving vector j added to. -/
def Tent.passed (s : Tent) (a : Nat) (p : PassCmd) (w : Nat) (x : PassData) (j : Nat) : Tent :=
  let start := passStart p w (s.entry a (p.acc + j))
  s.setEntry a (p.acc + j) { start with lanes := (passSum p w x start j).1 }

theorem Tent.entry_setEntry_ne (s : Tent) (a : Nat) {j k : Nat} (e : Entry) (h : k ≠ j) :
    (s.setEntry a j e).entry a k = s.entry a k := look_put_ne _ _ _ (by omega)

theorem Tent.entry_setEntry_self (s : Tent) (a k : Nat) (e : Entry) : (s.setEntry a k e).entry a k = e :=
  look_put_self _ _ _ _

/-- The entries of different vectors are different ones. -/
theorem Tent.entry_passed_ne (s : Tent) (a : Nat) (p : PassCmd) (w : Nat) (x : PassData) {i j : Nat} (h : j ≠ i) :
    (s.passed a p w x i).entry a (p.acc + j) = s.entry a (p.acc + j) := s.entry_setEntry_ne a _ (by omega)

/-- One moving vector enters its entry. -/
theorem Runs.passEntry (a t : Nat) (p : PassCmd) (w : Nat) (x : PassData) (j : Nat) (js : List Nat) (y : EngS)
    {z : EngS} (hfit : PassFits p w (passStart p w ((y.dev.tent t).entry a (p.acc + j))))
    (hrest : Runs (passEntries a t p (passMode p) w x js)
      { y with
        dev := y.dev.modTent t fun s => s.passed a p w x j
        flags := y.flags ||| (passSum p w x (passStart p w ((y.dev.tent t).entry a (p.acc + j))) j).2 } () z) :
    Runs (passEntries a t p (passMode p) w x (j :: js)) y () z := by
  obtain ⟨hkind, hsref, hlanes, hopen⟩ := hfit
  unfold passEntries
  refine (Runs.askDev _ y).bind ((Runs.need ?_ _ _ y).bind ((Runs.need ?_ _ _ y).bind ((Runs.flag _ y).bind
    ((Runs.onDev _ _).bind hrest))))
  · rcases hopen with hmx | hclosed
    · simp [hmx]
    · change (!(!(isMx p.fs && isMx p.fm) && (passStart p w _).open_)) = true
      rw [hclosed, Bool.and_false]
      rfl
  · simp only [Bool.and_eq_true, beq_iff_eq]
    exact ⟨⟨hkind, hsref⟩, hlanes⟩

/-- The device with the entries of the moving vectors of a list added to. -/
def Dev.passed (d : Dev) (t a : Nat) (p : PassCmd) (w : Nat) (x : PassData) (js : List Nat) : Dev :=
  js.foldl (fun d j => d.modTent t fun s => s.passed a p w x j) d

section
variable (d : Dev) (t a : Nat) (p : PassCmd) (w : Nat) (x : PassData)

theorem Dev.passed_frame (js : List Nat) : (d.passed t a p w x js).mem = d.mem ∧ (d.passed t a p w x js).regs = d.regs ∧
    (d.passed t a p w x js).events = d.events ∧ (∀ q, (d.passed t a p w x js).queue t q = d.queue t q) := by
  induction js generalizing d with
  | nil => exact ⟨rfl, rfl, rfl, fun _ => rfl⟩
  | cons j js ih =>
    obtain ⟨hm, hr, he, hq⟩ := ih (d.modTent t fun s => s.passed a p w x j)
    exact ⟨hm.trans (by simp), hr.trans (by simp), he.trans (by simp),
      fun q => (hq q).trans (Dev.queue_modTent _ _ _ rfl)⟩

/-- The accumulators of a list of moving vectors: those named hold their sums, the others stay. -/
theorem Dev.accs_passed (js : List Nat) (hjs : js.Nodup) :
    (∀ j ∈ js, ((d.passed t a p w x js).tent t).entry a (p.acc + j) =
      let start := passStart p w ((d.tent t).entry a (p.acc + j))
      { start with lanes := (passSum p w x start j).1 }) ∧
    ∀ k, (∀ j ∈ js, k ≠ a * 64 + (p.acc + j)) →
      look (fun _ => {}) ((d.passed t a p w x js).tent t).accs k = look (fun _ => {}) (d.tent t).accs k := by
  induction js generalizing d with
  | nil => exact ⟨fun _ h => absurd h (List.not_mem_nil), fun _ _ => rfl⟩
  | cons i js ih =>
    obtain ⟨hi, hjs'⟩ := List.nodup_cons.mp hjs
    obtain ⟨hin, hout⟩ := ih (d.modTent t fun s => s.passed a p w x i) hjs'
    rw [Dev.tent_modTent_self] at hin hout
    refine ⟨fun j hj => ?_, fun k hk => ?_⟩
    · rcases List.mem_cons.mp hj with rfl | hj
      · refine (hout _ fun k hk h => hi ?_).trans (Tent.entry_setEntry_self _ _ _ _)
        rwa [show j = k by omega]
      · rw [← Tent.entry_passed_ne (d.tent t) a p w x (fun h : j = i => hi (h ▸ hj))]
        exact hin j hj
    · obtain ⟨hki, hkjs⟩ := List.forall_mem_cons.mp hk
      exact (hout k hkjs).trans (look_put_ne _ _ _ hki)

end

/-- The moving vectors of a pass enter their entries, each of which it may add into. -/
theorem Runs.passEntries (a t : Nat) (p : PassCmd) (w : Nat) (x : PassData) (js : List Nat) (hjs : js.Nodup) (y : EngS)
    (hfit : ∀ j ∈ js, PassFits p w (passStart p w ((y.dev.tent t).entry a (p.acc + j)))) :
    Runs (passEntries a t p (passMode p) w x js) y ()
      { y with
        dev := y.dev.passed t a p w x js
        flags := js.foldl (fun m j => m ||| (passSum p w x (passStart p w ((y.dev.tent t).entry a (p.acc + j))) j).2)
          y.flags } := by
  induction js generalizing y with
  | nil => exact Runs.pure () y
  | cons j js ih =>
    obtain ⟨hj, hjs'⟩ := List.nodup_cons.mp hjs
    obtain ⟨hfj, hfjs⟩ := List.forall_mem_cons.mp hfit
    have hsame : ∀ i ∈ js, ((y.dev.modTent t fun s => s.passed a p w x j).tent t).entry a (p.acc + i) =
        (y.dev.tent t).entry a (p.acc + i) := fun i hi => by
      rw [Dev.tent_modTent_self]
      exact Tent.entry_passed_ne _ _ _ _ _ fun h => hj (h ▸ hi)
    have hrest := ih hjs' { y with
      dev := y.dev.modTent t fun s => s.passed a p w x j
      flags := y.flags ||| (passSum p w x (passStart p w ((y.dev.tent t).entry a (p.acc + j))) j).2 }
      fun i hi => by rw [hsame i hi]; exact hfjs i hi
    have hflags := List.foldl_ext (fun m i => m ||| (passSum p w x (passStart p w
        (((y.dev.modTent t fun s => s.passed a p w x j).tent t).entry a (p.acc + i))) i).2)
      (fun m i => m ||| (passSum p w x (passStart p w ((y.dev.tent t).entry a (p.acc + i))) i).2)
      (y.flags ||| (passSum p w x (passStart p w ((y.dev.tent t).entry a (p.acc + j))) j).2)
      fun m i hi => by rw [hsame i hi]
    rw [hflags] at hrest
    exact Runs.passEntry a t p w x j js y hfj hrest

/-- The reads of a pass's scales, and what goes on with them. -/
def withScales (q : PadPort) (w : Nat) (p : PassCmd) (k : List Byte × List (List Byte) → Eng Unit) : Eng Unit :=
  if (isMx p.fs && isMx p.fm) && (p.axis || p.close) then do
    let s ← padRead q p.sscOff w
    let m ← (List.range p.count).mapM fun j =>
      padRead q (p.mscOff + j * p.mscStr) (if p.axis then (w + 31) / 32 else 1)
    let x ← pure (s, m)
    k x
  else do
    let x ← pure ([], [])
    k x

section
variable (d : Dev) (t a : Nat) (c : Cmd)

/-- The image of a pass: the tile buffer's, or what lies at its place. -/
theorem Runs.passImage {w : Nat} {p : PassCmd} {image : List Byte} (hi : d.imageOf t a w p = some image)
    (hread : d.noTile t a = true → d.padReads (d.arrayPort t a) p.sOff (8 * w * laneBytes p.fs) = true) :
    Runs (passImage (d.arrayPort t a) a w p) { dev := d } image { dev := d } := by
  unfold Machine.passImage
  refine (Runs.askDev _ _).bind ?_
  unfold Dev.imageOf at hi
  dsimp only [Dev.arrayPort]
  cases htile : (d.queue t a).tiles.head? with
  | none =>
    simp only [htile] at hi
    dsimp only
    obtain rfl := Option.some.inj hi
    have hno : d.noTile t a = true := by
      rw [Dev.noTile, List.isEmpty_iff]
      exact List.head?_eq_none_iff.mp htile
    exact Runs.padRead _ _ _ _ (hread hno)
  | some tile =>
    simp only [htile] at hi
    dsimp only
    cases hfault : tile.fault with
    | none =>
      simp only [hfault] at hi
      obtain rfl := Option.some.inj hi
      exact Runs.pure _ _
    | some fault =>
      simp only [hfault] at hi
      cases hi

variable {w : Nat} {p : PassCmd}

/-- The scales of a pass: read where it has any. -/
theorem Runs.withScales (hsp : ∀ x ∈ passSpans (d.noTile t a) w p, d.padReads (d.arrayPort t a) x.1 x.2 = true)
    (image : List Byte) {k : List Byte × List (List Byte) → Eng Unit} {z : EngS}
    (hk : Runs (k ((d.passData t w image p).ssc, (d.passData t w image p).msc)) { dev := d } () z) :
    Runs (withScales (d.arrayPort t a) w p k) { dev := d } () z := by
  unfold Machine.withScales
  unfold Dev.passData at hk
  by_cases hs : passScaled p = true
  · simp only [if_pos hs] at hk
    rw [if_pos (show ((isMx p.fs && isMx p.fm) && (p.axis || p.close)) = true from hs)]
    have hin : ∀ x ∈ (p.sscOff, w) :: (List.range p.count).map (fun j => (p.mscOff + j * p.mscStr, passScaleLen w p)),
        d.padReads (d.arrayPort t a) x.1 x.2 = true := fun x hx =>
      hsp x (List.mem_append_right _ (by rw [if_pos hs]; exact hx))
    obtain ⟨hssc, hmsc⟩ := List.forall_mem_cons.mp hin
    have hrow : ∀ j ∈ List.range p.count,
        Runs (Machine.padRead (d.arrayPort t a) (p.mscOff + j * p.mscStr) (passScaleLen w p)) { dev := d }
          (d.rd (tentMem t (p.mscOff + j * p.mscStr)) (passScaleLen w p)) { dev := d } := fun j hj =>
      Runs.padRead _ _ _ _ (hmsc (p.mscOff + j * p.mscStr, passScaleLen w p)
        (List.mem_map_of_mem (f := fun j => (p.mscOff + j * p.mscStr, passScaleLen w p)) hj))
    refine (Runs.padRead (d.arrayPort t a) p.sscOff w { dev := d } hssc).bind ?_
    refine (Runs.mapM _ hrow).bind ?_
    exact (Runs.pure _ _).bind hk
  · simp only [if_neg hs] at hk
    rw [if_neg (show ¬((isMx p.fs && isMx p.fm) && (p.axis || p.close)) = true from hs)]
    exact (Runs.pure _ _).bind hk

/-- The work of a pass whose operands can be read and whose entries it may add into (R96). -/
theorem Runs.passWork {image : List Byte} (hi : d.imageOf t a w p = some image)
    (hsp : ∀ x ∈ passSpans (d.noTile t a) w p, d.padReads (d.arrayPort t a) x.1 x.2 = true)
    (hfit : ∀ j ∈ List.range p.count, PassFits p w (passStart p w ((d.tent t).entry a (p.acc + j)))) :
    Runs (passWork (d.arrayPort t a) a w p) { dev := d } ()
      { dev := d.passed t a p w (d.passData t w image p) (List.range p.count)
        flags := (List.range p.count).foldl (fun m j => m ||| (passSum p w (d.passData t w image p)
          (passStart p w ((d.tent t).entry a (p.acc + j))) j).2) 0 } := by
  have himage : d.noTile t a = true → d.padReads (d.arrayPort t a) p.sOff (8 * w * laneBytes p.fs) = true := fun hno =>
    hsp (p.sOff, 8 * w * laneBytes p.fs)
      (List.mem_append_left _ (List.mem_append_left _ (by rw [if_pos hno]; exact List.mem_singleton_self _)))
  have hbands : ∀ b ∈ List.range (passBands w p),
      d.padReads (d.arrayPort t a) (p.mOff + b * p.mBstr) (8 * laneBytes p.fm * (p.count + 7)) = true := fun b hb =>
    hsp (p.mOff + b * p.mBstr, 8 * laneBytes p.fm * (p.count + 7))
      (List.mem_append_left _ (List.mem_append_right _ (List.mem_map_of_mem hb)))
  have hnb : (if p.axis then (if passMode p = .pair then (w + 15) / 16 else (w + 7) / 8) else 1) = passBands w p := by
    unfold passBands passMode
    cases cellMode p.fs p.fm with
    | none => rfl
    | some m => simp
  have hentries := Runs.passEntries a t p w (d.passData t w image p) (List.range p.count) List.nodup_range { dev := d } hfit
  unfold Machine.passWork
  refine (Runs.passImage d t a hi himage).bind ?_
  change Runs ((List.range (if p.axis then (if passMode p = .pair then (w + 15) / 16 else (w + 7) / 8) else 1)).mapM _ >>= _)
    _ _ _
  rw [hnb]
  have hband : ∀ b ∈ List.range (passBands w p),
      Runs (Machine.padRead (d.arrayPort t a) (p.mOff + b * p.mBstr) (8 * laneBytes p.fm * (p.count + 7))) { dev := d }
        (d.rd (tentMem t (p.mOff + b * p.mBstr)) (8 * laneBytes p.fm * (p.count + 7))) { dev := d } := fun b hb =>
    Runs.padRead _ _ _ _ (hbands b hb)
  refine (Runs.mapM _ hband).bind ?_
  exact (Runs.withScales d t a hsp image (k := fun x => Machine.passEntries a t p (passMode p) w
      { d.passData t w image p with ssc := x.1, msc := x.2 } (List.range p.count)) hentries)

end

/-- No word differs where memory is as before. -/
theorem Dev.wordsLost_same {d e : Dev} (h : e.mem = d.mem) : d.wordsLost e = [] := by
  have hdiff : ∀ (n : Nat) (xs : List (Nat × Byte)), xs.length ≤ n → diffKeys n xs xs = [] := by
    intro n
    induction n with
    | zero => exact fun _ _ => rfl
    | succ n ih =>
      intro xs hxs
      cases xs with
      | nil => rfl
      | cons x xs =>
        rw [diffKeys, if_neg (Nat.lt_irrefl _), if_neg (Nat.lt_irrefl _), if_pos rfl]
        exact ih xs (Nat.le_of_succ_le_succ hxs)
  unfold Dev.wordsLost
  simp only [h]
  rw [hdiff _ _ (Nat.le_add_right _ _)]
  rfl

/-- A PASS out of its queue, in flight and out of the tile buffer, before the buffer reads on. -/
def Dev.passIssued (d : Dev) (t a : Nat) (i : Issued) : Dev :=
  (d.issue t a i).modQueue t a fun x => { x with tiles := x.tiles.tail }

theorem Dev.arrayIssue_pass (d : Dev) (t a : Nat) (i : Issued) (h : cmdOp i.cmd = 1) :
    d.arrayIssue t a i = (d.passIssued t a i).fetchTiles t a := by
  rw [Dev.arrayIssue, if_pos h]
  rfl

theorem Dev.queue_passIssued (d : Dev) (t a : Nat) (i : Issued) : (d.passIssued t a i).queue t a =
    { d.queue t a with
      entries := (d.queue t a).entries.tail
      flight := (d.queue t a).flight ++ [i]
      waiting := false
      tiles := (d.queue t a).tiles.tail } := by
  rw [Dev.passIssued, Dev.queue_modQueue_self, Dev.issue, Dev.queue_modQueue_self]

theorem Dev.passIssued_frame (d : Dev) (t a : Nat) (i : Issued) : (d.passIssued t a i).mem = d.mem ∧
    (d.passIssued t a i).regs = d.regs ∧ (d.passIssued t a i).events = d.events ∧
    ((d.passIssued t a i).tent t).accs = (d.tent t).accs := by
  simp [Dev.passIssued, Dev.issue]

/-- The head of an array that a row may run has the row's opcode. -/
theorem Dev.arrayHead_op {d : Dev} {t a op : Nat} {c : Cmd} (h : d.arrayHead t a op = some c) : cmdOp c = op := by
  unfold Dev.arrayHead at h
  split at h
  · cases h
  · split at h
    · split at h
      · next hc =>
        obtain rfl := Option.some.inj h
        exact hc.1
      · cases h
    · cases h

/-- Settles O17: the work of the pass ends in the entries of its moving vectors, one after another. -/
theorem passAddsIntoEntries : Obligations.PassAddsIntoEntries := by
  intro s t a c h d p w mode q old start image hi new hc hsp hfit
  have hwork := Runs.passWork d t.toNat a.toNat (w := w) (p := p) hi (List.all_eq_true.mp hsp)
    fun j hj => hfit j (List.mem_range.mp hj)
  have hends := s.dev.arrayRun_ends t.toNat a.toNat 1 (fun q w c => passWork q a.toNat w (passOf c)) h hc hwork.workEnds
  obtain ⟨hmem, hregs, hevents, hqueue⟩ := d.passed_frame t.toNat a.toNat p w (d.passData t.toNat w image p)
    (List.range p.count)
  obtain ⟨hin, hout⟩ := d.accs_passed t.toNat a.toNat p w (d.passData t.toNat w image p) (List.range p.count)
    List.nodup_range
  rw [Dev.wordsLost_same hmem, Dev.arrayIssue_pass _ _ _ _ (Dev.arrayHead_op h)] at hends
  obtain ⟨hmem', hregs', hevents', haccs⟩ := Dev.passIssued_frame
    (d.passed t.toNat a.toNat p w (d.passData t.toNat w image p) (List.range p.count)) t.toNat a.toNat
    { cmd := c, flags := orAll ((List.range p.count).map fun j => (new j).2) }
  have hflags : orAll ((List.range p.count).map fun j => (new j).2) = (List.range p.count).foldl (fun m j => m |||
      (passSum p w (d.passData t.toNat w image p) (passStart p w ((d.tent t.toNat).entry a.toNat (p.acc + j))) j).2) 0 :=
    List.foldl_map
  rw [← hflags] at hends
  refine ⟨_,
    yields_lift (·.arrayRun t.toNat a.toNat 1 fun q w c => passWork q a.toNat w (passOf c)) rfl hends,
    fun j hj => ?_, fun k hk => ?_, ?_, ?_, ?_, hmem'.trans hmem, hregs'.trans hregs,
    hevents'.trans hevents⟩
  · rw [Tent.entry, haccs]
    exact hin j (List.mem_range.mpr hj)
  · rw [haccs]
    exact hout k fun j hj => hk j (List.mem_range.mp hj)
  all_goals rw [Dev.queue_passIssued, hqueue]

end Sys2Proof.Machine

/-! What a fault leaves open in memory, and the commands of the Forage engine (R113 to R115, R129), for O20. -/

namespace Sys2Proof.Machine

/-! ### Open bytes -/

/-- Everything but the bytes of memory, what is uncorrectable in it and what is open is as before. -/
def Dev.onlyMemory (d e : Dev) : Prop := e = { d with mem := e.mem, bad := e.bad, flips := e.flips, fresh := e.fresh }

theorem Dev.onlyMemory_refl (d : Dev) : d.onlyMemory d := rfl

theorem Dev.onlyMemory.trans {d e f : Dev} (h : d.onlyMemory e) (h' : e.onlyMemory f) : d.onlyMemory f := by
  unfold Dev.onlyMemory at *
  rw [h', h]

theorem Dev.onlyMemory.frame {d e : Dev} (h : d.onlyMemory e) : e.regs = d.regs ∧ e.tents = d.tents ∧
    e.events = d.events ∧ e.warmAsked = d.warmAsked ∧ e.halted = d.halted := by
  rw [h]
  exact ⟨rfl, rfl, rfl, rfl, rfl⟩

/-- A fold of changes of memory is one. -/
theorem Dev.onlyMemory_foldl {α : Type} {f : Dev → α → Dev} (h : ∀ (d : Dev) x, d.onlyMemory (f d x)) (xs : List α) (d : Dev) :
    d.onlyMemory (xs.foldl f d) := by
  induction xs generalizing d with
  | nil => exact d.onlyMemory_refl
  | cons x xs ih => exact (h d x).trans (ih (f d x))

theorem Dev.onlyMemory_undef (d : Dev) (a n : Nat) : d.onlyMemory (d.undef a n) := rfl

theorem Dev.onlyMemory_undefAt (d : Dev) (x n : Nat) : d.onlyMemory (d.undefAt x n) := by
  unfold Dev.undefAt
  split
  · split
    · exact d.onlyMemory_undef _ _
    · exact d.onlyMemory_undef _ _
    · exact d.onlyMemory_undef _ _
    · exact d.onlyMemory_undef _ _
    · exact d.onlyMemory_refl
  · exact d.onlyMemory_refl

theorem Dev.onlyMemory_undefSome (d : Dev) (v : Desc) (is heads : List (List Nat)) :
    d.onlyMemory (d.undefSome v is heads) := by
  unfold Dev.undefSome
  refine (Dev.onlyMemory_foldl (fun d i => Dev.onlyMemory_foldl (fun d p => d.onlyMemory_undefAt _ _) _ d) is d).trans
    (Dev.onlyMemory_foldl (fun d i => ?_) heads _)
  split
  · exact d.onlyMemory_undefAt _ _
  · exact d.onlyMemory_refl

theorem Dev.onlyMemory_undefView (d : Dev) (v : Desc) : d.onlyMemory (d.undefView v) := by
  unfold Dev.undefView
  split
  · exact d.onlyMemory_refl
  · split
    · exact (d.onlyMemory_undefAt _ _).trans (Dev.onlyMemory_undefAt _ _ _)
    · exact d.onlyMemory_undefSome _ _ _

theorem Dev.onlyMemory_undefDest (d : Dev) (v : Desc) : d.onlyMemory (d.undefDest v) := by
  unfold Dev.undefDest
  split
  · exact d.onlyMemory_undefView v
  · split
    · extract_lets h
      split
      · exact d.onlyMemory_refl
      · refine Dev.onlyMemory_foldl (fun d p => ?_) _ d
        extract_lets e
        split
        · exact d.onlyMemory_refl
        · exact d.onlyMemory_undefSome _ _ _
    · exact d.onlyMemory_refl

theorem Dev.onlyMemory_undefMarks (d : Dev) (t : Nat) (c : Cmd) (v : Desc) : d.onlyMemory (d.undefMarks t c v) := by
  unfold Dev.undefMarks
  split
  · exact d.onlyMemory_undef _ _
  · exact d.onlyMemory_refl

/-! ### A fault of the Forage engine -/

/-- A fault is a run fault after open bytes in memory, and a place in FOR_ERR_POS. -/
theorem Dev.forFault_eq (d : Dev) (t : Nat) (c : Cmd) (ds : List Byte) (cause addr : Nat) :
    ∃ e : Dev, e.events = d.events ∧ e.warmAsked = d.warmAsked ∧
      d.forFault t c ds cause addr = e.runFault t 6 (forErr t) c cause addr := by
  unfold Dev.forFault
  extract_lets r x d1 d2 d3
  have h1 : d.onlyMemory d1 := by
    unfold d1
    split
    · exact d.onlyMemory_refl
    · exact (d.onlyMemory_undefDest r).trans (Dev.onlyMemory_undefMarks _ _ _ _)
  have h2 : d.onlyMemory d2 := by
    unfold d2
    split
    · exact h1.trans (Dev.onlyMemory_undefDest _ _)
    · exact h1
  obtain ⟨-, -, hevents, hwarm, -⟩ := h2.frame
  have h3 : d3.events = d2.events ∧ d3.warmAsked = d2.warmAsked := by
    unfold d3
    generalize forReg t 0x10 = a
    split
    · simp
    · exact ⟨rfl, rfl⟩
  exact ⟨d3, h3.1.trans hevents, h3.2.trans hwarm, rfl⟩

theorem forReg_lt_dieBase {t o : Nat} (ht : t < 16384) (ho : o < 0x100) : forReg t o < dieBase :=
  tentReg_lt_dieBase ht (by omega)

@[simp] theorem Dev.runFault_warmAsked (d : Dev) (t q : Nat) (e : ErrPlace) (c : Cmd) (cause addr : Nat) :
    (d.runFault t q e c cause addr).warmAsked = d.warmAsked := by
  simp [Dev.runFault, Dev.dropWaits, Dev.modTent, Dev.modQueue, Dev.setQueue, Dev.recordFault, Dev.tentErr]

/-- What a fault of the engine leaves: its queue stopped and empty, FOR_ERR, one record of block 3. -/
theorem Dev.forFault_leaves (d : Dev) {t : Nat} (ht : t < 16384) (c : Cmd) (ds : List Byte) (cause addr : Nat) :
    let f := d.forFault t c ds cause addr
    f.warmAsked = d.warmAsked ∧ f.queue t 6 = ⟨[], [], false, true, []⟩ ∧
      f.reg (forReg t 8) = (cause + cmdOp c * 2 ^ 8 + cmdTag c * 2 ^ 16) % 2 ^ 64 ∧
      ∃ y : Event, f.events = d.events ++ [y] ∧ y.cls = 2 ∧ y.code = 0x403 ∧ y.detail % 256 = cause % 256 := by
  obtain ⟨e, hevents, hwarm, heq⟩ := d.forFault_eq t c ds cause addr
  obtain ⟨y, hy, hy'⟩ := e.runFault_events t 6 (forErr t) c cause addr
  intro f
  unfold f
  rw [heq]
  exact ⟨(by simpa using hwarm), e.queue_runFault t 6 _ c cause addr,
    e.reg_runFault t 6 (forErr t) c cause addr (forReg_lt_dieBase ht (by decide)), y, by rw [hy, hevents], hy'⟩

/-! ### Commands that may reach registers -/

/-- A command whose accesses may reach registers, where none asks for a reset. -/
theorem yields_liftBus {i : Instr} {s : State} {e : Dev} (f : Perm → Dev → Dev) (hi : exec i s = liftBus f s)
    (he : f s.perm s.dev = e) (hw : e.warmAsked = false) : Yields i s e := by
  rw [Yields, hi, liftBus_next f s (by rw [he, hw]), he]

/-! ### Issue of a Forage command -/

/-- A row of the Forage engine runs the head of queue 6. -/
theorem forageRows_exec : ∀ r ∈ forageRows, ∀ (t : TentId) (s : State),
    exec (r.1 t) s = liftBus (fun p d => d.forExec p t.toNat r.2.1 r.2.2) s := by
  simp only [forageRows, List.forall_mem_cons, List.not_mem_nil, false_implies, implies_true, and_true]
  exact ⟨fun _ _ => rfl, fun _ _ => rfl, fun _ _ => rfl, fun _ _ => rfl, fun _ _ => rfl, fun _ _ => rfl, fun _ _ => rfl,
    fun _ _ => rfl⟩

theorem Dev.head_halted {d : Dev} {t q : Nat} {c : Cmd} (h : d.head t q = some c) : d.halted = false := by
  unfold Dev.head at h
  by_contra hh
  simp [Bool.not_eq_false _ ▸ hh] at h

section
variable (d : Dev) (p : Perm) (t : Nat) {c : Cmd} {op : Nat} {accum : Option Bool} {ds : List Byte}
  (hhead : d.head t 6 = some c) (hflight : (d.queue t 6).flight = []) (hop : cmdOp c = op)
  (hacc : accum.getD (d.headAccum t c) = d.headAccum t c) (hfeed : op = 7 → 0 < d.queueFree t 8)
  (hds : (forDescs t c).run { dev := d } = (.ok ds, { dev := d }))
include hhead hflight hop hacc hfeed hds

/-- The head of queue 6 with the engine free and its descriptors read issues and runs. -/
theorem Dev.forExec_issues : d.forExec p t op accum =
    (d.forIssue t { cmd := c, descs := ds, done := false, ctl := d.reg (forReg t 0xC) }).forRun p t
      { cmd := c, descs := ds, done := false, ctl := d.reg (forReg t 0xC) } := by
  have hgo : ¬(cmdOp c ≠ op ∨ accum.getD (d.headAccum t c) ≠ d.headAccum t c ∨ (op = 7 ∧ d.queueFree t 8 = 0)) := by
    rintro (h | h | ⟨h7, h0⟩)
    · exact h hop
    · exact h hacc
    · exact absurd (hfeed h7) (by omega)
  simp only [Dev.forExec, Dev.head_halted hhead, hflight, hhead, if_neg hgo, hds]
  rfl

end

section
variable (d : Dev) (p : Perm) (t : Nat) (i : Issued) (hstage : i.stage = [])
include hstage

/-- Work that ends: the first 64 writes to other devices are sent, the rest wait (R111). -/
theorem Dev.forRun_ends {x : EngS} (hx : workEnds (forWork ⟨t, p, i.cmd, i.ctl⟩ i.descs) d = some x) :
    d.forRun p t i = (x.dev.flush (.queue t 6) { job := d.job } (x.out.take 64)).2.modQueue t 6 fun y =>
      { y with flight := [{ i with
          flags := x.flags, stage := [], want := none
          acks := x.acks ++ (x.dev.flush (.queue t 6) { job := d.job } (x.out.take 64)).1
          done := true, moving := false, outs := x.out.drop 64, olds := d.wordsLost x.dev }] } := by
  unfold workEnds at hx
  rw [Dev.forRun, Dev.runIssued, hstage]
  split at hx
  · next hrun =>
    obtain rfl := Option.some.inj hx
    rw [hrun]
    rfl
  · cases hx

theorem Dev.forRun_faults {k o : Nat} {e : Dev}
    (hx : workFaults (forWork ⟨t, p, i.cmd, i.ctl⟩ i.descs) d = some (k, o, e)) :
    d.forRun p t i = e.forFault t i.cmd i.descs k o := by
  unfold workFaults at hx
  rw [Dev.forRun, Dev.runIssued, hstage]
  split at hx
  · next hrun =>
    obtain ⟨rfl, rfl, rfl⟩ := Prod.mk.injEq .. ▸ Option.some.inj hx
    rw [hrun]
  · cases hx

end

/-- Settles O20: the head issues, and its work ends or faults. -/
theorem forageCommandsIssue : Obligations.ForageCommandsIssue := by
  intro r hr s t c ds d i d1 work hhead hflight hop hacc hfeed hds
  have hissue := d.forExec_issues s.perm t.toNat hhead hflight hop hacc hfeed hds
  constructor
  · intro x hx f hw
    have hends := hissue.trans (d1.forRun_ends s.perm t.toNat i rfl hx)
    exact yields_liftBus _ (forageRows_exec r hr t s) hends (by simpa [Dev.modQueue, Dev.setQueue, Dev.modTent] using hw)
  · intro k o e hx hw
    have hfaults := hissue.trans (d1.forRun_faults s.perm t.toNat i rfl hx)
    obtain ⟨hwarm, hleaves⟩ := e.forFault_leaves t.isLt c ds k o
    exact ⟨_, yields_liftBus _ (forageRows_exec r hr t s) hfaults (hwarm.trans hw), hleaves⟩

end Sys2Proof.Machine

/-! Merged and intersected runs, pruning and index classes (R120 to R127), for O21. -/

namespace Sys2Proof.Machine

/-! ### Work over a list -/

/-- Work over a list whose every step ends, with what holds of each step's value. -/
theorem Runs.mapM_forall {α β : Type} {P : α → β → Prop} {f : α → Eng β} (xs : List α)
    (h : ∀ a ∈ xs, ∀ x, ∃ b y, Runs (f a) x b y ∧ P a b) (x : EngS) :
    ∃ bs y, Runs (xs.mapM f) x bs y ∧ List.Forall₂ P xs bs := by
  induction xs generalizing x with
  | nil => exact ⟨[], x, Runs.pure _ _, .nil⟩
  | cons a as ih =>
    obtain ⟨ha, has⟩ := List.forall_mem_cons.mp h
    obtain ⟨b, y, hb, hab⟩ := ha x
    obtain ⟨bs, z, hbs, habs⟩ := ih has y
    refine ⟨b :: bs, z, ?_, .cons hab habs⟩
    rw [List.mapM_cons]
    exact hb.bind (hbs.bind (Runs.pure _ _))

/-! ### Items at positions -/

/-- What a step over an element leaves: an item at the element's position where it is kept, of which Q holds. -/
def StepItem {α : Type} (k : α → Nat) (keep : α → Bool) (Q : α → Nat → Prop) (a : α) (b : Option (Nat × Nat)) : Prop :=
  b.map Prod.fst = (if keep a then some (k a) else none) ∧ ∀ v, b = some (k a, v) → Q a v

section
variable {α : Type} {k : α → Nat} {keep : α → Bool} {Q : α → Nat → Prop} {as : List α} {bs : List (Option (Nat × Nat))}

theorem StepItem.none {a : α} (h : keep a = false) : StepItem k keep Q a none := by
  simp [StepItem, h]

theorem StepItem.some {a : α} {v : Nat} (h : keep a = true) (hv : Q a v) : StepItem k keep Q a (some (k a, v)) := by
  refine ⟨by simp [h], fun u hu => ?_⟩
  obtain rfl : v = u := by simpa using hu
  exact hv

/-- The positions of the items are those of the elements kept. -/
theorem positions_of_steps (h : List.Forall₂ (StepItem k keep Q) as bs) :
    (bs.filterMap id).map Prod.fst = (as.filter keep).map k := by
  induction h with
  | nil => rfl
  | @cons a b as bs hab _ ih =>
    obtain ⟨hfst, -⟩ := hab
    cases hk : keep a with
    | false =>
      rw [hk] at hfst
      obtain rfl : b = .none := by simpa using hfst
      rw [List.filter_cons_of_neg (by simp [hk])]
      exact ih
    | true =>
      rw [hk] at hfst
      obtain ⟨q, rfl, hq⟩ := Option.map_eq_some_iff.mp hfst
      rw [List.filter_cons_of_pos hk, List.map_cons, ← ih, ← hq]
      rfl

/-- Elements at different positions: each element kept has its item there. -/
theorem atPos_of_steps (h : List.Forall₂ (StepItem k keep Q) as bs) (hn : (as.map k).Nodup) {a : α} (ha : a ∈ as)
    (hk : keep a = true) : ∃ v, atPos (bs.filterMap id) (k a) = some v ∧ Q a v := by
  induction h with
  | nil => exact absurd ha (List.not_mem_nil)
  | @cons e b as bs hab _ ih =>
    obtain ⟨hfst, hQ⟩ := hab
    obtain ⟨hnew, hn'⟩ := List.nodup_cons.mp hn
    rcases List.mem_cons.mp ha with rfl | ha
    · rw [hk] at hfst
      obtain ⟨⟨p, v⟩, rfl, rfl⟩ := Option.map_eq_some_iff.mp hfst
      exact ⟨v, by simp [atPos], hQ v rfl⟩
    · obtain ⟨v, hv, hav⟩ := ih hn' ha
      refine ⟨v, ?_, hav⟩
      cases b with
      | none => exact hv
      | some q =>
        have hqe : q.1 = k e := by
          split_ifs at hfst
          · simpa using hfst
          · cases hfst
        have hne : q.1 ≠ k a := fun hqa => hnew (List.mem_map.mpr ⟨a, ha, by rw [← hqa, hqe]⟩)
        simp only [List.filterMap_cons, id_eq, atPos, List.find?_cons, beq_false_of_ne hne]
        exact hv

end

theorem atPos_isSome (xs : List (Nat × Nat)) (p : Nat) : (atPos xs p).isSome = (xs.map Prod.fst).contains p := by
  rw [atPos, Option.isSome_map, Bool.eq_iff_iff, List.find?_isSome, List.contains_iff_mem, List.mem_map]
  simp only [beq_iff_eq]

theorem held_of_atPos {xs : List (Nat × Nat)} {p v : Nat} (h : atPos xs p = some v) :
    (xs.map Prod.fst).contains p = true := by
  rw [← atPos_isSome, h]
  rfl

theorem not_held_of_atPos {xs : List (Nat × Nat)} {p : Nat} (h : atPos xs p = none) :
    (xs.map Prod.fst).contains p = false := by
  rw [← atPos_isSome, h]
  rfl

theorem mem_of_atPos {xs : List (Nat × Nat)} {p v : Nat} (h : atPos xs p = some v) : (p, v) ∈ xs := by
  obtain ⟨q, hq, rfl⟩ := Option.map_eq_some_iff.mp h
  obtain rfl : q.1 = p := by simpa using List.find?_some hq
  exact List.mem_of_find?_eq_some hq

/-! ### MERGE (R120) -/

theorem runs_mergeAdd (fa fc x y : Nat) (st : EngS) : ∃ v st', Runs (mergeAdd fa fc x y) st v st' := by
  unfold mergeAdd
  split
  · extract_lets s
    split
    · exact ⟨_, _, Runs.pure _ _⟩
    · exact ⟨_, _, (Runs.askDev _ _).bind ((Runs.onDev _ _).bind (Runs.pure _ _))⟩
  · extract_lets s
    split
    · exact ⟨_, _, (Runs.flag _ _).bind (Runs.pure _ _)⟩
    · exact ⟨_, _, (Runs.flag _ _).bind ((Runs.flag _ _).bind (Runs.pure _ _))⟩

/-- What MERGE makes of the values that two runs hold at a position. -/
def Merged (mode fa fc : Nat) (xs ys : List (Nat × Nat)) (p v : Nat) : Prop :=
  (∀ x, atPos xs p = some x → atPos ys p = none → v = widen fa fc x) ∧
    (∀ y, atPos xs p = none → atPos ys p = some y → v = widen fa fc y) ∧
    (mode ≠ 0 → ∀ x y, atPos xs p = some x → atPos ys p = some y → v = if mode = 1 then x else y)

/-- MERGE's step at a position. -/
def mergeStep (mode fa fc : Nat) (xs ys : List (Nat × Nat)) (p : Nat) : Eng (Option (Nat × Nat)) := do
  match atPos xs p, atPos ys p with
  | some x, some y =>
    let v ← if mode = 0 then mergeAdd fa fc x y else pure (if mode = 1 then x else y)
    return some (p, v)
  | some x, none => return some (p, widen fa fc x)
  | none, some y => return some (p, widen fa fc y)
  | none, none => return none

theorem runs_mergeStep (mode fa fc : Nat) (xs ys : List (Nat × Nat)) (p : Nat) (st : EngS) :
    ∃ b st', Runs (mergeStep mode fa fc xs ys p) st b st' ∧
      StepItem id (fun p => (xs.map Prod.fst).contains p || (ys.map Prod.fst).contains p) (Merged mode fa fc xs ys) p b := by
  unfold mergeStep
  cases hx : atPos xs p with
  | none =>
    cases hy : atPos ys p with
    | none => exact ⟨_, _, Runs.pure _ _, .none (by rw [not_held_of_atPos hx, not_held_of_atPos hy]; rfl)⟩
    | some y =>
      refine ⟨_, _, Runs.pure _ _, .some (k := id) (by rw [held_of_atPos hy, Bool.or_true]) ?_⟩
      simp [Merged, hx, hy]
  | some x =>
    cases hy : atPos ys p with
    | none =>
      refine ⟨_, _, Runs.pure _ _, .some (k := id) (by rw [held_of_atPos hx, Bool.true_or]) ?_⟩
      simp [Merged, hx, hy]
    | some y =>
      dsimp only
      split
      · next hmode =>
        obtain ⟨v, st', hv⟩ := runs_mergeAdd fa fc x y st
        refine ⟨_, _, hv.bind (Runs.pure _ _), .some (k := id) (by rw [held_of_atPos hx, Bool.true_or]) ?_⟩
        simp [Merged, hx, hy, hmode]
      · refine ⟨_, _, (Runs.pure _ _).bind (Runs.pure _ _), .some (k := id) (by rw [held_of_atPos hx, Bool.true_or]) ?_⟩
        simp [Merged, hx, hy]

theorem mergeRun_eq (mode fa fc ext : Nat) (xs ys : List (Nat × Nat)) :
    mergeRun mode fa fc ext xs ys = (do
      let out ← (List.range ext).mapM (mergeStep mode fa fc xs ys)
      return out.filterMap id) := rfl

/-! ### INTERSECT (R121) -/

/-- INTERSECT's step at an item of A. -/
def intersectStep (mode fa fc : Nat) (ys : List (Nat × Nat)) (q : Nat × Nat) : Eng (Option (Nat × Nat)) := do
  match atPos ys q.1 with
  | none => return none
  | some y =>
    if mode = 2 then
      let m := (elemNum fa q.2).mul (elemNum fa y)
      let r := (elemFmt fc).narrow .rne 0 false m.1
      flag (m.2 ||| r.2)
      return some (q.1, r.1)
    else return some (q.1, if mode = 0 then q.2 else y)

theorem intersectRun_eq (mode fa fc : Nat) (xs ys : List (Nat × Nat)) :
    intersectRun mode fa fc xs ys = (do
      let out ← xs.mapM (intersectStep mode fa fc ys)
      return out.filterMap id) := rfl

/-- What INTERSECT makes of an item of A and the value of B at its position. -/
def Intersected (mode : Nat) (ys : List (Nat × Nat)) (q : Nat × Nat) (v : Nat) : Prop :=
  mode ≠ 2 → ∀ y, atPos ys q.1 = some y → v = if mode = 0 then q.2 else y

theorem runs_intersectStep (mode fa fc : Nat) (ys : List (Nat × Nat)) (q : Nat × Nat) (st : EngS) :
    ∃ b st', Runs (intersectStep mode fa fc ys q) st b st' ∧
      StepItem Prod.fst (fun q => (ys.map Prod.fst).contains q.1) (Intersected mode ys) q b := by
  unfold intersectStep
  cases hy : atPos ys q.1 with
  | none => exact ⟨_, _, Runs.pure _ _, .none (not_held_of_atPos hy)⟩
  | some y =>
    dsimp only
    split
    · next hmode =>
      exact ⟨_, _, (Runs.flag _ _).bind (Runs.pure _ _), .some (k := Prod.fst) (held_of_atPos hy)
        fun hne => absurd hmode hne⟩
    · refine ⟨_, _, Runs.pure _ _, .some (k := Prod.fst) (held_of_atPos hy) fun _ z hz => ?_⟩
      obtain rfl := Option.some.inj (hy.symm.trans hz)
      rfl

/-! ### Pruning (R123) -/

section
variable (f : Nat)

theorem insertKey_perm (x : Nat × Nat) (l : List (Nat × Nat)) : (insertKey f x l).Perm (x :: l) := by
  induction l with
  | nil => exact .refl _
  | cons y ys ih =>
    unfold insertKey
    split
    · exact .refl _
    · exact (ih.cons y).trans (.swap x y ys)

/-- Falling keys. -/
def Falling (l : List (Nat × Nat)) : Prop := l.Pairwise fun x y => pruneKey f y.2 ≤ pruneKey f x.2

theorem falling_insertKey (x : Nat × Nat) {l : List (Nat × Nat)} (h : Falling f l) : Falling f (insertKey f x l) := by
  induction l with
  | nil => exact List.pairwise_singleton _ _
  | cons y ys ih =>
    obtain ⟨hy, hys⟩ := List.pairwise_cons.mp h
    unfold insertKey
    split
    · next hlt =>
      refine List.pairwise_cons.mpr ⟨fun z hz => ?_, h⟩
      rcases List.mem_cons.mp hz with rfl | hz
      · exact hlt.le
      · exact (hy z hz).trans hlt.le
    · next hge =>
      refine List.pairwise_cons.mpr ⟨fun z hz => ?_, ih hys⟩
      rcases List.mem_cons.mp ((insertKey_perm f x ys).mem_iff.mp hz) with rfl | hz
      · exact Nat.le_of_not_lt hge
      · exact hy z hz

/-- The items of a group by falling key. -/
def byKey (xs : List (Nat × Nat)) : List (Nat × Nat) := xs.foldl (fun l x => insertKey f x l) []

theorem foldl_insertKey (xs l : List (Nat × Nat)) (h : Falling f l) :
    (xs.foldl (fun l x => insertKey f x l) l).Perm (xs ++ l) ∧ Falling f (xs.foldl (fun l x => insertKey f x l) l) := by
  induction xs generalizing l with
  | nil => exact ⟨.refl _, h⟩
  | cons x xs ih =>
    obtain ⟨hp, hf⟩ := ih (insertKey f x l) (falling_insertKey f x h)
    exact ⟨hp.trans (((insertKey_perm f x l).append_left xs).trans List.perm_middle), hf⟩

theorem byKey_perm (xs : List (Nat × Nat)) : (byKey f xs).Perm xs :=
  (foldl_insertKey f xs [] List.Pairwise.nil).1.trans (by rw [List.append_nil])

theorem falling_byKey (xs : List (Nat × Nat)) : Falling f (byKey f xs) :=
  (foldl_insertKey f xs [] List.Pairwise.nil).2

theorem mem_keepN_prune {n : Nat} {xs : List (Nat × Nat)} {x : Nat × Nat} :
    x ∈ keepN true f n xs ↔ x ∈ xs ∧ x ∈ (byKey f xs).take n := by
  simp only [keepN, if_true, List.mem_filter, List.contains_iff_mem]
  rfl

theorem length_keepN_prune (n : Nat) {xs : List (Nat × Nat)} (h : xs.Nodup) :
    (keepN true f n xs).length = min n xs.length := by
  have hsorted : (byKey f xs).Nodup := (byKey_perm f xs).nodup_iff.mpr h
  have hperm : (keepN true f n xs).Perm ((byKey f xs).take n) := by
    refine (List.perm_ext_iff_of_nodup (h.sublist List.filter_sublist) (hsorted.sublist (List.take_sublist _ _))).mpr
      fun x => (mem_keepN_prune f).trans ?_
    exact ⟨And.right, fun hx => ⟨(byKey_perm f xs).mem_iff.mp (List.mem_of_mem_take hx), hx⟩⟩
  rw [hperm.length_eq, List.length_take, (byKey_perm f xs).length_eq]

/-- What is dropped has no larger key than what is kept. -/
theorem pruneKey_dropped_le {n : Nat} {xs : List (Nat × Nat)} {x y : Nat × Nat} (hx : x ∈ keepN true f n xs)
    (hy : y ∈ xs) (hdrop : y ∉ keepN true f n xs) : pruneKey f y.2 ≤ pruneKey f x.2 := by
  have hfall := falling_byKey f xs
  rw [← List.take_append_drop n (byKey f xs)] at hfall
  have hyin : y ∈ (byKey f xs).take n ++ (byKey f xs).drop n := by
    rw [List.take_append_drop]
    exact (byKey_perm f xs).mem_iff.mpr hy
  have hydrop : y ∈ (byKey f xs).drop n := (List.mem_append.mp hyin).resolve_left fun h =>
    hdrop ((mem_keepN_prune f).mpr ⟨hy, h⟩)
  exact (List.pairwise_append.mp hfall).2.2 x ((mem_keepN_prune f).mp hx).2 y hydrop

end

/-! ### Index classes (R127) -/

theorem idxClass_signed (extent : Nat) (x : Half) :
    idxClass true extent x.toNat = if x = 0xFFFF_FFFF then .empty else
      if 0 ≤ x.toInt ∧ x.toInt < extent then .valid x.toNat else .outOfRange := by
  have hx := x.isLt
  have hint : x.toInt = if 2 * x.toNat < 2 ^ 32 then (x.toNat : Int) else (x.toNat : Int) - 2 ^ 32 := BitVec.toInt_eq_toNat_cond x
  by_cases hempty : x = 0xFFFF_FFFF
  · subst hempty
    rfl
  · have hne : x.toNat ≠ 2 ^ 32 - 1 := fun h => hempty (BitVec.eq_of_toNat_eq h)
    rw [idxClass, if_neg fun h => hne h.2, if_neg hempty]
    by_cases hneg : 2 ^ 31 ≤ x.toNat
    · rw [if_pos ⟨rfl, hneg⟩, hint, if_neg (by omega)]
    · rw [if_neg fun h => hneg h.2, hint, if_pos (by omega : 2 * x.toNat < 2 ^ 32)]
      exact if_congr (by omega) rfl rfl

/-- Settles O21: MERGE, INTERSECT, pruning and index classes, each by its own lemmas. -/
theorem sparseOperations : Obligations.SparseOperations := by
  refine ⟨⟨fun mode fa fc ext xs ys st => ?_, fun mode fa fc xs ys st hxs => ?_⟩, fun prune f n xs hxs => ?_,
    fun extent x => ⟨idxClass_signed extent x, ?_⟩⟩
  · obtain ⟨bs, st', hrun, hsteps⟩ := Runs.mapM_forall (List.range ext)
      (fun p _ st => runs_mergeStep mode fa fc xs ys p st) st
    have hat : ∀ p < ext, ((xs.map Prod.fst).contains p || (ys.map Prod.fst).contains p) = true →
        ∃ v, atPos (bs.filterMap id) p = some v ∧ Merged mode fa fc xs ys p v := fun p hp hk =>
      atPos_of_steps hsteps (by simpa using List.nodup_range) (List.mem_range.mpr hp) hk
    refine ⟨bs.filterMap id, st', hrun.bind (Runs.pure _ _), by simpa using positions_of_steps hsteps,
      fun p hp x hx hy => ?_, fun p hp y hx hy => ?_, fun hmode p hp x y hx hy => ?_⟩
    · obtain ⟨v, hv, hone, -, -⟩ := hat p hp (by rw [held_of_atPos hx, Bool.true_or])
      rw [hv, hone x hx hy]
    · obtain ⟨v, hv, -, hone, -⟩ := hat p hp (by rw [held_of_atPos hy, Bool.or_true])
      rw [hv, hone y hx hy]
    · obtain ⟨v, hv, -, -, hboth⟩ := hat p hp (by rw [held_of_atPos hx, Bool.true_or])
      rw [hv, hboth hmode x y hx hy]
  · obtain ⟨bs, st', hrun, hsteps⟩ := Runs.mapM_forall xs (fun q _ st => runs_intersectStep mode fa fc ys q st) st
    refine ⟨bs.filterMap id, st', hrun.bind (Runs.pure _ _), ?_, fun hmode p x y hx hy => ?_⟩
    · rw [positions_of_steps hsteps, List.filter_map]
      rfl
    · obtain ⟨v, hv, hvalue⟩ := atPos_of_steps hsteps hxs (mem_of_atPos hx) (held_of_atPos hy)
      rw [hv, hvalue hmode y hy]
  · cases prune with
    | true =>
      exact ⟨length_keepN_prune f n hxs, List.filter_sublist, fun _ x hx y hy hdrop => pruneKey_dropped_le f hx hy hdrop⟩
    | false => exact ⟨List.length_take, List.take_sublist _ _, fun h => absurd h (by decide)⟩
  · rw [idxClass, if_neg (by simp), if_neg (by simp)]

end Sys2Proof.Machine

/-! The vector engine (R154 to R170), for O24. -/

namespace Sys2Proof.Machine

/-! ### What a fault leaves open -/

theorem Dev.onlyMemory_undefOwn (d : Dev) (t x n : Nat) : d.onlyMemory (d.undefOwn t x n) := by
  unfold Dev.undefOwn
  split
  · split
    · exact d.onlyMemory_undef _ _
    · exact d.onlyMemory_refl
  · exact d.onlyMemory_refl

theorem Dev.onlyMemory_storeUndef (d : Dev) (t : Nat) (m : VMem) (v : Desc) : d.onlyMemory (d.storeUndef t m v) := by
  refine Dev.onlyMemory_foldl (fun d e => ?_) _ d
  extract_lets i d1
  have h1 : d.onlyMemory d1 := by
    unfold d1
    split
    · exact d.onlyMemory_refl
    · exact Dev.onlyMemory_foldl (fun d p => d.onlyMemory_undefOwn _ _ _) _ d
  split
  · exact h1
  · extract_lets d2 k
    have h2 : d.onlyMemory d2 := h1.trans (Dev.onlyMemory_undefOwn _ _ _ _)
    split
    · exact h2.trans (Dev.onlyMemory_undef _ _ _)
    · exact h2

theorem Dev.onlyMemory_vecUndef (d : Dev) (t : Nat) (c : Cmd) : d.onlyMemory (d.vecUndef t c) := by
  unfold Dev.vecUndef
  extract_lets d1
  have h1 : d.onlyMemory d1 := Dev.onlyMemory_foldl (fun d g => d.onlyMemory_undef _ _) _ d
  split
  · split
    · exact h1.trans (Dev.onlyMemory_storeUndef _ _ _ _)
    · exact h1
  · exact h1

/-! ### Issue -/

/-- A row of the vector engine runs the head of queue 7. -/
theorem vectorRows_exec : ∀ r ∈ vectorRows, ∀ (t : TentId) (find : List (BitVec 13 × EccFind)) (s : State),
    (r.2.1 = 1 → find = []) → exec (r.1 t find) s = lift (·.vecRun t.toNat r.2.1 find r.2.2) s := by
  simp only [vectorRows, List.forall_mem_cons, List.not_mem_nil, false_implies, implies_true, and_true]
  exact ⟨fun _ find _ hfind => by rw [hfind trivial]; rfl, fun _ _ _ _ => rfl, fun _ _ _ _ => rfl, fun _ _ _ _ => rfl⟩

section
variable (d : Dev) (t op : Nat) (find : List (BitVec 13 × EccFind)) (work : PadPort → Cmd → Eng Unit) {c : Cmd}
  (h : d.vecHead t op = some c)
include h

theorem Dev.vecRun_ends {x : EngS}
    (hx : workEnds (work ((d.vecStruck t find).vecPort t) c) (d.vecStruck t find) = some x) :
    d.vecRun t op find work =
      x.dev.issue t 7 { cmd := c, flags := x.flags, olds := (d.vecStruck t find).wordsLost x.dev } := by
  unfold workEnds at hx
  simp only [Dev.vecRun, h]
  split at hx
  · next hrun =>
    obtain rfl := Option.some.inj hx
    rw [hrun]
  · cases hx

theorem Dev.vecRun_faults {k o : Nat} {e : Dev}
    (hx : workFaults (work ((d.vecStruck t find).vecPort t) c) (d.vecStruck t find) = some (k, o, e)) :
    d.vecRun t op find work =
      ((e.vecUndef t c).runFault t 7 (vecErr t) c k o).setReg (vecReg t 0x10) o := by
  unfold workFaults at hx
  simp only [Dev.vecRun, h]
  split at hx
  · next hrun =>
    obtain ⟨rfl, rfl, rfl⟩ := Prod.mk.injEq .. ▸ Option.some.inj hx
    rw [hrun]
  · cases hx

end

/-! ### Integer and bit steps (Table 7.5) -/

theorem signed32_eq (x : Half) : signed 32 x.toNat = x.toInt := by
  have hx := x.isLt
  simp only [signed, BitVec.toInt, Int.ofNat_eq_natCast]
  split_ifs <;> omega

theorem unsigned32_eq (v : Int) : unsigned 32 v = (BitVec.ofInt 32 v).toNat := by
  simp [unsigned, BitVec.toNat_ofInt]

/-- A step on two INT32 operands. -/
def IntStep (r : Nat × (Half → Half → Half)) : Prop :=
  ∀ (dst a b c f : Nat) (m : Rnd) (sr rand : Nat) (x y z : Half),
    stepValue ⟨r.1, dst, a, b, c, f⟩ m sr rand x.toNat y.toNat z.toNat = ((r.2 x y).toNat, 0)

theorem intSteps : ∀ r ∈ vectorIntRows, IntStep r := by
  simp only [vectorIntRows, List.forall_mem_cons, List.not_mem_nil, false_implies, implies_true, and_true]
  refine ⟨?add, ?sub, ?mul, ?and, ?or, ?xor, ?shl, ?shr, ?sar, ?min, ?max, ?lt⟩ <;>
    intro dst a b c f m sr rand x y z
  case add => simp only [stepValue, signed32_eq, unsigned32_eq, BitVec.ofInt_add, BitVec.ofInt_toInt]
  case sub => simp only [stepValue, signed32_eq, unsigned32_eq, Int.sub_eq_add_neg, BitVec.ofInt_add, BitVec.ofInt_neg, BitVec.ofInt_toInt,
    BitVec.sub_eq_add_neg]
  case mul => simp only [stepValue, signed32_eq, unsigned32_eq, BitVec.ofInt_mul, BitVec.ofInt_toInt]
  case and => simp only [stepValue, BitVec.toNat_and]
  case or => simp only [stepValue, BitVec.toNat_or]
  case xor => simp only [stepValue, BitVec.toNat_xor]
  case shl => simp only [stepValue, BitVec.toNat_shiftLeft, Nat.shiftLeft_eq]
  case shr => simp only [stepValue, BitVec.toNat_ushiftRight, Nat.shiftRight_eq_div_pow]
  case sar =>
    simp only [stepValue, signed32_eq, unsigned32_eq]
    rw [BitVec.sshiftRight, Int.shiftRight_eq_div_pow]
    norm_cast
  case min =>
    simp only [stepValue, signed32_eq, unsigned32_eq, min_def, apply_ite (BitVec.ofInt 32), BitVec.ofInt_toInt]
  case max =>
    simp only [stepValue, signed32_eq, unsigned32_eq, max_def, apply_ite (BitVec.ofInt 32), BitVec.ofInt_toInt]
  case lt =>
    simp only [stepValue, signed32_eq, b2n, decide_eq_true_eq, apply_ite BitVec.toNat]
    rfl

/-- The bit above 31 others, alone. -/
theorem and_magnitude (x : Half) : (x &&& 0x7FFF_FFFF).toNat = x.toNat % 2 ^ 31 := by
  rw [BitVec.toNat_and]
  exact Nat.and_two_pow_sub_one_eq_mod x.toNat 31

/-- A floating step with a NaN operand. -/
theorem nanSteps : ∀ op ∈ [0x01, 0x02, 0x03, 0x05, 0x08, 0x09], ∀ (dst a b c f : Nat) (m : Rnd) (sr rand x y z : Nat),
    ((fp32.decode x).isNaN = true ∨ (fp32.decode y).isNaN = true) →
    stepValue ⟨op, dst, a, b, c, f⟩ m sr rand x y z = (0x7FC0_0000, 0) := by
  intro op hop dst a b c f m sr rand x y z hnan
  have hnan2 : ((fp32.decode x).isNaN || (fp32.decode y).isNaN) = true := Bool.or_eq_true_iff.mpr hnan
  simp only [List.mem_cons, List.not_mem_nil, or_false] at hop
  rcases hop with rfl | rfl | rfl | rfl | rfl | rfl <;> simp only [stepValue, hnan2, if_true] <;> rfl

/-- Settles O24: issue and faults by how the work ends, then the steps of Table 7.5. -/
theorem vectorCommands : Obligations.VectorCommands := by
  refine ⟨fun r hr s t c find h hfind => ?_, intSteps, fun dst a b c f m sr rand x y z => ⟨?_, ?_, ?_⟩, nanSteps⟩
  · have hexec := vectorRows_exec r hr t find s hfind
    intro d work
    refine ⟨fun x hx => yields_lift _ hexec (s.dev.vecRun_ends _ _ find r.2.2 h hx), fun k o e hx => ?_⟩
    obtain ⟨y, hy, hy'⟩ := (e.vecUndef t.toNat c).runFault_events t.toNat 7 (vecErr t.toNat) c k o
    rw [(e.onlyMemory_vecUndef t.toNat c).frame.2.2.1] at hy
    refine ⟨_, yields_lift _ hexec (s.dev.vecRun_faults _ _ find r.2.2 h hx), ?_, Dev.reg_setReg_self _ _ _, y, ?_, hy'⟩
    · rw [Dev.queue_setReg, Dev.queue_runFault]
    · generalize vecReg t.toNat 0x10 = a
      simpa using hy
  · by_cases hx : x = 0
    · subst hx
      rfl
    · have hne : x.toNat ≠ 0 := fun h => hx (BitVec.eq_of_toNat_eq h)
      simp only [stepValue, if_pos hne, if_pos hx]
  · rw [and_magnitude]
    rfl
  · rw [BitVec.toNat_xor]
    rfl

end Sys2Proof.Machine

/-! Accesses of memory leave the tents, and the order of a pack stack (R176 to R182), for O25. -/

namespace Sys2Proof.Machine

/-! ### The tents through an access of memory -/

theorem Dev.tents_foldl {α : Type} {f : Dev → α → Dev} (h : ∀ (d : Dev) x, (f d x).tents = d.tents) (xs : List α) (d : Dev) :
    (xs.foldl f d).tents = d.tents := by
  induction xs generalizing d with
  | nil => rfl
  | cons x xs ih => exact (ih (f d x)).trans (h d x)

@[simp] theorem Dev.tents_bump (d : Dev) (a n : Nat) : (d.bump a n).tents = d.tents := (d.setReg_frame _ _).2.2.2.1

@[simp] theorem Dev.tents_dieErr (d : Dev) (die port blk cls cause : Nat) (i : ErrInfo) :
    (d.dieErr die port blk cls cause i).tents = d.tents := (d.dieErr_frame _ _ _ _ _ _).2.1

theorem Dev.tents_spoil (d : Dev) (a : Nat) : (d.spoil a).tents = d.tents := by
  unfold Dev.spoil
  split <;> rfl

theorem Dev.tents_corrected (d : Dev) (a : Nat) : (d.corrected a).tents = d.tents := by
  simp [Dev.corrected]

theorem Dev.tents_repair (d : Dev) (a : Nat) : (d.repair a).1.tents = d.tents := by
  unfold Dev.repair
  extract_lets x bank used spares
  split_ifs <;> simp

theorem Dev.tents_granuleMet (d : Dev) (a : Nat) (e : Upset) : (d.granuleMet a e).tents = d.tents := by
  unfold Dev.granuleMet
  split
  · exact d.tents_bump _ _
  · split
    · rfl
    · split
      · extract_lets d1
        have h1 : d1.tents = d.tents := d.tents_corrected a
        split
        · have hr : (d1.repair a).1.tents = d.tents := (d1.tents_repair a).trans h1
          split
          · exact hr
          · exact hr
        · exact h1
      · split
        · extract_lets d1
          have h1 : d1.tents = d.tents := (Dev.onlyMemory_undef _ _ _).frame.2.1
          split
          · exact (d1.tents_corrected a).trans h1
          · exact h1
        · exact Dev.tents_spoil _ _

theorem Dev.tents_unitMet (d : Dev) (p : Nat × Upset) : (d.unitMet p).tents = d.tents := by
  unfold Dev.unitMet
  split
  · exact d.tents_granuleMet _ _
  · exact d.tents_granuleMet _ _
  · unfold Dev.wordMet
    split_ifs
    · rfl
    · exact (d.tentErr_frame _ _ _ _ _).1
    · exact d.tents_spoil _
  · unfold Dev.elementMet
    split_ifs
    · rfl
    · exact (Dev.tentErr_frame _ _ _ _ _ _).1.trans (d.tents_bump _ _)
    · exact d.tents_spoil _
  · rfl

@[simp] theorem Dev.tents_meetWhere (d : Dev) (f : Nat → Bool) : (d.meetWhere f).tents = d.tents := by
  unfold Dev.meetWhere
  split
  · rfl
  · exact Dev.tents_foldl (fun d p => d.tents_unitMet p) _ _

@[simp] theorem Dev.tents_memWake (d : Dev) (a n : Nat) : (d.memWake a n).tents = d.tents := by
  unfold Dev.memWake
  split <;> rfl

theorem Dev.tents_msdEvent (d : Dev) (q : MemReq) (status a : Nat) : (d.msdEvent q status a).tents = d.tents := by
  simp [Dev.msdEvent]

theorem Dev.tents_msdRefuse (d : Dev) (q : MemReq) (a n : Nat) : (d.msdRefuse q a n).tents = d.tents := by
  simp [Dev.msdRefuse, Dev.tents_msdEvent]

theorem Dev.tents_uncorrEvent (d : Dev) (q : MemReq) (gs : List Nat) : (d.uncorrEvent q gs).tents = d.tents :=
  (Dev.tents_msdEvent _ _ _ _).trans (Dev.tents_foldl (fun d _ => d.tents_bump _ _) _ d)

theorem Dev.tents_memRead (d : Dev) (q : MemReq) (a n : Nat) : (d.memRead q a n).2.tents = d.tents := by
  unfold Dev.memRead
  extract_lets d1
  have h1 : d1.tents = d.tents := d.tents_memWake _ _
  split
  · exact (Dev.tents_msdRefuse _ _ _ _).trans h1
  · have h2 : (d1.meet a n).tents = d.tents := (Dev.tents_meetWhere _ _).trans h1
    split
    · exact (Dev.tents_uncorrEvent _ _ _).trans h2
    · exact h2

theorem Dev.tents_memWrite (d : Dev) (q : MemReq) (a : Nat) (bs : List Byte) : (d.memWrite q a bs).2.tents = d.tents := by
  unfold Dev.memWrite
  extract_lets d1
  have h1 : d1.tents = d.tents := d.tents_memWake _ _
  split
  · exact (Dev.tents_msdRefuse _ _ _ _).trans h1
  · have h2 : ((d1.meetParts a bs.length).wr a bs).1.tents = d.tents := (Dev.tents_meetWhere _ _).trans h1
    split
    · exact h2
    · exact (Dev.tents_uncorrEvent _ _ _).trans h2

/-! ### What work that ends leaves -/

/-- Whatever the work, its device is related to the one it started from. -/
def Eng.Within {α : Type} (R : Dev → Dev → Prop) (w : Eng α) : Prop := ∀ x, R x.dev (w.run x).2.dev

section
variable {α β : Type} {R : Dev → Dev → Prop}

theorem Eng.run_bind (w : Eng α) (f : α → Eng β) (x : EngS) : (w >>= f).run x = match w.run x with
    | (.ok v, y) => (f v).run y
    | (.error e, y) => (.error e, y) := by
  change ExceptT.run (ExceptT.bind w f) x = _
  simp only [ExceptT.bind, ExceptT.run_mk]
  change (StateT.bind w.run (ExceptT.bindCont f)) x = _
  simp only [StateT.bind]
  cases w.run x with
  | mk r y =>
    cases r with
    | error e => rfl
    | ok v => rfl

/-- Work in two parts that ends: each part ends. -/
theorem Runs.of_bind {w : Eng α} {f : α → Eng β} {x z : EngS} {u : β} (h : Runs (w >>= f) x u z) :
    ∃ v y, Runs w x v y ∧ Runs (f v) y u z := by
  unfold Runs at *
  rw [Eng.run_bind] at h
  split at h
  · next v y hrun => exact ⟨v, y, hrun, h⟩
  · cases h

theorem Eng.Within.bind (htrans : ∀ {d e f}, R d e → R e f → R d f) {w : Eng α} {f : α → Eng β} (hw : w.Within R)
    (hf : ∀ v, (f v).Within R) : Eng.Within R (w >>= f) := by
  intro x
  rw [Eng.run_bind]
  have hwx := hw x
  cases hrun : w.run x with
  | mk r y =>
    rw [hrun] at hwx
    cases r with
    | error e => exact hwx
    | ok v => exact htrans hwx (hf v y)

theorem Eng.Within.pure (hrefl : ∀ d, R d d) (v : α) : Eng.Within R (Pure.pure v) := fun _ => hrefl _

theorem Eng.Within.askDev (hrefl : ∀ d, R d d) (f : Dev → α) : (askDev f).Within R := fun _ => hrefl _

theorem Eng.Within.onDev {f : Dev → Dev} (h : ∀ d, R d (f d)) : (onDev f).Within R := fun _ => h _

theorem Eng.Within.need (hrefl : ∀ d, R d d) (ok : Bool) (cause addr : Nat) : (need ok cause addr).Within R := by
  unfold Machine.need
  split
  · exact fun _ => hrefl _
  · exact fun _ => hrefl _

end

theorem runs_of_workEnds {w : Eng Unit} {d : Dev} {x : EngS} (h : workEnds w d = some x) : Runs w { dev := d } () x := by
  unfold workEnds at h
  split at h
  · next hrun =>
    obtain rfl := Option.some.inj h
    exact hrun
  · cases h

theorem Eng.Within.runs {α : Type} {R : Dev → Dev → Prop} {w : Eng α} (h : w.Within R) {x y : EngS} {v : α}
    (hrun : Runs w x v y) : R x.dev y.dev := by
  have hx := h x
  rwa [hrun] at hx

/-! ### The pack engine's accesses -/

/-- The tents are as before. -/
def Dev.sameTents (d e : Dev) : Prop := e.tents = d.tents

theorem Dev.sameTents_refl (d : Dev) : d.sameTents d := rfl

theorem Dev.sameTents.trans {d e f : Dev} (h : d.sameTents e) (h' : e.sameTents f) : d.sameTents f := Eq.trans h' h

theorem packRead_within (t : Nat) (ps : List (Nat × Nat)) : (packRead t ps).Within Dev.sameTents := by
  induction ps with
  | nil => exact Eng.Within.pure Dev.sameTents_refl _
  | cons p ps ih =>
    intro x
    have hread : (x.dev.memRead (x.dev.pckReq t) p.1 p.2).2.tents = x.dev.tents := Dev.tents_memRead _ _ _ _
    have hrest := Eng.Within.bind (R := Dev.sameTents) Dev.sameTents.trans
      (Eng.Within.need Dev.sameTents_refl ((x.dev.memRead (x.dev.pckReq t) p.1 p.2).1.status == 0)
        (if (x.dev.memRead (x.dev.pckReq t) p.1 p.2).1.status = 2 then 0x21 else 0x20) p.1)
      fun _ => Eng.Within.bind (R := Dev.sameTents) Dev.sameTents.trans ih fun rest =>
        Eng.Within.pure Dev.sameTents_refl ((x.dev.memRead (x.dev.pckReq t) p.1 p.2).1.data ++ rest)
    exact Dev.sameTents.trans hread (hrest { x with dev := (x.dev.memRead (x.dev.pckReq t) p.1 p.2).2 })

theorem packWrite_within (t : Nat) (ps : List (Nat × Nat)) (bs : List Byte) :
    (packWrite t ps bs).Within Dev.sameTents := by
  induction ps generalizing bs with
  | nil => exact Eng.Within.pure Dev.sameTents_refl _
  | cons p ps ih =>
    intro x
    have hwrite : (x.dev.memWrite (x.dev.pckReq t) p.1 (bs.take p.2)).2.tents = x.dev.tents := Dev.tents_memWrite _ _ _ _
    have hrest := Eng.Within.bind (R := Dev.sameTents) Dev.sameTents.trans
      (Eng.Within.need Dev.sameTents_refl ((x.dev.memWrite (x.dev.pckReq t) p.1 (bs.take p.2)).1 == 0)
        (if (x.dev.memWrite (x.dev.pckReq t) p.1 (bs.take p.2)).1 = 2 then 0x21 else 0x20) p.1)
      fun _ => ih (bs.drop p.2)
    exact Dev.sameTents.trans hwrite
      (hrest { x with dev := (x.dev.memWrite (x.dev.pckReq t) p.1 (bs.take p.2)).2 })

/-- A frame moved whole: the stack names its new place, and nothing else of the tents has changed. -/
theorem moveFrame_ends {t : Nat} {old new : Frame} {d : Dev} {x : EngS} (h : workEnds (moveFrame t old new) d = some x) :
    (x.dev.stack t).frames = ((d.stack t).swap old new).frames := by
  obtain ⟨src, y1, h1, h⟩ := (runs_of_workEnds h).of_bind
  obtain ⟨bs, y2, h2, h⟩ := h.of_bind
  obtain ⟨dst, y3, h3, h⟩ := h.of_bind
  obtain ⟨_, y4, h4, h⟩ := h.of_bind
  have hx : x = { y4 with dev := y4.dev.modStack t (·.swap old new) } := by
    unfold Runs at h
    exact (Prod.mk.inj h).2.symm
  have htents : y4.dev.tents = d.tents := by
    have e1 : y1.dev = d := by unfold Runs at h1; exact congrArg EngS.dev (Prod.mk.inj h1).2.symm
    have e3 : y3.dev = y2.dev := by unfold Runs at h3; exact congrArg EngS.dev (Prod.mk.inj h3).2.symm
    have e2 : y2.dev.tents = y1.dev.tents := (packRead_within t src).runs h2
    have e4 : y4.dev.tents = y3.dev.tents := (packWrite_within t dst bs).runs h4
    rw [e4, e3, e2, e1]
  have hstack : y4.dev.stack t = d.stack t := by unfold Dev.stack Dev.tent; rw [htents]
  rw [hx]
  change ((y4.dev.modStack t (·.swap old new)).stack t).frames = _
  rw [Dev.stack, Dev.modStack, Dev.tent_modTent_self]
  change ((y4.dev.stack t).swap old new).frames = _
  rw [hstack]

/-! ### The stack of a tent -/

theorem Dev.stack_of_tents {d e : Dev} (h : e.tents = d.tents) (t : Nat) : e.stack t = d.stack t := by
  unfold Dev.stack Dev.tent
  rw [h]

@[simp] theorem Dev.stack_bump (d : Dev) (a n t : Nat) : (d.bump a n).stack t = d.stack t :=
  Dev.stack_of_tents (d.tents_bump a n) t

theorem Dev.stack_modStack_self (d : Dev) (t : Nat) (f : Stack → Stack) : (d.modStack t f).stack t = f (d.stack t) := by
  rw [Dev.stack, Dev.modStack, Dev.tent_modTent_self]
  rfl

theorem Dev.tents_pegSig (d : Dev) (t p c : Nat) : (d.pegSig t p c).tents = d.tents := by
  by_cases h : d.peg t p + c < 2 ^ 32
  · rw [d.pegSig_fits t p c h]
    simp
  · rw [d.pegSig_saturates t p c (Nat.le_of_not_lt h)]
    exact (Dev.tentErr_frame _ _ _ _ _ _).1.trans (by simp [Dev.orReg])

@[simp] theorem Dev.stack_signal (d : Dev) (t u : Nat) (c : Cmd) : (d.signal t c).stack u = d.stack u := by
  unfold Dev.signal
  split
  · exact Dev.stack_of_tents (d.tents_pegSig _ _ _) u
  · rfl

theorem Dev.frames_popFrame (d : Dev) (t : Nat) : ((d.popFrame t).stack t).frames = (d.stack t).frames.dropLast := by
  rw [Dev.popFrame, Dev.stack_modStack_self]

/-- A popped or dropped frame leaves the stack. -/
theorem Dev.frames_pckFinish_pop (d : Dev) (t : Nat) {c : Cmd} (h : cmdOp c = 2 ∨ cmdOp c = 3) :
    ((d.pckFinish t c).stack t).frames = (d.stack t).frames.dropLast := by
  rw [Dev.pckFinish, Dev.stack_signal]
  rcases h with h | h
  · simp only [h]
    rw [Dev.stack_bump, Dev.frames_popFrame]
  · simp only [h]
    exact d.frames_popFrame t

theorem Dev.frames_pckFinish_push (d : Dev) (t : Nat) {c : Cmd} (h : cmdOp c = 1) :
    ((d.pckFinish t c).stack t).frames = (d.stack t).frames := by
  rw [Dev.pckFinish, Dev.stack_signal]
  simp only [h]
  rw [Dev.stack_bump]

section
variable (d : Dev) (t : Nat) (old new : Frame) {x : EngS} (h : workEnds (moveFrame t old new) d = some x)
include h

theorem Dev.runMove_ends (cnt : Nat) : d.runMove t old new cnt = x.dev.bump (pckReg (pckDie t) cnt) 1 := by
  have hrun : (moveFrame t old new).run { dev := d } = (.ok (), x) := runs_of_workEnds h
  rw [Dev.runMove, hrun]

/-- A move and what it leaves of the spill or refill under way: the frames as the move put them. -/
theorem Dev.move_leaves (cnt : Nat) {f : Stack → Stack} (hf : ∀ s, (f s).frames = s.frames) :
    (((d.runMove t old new cnt).modStack t f).stack t).frames = ((d.stack t).swap old new).frames ∧
      ((d.runMove t old new cnt).modStack t f).mem = x.dev.mem := by
  rw [d.runMove_ends t old new h]
  constructor
  · rw [Dev.stack_modStack_self, hf, Dev.stack_bump, moveFrame_ends h]
  · exact ((Dev.modTent_frame _ _ _).1).trans (x.dev.bump_frame _ _).1

end

theorem yields_packSpill (s : State) (t : TentId) : Yields (.packSpill t) s (s.dev.packSpill t.toNat) := rfl

theorem yields_packRefill (s : State) (t : TentId) : Yields (.packRefill t) s (s.dev.packRefill t.toNat) := rfl

section
variable (d : Dev) (t : Nat) (hh : d.halted = false)
include hh

/-- A spill that goes on moves the lowest HBM frame. -/
theorem Dev.packSpill_moves {f : Frame} {rest : List Frame} (hs : (d.stack t).spilling = true)
    (hf : (d.stack t).inPart false = f :: rest) (hneed : d.spillNeeded t = true)
    (hroom : (d.stack t).used true + f.size ≤ d.partCap t true) (hrest : rest ≠ [] ∨ d.pushWaits t = true) :
    d.packSpill t =
      let d1 := d.runMove t f ⟨(d.stack t).used true, f.size, true⟩ 0x90
      d1.modStack t fun x => { x with spilling := x.spilling && d1.spillNeeded t } := by
  have hgo : (rest.isEmpty && !d.pushWaits t) = false := by
    rcases hrest with h | h
    · rw [List.isEmpty_eq_false_iff.mpr h, Bool.false_and]
    · rw [h, Bool.not_true, Bool.and_false]
  simp only [Dev.packSpill, hs, hh, hf, hneed, hgo, decide_eq_true hroom]
  rfl

/-- A refill into an empty HBM part moves the top LPDDR frame to its start. -/
theorem Dev.packRefill_moves {f : Frame} (hs : (d.stack t).refilling = true)
    (hf : ((d.stack t).inPart true).getLast? = some f) (hroom : (d.stack t).used false + f.size ≤ d.partCap t false)
    (hempty : (d.stack t).inPart false = []) :
    d.packRefill t =
      let low := d.regF (pckReg (pckDie t) 0) 5 4 * d.partCap t false
      (d.runMove t f ⟨0, f.size, false⟩ 0x98).modStack t fun x =>
        { x with refilling := x.refilling && decide (16 * x.used false < low) && !(x.inPart true).isEmpty } := by
  simp only [Dev.packRefill, hs, hh, hf, hempty, if_neg (Nat.not_lt.mpr hroom)]
  rfl

end

/-- Settles O25: a completed command by its opcode, then the move of a spill and of a refill. -/
theorem packStackOrder : Obligations.PackStackOrder := by
  refine ⟨fun d t c => ⟨d.frames_pckFinish_pop t.toNat, d.frames_pckFinish_push t.toNat⟩, fun s t hh _ => ?_⟩
  intro k cap
  refine ⟨fun f rest x hs hf hneed hroom hrest hx => ?_, fun f x hs hf hroom hempty hx => ?_, fun hs => ?_, fun hs => ?_⟩
  · have hmove := s.dev.packSpill_moves t.toNat hh hs hf hneed hroom hrest
    refine ⟨_, yields_packSpill s t, ?_⟩
    rw [hmove]
    exact s.dev.move_leaves t.toNat _ _ hx 0x90 fun _ => rfl
  · have hmove := s.dev.packRefill_moves t.toNat hh hs hf hroom hempty
    refine ⟨_, yields_packRefill s t, ?_⟩
    rw [hmove]
    exact s.dev.move_leaves t.toNat _ _ hx 0x98 fun _ => rfl
  · exact yields_lift (·.packSpill t.toNat) rfl (if_pos (Or.inl (by simp [k] at hs; simp [hs])))
  · exact yields_lift (·.packRefill t.toNat) rfl (if_pos (Or.inl (by simp [k] at hs; simp [hs])))

end Sys2Proof.Machine

/-! The commands of a pack stack, their faults, the GEN change and configuration (R176 to R194), for O26. -/

namespace Sys2Proof.Machine

/-! ### The head of queue 9 -/

theorem Dev.pckHead_some {d : Dev} {t op : Nat} {c : Cmd} (h : d.pckHead t op = some c) :
    cmdOp c = op ∧ (d.queue t 9).flight = [] := by
  unfold Dev.pckHead at h
  split at h
  · split at h
    · next hc =>
      obtain rfl := Option.some.inj h
      exact ⟨hc.1, List.isEmpty_iff.mp hc.2.1⟩
    · cases h
  · cases h

theorem Dev.queue_of_tents {d e : Dev} (h : e.tents = d.tents) (t q : Nat) : e.queue t q = d.queue t q := by
  unfold Dev.queue Dev.tent
  rw [h]

/-- A change of a tent that leaves its stack leaves it. -/
theorem Dev.stack_modTent (d : Dev) (t : Nat) {f : Tent → Tent} (h : (f (d.tent t)).stack = (d.tent t).stack) :
    (d.modTent t f).stack t = d.stack t := by
  rw [Dev.stack, Dev.tent_modTent_self, h]
  rfl

@[simp] theorem Dev.stack_modQueue (d : Dev) (t q : Nat) (f : Queue → Queue) : (d.modQueue t q f).stack t = d.stack t :=
  Dev.stack_modTent _ _ rfl

/-! ### Faults (R185) -/

section
variable (d : Dev) (t op tag cause addr : Nat) (c : Cmd)

theorem Dev.onlyMemory_popUndef : d.onlyMemory (d.popUndef t c) := by
  unfold Dev.popUndef
  split
  · exact (d.onlyMemory_undef _ _).trans (Dev.onlyMemory_undef _ _ _)
  · exact d.onlyMemory_refl

/-- What is open does not hang on registers. -/
theorem Dev.mem_popUndef_regs (regs : List (Nat × Word)) :
    (Dev.popUndef { d with regs := regs } t c).mem = (d.popUndef t c).mem := by
  unfold Dev.popUndef
  split <;> rfl

theorem Dev.queue_modStack (f : Stack → Stack) (q : Nat) : (d.modStack t f).queue t q = d.queue t q :=
  Dev.queue_modTent _ _ _ rfl

@[simp] theorem Dev.modStack_frame (f : Stack → Stack) : (d.modStack t f).mem = d.mem ∧
    (d.modStack t f).events = d.events ∧ (d.modStack t f).regs = d.regs := by
  simp [Dev.modStack]

/-- PCK_ERR keeps the first fault: registers only. -/
theorem Dev.pckRecord_eq : ∃ e : Dev, e.mem = d.mem ∧ e.tents = d.tents ∧ e.events = d.events ∧
    d.pckRecord t op tag cause addr = (e.dieErr (pckDie t) 0 6 clsContained cause
      { op := op, tag := tag, addr := addr, spec := t }).modStack t fun s => { s with stopped := true } := by
  unfold Dev.pckRecord
  extract_lets die d1
  refine ⟨d1, ?_, ?_, ?_, rfl⟩ <;> unfold d1 <;> split <;> simp

/-- What a fault of a pack command leaves: a record of block 6, the stack stopped with its frames, no command waiting. -/
def Dev.PackStopped (e : Dev) : Prop :=
  (e.queue t 9).entries = [] ∧ (e.queue t 9).flight = (d.queue t 9).flight ∧ (e.queue t 9).stopped = true ∧
    (e.stack t).stopped = true ∧ (e.stack t).frames = (d.stack t).frames ∧ e.mem = d.mem ∧
    ∃ y : Event, y ∈ e.events ∧ y.cls = 2 ∧ y.code = 0x406 ∧ y.detail % 256 = cause

theorem Dev.packStopped_pckStop (hc : cause < 256) : d.PackStopped t cause (d.pckStop t op tag cause addr) := by
  obtain ⟨e, hmem, htents, hevents, heq⟩ := d.pckRecord_eq t op tag cause addr
  obtain ⟨y, hy, hcls, hcode, -, hdetail, -⟩ := e.dieErr_events (pckDie t) 0 6 clsContained cause
    { op := op, tag := tag, addr := addr, spec := t } hc
  have hrec := (Dev.tents_dieErr e (pckDie t) 0 6 clsContained cause
    { op := op, tag := tag, addr := addr, spec := t }).trans htents
  have hq : (d.pckStop t op tag cause addr).queue t 9 =
      { d.queue t 9 with stopped := true, entries := [], waiting := false } := by
    rw [Dev.pckStop, heq, Dev.queue_modStack, Dev.dropWaits, Dev.queue_modTent _ _ _ rfl, Dev.queue_modQueue_self,
      Dev.queue_modStack, Dev.queue_of_tents hrec]
  have hs : (d.pckStop t op tag cause addr).stack t =
      { d.stack t with stopped := true, spilling := false, refilling := false } := by
    rw [Dev.pckStop, heq, Dev.stack_modStack_self, Dev.dropWaits, Dev.stack_modTent _ _ rfl, Dev.stack_modQueue,
      Dev.stack_modStack_self, Dev.stack_of_tents hrec]
  refine ⟨by rw [hq], by rw [hq], by rw [hq], by rw [hs], by rw [hs], ?_, y, ?_, hcls, hcode, hdetail⟩
  · rw [Dev.pckStop, heq]
    simp [Dev.dropWaits, hmem]
  · rw [Dev.pckStop, heq]
    simp [Dev.dropWaits, hy]

/-- A fault of a command leaves the destinations of a POP open besides. -/
theorem Dev.pckFault_leaves (hc : cause < 256) (regs : List (Nat × Word)) :
    let e := Dev.pckFault { d with regs := regs } t c cause addr
    (e.queue t 9).entries = [] ∧ (e.queue t 9).flight = (d.queue t 9).flight ∧ (e.queue t 9).stopped = true ∧
      (e.stack t).stopped = true ∧ (e.stack t).frames = (d.stack t).frames ∧ e.mem = (d.popUndef t c).mem ∧
      ∃ y : Event, y ∈ e.events ∧ y.cls = 2 ∧ y.code = 0x406 ∧ y.detail % 256 = cause := by
  obtain ⟨-, htents, -⟩ := (Dev.onlyMemory_popUndef { d with regs := regs } t c).frame
  have hstop := Dev.packStopped_pckStop (Dev.popUndef { d with regs := regs } t c) t (cmdOp c) (cmdTag c) cause addr hc
  obtain ⟨hen, hfl, hst, hss, hfr, hmem, hev⟩ := hstop
  exact ⟨hen, hfl.trans (congrArg Queue.flight (Dev.queue_of_tents htents t 9)), hst, hss,
    hfr.trans (congrArg Stack.frames (Dev.stack_of_tents htents t)), hmem.trans (d.mem_popUndef_regs t c regs), hev⟩

end

/-! ### PUSH -/

section
variable (d : Dev) (t : Nat) {c : Cmd} (h : d.pckHead t 1 = some c)
include h

theorem Dev.pckPush_off (hon : ¬d.regF (pckReg (pckDie t) 0) 0 1 = 1) : d.pckPush t = d.pckFault t c 0x04 0 := by
  have h0 : d.regF (pckReg (pckDie t) 0) 0 1 = 0 := by
    have : d.regF (pckReg (pckDie t) 0) 0 1 < 2 ^ 1 := Nat.mod_lt _ (by decide)
    omega
  simp only [Dev.pckPush, h, if_pos h0]

variable (hon : d.regF (pckReg (pckDie t) 0) 0 1 = 1)
include hon

theorem Dev.pckPush_full (hno : d.partCap t false < frameSize c ∨ 65535 ≤ (d.stack t).frames.length ∨
    (d.stack t).canHold (d.partCap t false) (d.partCap t true) (frameSize c) = false) :
    d.pckPush t = d.pckFault t c 0x06 0 := by
  have h1 : ¬d.regF (pckReg (pckDie t) 0) 0 1 = 0 := by omega
  simp only [Dev.pckPush, h, if_neg h1]
  exact if_pos (by simpa using hno)

variable (hfits : frameSize c ≤ d.partCap t false) (hlen : (d.stack t).frames.length < 65535)
  (hhold : (d.stack t).canHold (d.partCap t false) (d.partCap t true) (frameSize c) = true)
include hfits hlen hhold

theorem Dev.pckPush_waits (hroom : d.partCap t false < (d.stack t).used false + frameSize c) :
    d.pckPush t = ({ d with fresh := d.fresh + 1 }.bump (pckReg (pckDie t) 0xB8) (Config.stallSteps d.fresh)).modStack t
      fun x => { x with spilling := true } := by
  have h1 : ¬d.regF (pckReg (pckDie t) 0) 0 1 = 0 := by omega
  have h2 : ¬(d.partCap t false < frameSize c ∨ 65535 ≤ (d.stack t).frames.length ∨
      (!(d.stack t).canHold (d.partCap t false) (d.partCap t true) (frameSize c)) = true) := by
    rw [hhold]
    simp only [Bool.not_true, Bool.false_eq_true, or_false]
    omega
  simp only [Dev.pckPush, h, if_neg h1, if_neg h2, if_pos hroom]

theorem Dev.pckPush_goes (hroom : (d.stack t).used false + frameSize c ≤ d.partCap t false) {x : EngS}
    (hx : workEnds (pushWork t c ⟨(d.stack t).nextOff (d.partCap t false), frameSize c, false⟩) d = some x) :
    d.pckPush t = (x.dev.issue t 9 { cmd := c }).modStack t fun y => { y with
      spilling := y.spilling || decide (d.regF (pckReg (pckDie t) 0) 1 4 * d.partCap t false <
        16 * ((d.stack t).used false + frameSize c)) } := by
  have h1 : ¬d.regF (pckReg (pckDie t) 0) 0 1 = 0 := by omega
  have h2 : ¬(d.partCap t false < frameSize c ∨ 65535 ≤ (d.stack t).frames.length ∨
      (!(d.stack t).canHold (d.partCap t false) (d.partCap t true) (frameSize c)) = true) := by
    rw [hhold]
    simp only [Bool.not_true, Bool.false_eq_true, or_false]
    omega
  have hrun : (pushWork t c ⟨(d.stack t).nextOff (d.partCap t false), frameSize c, false⟩).run { dev := d } =
      (.ok (), x) := runs_of_workEnds hx
  simp only [Dev.pckPush, h, if_neg h1, if_neg h2, if_neg (Nat.not_lt.mpr hroom), hrun]

end

/-! ### POP and DROP -/

/-- What a POP moves: the parts of the frame to their places in the scratchpad. -/
def popWork (d : Dev) (t : Nat) (c : Cmd) (f : Frame) : Eng Unit := do
  let b0 ← packRead t (d.framePieces t f 64 (cmdB c 12 4))
  let b1 ← if cmdB c 20 4 = 0 then pure [] else
    packRead t (d.framePieces t f (64 + (cmdB c 12 4 + 63) / 64 * 64) (cmdB c 20 4))
  let p ← askDev (·.pckPort t)
  padWrite p (cmdB c 8 4) b0
  if cmdB c 20 4 ≠ 0 then padWrite p (cmdB c 16 4) b1

theorem Dev.foldl_setReg (f g : Nat → Nat) (v w : Nat → Nat) (l : List Nat) (d : Dev) :
    ∃ regs, l.foldl (fun d i => (d.setReg (f i) (v i)).setReg (g i) (w i)) d = { d with regs := regs } := by
  induction l generalizing d with
  | nil => exact ⟨d.regs, rfl⟩
  | cons i l ih =>
    obtain ⟨regs, h⟩ := ih ((d.setReg (f i) (v i)).setReg (g i) (w i))
    exact ⟨regs, h⟩

/-- A header that does not match is recorded beside the expected one, and is fault 0x10 (R181). -/
theorem Dev.pckCheck_mismatch (d : Dev) (t : Nat) (c : Cmd) (f : Frame) {found : List Byte}
    (hne : found ≠ d.frameHdr c ((d.stack t).frames.length - 1)) :
    ∃ regs, d.pckCheck t c f found = some (Dev.pckFault { d with regs := regs } t c 0x10 f.off) := by
  obtain ⟨regs, h⟩ := Dev.foldl_setReg (fun i => pckReg (pckDie t) (0x30 + 8 * i)) (fun i => pckReg (pckDie t) (0x48 + 8 * i))
    (fun i => leAt (d.frameHdr c ((d.stack t).frames.length - 1)) (8 * i) 8) (fun i => leAt found (8 * i) 8) [0, 1, 2] d
  refine ⟨regs, ?_⟩
  rw [Dev.pckCheck, ← h]
  exact if_neg hne

section
variable (d : Dev) (t op : Nat) {c : Cmd} (h : d.pckHead t op = some c)
include h
theorem Dev.pckPop_off (hon : ¬d.regF (pckReg (pckDie t) 0) 0 1 = 1) : d.pckPop t op = d.pckFault t c 0x04 0 := by
  have h0 : d.regF (pckReg (pckDie t) 0) 0 1 = 0 := by
    have : d.regF (pckReg (pckDie t) 0) 0 1 < 2 ^ 1 := Nat.mod_lt _ (by decide)
    omega
  rw [Dev.pckPop, h]
  exact if_pos h0

variable (hon : d.regF (pckReg (pckDie t) 0) 0 1 = 1)
include hon

theorem Dev.pckPop_empty (hno : (d.stack t).frames = []) : d.pckPop t op = d.pckFault t c 0x05 0 := by
  have h1 : ¬d.regF (pckReg (pckDie t) 0) 0 1 = 0 := by omega
  have hl : (d.stack t).frames.getLast? = none := by rw [hno]; rfl
  rw [Dev.pckPop, h]
  refine (if_neg h1).trans ?_
  rw [hl]

variable {f : Frame} {found : List Byte} (hf : (d.stack t).frames.getLast? = some f)
  (hread : (packRead t (d.framePieces t f 0 24)).run { dev := d } = (.ok found, { dev := d }))
include hf hread

theorem Dev.pckPop_check {e : Dev} (hcheck : d.pckCheck t c f found = some e) : d.pckPop t op = e := by
  have h1 : ¬d.regF (pckReg (pckDie t) 0) 0 1 = 0 := by omega
  rw [Dev.pckPop, h]
  refine (if_neg h1).trans ?_
  simp -beta -zeta only [hf, hread, hcheck]

variable (hcheck : d.pckCheck t c f found = none)
include hcheck

theorem Dev.pckPop_drop (hop : op = 3) : d.pckPop t op = d.issue t 9 { cmd := c } := by
  have h1 : ¬d.regF (pckReg (pckDie t) 0) 0 1 = 0 := by omega
  rw [Dev.pckPop, h]
  refine (if_neg h1).trans ?_
  simp -beta -zeta only [hf, hread, hcheck, if_pos hop]

theorem Dev.pckPop_moves (hop : op = 2) (hs : f.spilled = false) {e : Dev}
    (hwork : Runs (popWork d t c f) { dev := d } () { dev := e }) : d.pckPop t op = e.issue t 9 { cmd := c } := by
  have h1 : ¬d.regF (pckReg (pckDie t) 0) 0 1 = 0 := by omega
  have h3 : ¬op = 3 := by omega
  have hrun : (popWork d t c f).run { dev := d } = (.ok (), { dev := e }) := hwork
  rw [popWork] at hrun
  rw [Dev.pckPop, h]
  refine (if_neg h1).trans ?_
  simp -beta -zeta only [hf, hread, hcheck, if_neg h3]
  extract_lets l0 l1 work
  have hw : work.run { dev := d } = (.ok (), { dev := e }) := hrun
  rw [hw]
  exact if_neg (by simp [hs])

end

/-! ### Writes of the scratchpad (R41 to R44) -/

theorem Dev.meetParts_quiet (d : Dev) (a n : Nat) (h : d.quiet a n = true) : d.meetParts a n = d := by
  have hno : ∀ p ∈ d.flips, (decide (p.1 < a + n) && decide (a < p.1 + unitLen p.1)) = false :=
    fun p hp => by simpa only [Bool.not_eq_true'] using List.all_eq_true.mp h p hp
  have hmet : (d.flips.filter fun p => decide (p.1 < a + n) && decide (a < p.1 + unitLen p.1) &&
      !(decide (a ≤ p.1) && decide (p.1 + unitLen p.1 ≤ a + n))) = [] :=
    List.filter_eq_nil_iff.mpr fun p hp => by simp [hno p hp]
  have hrest : (d.flips.filter fun p => !(decide (p.1 < a + n) && decide (a < p.1 + unitLen p.1) &&
      !(decide (a ≤ p.1) && decide (p.1 + unitLen p.1 ≤ a + n)))) = d.flips :=
    List.filter_eq_self.mpr fun p hp => by simp [hno p hp]
  unfold Dev.meetParts Dev.meetWhere
  split
  · rfl
  · rw [hmet, hrest]
    rfl

/-- A write that Dev.padWrites lets through lands. -/
theorem Runs.padWrite (p : PadPort) (o : Nat) (bs : List Byte) (x : EngS) (h : x.dev.padWrites p o bs.length = true) :
    Runs (padWrite p o bs) x () { x with dev := x.dev.wrB (tentMem p.t o) bs } := by
  simp only [Dev.padWrites, Bool.and_eq_true, Bool.or_eq_true, decide_eq_true_eq, Bool.not_eq_true'] at h
  obtain ⟨⟨⟨⟨hr, hc⟩, hs⟩, hq⟩, hb⟩ := h
  have hmeet : x.dev.meetParts (tentMem p.t o) bs.length = x.dev := x.dev.meetParts_quiet _ _ hq
  have hwhole : (x.dev.wr (tentMem p.t o) bs).2 = false := by simp [Dev.wr, hb]
  refine (Runs.padCheck p o bs.length x hr hc hs).bind ((Runs.onDev _ x).bind ?_)
  rw [hmeet]
  refine (Runs.askDev _ x).bind ((Runs.onDev _ x).bind ?_)
  rw [if_neg (by simp [hwhole])]
  exact Runs.pure _ _

/-- The moves of a POP whose parts can be read and written. -/
theorem runs_popWork (d : Dev) (t : Nat) (c : Cmd) (f : Frame) {b0 b1 : List Byte}
    (h0 : Runs (packRead t (d.framePieces t f 64 (cmdB c 12 4))) { dev := d } b0 { dev := d })
    (h1 : if cmdB c 20 4 = 0 then b1 = [] else
      Runs (packRead t (d.framePieces t f (64 + (cmdB c 12 4 + 63) / 64 * 64) (cmdB c 20 4))) { dev := d } b1 { dev := d })
    (hw0 : d.padWrites (d.pckPort t) (cmdB c 8 4) b0.length = true)
    (hw1 : cmdB c 20 4 ≠ 0 →
      (d.wrB (tentMem t (cmdB c 8 4)) b0).padWrites (d.pckPort t) (cmdB c 16 4) b1.length = true) :
    Runs (popWork d t c f) { dev := d } ()
      { dev := if cmdB c 20 4 = 0 then d.wrB (tentMem t (cmdB c 8 4)) b0 else
          (d.wrB (tentMem t (cmdB c 8 4)) b0).wrB (tentMem t (cmdB c 16 4)) b1 } := by
  have hfirst : Runs (Machine.padWrite (d.pckPort t) (cmdB c 8 4) b0) { dev := d } ()
      { dev := d.wrB (tentMem t (cmdB c 8 4)) b0 } := Runs.padWrite _ _ _ _ hw0
  unfold popWork
  refine h0.bind ?_
  by_cases hl : cmdB c 20 4 = 0
  · simp only [hl, if_true, ne_eq, not_true, if_false] at h1 ⊢
    exact (Runs.pure _ _).bind ((Runs.askDev _ _).bind (hfirst.bind (Runs.pure _ _)))
  · simp only [hl, if_false, ne_eq, not_false_eq_true, if_true] at h1 ⊢
    refine h1.bind ((Runs.askDev _ _).bind (hfirst.bind ?_))
    exact Runs.padWrite (d.pckPort t) (cmdB c 16 4) b1 { dev := d.wrB (tentMem t (cmdB c 8 4)) b0 } (hw1 hl)

/-! ### A GEN change (R183) -/

/-- Only tent u changed of the tents, and nothing of memory. -/
def Dev.onlyTent (d : Dev) (u : Nat) (e : Dev) : Prop := e.mem = d.mem ∧ ∀ t, t ≠ u → e.tent t = d.tent t

theorem Dev.onlyTent_refl (d : Dev) (u : Nat) : d.onlyTent u d := ⟨rfl, fun _ _ => rfl⟩

theorem Dev.onlyTent.trans {a b c : Dev} {u : Nat} (h : a.onlyTent u b) (k : b.onlyTent u c) : a.onlyTent u c :=
  ⟨k.1.trans h.1, fun t ht => (k.2 t ht).trans (h.2 t ht)⟩

theorem Dev.onlyTent_of_tents {d e : Dev} {u : Nat} (hm : e.mem = d.mem) (ht : e.tents = d.tents) : d.onlyTent u e :=
  ⟨hm, fun t _ => by rw [Dev.tent, Dev.tent, ht]⟩

theorem Dev.onlyTent_modTent (d : Dev) (u : Nat) (f : Tent → Tent) : d.onlyTent u (d.modTent u f) :=
  ⟨rfl, fun t ht => by rw [Dev.modTent, Dev.tent_setTent, if_neg ht]⟩

theorem Dev.onlyTent_bump (d : Dev) (u a n : Nat) : d.onlyTent u (d.bump a n) :=
  Dev.onlyTent_of_tents rfl (d.tents_bump a n)

theorem Dev.onlyTent_foldl {α : Type} {u : Nat} {f : Dev → α → Dev} (h : ∀ (d : Dev) x, d.onlyTent u (f d x)) (xs : List α)
    (d : Dev) : d.onlyTent u (xs.foldl f d) := by
  induction xs generalizing d with
  | nil => exact d.onlyTent_refl u
  | cons x xs ih => exact (h d x).trans (ih _)

theorem Dev.mem_pegSig (d : Dev) (t p n : Nat) : (d.pegSig t p n).mem = d.mem := by
  by_cases h : d.peg t p + n < 2 ^ 32
  · rw [d.pegSig_fits t p n h]
    exact (d.setReg_frame _ _).1
  · rw [d.pegSig_saturates t p n (by omega)]
    exact (Dev.tentErr_frame _ _ _ _ _ _).2.trans (by simp [Dev.orReg])

theorem Dev.mem_signal (d : Dev) (t : Nat) (c : Cmd) : (d.signal t c).mem = d.mem := by
  unfold Dev.signal
  split
  · exact d.mem_pegSig _ _ _
  · rfl

theorem Dev.onlyTent_signal (d : Dev) (u : Nat) (c : Cmd) : d.onlyTent u (d.signal u c) := by
  refine Dev.onlyTent_of_tents (d.mem_signal u c) ?_
  unfold Dev.signal
  split
  · exact d.tents_pegSig _ _ _
  · rfl

theorem Dev.onlyTent_pckFinish (d : Dev) (u : Nat) (c : Cmd) : d.onlyTent u (d.pckFinish u c) := by
  unfold Dev.pckFinish
  refine Dev.onlyTent.trans ?_ (Dev.onlyTent_signal _ _ _)
  split
  · exact d.onlyTent_bump _ _ _
  · exact (d.onlyTent_modTent u _).trans (Dev.onlyTent_bump _ _ _ _)
  · exact d.onlyTent_modTent u _
  · exact d.onlyTent_refl u

/-- The pack stack of a tent holds no frame and its queue no command. -/
def Dev.PackClear (d : Dev) (t : Nat) : Prop :=
  (d.stack t).frames = [] ∧ (d.queue t 9).entries = [] ∧ (d.queue t 9).flight = []

theorem Dev.packClear_of_tent {d e : Dev} {t : Nat} (h : e.tent t = d.tent t) (hc : d.PackClear t) : e.PackClear t := by
  unfold Dev.PackClear Dev.stack Dev.queue at *
  rwa [h]

theorem Dev.pckGenTent_clears (d : Dev) (u : Nat) : d.onlyTent u (d.pckGenTent u) ∧ (d.pckGenTent u).PackClear u := by
  unfold Dev.pckGenTent
  extract_lets die q d1 d2 n
  have h1 : d.onlyTent u d1 := Dev.onlyTent_foldl (fun d _ => d.onlyTent_pckFinish u _) _ d
  have h2 : d1.onlyTent u d2 :=
    Dev.onlyTent_foldl (fun d _ => (d.onlyTent_bump u _ _).trans (Dev.onlyTent_signal _ _ _)) _ d1
  refine ⟨(h1.trans h2).trans ((((d2.onlyTent_bump u _ _).trans (Dev.onlyTent_modTent _ _ _)).trans
    (Dev.onlyTent_modTent _ _ _)).trans (Dev.onlyTent_modTent _ _ _)), ?_, ?_, ?_⟩
  · rw [Dev.stack_modStack_self]
  · rw [Dev.queue_modStack, Dev.dropWaits, Dev.queue_modTent _ _ _ rfl, Dev.queue_modQueue_self]
  · rw [Dev.queue_modStack, Dev.dropWaits, Dev.queue_modTent _ _ _ rfl, Dev.queue_modQueue_self]

theorem Dev.foldl_pckGenTent (us : List Nat) (d : Dev) :
    (us.foldl (fun d u => d.pckGenTent u) d).mem = d.mem ∧
      ∀ t, t ∈ us ∨ d.PackClear t → (us.foldl (fun d u => d.pckGenTent u) d).PackClear t := by
  induction us generalizing d with
  | nil => exact ⟨rfl, fun t h => h.resolve_left (List.not_mem_nil)⟩
  | cons u us ih =>
    obtain ⟨⟨hmem, hother⟩, hself⟩ := d.pckGenTent_clears u
    obtain ⟨hmem', hclear⟩ := ih (d.pckGenTent u)
    refine ⟨hmem'.trans hmem, fun t ht => hclear t ?_⟩
    by_cases htu : t = u
    · subst htu
      exact .inr hself
    · rcases ht with ht | ht
      · exact .inl ((List.mem_cons.mp ht).resolve_left htu)
      · exact .inr (Dev.packClear_of_tent (hother t htu) ht)

theorem look_of_not_mem {α : Type} (dflt : Nat → α) (m : List (Nat × α)) {k : Nat} (h : k ∉ m.map Prod.fst) :
    look dflt m k = dflt k := by
  induction m with
  | nil => rfl
  | cons p m ih =>
    rw [List.map_cons, List.mem_cons, not_or] at h
    exact (if_neg (Ne.symm h.1)).trans (ih h.2)

/-- A tent that holds nothing holds no frame. -/
theorem Dev.packClear_of_not_live {d : Dev} {t : Nat} (h : t ∉ d.liveTents) : d.PackClear t := by
  have ht : d.tent t = {} := look_of_not_mem _ _ h
  unfold Dev.PackClear Dev.stack Dev.queue
  rw [ht]
  exact ⟨rfl, rfl, rfl⟩

theorem does_packGenClear (s : State) (h : s.dev.packGenClr = true) : Does .packGenClear s fun e =>
    e.packGenClr = false ∧ e.mem = s.dev.mem ∧ ∀ t : TentId, (e.stack t.toNat).frames = [] ∧
      (e.queue t.toNat 9).entries = [] ∧ (e.queue t.toNat 9).flight = [] := by
  obtain ⟨hmem, hclear⟩ := Dev.foldl_pckGenTent s.dev.liveTents s.dev
  refine ⟨_, yields_lift (·.packGenClear) rfl (if_neg (by simp [h])), rfl, hmem, fun t => ?_⟩
  exact hclear t.toNat ((em _).imp_right Dev.packClear_of_not_live)

/-! ### Configuration (R193, R194) -/

section
variable (s : State) (m : BitVec 2) (w u : Writer) (v : Word) (hw : s.acting w = some u)
include hw

theorem yields_packConfigWrite (off : BitVec 8) :
    Yields (.packConfigWrite m w off v) s (s.dev.packConfigWrite m.toNat u off.toNat v.toNat) :=
  yields_lift (·.packConfigWrite m.toNat u off.toNat v.toNat) (asWriter_next w u _ s hw) rfl

theorem packConfig_nonsecure (h : u.secure = false) (off : BitVec 8) : Yields (.packConfigWrite m w off v) s
    (s.dev.dieErr (2 + m.toNat) 0 6 1 0x06 { addr := pckReg (2 + m.toNat) off.toNat }) := by
  have hy := yields_packConfigWrite s m w u v hw off
  rwa [show s.dev.packConfigWrite m.toNat u off.toNat v.toNat = _ from if_pos (by simp [h])] at hy

variable (h : u.secure = true)
include h

theorem packConfig_held (hh : s.dev.pckHeld m.toNat = true) (off : BitVec 8) :
    Yields (.packConfigWrite m w off v) s (s.dev.setRegF (pckReg (2 + m.toNat) 0) 9 1 1) := by
  have hy := yields_packConfigWrite s m w u v hw off
  rwa [show s.dev.packConfigWrite m.toNat u off.toNat v.toNat = _ from
    (if_neg (by simp [h])).trans (if_pos hh)] at hy

variable (hh : s.dev.pckHeld m.toNat = false)
include hh

theorem packConfig_share : Yields (.packConfigWrite m w 4 v) s (s.dev.setReg (pckReg (2 + m.toNat) 4) (v.toNat % 2 ^ 16)) := by
  have hy := yields_packConfigWrite s m w u v hw 4
  rwa [show s.dev.packConfigWrite m.toNat u (BitVec.toNat 4) v.toNat = _ from
    (if_neg (by simp [h])).trans (if_neg (by simp [hh]))] at hy

theorem packConfig_base : Yields (.packConfigWrite m w 8 v) s (s.dev.setReg (pckReg (2 + m.toNat) 8) v.toNat) := by
  have hy := yields_packConfigWrite s m w u v hw 8
  rwa [show s.dev.packConfigWrite m.toNat u (BitVec.toNat 8) v.toNat = _ from
    (if_neg (by simp [h])).trans (if_neg (by simp [hh]))] at hy

theorem packConfig_lpBase : Yields (.packConfigWrite m w 0x10 v) s (s.dev.setReg (pckReg (2 + m.toNat) 0x10) v.toNat) := by
  have hy := yields_packConfigWrite s m w u v hw 0x10
  rwa [show s.dev.packConfigWrite m.toNat u (BitVec.toNat 0x10) v.toNat = _ from
    (if_neg (by simp [h])).trans (if_neg (by simp [hh]))] at hy

/-- The parts lie in their tiers and LOW is below HIGH: EN may be set (R194). -/
def Dev.partsOk (d : Dev) (die v : Nat) : Bool :=
  regionOk (d.reg (pckReg die 8)) (field (d.reg (pckReg die 4)) 0 8) 0 hbmEnd &&
    regionOk (d.reg (pckReg die 0x10)) (field (d.reg (pckReg die 4)) 8 8) lpBase lpEnd &&
    decide (field v 5 4 < field v 1 4)

omit hw in
theorem Dev.packConfigWrite_ctl : s.dev.packConfigWrite m.toNat u 0 v.toNat =
    if bitAt v.toNat 0 && !s.dev.partsOk (2 + m.toNat) v.toNat then s.dev.setRegF (pckReg (2 + m.toNat) 0) 9 1 1
    else (if bitAt v.toNat 9 then s.dev.setRegF (pckReg (2 + m.toNat) 0) 9 1 0 else s.dev).setRegF
      (pckReg (2 + m.toNat) 0) 0 9 v.toNat :=
  (if_neg (by simp [h])).trans (if_neg (by simp [hh]))

/-- PCK_CTL takes its value where EN is not written 1, or may be. -/
theorem packConfig_ctl (hen : bitAt v.toNat 0 = false ∨ s.dev.partsOk (2 + m.toNat) v.toNat = true)
    (hsh : bitAt v.toNat 9 = false) :
    Yields (.packConfigWrite m w 0 v) s (s.dev.setRegF (pckReg (2 + m.toNat) 0) 0 9 v.toNat) := by
  have hno : ¬(bitAt v.toNat 0 && !s.dev.partsOk (2 + m.toNat) v.toNat) = true := by
    rcases hen with hen | hen <;> simp [hen]
  have hy := yields_packConfigWrite s m w u v hw 0
  rwa [show s.dev.packConfigWrite m.toNat u (BitVec.toNat 0) v.toNat = _ from
    Dev.packConfigWrite_ctl s m u v h hh, if_neg hno, hsh] at hy

theorem packConfig_ctl_refused (hen : bitAt v.toNat 0 = true) (hok : s.dev.partsOk (2 + m.toNat) v.toNat = false) :
    Yields (.packConfigWrite m w 0 v) s (s.dev.setRegF (pckReg (2 + m.toNat) 0) 9 1 1) := by
  have hy := yields_packConfigWrite s m w u v hw 0
  rwa [show s.dev.packConfigWrite m.toNat u (BitVec.toNat 0) v.toNat = _ from
    Dev.packConfigWrite_ctl s m u v h hh, if_pos (by simp [hen, hok])] at hy

end

/-! ### O26 -/

section
variable (s : State) (t : TentId) (c : Cmd)

/-- What a fault of a pack command at the head leaves. -/
def PackStops (i : Instr) (k : Nat) : Prop := Does i s fun e =>
  (e.queue t.toNat 9).entries = [] ∧ (e.queue t.toNat 9).flight = [] ∧ (e.queue t.toNat 9).stopped = true ∧
    (e.stack t.toNat).stopped = true ∧ (e.stack t.toNat).frames = (s.dev.stack t.toNat).frames ∧
    e.mem = (s.dev.popUndef t.toNat c).mem ∧
    ∃ y : Event, y ∈ e.events ∧ y.cls = 2 ∧ y.code = 0x406 ∧ y.detail % 256 = k

theorem packStops_of_fault {i : Instr} {k addr : Nat} (regs : List (Nat × Word)) (hk : k < 256)
    (hfl : (s.dev.queue t.toNat 9).flight = [])
    (hy : Yields i s (Dev.pckFault { s.dev with regs := regs } t.toNat c k addr)) : PackStops s t c i k := by
  obtain ⟨hen, hflight, hst, hss, hfr, hmem, hev⟩ := s.dev.pckFault_leaves t.toNat k addr c hk regs
  exact ⟨_, hy, hen, hflight.trans hfl, hst, hss, hfr, hmem, hev⟩

theorem yields_push {e : Dev} (h : s.dev.pckPush t.toNat = e) : Yields (.push t) s e :=
  yields_lift (·.pckPush t.toNat) rfl h

theorem yields_popOrDrop {op : Nat} (hop : op ∈ [2, 3]) {e : Dev} (h : s.dev.pckPop t.toNat op = e) :
    Yields (if op = 2 then .pop t else .drop t) s e := by
  simp only [List.mem_cons, List.not_mem_nil, or_false] at hop
  rcases hop with rfl | rfl
  · exact yields_lift (·.pckPop t.toNat 2) rfl h
  · exact yields_lift (·.pckPop t.toNat 3) rfl h

end

/-- Settles O26: PUSH, POP and DROP by the checks of R180 and R181, the GEN change tent by tent, configuration by the
offset. -/
theorem packCommands : Obligations.PackCommands := by
  unfold Obligations.PackCommands
  refine ⟨fun s t c => ?_, does_packGenClear, fun s m w u v hw => ?_⟩
  · intro d die on hcap n stops
    refine ⟨fun h => ?_, ?_⟩
    · obtain ⟨-, hfl⟩ := Dev.pckHead_some h
      refine ⟨fun hoff => ?_, fun hon hno => ?_, fun hon hfits hlen hhold => ⟨fun hroom => ?_, fun x hx hroom => ?_⟩⟩
      · exact packStops_of_fault s t c d.regs (by decide) hfl (yields_push s t (d.pckPush_off t.toNat h hoff))
      · exact packStops_of_fault s t c d.regs (by decide) hfl (yields_push s t (d.pckPush_full t.toNat h hon hno))
      · exact yields_push s t (d.pckPush_waits t.toNat h hon hfits hlen hhold hroom)
      · exact yields_push s t (d.pckPush_goes t.toNat h hon hfits hlen hhold hroom hx)
    · intro op hop h row
      obtain ⟨-, hfl⟩ := Dev.pckHead_some h
      refine ⟨fun hoff => ?_, fun hon hno => ?_, fun f found hon hf hread => ⟨fun hne => ?_, fun heq => ?_⟩⟩
      · exact packStops_of_fault s t c d.regs (by decide) hfl
          (yields_popOrDrop s t hop (d.pckPop_off t.toNat op h hoff))
      · exact packStops_of_fault s t c d.regs (by decide) hfl
          (yields_popOrDrop s t hop (d.pckPop_empty t.toNat op h hon hno))
      · obtain ⟨regs, hcheck⟩ := d.pckCheck_mismatch t.toNat c f hne
        exact packStops_of_fault s t c regs (by decide) hfl
          (yields_popOrDrop s t hop (d.pckPop_check t.toNat op h hon hf hread hcheck))
      · have hcheck : d.pckCheck t.toNat c f found = none := if_pos heq
        refine ⟨fun h3 => yields_popOrDrop s t hop (d.pckPop_drop t.toNat op h hon hf hread hcheck h3),
          fun b0 b1 h0 h1 hw0 hw1 h2 hs => ?_⟩
        refine yields_popOrDrop s t hop (d.pckPop_moves t.toNat op h hon hf hread hcheck h2 hs ?_)
        exact runs_popWork d t.toNat c f h0 h1 hw0 hw1
  · intro d die ctl row
    refine ⟨fun h => packConfig_nonsecure s m w u v hw h, fun h hh => packConfig_held s m w u v hw h hh,
      fun h hh => ⟨packConfig_share s m w u v hw h hh, packConfig_base s m w u v hw h hh,
        packConfig_lpBase s m w u v hw h hh, fun hen hsh => packConfig_ctl s m w u v hw h hh (.inl hen) hsh, ?_⟩⟩
    intro share
    exact ⟨fun hen hok => packConfig_ctl_refused s m w u v hw h hh hen hok,
      fun _ hsh hok => packConfig_ctl s m w u v hw h hh (.inr hok) hsh⟩

end Sys2Proof.Machine

/-! ROUTE, DISPATCH and ANSWER, the packets that arrive, and the GEN change of the routing commands (R197 to R213),
for O27. -/

namespace Sys2Proof.Machine

/-! ### Commands at the head of queue 8 -/

theorem Eng.run_bind_error {α β : Type} {w : Eng α} {f : α → Eng β} {x y : EngS} {e : Stop}
    (h : w.run x = (.error e, y)) : (w >>= f).run x = (.error e, y) := by
  rw [Eng.run_bind, h]

theorem run_of_workFaults {w : Eng Unit} {d : Dev} {k : Nat × Nat × Dev} (h : workFaults w d = some k) :
    ∃ x : EngS, w.run { dev := d } = (.error (.fault k.1 k.2.1), x) := by
  unfold workFaults at h
  split at h
  · next cause addr x hrun =>
    obtain rfl := Option.some.inj h
    exact ⟨x, hrun⟩
  · cases h

section
variable (d : Dev) (t op : Nat) {c : Cmd} (work : Cmd → Eng (List Byte)) (h : d.movHead t op = some c)
include h

theorem Dev.rteRun_ends {note : List Byte} {x : EngS} (hw : (work c).run { dev := d } = (.ok note, x)) :
    d.rteRun t op work = (x.dev.flush (.queue t 8) { job := x.dev.job } x.out).2.issue t 8
      { cmd := c, descs := note, acks := x.acks ++ (x.dev.flush (.queue t 8) { job := x.dev.job } x.out).1
        olds := d.wordsLost x.dev } := by
  simp only [Dev.rteRun, h, hw]

theorem Dev.rteRun_faults {cause addr : Nat} {x : EngS}
    (hw : (work c).run { dev := d } = (.error (.fault cause addr), x)) :
    d.rteRun t op work = (x.dev.rteUndef t c).rteFault t c cause addr := by
  simp only [Dev.rteRun, h, hw]

end

/-- A fault of the expert unit leaves no command waiting and no routing command in flight (R213). -/
theorem Dev.rteFault_leaves (d : Dev) (t : Nat) (c : Cmd) (cause addr : Nat) :
    let e := d.rteFault t c cause addr
    (e.queue t 8).entries = [] ∧ (e.tent t).xstopped = true ∧ ∀ x ∈ (e.queue t 8).flight, cmdOp x.cmd < 12 := by
  intro e
  have hq : e.queue t 8 = { d.queue t 8 with
      entries := [], waiting := false, flight := (d.queue t 8).flight.filter fun i => cmdOp i.cmd < 0xC } := by
    unfold e Dev.rteFault Dev.dropWaits
    rw [Dev.queue_modTent _ _ _ rfl, Dev.queue_modTent _ _ _ rfl, Dev.queue_modQueue_self, Dev.queue_recordFault]
  refine ⟨by rw [hq], ?_, fun x hx => ?_⟩
  · unfold e Dev.rteFault Dev.dropWaits
    rw [Dev.tent_modTent_self, Dev.tent_modTent_self]
  · rw [hq] at hx
    exact of_decide_eq_true (List.mem_filter.mp hx).2

/-- What a routing command returns beside its work. -/
def routeRow (t : Nat) (c : Cmd) : Eng (List Byte) := do
  routeWork t c
  return []

/-- The same of a DISPATCH. -/
def dispatchRow (t : Nat) (c : Cmd) : Eng (List Byte) := do
  dispatchWork t c
  return []

/-- The same of an ANSWER: the place of its bitmap. -/
def answerRow (t : Nat) (c : Cmd) : Eng (List Byte) := do
  let e ← answerWork t c
  return leBytes 4 e.inOff ++ leBytes 4 (8 * e.words)

theorem yields_route (s : State) (t : TentId) {e : Dev} (he : s.dev.rteRun t.toNat 0xC (routeRow t.toNat) = e) :
    Yields (.route t) s e := yields_lift (fun d => d.rteRun t.toNat 0xC (routeRow t.toNat)) rfl he

theorem yields_answer (s : State) (t : TentId) {e : Dev} (he : s.dev.rteRun t.toNat 0xE (answerRow t.toNat) = e) :
    Yields (.answer t) s e := yields_lift (fun d => d.rteRun t.toNat 0xE (answerRow t.toNat)) rfl he

/-- A DISPATCH waits while its group is open (R206). -/
theorem yields_dispatch (s : State) (t : TentId) {c : Cmd} (h : s.dev.movHead t.toNat 0xD = some c) {e : Dev}
    (he : (if s.dev.regF (grpAddr t.toNat (cmdF c 149 3)) 42 1 = 1 then s.dev
      else s.dev.rteRun t.toNat 0xD (dispatchRow t.toNat)) = e) : Yields (.dispatch t) s e := by
  refine yields_lift (fun d => match d.movHead t.toNat 0xD with
    | none => d
    | some c =>
      if d.regF (grpAddr t.toNat (cmdF c 149 3)) 42 1 = 1 then d
      else d.rteRun t.toNat 0xD (dispatchRow t.toNat)) rfl ?_
  rw [h]
  exact he

/-! ### Packets that arrive (R203 to R206) -/

section
variable (d : Dev) (t : Nat) (h : RHdr)

theorem Dev.rteStale_job (hj : h.job ≠ d.job) : d.rteStale t h = some (d.bump (rteReg t 0xA8) 1) := if_pos hj

theorem Dev.rteStale_gen (hj : h.job = d.job) (hg : h.gen ≠ d.gen) :
    d.rteStale t h = some (d.bump (rteReg t 0xA0) 1) := (if_neg (not_not.mpr hj)).trans (if_pos hg)

theorem Dev.rteStale_epoch (hj : h.job = d.job) (hg : h.gen = d.gen) (he : h.epoch ≠ d.epoch) :
    d.rteStale t h = some (d.bump (rteReg t 0xB0) 1) :=
  (if_neg (not_not.mpr hj)).trans ((if_neg (not_not.mpr hg)).trans (if_pos he))

theorem Dev.rteStale_current (hj : h.job = d.job) (hg : h.gen = d.gen) (he : h.epoch = d.epoch) :
    d.rteStale t h = none :=
  (if_neg (not_not.mpr hj)).trans ((if_neg (not_not.mpr hg)).trans (if_neg (not_not.mpr he)))

end

theorem Dev.ackRoute_here {d : Dev} {p : RoutePkt} (hsrc : p.src.toNat = d.devId) {r : Nat × Dev} (h : r.1 ≠ 6) :
    d.ackRoute p r = r.2 := (if_neg h).trans (if_pos hsrc)

section
variable (s : State) (p : RoutePkt) (hsrc : p.src.toNat = s.dev.devId) (hres : (rhdrOf p.body).reserved = false)
include hsrc hres

theorem yields_dispatchArrive (hk : (rhdrOf p.body).kind = 1) {n : Nat} {e : Dev} (hn : n ≠ 6)
    (h : s.dev.dispatchArrive p.t.toNat p.body = (n, e)) : Yields (.dispatchPacketArrive p) s e := by
  refine yields_lift (fun d => if (rhdrOf p.body).kind ≠ 1 ∨ (rhdrOf p.body).reserved then d
    else d.ackRoute p (d.dispatchArrive p.t.toNat p.body)) rfl ?_
  rw [if_neg (by simp [hk, hres]), h, Dev.ackRoute_here hsrc hn]

theorem yields_answerArrive (hk : (rhdrOf p.body).kind = 2) {n : Nat} {e : Dev} (hn : n ≠ 6)
    (h : s.dev.answerArrive p.t.toNat p.body = (n, e)) : Yields (.answerArrive p) s e := by
  refine yields_lift (fun d => if (rhdrOf p.body).kind ≠ 2 ∨ (rhdrOf p.body).reserved then d
    else d.ackRoute p (d.answerArrive p.t.toNat p.body)) rfl ?_
  rw [if_neg (by simp [hk, hres]), h, Dev.ackRoute_here hsrc hn]

/-- A packet of another job, GEN or EPOCH leaves only the count. -/
theorem yields_stale {i : Instr × Nat} (hi : i ∈ [(Instr.dispatchPacketArrive p, 1), (Instr.answerArrive p, 2)])
    (hk : (rhdrOf p.body).kind = i.2) {e : Dev} (h : s.dev.rteStale p.t.toNat (rhdrOf p.body) = some e) :
    Yields i.1 s e := by
  simp only [List.mem_cons, List.not_mem_nil, or_false] at hi
  rcases hi with rfl | rfl
  · exact yields_dispatchArrive s p hsrc hres hk (n := 0) (by decide) (by simp only [Dev.dispatchArrive, h])
  · exact yields_answerArrive s p hsrc hres hk (n := 0) (by decide) (by simp only [Dev.answerArrive, h])

end

/-- A dispatch that arrives under the current job, GEN and EPOCH does the work of R204. -/
theorem Dev.dispatchArrive_ends (d : Dev) (t : Nat) (body : List Byte) (hstale : d.rteStale t (rhdrOf body) = none)
    {x : EngS} (hrun : (arriveWork t (rhdrOf body) body).run { dev := d } = (.ok (), x)) :
    d.dispatchArrive t body = (0, x.dev) := by
  simp only [Dev.dispatchArrive, hstale, hrun]

theorem length_slice (bs : List Byte) (o n : Nat) : (slice bs o n).length = n := by
  simp [slice]

/-- An accepted answer fills its sub-slot and counts in its group (R206). -/
theorem Dev.answerArrive_accepted (d : Dev) (t : Nat) (body : List Byte) :
    let h := rhdrOf body
    let a := grpAddr t h.grp
    let g := d.group t h.grp
    let o := g.sub (h.token - g.tbase) h.rank
    let e := (d.wrB (tentMem t o) (slice body 32 g.pb)).setRegF a 17 17 (d.regF a 17 17 + 1)
    d.rteStale t h = none → d.regF a 42 1 = 1 → (d.regF a 43 1 == 1) = h.back → g.tbase ≤ h.token →
      h.token - g.tbase < g.nt → h.rank < g.k → h.ret = d.devId * 2 ^ 48 + tentMem t o → h.len = g.pb →
      d.padWrites (d.rtePort t) o g.pb = true →
      d.answerArrive t body = (0, if d.regF a 17 17 + 1 = d.regF a 0 17 then e.closeGroup t h.grp else e) := by
  intro h a g o e hstale hopen hback htb hnt hk hret hlen hpad
  have hrun : Runs (padWrite (d.rtePort t) o (slice body 32 g.pb)) { dev := d } ()
      { dev := d.wrB (tentMem t o) (slice body 32 g.pb) } :=
    Runs.padWrite _ _ _ _ (by rw [length_slice]; exact hpad)
  have hgood : (d.regF a 42 1 == 1 && (d.regF a 43 1 == 1) == h.back && decide (g.tbase ≤ h.token) &&
      decide (h.token - g.tbase < g.nt) && decide (h.rank < g.k) &&
        h.ret == d.devId * 2 ^ 48 + tentMem t (g.sub (h.token - g.tbase) h.rank)) = true := by
    simp [hopen, hback, htb, hnt, hk, hret, o]
  unfold Dev.answerArrive
  extract_lets tok sub good n
  rw [hstale]
  have hno : ¬(!good) = true := by
    rw [show good = true from hgood]
    decide
  refine (if_neg hno).trans ((if_neg (not_not.mpr hlen)).trans ?_)
  rw [show (padWrite (d.rtePort t) sub (slice body 32 g.pb)).run { dev := d } = _ from hrun]

/-! ### The GEN change (R209) -/

/-- The queues of every tent are as before. -/
def Dev.sameQueues (d e : Dev) : Prop := ∀ t q, e.queue t q = d.queue t q

theorem Dev.sameQueues.trans {a b c : Dev} (h : a.sameQueues b) (k : b.sameQueues c) : a.sameQueues c :=
  fun t q => (k t q).trans (h t q)

theorem Dev.sameQueues_of_tents {d e : Dev} (h : e.tents = d.tents) : d.sameQueues e := Dev.queue_of_tents h

theorem Dev.sameQueues_foldl {α : Type} {f : Dev → α → Dev} (h : ∀ (d : Dev) x, d.sameQueues (f d x)) (xs : List α)
    (d : Dev) : d.sameQueues (xs.foldl f d) := by
  induction xs generalizing d with
  | nil => exact fun _ _ => rfl
  | cons x xs ih => exact (h d x).trans (ih _)

theorem Dev.sameQueues_modTent (d : Dev) (t : Nat) {f : Tent → Tent} (h : (f (d.tent t)).queues = (d.tent t).queues) :
    d.sameQueues (d.modTent t f) := by
  intro u q
  unfold Dev.queue
  rw [Dev.modTent, Dev.tent_setTent]
  split
  · next hu => rw [h, hu]
  · rfl

theorem Dev.sameQueues_signal (d : Dev) (t : Nat) (c : Cmd) : d.sameQueues (d.signal t c) := by
  unfold Dev.signal
  split
  · exact Dev.sameQueues_of_tents (d.tents_pegSig _ _ _)
  · exact fun _ _ => rfl

theorem Dev.sameQueues_cmdDone (d : Dev) (t q : Nat) (c : Cmd) : d.sameQueues (d.cmdDone t q c) := by
  unfold Dev.cmdDone
  split
  · exact (Dev.sameQueues_of_tents (d.tents_bump _ _)).trans (Dev.sameQueues_signal _ _ _)
  · exact d.sameQueues_signal _ _

theorem Dev.sameQueues_closeGroup (d : Dev) (t g : Nat) : d.sameQueues (d.closeGroup t g) := by
  have hreg : d.sameQueues (d.setRegF (grpAddr t g) 42 1 0) := Dev.sameQueues_of_tents (by simp [Dev.setRegF])
  exact (hreg.trans (Dev.sameQueues_modTent _ t rfl)).trans (Dev.sameQueues_of_tents (Dev.tents_pegSig _ _ _ _))

theorem Dev.sameQueues_rteFinish (d : Dev) (t : Nat) (i : Issued) : d.sameQueues (d.rteFinish t i) := by
  unfold Dev.rteFinish
  split
  · exact Dev.sameQueues_of_tents (d.zero_frame _ _).2.1
  · split
    · dsimp only
      split
      · exact d.sameQueues_closeGroup _ _
      · exact fun _ _ => rfl
    · exact fun _ _ => rfl

theorem Dev.sameQueues_clearBitmaps (d : Dev) (t : Nat) : d.sameQueues (d.clearBitmaps t) := by
  refine Dev.sameQueues_foldl (fun d x => ?_) _ d
  dsimp only
  split
  · exact Dev.sameQueues_of_tents (d.zero_frame _ _).2.1
  · exact fun _ _ => rfl

/-- A queue without the routing commands, the others in their order. -/
def Queue.moves (x : Queue) : Queue :=
  { x with flight := x.flight.filter (fun i => decide (cmdOp i.cmd < 0xC)),
           entries := x.entries.filter (fun c => decide (cmdOp c < 0xC)) }

theorem Queue.moves_moves (x : Queue) : x.moves.moves = x.moves := by
  simp [Queue.moves, List.filter_filter]

theorem Dev.queue_modQueue (d : Dev) (t u q : Nat) (f : Queue → Queue) :
    (d.modQueue u q f).queue t q = if t = u then f (d.queue t q) else d.queue t q := by
  by_cases h : t = u
  · rw [if_pos h, h, Dev.queue_modQueue_self]
  · rw [if_neg h]
    unfold Dev.queue Dev.modQueue Dev.setQueue Dev.modTent
    rw [Dev.tent_setTent, if_neg h]

theorem Dev.queue_rteGenTent (d : Dev) (t u : Nat) :
    (d.rteGenTent u).queue t 8 = if t = u then (d.queue t 8).moves else d.queue t 8 := by
  unfold Dev.rteGenTent
  extract_lets q running dropped d1 d2 d3 d4
  have h2 : d1.sameQueues d2 := Dev.sameQueues_foldl
    (fun d i => (d.sameQueues_rteFinish u i).trans (Dev.sameQueues_cmdDone _ _ _ _)) _ d1
  have h3 : d2.sameQueues d3 := Dev.sameQueues_foldl (fun d c => d.sameQueues_signal u c) _ d2
  have h4 : d3.sameQueues d4 := by
    refine Dev.sameQueues_foldl (fun d g => ?_) _ d3
    split
    · exact d.sameQueues_closeGroup _ _
    · exact fun _ _ => rfl
  rw [(h2.trans (h3.trans (h4.trans (Dev.sameQueues_clearBitmaps _ _)))) t 8]
  exact d.queue_modQueue t u 8 Queue.moves

theorem Dev.queue_foldl_rteGenTent (us : List Nat) (d : Dev) (t : Nat) (h : t ∈ us ∨ (d.queue t 8).moves = d.queue t 8) :
    (us.foldl (fun d u => d.rteGenTent u) d).queue t 8 = (d.queue t 8).moves := by
  induction us generalizing d with
  | nil => exact (h.resolve_left List.not_mem_nil).symm
  | cons u us ih =>
    have hu := d.queue_rteGenTent t u
    by_cases htu : t = u
    · rw [if_pos htu] at hu
      exact (ih _ (.inr (by rw [hu, Queue.moves_moves]))).trans (by rw [hu, Queue.moves_moves])
    · rw [if_neg htu] at hu
      refine (ih _ ?_).trans (by rw [hu])
      rw [hu]
      exact h.imp_left fun ht => (List.mem_cons.mp ht).resolve_left htu

/-- A tent that holds nothing has no command in its queues. -/
theorem Dev.queue_of_not_used {d : Dev} {t : Nat} (h : t ∉ d.usedTents) : (d.queue t 8).moves = d.queue t 8 := by
  have hlive : t ∉ d.liveTents := fun ht => h (List.mem_eraseDups.mpr (List.mem_append_left _ ht))
  have ht : d.tent t = {} := look_of_not_mem _ _ hlive
  rw [Dev.queue, ht]
  rfl

/-! ### O27 -/

/-- Settles O27: the work of a command decides what it leaves, a packet's header decides what it does, and the GEN
change goes tent by tent. -/
theorem routingCommands : Obligations.RoutingCommands := by
  unfold Obligations.RoutingCommands
  refine ⟨fun s t c => ?_, fun s p => ?_, fun s h => ?_⟩
  · intro d sent stops
    have hends {i : Instr} {op : Nat} {work : Cmd → Eng (List Byte)} {note : List Byte} {x : EngS}
        (hi : ∀ e, d.rteRun t.toNat op work = e → Yields i s e) (h : d.movHead t.toNat op = some c)
        (hx : (work c).run { dev := d } = (.ok note, x)) : Yields i s (sent x note) :=
      hi _ (d.rteRun_ends t.toNat op work h hx)
    have hstops {i : Instr} {op : Nat} {work : Cmd → Eng (List Byte)} {cause addr : Nat} {x : EngS}
        (hi : ∀ e, d.rteRun t.toNat op work = e → Yields i s e) (h : d.movHead t.toNat op = some c)
        (hx : (work c).run { dev := d } = (.error (.fault cause addr), x)) : stops i :=
      ⟨_, hi _ (d.rteRun_faults t.toNat op work h hx), Dev.rteFault_leaves _ _ _ _ _⟩
    refine ⟨fun h => ⟨fun x hx => hends (fun _ => yields_route s t) h ((runs_of_workEnds hx).bind (Runs.pure _ _)),
      fun k hk => ?_⟩, fun h => ?_,
      fun h e x hx => hends (fun _ => yields_answer s t) h (Runs.bind hx (Runs.pure _ _))⟩
    · obtain ⟨x, hx⟩ := run_of_workFaults hk
      exact hstops (fun _ => yields_route s t) h (Eng.run_bind_error hx)
    · intro group
      refine ⟨fun hg => ?_, fun hg => ?_⟩
      · exact yields_dispatch s t h (if_pos hg)
      · have hi : ∀ e, d.rteRun t.toNat 0xD (dispatchRow t.toNat) = e → Yields (.dispatch t) s e :=
          fun e he => yields_dispatch s t h ((if_neg hg).trans he)
        refine ⟨fun x hx => hends hi h ((runs_of_workEnds hx).bind (Runs.pure _ _)), fun k hk => ?_⟩
        obtain ⟨x, hx⟩ := run_of_workFaults hk
        exact hstops hi h (Eng.run_bind_error hx)
  · intro d h t stale hsrc hres
    refine ⟨fun i hi hk => ⟨fun hj => ?_, fun hj hg => ?_, fun hj hg he => ?_⟩, fun hj hg he => ?_⟩
    · exact yields_stale s p hsrc hres hi hk (d.rteStale_job t h hj)
    · exact yields_stale s p hsrc hres hi hk (d.rteStale_gen t h hj hg)
    · exact yields_stale s p hsrc hres hi hk (d.rteStale_epoch t h hj hg he)
    · have hnow := d.rteStale_current t h hj hg he
      refine ⟨fun hk x hx => ?_, ?_⟩
      · have hrun : (arriveWork t h p.body).run { dev := d } = (.ok (), x) := runs_of_workEnds hx
        exact yields_dispatchArrive s p hsrc hres hk (n := 0) (by decide) (d.dispatchArrive_ends t p.body hnow hrun)
      · intro a g tok e hk hopen hback htb hnt hrank hret hlen hpad
        have harr := d.answerArrive_accepted t p.body hnow hopen hback htb hnt hrank hret hlen hpad
        have hy := yields_answerArrive s p hsrc hres hk (by decide) harr
        exact ⟨fun hn => by rwa [if_neg hn] at hy, fun hn => by rwa [if_pos hn] at hy⟩
  · refine ⟨_, yields_lift (·.expertClear) rfl (if_neg (by simp [h])), rfl, fun t => ?_⟩
    have hq := Dev.queue_foldl_rteGenTent s.dev.usedTents s.dev t.toNat ((em _).imp_right Dev.queue_of_not_used)
    exact ⟨congrArg Queue.entries hq, congrArg Queue.flight hq⟩

end Sys2Proof.Machine

/-! Requests of memory: the arbiters on their way (Table 16.4), reads, writes and accumulates with their statuses
(R224, R225, R230, R238), for O28. -/

namespace Sys2Proof.Machine

/-! ### The ports of a memory-side die -/

/-- Addresses of memory of this device: a place of each tier. -/
def inMem (a : Nat) : Prop := a < hbmEnd ∨ (lpBase ≤ a ∧ a < lpEnd)

theorem Dev.memLoc_bounds (d : Dev) {a : Nat} (h : inMem a) :
    (d.memLoc a).msd < 4 ∧ (d.memLoc a).ctl ≤ 3 ∧ ((d.memLoc a).ctl ≠ 3 → (d.memLoc a).ch < 32) := by
  unfold Dev.memLoc
  rcases h with h | ⟨hlo, hhi⟩
  · rw [if_pos h]
    unfold hbmEnd at h
    extract_lets G
    split
    · dsimp only
      omega
    · dsimp only
      omega
  · unfold lpBase at hlo
    unfold lpEnd at hhi
    rw [if_neg (by unfold hbmEnd; omega)]
    extract_lets l G
    have hl : l < 0x300_0000_0000 := by
      unfold l lpBase
      omega
    split
    · dsimp only
      omega
    · dsimp only
      omega

/-- The blocks of the dies (Table 2.10). -/
theorem regionOf_dieReg {die o : Nat} (hd : die < 8) (ho : o < 0x1_0000_0000) : regionOf (dieReg die o) = .dieR die o := by
  have ha : dieReg die o = 0xF100_0000_0000 + (die * 0x1_0000_0000 + o) := by
    unfold dieReg dieBase
    omega
  have hx : die * 0x1_0000_0000 + o < 0x8_0000_0000 := by omega
  have h1 : (die * 0x1_0000_0000 + o) / 0x1_0000_0000 = die := by omega
  have h2 : (die * 0x1_0000_0000 + o) % 0x1_0000_0000 = o := by omega
  rw [ha]
  generalize die * 0x1_0000_0000 + o = x at hx h1 h2
  unfold regionOf hbmEnd lpBase lpEnd tentBase tentRegBase spareRegBase dieBase
  rw [if_neg (by omega), if_neg (by omega), if_neg (by omega), if_neg (by omega), if_pos (by omega),
    Nat.add_sub_cancel_left, h1, h2]

theorem wchBaseOf_memoryWindow {a die x : Nat} (hr : regionOf a = .dieR die x) (hlo : 2 ≤ die) (hhi : die < 6)
    (hw : x / 0x100_0000 = 7) (hi : x % 0x100_0000 / 0x1000 < 121) : wchBaseOf a ≠ none := by
  have hhome : (if die < 2 then 2 else if die < 6 then 7 else 19) = 7 := by
    rw [if_neg (by omega), if_pos hhi]
  simp only [wchBaseOf, hr, hhome]
  rw [if_pos ⟨hw, .inr (.inr (.inl ⟨hlo, hhi, hi⟩))⟩]
  exact Option.some_ne_none _

/-- The registers of the arbiter instances of a memory-side die. -/
theorem wchBaseOf_memoryPort {die k o : Nat} (hlo : 2 ≤ die) (hhi : die < 6) (hk : k < 121) (ho : o < 0x1000) :
    wchBaseOf (dieReg die (0x700_0000 + 0x1000 * k) + o) ≠ none := by
  have hr : regionOf (dieReg die (0x700_0000 + 0x1000 * k) + o) = .dieR die (0x700_0000 + 0x1000 * k + o) := by
    rw [← regionOf_dieReg (by omega : die < 8) (by omega : 0x700_0000 + 0x1000 * k + o < 0x1_0000_0000)]
    exact congrArg regionOf (Nat.add_assoc _ _ _)
  exact wchBaseOf_memoryWindow hr hlo hhi (by omega) (by omega)

/-- What a grant leaves of the registers outside arbiter instances. -/
theorem Dev.reg_grant (d : Dev) {base : Nat} (hb : ∀ o < 0x1000, wchBaseOf (base + o) ≠ none) (asking : List Nat) :
    (d.grant base asking).1.regsAs d := by
  intro a ha
  have hne {o : Nat} (ho : o < 0x1000) : a ≠ base + o := fun h => hb o ho (h ▸ ha)
  have h0 : a ≠ base := hne (o := 0) (by omega)
  unfold Dev.grant
  extract_lets d0 d1 g
  have hd0 : d0.reg a = d.reg a := by
    unfold d0
    split
    · exact Dev.reg_setReg_ne _ _ h0
    · rfl
  have hd1 : d1.reg a = d.reg a := by
    unfold d1
    split
    · exact hd0
    · exact hd0
  split
  · exact (Dev.reg_setReg_ne _ _ (hne (by omega))).trans hd1
  · exact (Dev.reg_setReg_ne _ _ (hne (by omega))).trans ((Dev.reg_setReg_ne _ _ (hne (by omega))).trans
      ((Dev.reg_setReg_ne _ _ (hne (by omega))).trans hd1))


/-! ### Grants on the way of a request -/

/-- Only arbiter instances differ: their state and their registers. -/
def Dev.granted (d e : Dev) : Prop := d.onlyArbiters e ∧ e.regsAs d

theorem Dev.granted_refl (d : Dev) : d.granted d := ⟨d.onlyArbiters_refl, fun _ _ => rfl⟩

theorem Dev.granted.trans {a b c : Dev} (h : a.granted b) (k : b.granted c) : a.granted c :=
  ⟨h.1.trans k.1, fun x hx => (k.2 x hx).trans (h.2 x hx)⟩

theorem Dev.granted_winsAt {base : Nat} (hb : ∀ o < 0x1000, wchBaseOf (base + o) ≠ none) (req : Nat) (rivals : List Nat)
    (k : Nat) (d : Dev) : d.granted (d.winsAt base req rivals k) := by
  induction k generalizing d with
  | zero => exact d.granted_refl
  | succ k ih =>
    rw [Dev.winsAt]
    generalize (if rivals.contains req then rivals else req :: rivals) = asking
    have hg : d.granted (d.grant base asking).1 := ⟨d.onlyArbiters_grant base asking, d.reg_grant hb asking⟩
    split
    · exact hg
    · exact hg.trans (ih _)

/-- The granules of a range of a tier lie in it. -/
theorem inMem_of_mem_granules {a n g : Nat} (h : (a < hbmEnd ∧ a + n ≤ hbmEnd) ∨ (lpBase ≤ a ∧ a + n ≤ lpEnd))
    (hg : g ∈ granules a n) : inMem g := by
  unfold granules at hg
  split at hg
  · exact absurd hg List.not_mem_nil
  · simp only [List.mem_map, List.mem_range] at hg
    obtain ⟨i, hi, rfl⟩ := hg
    unfold inMem
    unfold hbmEnd lpBase lpEnd at *
    omega

theorem Dev.granted_portGrants (d : Dev) (src : MemSrc) (acc : Bool) (rivals : List Nat) {a n : Nat}
    (h : (a < hbmEnd ∧ a + n ≤ hbmEnd) ∨ (lpBase ≤ a ∧ a + n ≤ lpEnd)) : d.granted (d.portGrants src acc rivals a n) := by
  have hin : ∀ g ∈ granules a n, inMem g := fun g => inMem_of_mem_granules h
  unfold Dev.portGrants
  generalize granules a n = gs at hin
  induction gs generalizing d with
  | nil => exact d.granted_refl
  | cons g gs ih =>
    refine Dev.granted.trans ?_ (ih _ fun g' hg' => hin g' (List.mem_cons_of_mem _ hg'))
    obtain ⟨hmsd, hctl, hch⟩ := d.memLoc_bounds (hin g List.mem_cons_self)
    have hport : ∀ o < 0x1000, wchBaseOf ((d.memLoc g).portWatch + o) ≠ none := by
      intro o ho
      unfold MemLoc.portWatch MemLoc.die
      refine wchBaseOf_memoryPort (by omega) (by omega) ?_ ho
      split <;> omega
    have hunit : ∀ o < 0x1000, wchBaseOf (dieReg (d.memLoc g).die (0x700_0000 + 0x1000 * 120) + o) ≠ none :=
      fun o ho => wchBaseOf_memoryPort (by unfold MemLoc.die; omega) (by unfold MemLoc.die; omega) (by omega) ho
    dsimp only
    split
    · exact (Dev.granted_winsAt hunit _ _ _ d).trans (Dev.granted_winsAt hport _ _ _ _)
    · exact Dev.granted_winsAt hport _ _ _ d

theorem ite_ne {α : Type} {c : Prop} [Decidable c] {x y z : α} (hx : x ≠ z) (hy : y ≠ z) : (if c then x else y) ≠ z := by
  split <;> assumption

/-- Above the memory tiers no region is a memory tier. -/
theorem regionOf_not_mem {a : Nat} (h1 : ¬a < hbmEnd) (h2 : ¬(lpBase ≤ a ∧ a < lpEnd)) :
    regionOf a ≠ .hbm ∧ regionOf a ≠ .lpddr := by
  have hne {z : Region} (hs : ∀ t o, Region.scratch t o ≠ z) (hv : ∀ t o, Region.vreg t o ≠ z)
      (hi : ∀ t n o, Region.istore t n o ≠ z) (ht : ∀ t o, Region.tentR t o ≠ z) (hd : ∀ t o, Region.dieR t o ≠ z)
      (hl : ∀ t o, Region.lanSram t o ≠ z) (hc : ∀ t, Region.canister t ≠ z) (hk : ∀ t o, Region.lanCtl t o ≠ z)
      (hn : Region.none ≠ z) : regionOf a ≠ z := by
    unfold regionOf
    rw [if_neg h1, if_neg h2]
    exact ite_ne (ite_ne (hs _ _) (hv _ _)) (ite_ne (ite_ne (hi _ _ _) (ht _ _)) (ite_ne (hd _ _)
      (ite_ne (ite_ne hn (ite_ne (hl _ _) (ite_ne (hc _) (ite_ne (hk _ _) hn)))) hn)))
  constructor <;> refine hne ?_ ?_ ?_ ?_ ?_ ?_ ?_ ?_ ?_ <;> intros <;> exact Region.noConfusion

theorem lt_hbmEnd_of_region {a : Nat} (h : regionOf a = .hbm) : a < hbmEnd := by
  by_contra hn
  by_cases hl : lpBase ≤ a ∧ a < lpEnd
  · unfold regionOf at h
    rw [if_neg hn, if_pos hl] at h
    exact Region.noConfusion h
  · exact (regionOf_not_mem hn hl).1 h

theorem lpBase_le_of_region {a : Nat} (h : regionOf a = .lpddr) : lpBase ≤ a := by
  by_contra hn
  have hl : ¬(lpBase ≤ a ∧ a < lpEnd) := fun hl => hn hl.1
  by_cases hb : a < hbmEnd
  · unfold regionOf at h
    rw [if_pos hb] at h
    exact Region.noConfusion h
  · exact (regionOf_not_mem hb hl).2 h

/-- The place of an address here is its low 48 bits. -/
theorem Dev.place_here {d : Dev} {y a : Nat} (h : d.place y = .here a) : a = y % 2 ^ 48 := by
  unfold Dev.place at h
  have hb : field y 0 48 = y % 2 ^ 48 := by
    unfold field
    rw [Nat.pow_zero, Nat.div_one]
  split at h
  · exact Place.noConfusion h
  · split at h
    · extract_lets b at h
      split at h
      · exact Place.noConfusion h
      · rw [← hb]
        exact (Place.here.inj h).symm
    · split at h <;> exact Place.noConfusion h

theorem Dev.memHere_some {d : Dev} {y n x : Nat} (h : d.memHere y n = some x) :
    x = y % 2 ^ 48 ∧ ((x < hbmEnd ∧ x + n ≤ hbmEnd) ∨ (lpBase ≤ x ∧ x + n ≤ lpEnd)) := by
  unfold Dev.memHere at h
  split at h
  · next a hp =>
    split at h
    · next hr =>
      obtain rfl := Option.some.inj h
      exact ⟨Dev.place_here hp, hr.imp (fun h => ⟨lt_hbmEnd_of_region h.1, h.2⟩) fun h => ⟨lpBase_le_of_region h.1, h.2⟩⟩
    · cases h
  · cases h

/-- A request whose way is open has only been granted. -/
theorem Dev.request_granted {d : Dev} {w : Writer} {read acc : Bool} {y n x : Nat} (rivals : List (BitVec 4))
    (h : d.memHere y n = some x) (hcut : d.cutOff w.who read x n = false) :
    ∃ e, d.request w read acc y n rivals [] = some e ∧ d.granted e := by
  refine ⟨d.portGrants (.master w.who) acc (rivals.map (·.toNat)) x n, ?_,
    d.granted_portGrants _ _ _ (Dev.memHere_some h).2⟩
  simp only [Dev.request, h, hcut]
  rfl

theorem Dev.request_cut {d : Dev} {w : Writer} {read : Bool} (acc : Bool) {y n x : Nat} (rivals : List (BitVec 4))
    (h : d.memHere y n = some x) (hcut : d.cutOff w.who read x n = true) :
    d.request w read acc y n rivals [] = none := by
  simp only [Dev.request, h, hcut, if_true]


/-! ### The region table of a device that only granted (R237) -/

/-- The region registers lie in the window of no arbiter. -/
theorem wchBaseOf_rgnAddr {k o : Nat} (hk : k < 64) (ho : o < 0x20) : wchBaseOf (rgnAddr k + o) = none := by
  have hr : regionOf (rgnAddr k + o) = .dieR 2 (0x100_0000 + 0x20 * k + o) := by
    rw [← regionOf_dieReg (by omega : 2 < 8) (by omega : 0x100_0000 + 0x20 * k + o < 0x1_0000_0000)]
    exact congrArg regionOf (Nat.add_assoc _ _ _)
  have hw : (0x100_0000 + 0x20 * k + o) / 0x100_0000 = 1 := by omega
  unfold wchBaseOf
  rw [hr]
  dsimp only
  rw [hw]
  exact if_neg fun h => absurd h.1 (by decide)

theorem Dev.memSecure_of_regsAs {d e : Dev} (h : e.regsAs d) (a n : Nat) : e.memSecure a n = d.memSecure a n := by
  have hreg {k o : Nat} (hk : k ∈ List.range 64) (ho : o < 0x20) : e.reg (rgnAddr k + o) = d.reg (rgnAddr k + o) :=
    h _ (wchBaseOf_rgnAddr (List.mem_range.mp hk) ho)
  unfold Dev.memSecure Dev.memSecureBut
  rw [Bool.eq_iff_iff, List.any_eq_true, List.any_eq_true]
  refine exists_congr fun k => and_congr_right fun hk => ?_
  have hsec : e.rgnSecure k = d.rgnSecure k := by
    unfold Dev.rgnSecure Dev.regF
    rw [hreg hk (by omega)]
  have hrange : e.rgnRange k = d.rgnRange k := by
    unfold Dev.rgnRange Dev.regF
    rw [hreg hk (by omega), show e.reg (rgnAddr k) = d.reg (rgnAddr k) from hreg hk (o := 0) (by omega)]
  rw [hsec, hrange]

/-! ### Records of the memory-side dies (R224, R225, R238) -/

section
variable (d : Dev) (q : MemReq) (a n : Nat)

theorem Dev.memWake_eq : ∃ down, d.memWake a n = { d with memDown := down } := by
  unfold Dev.memWake
  split
  · exact ⟨_, rfl⟩
  · exact ⟨_, rfl⟩

theorem Dev.bad_dieErr (d : Dev) (die port blk cls cause : Nat) (i : ErrInfo) :
    (d.dieErr die port blk cls cause i).bad = d.bad := by
  simp [Dev.dieErr]

theorem Dev.msdEvent_eq (status : Nat) : ∃ regs die i, d.msdEvent q status a =
    Dev.dieErr { d with regs := regs } die 0 7 (if status = 1 ∨ status = 4 then 2 else 1) status i := by
  obtain ⟨r, v, r', v', die, i, h⟩ : ∃ r v r' v' die i, d.msdEvent q status a =
      ((d.setReg r v).setReg r' v').dieErr die 0 7 (if status = 1 ∨ status = 4 then 2 else 1) status i :=
    ⟨_, _, _, _, _, _, rfl⟩
  exact ⟨_, die, i, h⟩

/-- A status is recorded once, by block 7 of a memory-side die; memory stays. -/
theorem Dev.msdEvent_leaves (status : Nat) (hs : status < 256) :
    (d.msdEvent q status a).mem = d.mem ∧ (d.msdEvent q status a).bad = d.bad ∧
      ∃ y : Event, (d.msdEvent q status a).events = d.events ++ [y] ∧
        y.cls = (if status = 1 ∨ status = 4 then 2 else 1) ∧ y.code = 0x407 := by
  obtain ⟨regs, die, i, h⟩ := d.msdEvent_eq q a status
  obtain ⟨y, hy, hcls, hcode, -⟩ := Dev.dieErr_events { d with regs := regs } die 0 7
    (if status = 1 ∨ status = 4 then 2 else 1) status i hs
  rw [h]
  exact ⟨(Dev.dieErr_frame _ _ _ _ _ _ _).1, Dev.bad_dieErr _ _ _ _ _ _ _, y, hy, hcls, hcode⟩

theorem Dev.foldl_bump {α : Type} (f : Dev → α → Nat) (xs : List α) :
    ∃ regs, xs.foldl (fun (d : Dev) x => d.bump (f d x) 1) d = { d with regs := regs } := by
  induction xs generalizing d with
  | nil => exact ⟨_, rfl⟩
  | cons x xs ih =>
    obtain ⟨regs, h⟩ := ih (d.bump (f d x) 1)
    exact ⟨regs, h⟩

theorem Dev.uncorrEvent_leaves (gs : List Nat) : (d.uncorrEvent q gs).mem = d.mem ∧
    ∃ y : Event, (d.uncorrEvent q gs).events = d.events ++ [y] ∧ y.cls = 2 ∧ y.code = 0x407 := by
  obtain ⟨regs, h⟩ := d.foldl_bump (fun d g => (d.memLoc g).cnt 0x108) gs
  rw [Dev.uncorrEvent, h]
  obtain ⟨hm, -, y, hy, hcls, hcode⟩ := Dev.msdEvent_leaves { d with regs := regs } q (gs.foldl min (gs.headD 0)) 1 (by decide)
  exact ⟨hm, y, hy, hcls, hcode⟩

theorem Dev.msdRefuse_leaves : (d.msdRefuse q a n).mem = d.mem ∧ (d.msdRefuse q a n).bad = d.bad ∧
    ∃ y : Event, (d.msdRefuse q a n).events = d.events ++ [y] ∧ y.cls = 1 ∧ y.code = 0x407 := by
  obtain ⟨r, g, h⟩ : ∃ r g, d.msdRefuse q a n = (d.bump r 1).msdEvent q 2 g := ⟨_, _, rfl⟩
  rw [h]
  exact Dev.msdEvent_leaves (d.bump r 1) q g 2 (by decide)

/-! ### Reads -/

theorem length_rd : (d.rd a n).length = n := by
  unfold Dev.rd
  induction n generalizing a with
  | zero => rfl
  | succ n ih => simp [lookAll, ih]

theorem Dev.rdOpen_leaves : (d.rdOpen a n).1.length = n ∧
    ∀ i < n, d.badIn (a + i) 1 = false → (d.rdOpen a n).1[i]? = (d.rd a n)[i]? := by
  have hlen : ((d.rd a n).zip (d.freeBytes n).1).length = n := by simp [length_rd, Dev.freeBytes]
  unfold Dev.rdOpen
  dsimp only
  refine ⟨by simpa using hlen, fun i hi hok => ?_⟩
  have hrd : i < (d.rd a n).length := by rwa [length_rd]
  have hfree : i < (d.freeBytes n).1.length := by simpa [Dev.freeBytes] using hi
  simp [hok, hrd, hfree]

variable (hsec : (!q.secure && d.memSecure a n) = false) (hq : d.quiet a n = true)

include hsec hq in
theorem Dev.memWake_ready : (!q.secure && (d.memWake a n).memSecure a n) = false ∧ (d.memWake a n).meet a n = d.memWake a n ∧
    (d.memWake a n).rd a n = d.rd a n := by
  obtain ⟨hm, -, -, hs, hqu, -⟩ := d.memWake_frame a n
  refine ⟨by rw [hs, hsec], Dev.meet_quiet _ _ _ (by rw [hqu, hq]), ?_⟩
  unfold Dev.rd
  rw [hm]

theorem Dev.memRead_refused (h : (!q.secure && d.memSecure a n) = true) :
    d.memRead q a n = (⟨2, List.replicate n 0⟩, (d.memWake a n).msdRefuse q a n) :=
  if_pos (by rw [(d.memWake_frame a n).2.2.2.1, h])

include hsec hq

theorem Dev.memRead_good (hb : d.badIn a n = false) : d.memRead q a n = (⟨0, d.rd a n⟩, d.memWake a n) := by
  obtain ⟨hs, hmeet, hrd⟩ := d.memWake_ready q a n hsec hq
  have hbad : (d.memWake a n).badIn a n = false := by rw [(d.memWake_frame a n).2.2.2.2.2, hb]
  unfold Dev.memRead
  refine (if_neg (by rw [hs]; decide)).trans ?_
  rw [hmeet]
  refine (if_neg (by rw [hbad]; decide)).trans ?_
  rw [hrd]

theorem Dev.memRead_bad (hb : d.badIn a n = true) : d.memRead q a n = (⟨1, ((d.memWake a n).rdOpen a n).1⟩,
    ((d.memWake a n).rdOpen a n).2.uncorrEvent q ((d.memWake a n).badUnits a n)) := by
  obtain ⟨hs, hmeet, hrd⟩ := d.memWake_ready q a n hsec hq
  have hbad : (d.memWake a n).badIn a n = true := by rw [(d.memWake_frame a n).2.2.2.2.2, hb]
  unfold Dev.memRead
  refine (if_neg (by rw [hs]; decide)).trans ?_
  rw [hmeet]
  exact if_pos hbad

end

theorem Dev.answerLoad_eq (d : Dev) (m : Master) (x : Word) (r : Answer) :
    ∃ tents, d.answerLoad m x r = { d with tents := tents } := by
  unfold Dev.answerLoad
  split
  · dsimp only
    split
    · split
      · exact ⟨_, rfl⟩
      · exact ⟨_, rfl⟩
    · exact ⟨_, rfl⟩
  · exact ⟨_, rfl⟩

section
variable (s : State) (a : RAccess) (u : Writer) (x : Nat) (rivals : List (BitVec 4)) (hu : s.acting a.by_ = some u)
  (hx : s.dev.memHere a.addr.toNat a.len = some x)
include hu hx

theorem yields_memoryRead_cut (h : s.dev.cutOff u.who true x a.len = true) : Yields (.memoryRead a rivals []) s s.dev := by
  refine yields_lift (fun d => d.memoryRead { a with by_ := u } rivals []) (asWriter_next a.by_ u _ s hu) ?_
  simp only [Dev.memoryRead, Dev.request_cut (w := u) false rivals hx h]

/-- A read whose way is open answers with what memory gives at a device whose arbiters have granted. -/
theorem does_memoryRead {P : Dev → Prop} (hc : s.dev.cutOff u.who true x a.len = false)
    (h : ∀ e q tents, s.dev.granted e → q.secure = u.secure →
      P { (e.memRead q x a.len).2 with response := some (u.who, (e.memRead q x a.len).1), tents := tents }) :
    Does (.memoryRead a rivals []) s P := by
  obtain ⟨e, he, hg⟩ := Dev.request_granted (acc := false) rivals hx hc
  obtain ⟨tents, ht⟩ := Dev.answerLoad_eq { (e.memRead (e.memReq u) x a.len).2 with
    response := some (u.who, (e.memRead (e.memReq u) x a.len).1) } u.who a.addr (e.memRead (e.memReq u) x a.len).1
  refine ⟨_, yields_lift (fun d => d.memoryRead { a with by_ := u } rivals []) (asWriter_next a.by_ u _ s hu) ?_,
    h e (e.memReq u) tents hg rfl⟩
  rw [← ht]
  simp only [Dev.memoryRead, he, ← (Dev.memHere_some hx).1]

end


/-! ### Writes -/

theorem Dev.granted.same {d e : Dev} (h : d.granted e) : e.mem = d.mem ∧ e.bad = d.bad ∧ e.events = d.events ∧
    (∀ a n, e.memSecure a n = d.memSecure a n) ∧ (∀ a n, e.quiet a n = d.quiet a n) ∧
      (∀ a n, e.badIn a n = d.badIn a n) := by
  obtain ⟨he, hr⟩ := h
  refine ⟨?_, ?_, ?_, Dev.memSecure_of_regsAs hr, ?_, ?_⟩ <;> (rw [he]) <;> intros <;> rfl

theorem Dev.blockedBy_of_bad {d e : Dev} (h : e.bad = d.bad) (a n : Nat) : e.blockedBy a n = d.blockedBy a n := by
  unfold Dev.blockedBy
  rw [h]

theorem Dev.mem_wrB_of {d e : Dev} (hm : e.mem = d.mem) (hb : e.bad = d.bad) (a : Nat) (bs : List Byte) :
    (e.wrB a bs).mem = (d.wrB a bs).mem := by
  unfold Dev.wrB Dev.wr
  dsimp only
  rw [hm, Dev.blockedBy_of_bad hb]

section
variable (d : Dev) (q : MemReq) (a : Nat) (bs : List Byte)

theorem Dev.memWrite_refused (h : (!q.secure && d.memSecure a bs.length) = true) :
    d.memWrite q a bs = (2, (d.memWake a bs.length).msdRefuse q a bs.length) :=
  if_pos (by rw [(d.memWake_frame a _).2.2.2.1, h])

theorem Dev.memWrite_good (hsec : (!q.secure && d.memSecure a bs.length) = false) (hq : d.quiet a bs.length = true)
    (hb : d.blockedBy a bs.length = []) : d.memWrite q a bs = (0, (d.memWake a bs.length).wrB a bs) := by
  obtain ⟨down, hw⟩ := d.memWake_eq a bs.length
  obtain ⟨-, -, -, hs, hqu, -⟩ := d.memWake_frame a bs.length
  have hmeet : (d.memWake a bs.length).meetParts a bs.length = d.memWake a bs.length :=
    Dev.meetParts_quiet _ _ _ (by rw [hqu, hq])
  have hblock : (d.memWake a bs.length).blockedBy a bs.length = [] :=
    (Dev.blockedBy_of_bad (by rw [hw]) _ _).trans hb
  unfold Dev.memWrite
  refine (if_neg (by rw [hs, hsec]; decide)).trans ?_
  rw [hmeet]
  simp only [hblock]
  rfl

/-! ### Accumulates (R230) -/

theorem Dev.memAccum_refused (fmt : Nat) (h : (!q.secure && d.memSecure a bs.length) = true) :
    d.memAccum q fmt a bs = (2, (d.memWake a bs.length).msdRefuse q a bs.length) :=
  if_pos (by rw [(d.memWake_frame a _).2.2.2.1, h])

theorem Dev.memAccum_format {fmt : Nat} (hsec : (!q.secure && d.memSecure a bs.length) = false) (h : accBytes fmt = 0) :
    d.memAccum q fmt a bs = (3, (d.memWake a bs.length).msdEvent q 3 (a / 64 * 64)) := by
  obtain ⟨-, -, -, hs, -⟩ := d.memWake_frame a bs.length
  exact (if_neg (by rw [hs, hsec]; decide)).trans (if_pos (.inl h))

end

/-- The formats that add any two elements of 4 bytes. -/
theorem accElem_some {fmt : Nat} (h : fmt = 0 ∨ fmt = 9) (x y : Nat) : ∃ o, accElem fmt x y = some o := by
  rcases h with rfl | rfl
  · exact ⟨_, rfl⟩
  · unfold accElem
    rw [if_pos rfl]
    dsimp only
    split
    · exact ⟨_, rfl⟩
    · split <;> exact ⟨_, rfl⟩

/-- Only integers saturate. -/
theorem accElem_sat {x y : Nat} {o : AccOut} (h : accElem 0 x y = some o) : o.sat = false := by
  obtain rfl := Option.some.inj h
  rfl

theorem Dev.rdNat_congr {d e : Dev} {a n : Nat} (h : ∀ j, a ≤ j → j < a + n → look byte0 e.mem j = look byte0 d.mem j) :
    e.rdNat a n = d.rdNat a n := by
  unfold Dev.rdNat Dev.rd
  congr 1
  induction n generalizing a with
  | zero => rfl
  | succ n ih =>
    rw [lookAll, lookAll, h a (Nat.le_refl a) (by omega), ih fun j hj hj' => h j (by omega) (by omega)]

theorem getElem?_lookAll {α : Type} (f : Nat → α) (m : List (Nat × α)) (a n i : Nat) :
    (lookAll f m a n)[i]? = if i < n then some (look f m (a + i)) else none := by
  induction n generalizing a i with
  | zero => simp [lookAll]
  | succ n ih =>
    cases i with
    | zero => simp [lookAll]
    | succ i =>
      rw [lookAll, List.getElem?_cons_succ, ih]
      exact if_congr (by omega) (by rw [Nat.add_assoc, Nat.add_comm 1 i]) rfl

/-- A number written is read back. -/
theorem Dev.rdNat_wrNat (d : Dev) {a n : Nat} (v : Nat) (h : d.blockedBy a n = []) : (d.wrNat a n v).rdNat a n = v % 256 ^ n := by
  rw [← leNat_leBytes]
  have hlook : ∀ j, look byte0 (d.wrNat a n v).mem j =
      if a ≤ j ∧ j < a + n then (leBytes n v).getD (j - a) 0 else look byte0 d.mem j := by
    intro j
    have := look_wrB d a (leBytes n v) j (by rwa [length_leBytes])
    rwa [length_leBytes] at this
  have hbytes : (d.wrNat a n v).rd a n = leBytes n v := by
    unfold Dev.rd
    refine List.ext_getElem? fun i => ?_
    rw [getElem?_lookAll, hlook]
    by_cases hi : i < n
    · rw [if_pos hi, if_pos (by omega), Nat.add_sub_cancel_left, List.getD_eq_getElem _ _ (by rwa [length_leBytes])]
      exact (List.getElem?_eq_getElem _).symm
    · rw [if_neg hi]
      exact (List.getElem?_eq_none (by rw [length_leBytes]; omega)).symm
  rw [Dev.rdNat, hbytes]

theorem Dev.badIn_sub {d : Dev} {a n b m : Nat} (h : d.badIn a n = false) (hlo : a ≤ b) (hhi : b + m ≤ a + n) :
    d.badIn b m = false := by
  unfold Dev.badIn at *
  rw [List.any_eq_false] at *
  intro u hu hb
  refine h u hu ?_
  simp only [Bool.and_eq_true, decide_eq_true_eq] at *
  omega

theorem Dev.blockedBy_of_good {d : Dev} {a n : Nat} (h : d.badIn a n = false) : d.blockedBy a n = [] := by
  unfold Dev.blockedBy
  unfold Dev.badIn at h
  rw [List.any_eq_false] at h
  refine List.filter_eq_nil_iff.mpr fun u hu hb => h u hu ?_
  simp only [Bool.and_eq_true] at *
  exact hb.1

theorem Dev.accCount_eq (d : Dev) (a : Nat) (o : AccOut) : ∃ regs, d.accCount a o = { d with regs := regs } := by
  obtain ⟨r, r', r'', n, n', n'', h⟩ : ∃ r r' r'' n n' n'', d.accCount a o = ((d.bump r n).bump r' n').bump r'' n'' :=
    ⟨_, _, _, _, _, _, rfl⟩
  exact ⟨_, h⟩

/-- A write makes no unit bad. -/
theorem Dev.badIn_wrB {d : Dev} {b n : Nat} (a : Nat) (bs : List Byte) (h : d.badIn b n = false) :
    (d.wrB a bs).badIn b n = false := by
  unfold Dev.badIn at *
  rw [List.any_eq_false] at *
  exact fun u hu => h u (List.mem_filter.mp hu).1

theorem accRun_leaves {fmt : Nat} (hf : fmt = 0 ∨ fmt = 9) (xs : List Nat) (a : Nat) (d : Dev) (sat : Option Nat)
    (hb : d.badIn a (4 * xs.length) = false) :
    (∀ i (hi : i < xs.length), ∀ o, accElem fmt (d.rdNat (a + 4 * i) 4) xs[i] = some o →
      (accRun fmt 4 a xs d sat).1.rdNat (a + 4 * i) 4 = o.bits % 2 ^ 32) ∧
      (∀ j, (j < a ∨ a + 4 * xs.length ≤ j) → look byte0 (accRun fmt 4 a xs d sat).1.mem j = look byte0 d.mem j) ∧
        (fmt = 0 → (accRun fmt 4 a xs d sat).2 = sat) := by
  induction xs generalizing a d sat with
  | nil => exact ⟨fun i hi => absurd hi (Nat.not_lt_zero i), fun _ _ => rfl, fun _ => rfl⟩
  | cons x xs ih =>
    rw [List.length_cons] at hb
    obtain ⟨o, ho⟩ := accElem_some hf (d.rdNat a 4) x
    have hhere : d.badIn a 4 = false := Dev.badIn_sub hb (Nat.le_refl a) (by omega)
    have hblock := Dev.blockedBy_of_good hhere
    obtain ⟨regs, hcount⟩ := (d.wrNat a 4 o.bits).accCount_eq a o
    generalize hd' : (d.wrNat a 4 o.bits).accCount a o = d' at *
    have hmem : ∀ j, (j < a ∨ a + 4 ≤ j) → look byte0 d'.mem j = look byte0 d.mem j := by
      intro j hj
      have := look_wrB d a (leBytes 4 o.bits) j (by rwa [length_leBytes])
      rw [length_leBytes, if_neg (by omega)] at this
      rw [hcount]
      exact this
    have hrest : d'.badIn (a + 4) (4 * xs.length) = false := by
      rw [hcount]
      exact Dev.badIn_wrB a (leBytes 4 o.bits) (Dev.badIn_sub hb (by omega) (by omega))
    obtain ⟨helem, hother, hsat⟩ := ih (a + 4) d' (if o.sat && sat.isNone then some a else sat) hrest
    have hrun : accRun fmt 4 a (x :: xs) d sat =
        accRun fmt 4 (a + 4) xs d' (if o.sat && sat.isNone then some a else sat) := by
      rw [accRun, if_neg (by rw [hhere]; decide), ho]
      rw [← hd']
    rw [hrun]
    refine ⟨fun i hi o' ho' => ?_, fun j hj => ?_, fun h0 => ?_⟩
    · cases i with
      | zero =>
        obtain rfl : o = o' := Option.some.inj (ho.symm.trans ho')
        have hd : d'.rdNat a 4 = (d.wrNat a 4 o.bits).rdNat a 4 := by rw [hcount]; rfl
        exact (Dev.rdNat_congr fun j _ hj => hother j (.inl hj)).trans (hd.trans (d.rdNat_wrNat o.bits hblock))
      | succ i =>
        have hshift : a + 4 * (i + 1) = a + 4 + 4 * i := by omega
        rw [hshift] at ho' ⊢
        refine helem i (Nat.lt_of_succ_lt_succ hi) o' ?_
        rwa [Dev.rdNat_congr fun j hj _ => hmem j (.inr (by omega))]
    · rw [List.length_cons] at hj
      rw [hother j (by omega), hmem j (by omega)]
    · subst h0
      rw [hsat rfl, accElem_sat ho]
      rfl

theorem accBytes_eq {fmt : Nat} (h : fmt = 0 ∨ fmt = 9) : accBytes fmt = 4 := if_pos h

section
variable (d : Dev) (q : MemReq) (a : Nat) (bs : List Byte)

/-- An accumulate of FP32 or INT32 elements that is not refused adds them; it saturates or is done. -/
theorem Dev.memAccum_adds {fmt : Nat} (hf : fmt = 0 ∨ fmt = 9) (hsec : (!q.secure && d.memSecure a bs.length) = false)
    (ha : a % 4 = 0) (hl : bs.length % 4 = 0) (hq : d.quiet a bs.length = true) (hb : d.badIn a bs.length = false) :
    d.memAccum q fmt a bs = match (accRun fmt 4 a (elemsOf 4 bs) (d.memWake a bs.length) none).2 with
      | some s => (4, (accRun fmt 4 a (elemsOf 4 bs) (d.memWake a bs.length) none).1.msdEvent q 4 s)
      | none => (0, (accRun fmt 4 a (elemsOf 4 bs) (d.memWake a bs.length) none).1) := by
  obtain ⟨hs, hmeet, -⟩ := d.memWake_ready q a bs.length hsec hq
  have hbad : (d.memWake a bs.length).badIn a bs.length = false := by rw [(d.memWake_frame a _).2.2.2.2.2, hb]
  have hno : ¬(accBytes fmt = 0 ∨ a % accBytes fmt ≠ 0 ∨ bs.length % accBytes fmt ≠ 0) := by
    rw [accBytes_eq hf]
    omega
  unfold Dev.memAccum
  refine (if_neg (by rw [hs]; decide)).trans ((if_neg hno).trans ?_)
  rw [hmeet, accBytes_eq hf]
  extract_lets dw xs clash
  have hclash : clash = none := by
    refine List.find?_eq_none.mpr ?_
    rintro ⟨y, i⟩ - hy
    obtain ⟨o, ho⟩ := accElem_some hf (dw.rdNat (a + i * 4) 4) y
    simp [ho] at hy
  rw [hclash]
  exact if_neg (by rw [hbad]; decide)

/-- What an accumulate of FP32 or INT32 elements leaves, and its status. -/
theorem Dev.memAccum_leaves {fmt : Nat} (hf : fmt = 0 ∨ fmt = 9) (hsec : (!q.secure && d.memSecure a bs.length) = false)
    (ha : a % 4 = 0) (hl : bs.length % 4 = 0) (hq : d.quiet a bs.length = true) (hb : d.badIn a bs.length = false) :
    (∀ i < bs.length / 4, ∀ o, accElem fmt (d.rdNat (a + 4 * i) 4) (leAt bs (4 * i) 4) = some o →
      (d.memAccum q fmt a bs).2.rdNat (a + 4 * i) 4 = o.bits % 2 ^ 32) ∧
    (∀ i, (i < a ∨ a + bs.length ≤ i) → look byte0 (d.memAccum q fmt a bs).2.mem i = look byte0 d.mem i) ∧
    ((d.memAccum q fmt a bs).1 = 0 ∨ (fmt = 9 ∧ (d.memAccum q fmt a bs).1 = 4)) := by
  have hlen : (elemsOf 4 bs).length = bs.length / 4 := by simp [elemsOf]
  obtain ⟨hwm, -, -, -, -, hwb⟩ := d.memWake_frame a bs.length
  obtain ⟨helem, hother, hsat⟩ := accRun_leaves hf (elemsOf 4 bs) a (d.memWake a bs.length) none
    (by rw [hlen, show 4 * (bs.length / 4) = bs.length from by omega, hwb, hb])
  have heq := d.memAccum_adds q a bs hf hsec ha hl hq hb
  generalize accRun fmt 4 a (elemsOf 4 bs) (d.memWake a bs.length) none = r at *
  have hmem : (d.memAccum q fmt a bs).2.mem = r.1.mem := by
    rw [heq]
    split
    · exact (Dev.msdEvent_leaves _ _ _ _ (by decide)).1
    · rfl
  refine ⟨fun i hi o ho => ?_, fun i hi => ?_, ?_⟩
  · have hold : (d.memWake a bs.length).rdNat (a + 4 * i) 4 = d.rdNat (a + 4 * i) 4 :=
      Dev.rdNat_congr fun j _ _ => by rw [hwm]
    have hget : (elemsOf 4 bs)[i]'(by rwa [hlen]) = leAt bs (4 * i) 4 := by simp [elemsOf, Nat.mul_comm]
    exact (Dev.rdNat_congr fun j _ _ => by rw [hmem]).trans (helem i (by rwa [hlen]) o (by rwa [hold, hget]))
  · rw [hmem, hother i (by rw [hlen]; omega), hwm]
  · rw [heq]
    rcases hf with h0 | h9
    · rw [hsat h0]
      exact .inl rfl
    · split
      · exact .inr ⟨h9, rfl⟩
      · exact .inl rfl

end

/-! ### Writes and accumulates of a requester -/

section
variable (s : State) (a : WAccess) (u : Writer) (x : Nat) (rivals : List (BitVec 4)) (hu : s.acting a.by_ = some u)
  (hx : s.dev.memHere a.addr.toNat a.data.length = some x)
include hu hx

theorem yields_memoryWrite_cut (h : s.dev.cutOff u.who false x a.data.length = true) :
    Yields (.memoryWrite a ⟨rivals, []⟩) s s.dev ∧
      ∀ fmt : BitVec 4, Yields (.memoryAccumulate a fmt ⟨rivals, []⟩) s s.dev := by
  refine ⟨yields_lift (fun d => d.memoryWrite { a with by_ := u } rivals []) (asWriter_next a.by_ u _ s hu) ?_,
    fun fmt => yields_lift (fun d => d.memoryAccumulate { a with by_ := u } fmt.toNat rivals [])
      (asWriter_next a.by_ u _ s hu) ?_⟩
  · simp only [Dev.memoryWrite, Dev.request_cut (w := u) false rivals hx h]
  · simp only [Dev.memoryAccumulate, Dev.request_cut (w := u) true rivals hx h]

variable (hc : s.dev.cutOff u.who false x a.data.length = false)
include hc

theorem does_memoryWrite {P : Dev → Prop} (h : ∀ e q, s.dev.granted e → q.secure = u.secure →
      P { (e.memWrite q x a.data).2 with response := some (u.who, ⟨(e.memWrite q x a.data).1, []⟩) }) :
    Does (.memoryWrite a ⟨rivals, []⟩) s P := by
  obtain ⟨e, he, hg⟩ := Dev.request_granted (acc := false) rivals hx hc
  refine ⟨_, yields_lift (fun d => d.memoryWrite { a with by_ := u } rivals []) (asWriter_next a.by_ u _ s hu) ?_,
    h e (e.memReq u) hg rfl⟩
  simp only [Dev.memoryWrite, he, ← (Dev.memHere_some hx).1]

theorem does_memoryAccumulate (fmt : BitVec 4) {P : Dev → Prop} (h : ∀ e q, s.dev.granted e → q.secure = u.secure →
      P { (e.memAccum q fmt.toNat x a.data).2 with
        response := some (u.who, ⟨(e.memAccum q fmt.toNat x a.data).1, []⟩) }) :
    Does (.memoryAccumulate a fmt ⟨rivals, []⟩) s P := by
  obtain ⟨e, he, hg⟩ := Dev.request_granted (acc := true) rivals hx hc
  refine ⟨_, yields_lift (fun d => d.memoryAccumulate { a with by_ := u } fmt.toNat rivals [])
    (asWriter_next a.by_ u _ s hu) ?_, h e (e.memReq u) hg rfl⟩
  simp only [Dev.memoryAccumulate, he, ← (Dev.memHere_some hx).1]

end


/-! ### O28 -/

theorem secure_pass {u : Writer} {d e : Dev} {q : MemReq} {a n : Nat} (hg : d.granted e) (hq : q.secure = u.secure)
    (h : u.secure = true ∨ d.memSecure a n = false) : (!q.secure && e.memSecure a n) = false := by
  rw [hg.same.2.2.2.1, hq]
  rcases h with h | h <;> simp [h]

theorem secure_stop {u : Writer} {d e : Dev} {q : MemReq} {a n : Nat} (hg : d.granted e) (hq : q.secure = u.secure)
    (h : u.secure = false) (hs : d.memSecure a n = true) : (!q.secure && e.memSecure a n) = true := by
  rw [hg.same.2.2.2.1, hq, h, hs]
  rfl

theorem Dev.ready_iff {d : Dev} {m : Master} {read : Bool} {a n : Nat} :
    d.ready m read a n = true ↔ d.cutOff m read a n = false ∧ d.quiet a n = true := by
  unfold Dev.ready
  rw [Bool.and_eq_true, Bool.not_eq_true']

section
variable (s : State) (a : RAccess) (u : Writer) (x : Nat) (rivals : List (BitVec 4)) (hu : s.acting a.by_ = some u)
  (hx : s.dev.memHere a.addr.toNat a.len = some x) (hr : s.dev.ready u.who true x a.len = true)
include hu hx hr

theorem memoryRead_good (hsec : u.secure = true ∨ s.dev.memSecure x a.len = false)
    (hbad : s.dev.badIn x a.len = false) : Does (.memoryRead a rivals []) s fun e =>
      e.response = some (u.who, ⟨0, s.dev.rd x a.len⟩) ∧ e.mem = s.dev.mem ∧ e.bad = s.dev.bad ∧ e.regsAs s.dev ∧
        e.events = s.dev.events := by
  obtain ⟨hc, hqu⟩ := Dev.ready_iff.mp hr
  refine does_memoryRead s a u x rivals hu hx hc fun e q tents hg hq => ?_
  obtain ⟨hm, hb, hev, -, hqe, hbe⟩ := hg.same
  obtain ⟨down, hw⟩ := e.memWake_eq x a.len
  rw [Dev.memRead_good e q x a.len (secure_pass hg hq hsec) (by rw [hqe, hqu]) (by rw [hbe, hbad]), hw]
  refine ⟨?_, hm, hb, hg.2, hev⟩
  exact congrArg (fun bs : List Byte => some (u.who, (⟨0, bs⟩ : Answer))) (by rw [Dev.rd, Dev.rd, hm])

theorem memoryRead_refused (hsec : u.secure = false) (hs : s.dev.memSecure x a.len = true) :
    Does (.memoryRead a rivals []) s fun e => e.response = some (u.who, ⟨2, List.replicate a.len 0⟩) ∧
      e.mem = s.dev.mem ∧ ∃ y : Event, e.events = s.dev.events ++ [y] ∧ y.cls = 1 ∧ y.code = 0x407 := by
  obtain ⟨hc, -⟩ := Dev.ready_iff.mp hr
  refine does_memoryRead s a u x rivals hu hx hc fun e q tents hg hq => ?_
  obtain ⟨hm, -, hev, -⟩ := hg.same
  obtain ⟨down, hw⟩ := e.memWake_eq x a.len
  rw [Dev.memRead_refused e q x a.len (secure_stop hg hq hsec hs), hw]
  obtain ⟨hm', -, y, hy, hcls, hcode⟩ := Dev.msdRefuse_leaves { e with memDown := down } q x a.len
  exact ⟨rfl, hm'.trans hm, y, hy.trans (by rw [← hev]), hcls, hcode⟩

theorem memoryRead_uncorr (hsec : u.secure = true ∨ s.dev.memSecure x a.len = false)
    (hbad : s.dev.badIn x a.len = true) : Does (.memoryRead a rivals []) s fun e => ∃ bs : List Byte,
      e.response = some (u.who, ⟨1, bs⟩) ∧ bs.length = a.len ∧
        (∀ i < a.len, s.dev.badIn (x + i) 1 = false → bs[i]? = (s.dev.rd x a.len)[i]?) ∧ e.mem = s.dev.mem ∧
          ∃ y : Event, e.events = s.dev.events ++ [y] ∧ y.cls = 2 ∧ y.code = 0x407 := by
  obtain ⟨hc, hqu⟩ := Dev.ready_iff.mp hr
  refine does_memoryRead s a u x rivals hu hx hc fun e q tents hg hq => ?_
  obtain ⟨hm, hb, hev, -, hqe, hbe⟩ := hg.same
  obtain ⟨down, hw⟩ := e.memWake_eq x a.len
  dsimp only
  rw [Dev.memRead_bad e q x a.len (secure_pass hg hq hsec) (by rw [hqe, hqu]) (by rw [hbe, hbad]), hw]
  obtain ⟨hlen, hbytes⟩ := Dev.rdOpen_leaves { e with memDown := down } x a.len
  obtain ⟨hm', y, hy, hcls, hcode⟩ := Dev.uncorrEvent_leaves (Dev.rdOpen { e with memDown := down } x a.len).2 q
    (Dev.badUnits { e with memDown := down } x a.len)
  refine ⟨_, rfl, hlen, fun i hi hok => ?_, hm'.trans hm, y, hy.trans (by rw [← hev]; rfl), hcls, hcode⟩
  have hrd : Dev.rd { e with memDown := down } x a.len = s.dev.rd x a.len := by
    unfold Dev.rd
    rw [← hm]
  rw [← hrd]
  exact hbytes i hi ((hbe _ _).trans hok)

end

section
variable (s : State) (a : WAccess) (u : Writer) (x : Nat) (rivals : List (BitVec 4)) (hu : s.acting a.by_ = some u)
  (hx : s.dev.memHere a.addr.toNat a.data.length = some x) (hr : s.dev.ready u.who false x a.data.length = true)
include hu hx hr

theorem memoryWrite_good (hsec : u.secure = true ∨ s.dev.memSecure x a.data.length = false)
    (hbl : s.dev.blockedBy x a.data.length = []) : Does (.memoryWrite a ⟨rivals, []⟩) s fun e =>
      e.response = some (u.who, ⟨0, []⟩) ∧ e.mem = (s.dev.wrB x a.data).mem ∧ e.regsAs s.dev ∧
        ∀ i, look byte0 e.mem i =
          if x ≤ i ∧ i < x + a.data.length then a.data.getD (i - x) 0 else look byte0 s.dev.mem i := by
  obtain ⟨hc, hqu⟩ := Dev.ready_iff.mp hr
  refine does_memoryWrite s a u x rivals hu hx hc fun e q hg hq => ?_
  obtain ⟨hm, hb, -, -, hqe, -⟩ := hg.same
  obtain ⟨down, hw⟩ := e.memWake_eq x a.data.length
  rw [Dev.memWrite_good e q x a.data (secure_pass hg hq hsec) (by rw [hqe, hqu])
    ((Dev.blockedBy_of_bad hb _ _).trans hbl), hw]
  have hmem : (Dev.wrB { e with memDown := down } x a.data).mem = (s.dev.wrB x a.data).mem :=
    Dev.mem_wrB_of hm hb x a.data
  exact ⟨rfl, hmem, hg.2, fun i => (congrArg (fun m => look byte0 m i) hmem).trans (look_wrB s.dev x a.data i hbl)⟩

theorem memoryWrite_refused (hsec : u.secure = false) (hs : s.dev.memSecure x a.data.length = true) :
    Does (.memoryWrite a ⟨rivals, []⟩) s fun e =>
      e.response = some (u.who, ⟨2, []⟩) ∧ e.mem = s.dev.mem ∧ e.bad = s.dev.bad := by
  obtain ⟨hc, -⟩ := Dev.ready_iff.mp hr
  refine does_memoryWrite s a u x rivals hu hx hc fun e q hg hq => ?_
  obtain ⟨hm, hb, -⟩ := hg.same
  obtain ⟨down, hw⟩ := e.memWake_eq x a.data.length
  rw [Dev.memWrite_refused e q x a.data (secure_stop hg hq hsec hs), hw]
  obtain ⟨hm', hb', -⟩ := Dev.msdRefuse_leaves { e with memDown := down } q x a.data.length
  exact ⟨rfl, hm'.trans hm, hb'.trans hb⟩

theorem memoryAccumulate_refused (fmt : BitVec 4) (hsec : u.secure = false)
    (hs : s.dev.memSecure x a.data.length = true) : Does (.memoryAccumulate a fmt ⟨rivals, []⟩) s fun e =>
      e.response = some (u.who, ⟨2, []⟩) ∧ e.mem = s.dev.mem ∧ e.bad = s.dev.bad := by
  obtain ⟨hc, -⟩ := Dev.ready_iff.mp hr
  refine does_memoryAccumulate s a u x rivals hu hx hc fmt fun e q hg hq => ?_
  obtain ⟨hm, hb, -⟩ := hg.same
  obtain ⟨down, hw⟩ := e.memWake_eq x a.data.length
  rw [Dev.memAccum_refused e q x a.data fmt.toNat (secure_stop hg hq hsec hs), hw]
  obtain ⟨hm', hb', -⟩ := Dev.msdRefuse_leaves { e with memDown := down } q x a.data.length
  exact ⟨rfl, hm'.trans hm, hb'.trans hb⟩

variable (fmt : BitVec 4) (hsec : u.secure = true ∨ s.dev.memSecure x a.data.length = false)
include hsec

theorem memoryAccumulate_format (hf : accBytes fmt.toNat = 0) : Does (.memoryAccumulate a fmt ⟨rivals, []⟩) s fun e =>
    e.response = some (u.who, ⟨3, []⟩) ∧ e.mem = s.dev.mem := by
  obtain ⟨hc, -⟩ := Dev.ready_iff.mp hr
  refine does_memoryAccumulate s a u x rivals hu hx hc fmt fun e q hg hq => ?_
  obtain ⟨hm, -⟩ := hg.same
  obtain ⟨down, hw⟩ := e.memWake_eq x a.data.length
  rw [Dev.memAccum_format e q x a.data (secure_pass hg hq hsec) hf, hw]
  exact ⟨rfl, (Dev.msdEvent_leaves _ _ _ _ (by decide)).1.trans hm⟩

theorem memoryAccumulate_adds (hf : fmt = 0 ∨ fmt = 9) (hal : x % 4 = 0) (hl : a.data.length % 4 = 0)
    (hbad : s.dev.badIn x a.data.length = false) : Does (.memoryAccumulate a fmt ⟨rivals, []⟩) s fun e =>
      (∀ i < a.data.length / 4, ∀ o,
        accElem fmt.toNat (s.dev.rdNat (x + 4 * i) 4) (leAt a.data (4 * i) 4) = some o →
          e.rdNat (x + 4 * i) 4 = o.bits % 2 ^ 32) ∧
      (∀ i, (i < x ∨ x + a.data.length ≤ i) → look byte0 e.mem i = look byte0 s.dev.mem i) ∧
        ∃ st, e.response = some (u.who, ⟨st, []⟩) ∧ (st = 0 ∨ (fmt = 9 ∧ st = 4)) := by
  obtain ⟨hc, hqu⟩ := Dev.ready_iff.mp hr
  refine does_memoryAccumulate s a u x rivals hu hx hc fmt fun e q hg hq => ?_
  obtain ⟨hm, -, -, -, hqe, hbe⟩ := hg.same
  have hnat : fmt.toNat = 0 ∨ fmt.toNat = 9 := hf.imp (fun h => by rw [h]; rfl) fun h => by rw [h]; rfl
  obtain ⟨helem, hother, hst⟩ := e.memAccum_leaves q x a.data hnat (secure_pass hg hq hsec) hal hl (by rw [hqe, hqu])
    (by rw [hbe, hbad])
  refine ⟨fun i hi o ho => helem i hi o ?_, fun i hi => (hother i hi).trans (by rw [hm]), _, rfl,
    hst.imp_right fun h => ⟨BitVec.eq_of_toNat_eq h.1, h.2⟩⟩
  rwa [Dev.rdNat_congr (d := s.dev) fun j _ _ => by rw [hm]]

end

/-- INT32 elements add exactly and saturate (R230). -/
theorem accElem_int (x y : Half) : accElem 9 x.toNat y.toNat = some
    (if 2 ^ 31 - 1 < x.toInt + y.toInt then ⟨2 ^ 31 - 1, true, false⟩
      else if x.toInt + y.toInt < -(2 ^ 31) then ⟨2 ^ 31, true, false⟩ else ⟨(x + y).toNat, false, false⟩) := by
  have hu : unsigned 32 (x.toInt + y.toInt) = (x + y).toNat := by
    rw [unsigned32_eq, BitVec.ofInt_add, BitVec.ofInt_toInt, BitVec.ofInt_toInt]
  unfold accElem
  rw [if_pos rfl, signed32_eq, signed32_eq]
  dsimp only
  split
  · rfl
  · split
    · rfl
    · rw [hu]

/-- Settles O28: the arbiters' grants leave what a request reads and writes, and its status follows from its world and
the units it meets. -/
theorem memoryRequests : Obligations.MemoryRequests := by
  unfold Obligations.MemoryRequests
  refine ⟨⟨fun s a u x rivals hu hx => ?_, fun s a u x rivals hu hx => ?_, fun s a u x fmt rivals hu hx => ?_⟩,
    accElem_int, fun x y => ⟨_, rfl⟩⟩
  · exact ⟨yields_memoryRead_cut s a u x rivals hu hx, fun hr => ⟨memoryRead_good s a u x rivals hu hx hr,
      memoryRead_refused s a u x rivals hu hx hr, memoryRead_uncorr s a u x rivals hu hx hr⟩⟩
  · exact ⟨yields_memoryWrite_cut s a u x rivals hu hx, fun hr => ⟨memoryWrite_good s a u x rivals hu hx hr,
      fun hsec hs => ⟨memoryWrite_refused s a u x rivals hu hx hr hsec hs,
        fun fmt => memoryAccumulate_refused s a u x rivals hu hx hr fmt hsec hs⟩⟩⟩
  · exact fun hr hsec => ⟨memoryAccumulate_format s a u x rivals hu hx hr fmt hsec,
      memoryAccumulate_adds s a u x rivals hu hx hr fmt hsec⟩

end Sys2Proof.Machine

/-! Responses of memory at their requesters (R224, R278), the code of a granule, scrub and repair (R222 to R228), for
O29. -/

namespace Sys2Proof.Machine

/-! ### Responses -/

/-- A store to HBM whose way is open, and whose granules its world reaches, lands there (R225). -/
theorem Dev.landOne_lands (d : Dev) (x : Store) (a : Nat) (hp : d.place x.addr.toNat = .here a)
    (hreg : regionOf a = .hbm) (hin : inTier a x.data.length = true)
    (hsec : x.secure = true ∨ d.memSecure a x.data.length = false) (hbl : d.blockedBy a x.data.length = [])
    (hr : d.ready (.score (BitVec.ofNat 14 x.t) (BitVec.ofNat 2 x.core)) false a x.data.length = true) :
    ∃ down, d.landOne x =
      Dev.wrB { d with stores := d.stores.filter fun y => y.seq != x.seq, memDown := down } a x.data := by
  obtain ⟨hcut, hqu⟩ := Dev.ready_iff.mp hr
  have hheld : d.heldFor (.score (BitVec.ofNat 14 x.t) (BitVec.ofNat 2 x.core)) false a x.data.length = false := by
    simp only [Dev.heldFor, Dev.heldHere, hreg, hcut, Bool.or_false]
  have hwr (e : Dev) (w : Writer) : e.writeHere w a x.data = e.memWrite (e.memReqFor w none) a x.data := by
    simp only [Dev.writeHere, hreg, hin, if_true]
  have hpass : (!x.secure && d.memSecure a x.data.length) = false := by
    rcases hsec with h | h <;> simp [h]
  obtain ⟨down, hdown⟩ := Dev.memWake_eq { d with stores := d.stores.filter fun y => y.seq != x.seq } a x.data.length
  refine ⟨down, ?_⟩
  have hland := Dev.memWrite_good { d with stores := d.stores.filter fun y => y.seq != x.seq }
    (Dev.memReqFor { d with stores := d.stores.filter fun y => y.seq != x.seq }
      ⟨.score (BitVec.ofNat 14 x.t) (BitVec.ofNat 2 x.core), x.secure⟩ none) a x.data hpass hqu hbl
  rw [hdown] at hland
  simp only [Dev.landOne, hp, hheld, Bool.false_eq_true, if_false, hwr, hland, if_true]

section
variable (s : State) (who : Master) (st : BitVec 3) (hw : s.dev.warmAsked = false)
include hw

omit hw in
theorem yields_memoryResponse {e : Dev} (h : s.dev.memoryResponse who st.toNat = e) (he : e.warmAsked = false) :
    Yields (.memoryResponse who st) s e :=
  yields_liftBus (fun _ d => d.memoryResponse who st.toNat) rfl h he

theorem memoryResponse_ok (bs : List Byte) (hr : s.dev.response = some (who, ⟨0, bs⟩))
    (hno : ∀ t n, who = .score t n → s.dev.oldestStore t.toNat n.toNat = none) :
    Yields (.memoryResponse who 0) s { s.dev with response := none } := by
  refine yields_memoryResponse s who 0 ?_ hw
  unfold Dev.memoryResponse
  cases who with
  | score t n =>
    simp only [hno t n rfl, hr]
    rfl
  | _ =>
    simp only [hr]
    rfl

variable (t : TentId) (bs : List Byte) (i : Issued) (hst : st ≠ 0)
include hst

omit hw in
/-- A response with a status that waits for an engine acts there. -/
theorem Dev.memoryResponse_bad (hwho : ∀ t n, who ≠ .score t n) (hr : s.dev.response = some (who, ⟨st.toNat, bs⟩)) :
    s.dev.memoryResponse who st.toNat = Dev.responseBad { s.dev with response := none } who st.toNat := by
  have hnz : ¬st.toNat = 0 := fun h => hst (BitVec.eq_of_toNat_eq h)
  unfold Dev.memoryResponse
  cases who with
  | score t n => exact absurd rfl (hwho t n)
  | _ =>
    simp only [hr, and_self, if_true, if_neg hnz]

theorem memoryResponse_vector (hr : s.dev.response = some (.vector t, ⟨st.toNat, bs⟩))
    (hi : (s.dev.queue t.toNat 7).flight[0]? = some i) :
    Does (.memoryResponse (.vector t) st) s fun e => e.queue t.toNat 7 = ⟨[], [], false, true, []⟩ := by
  have he : Dev.responseBad { s.dev with response := none } (.vector t) st.toNat =
      (Dev.vecUndef { s.dev with response := none } t.toNat i.cmd).runFault t.toNat 7 (vecErr t.toNat) i.cmd
        (engCause st.toNat) 0 := by
    have hi' : (Dev.queue { s.dev with response := none } t.toNat 7).flight[0]? = some i := hi
    simp only [Dev.responseBad, Dev.engineFail, hi']
    rfl
  refine ⟨_, yields_memoryResponse s _ st ((Dev.memoryResponse_bad s _ st bs hst (by simp) hr).trans he) ?_,
    Dev.queue_runFault _ _ _ _ _ _ _⟩
  rw [Dev.runFault_warmAsked, Dev.onlyMemory_vecUndef]
  exact hw

theorem memoryResponse_array (a : BitVec 3) (ha : a.toNat < 6)
    (hr : s.dev.response = some (.arrayPort t a, ⟨st.toNat, bs⟩))
    (hi : (s.dev.queue t.toNat a.toNat).flight[0]? = some i) :
    Does (.memoryResponse (.arrayPort t a) st) s fun e => e.queue t.toNat a.toNat = ⟨[], [], false, true, []⟩ := by
  have he : Dev.responseBad { s.dev with response := none } (.arrayPort t a) st.toNat =
      (Dev.aryFault { s.dev with response := none } t.toNat a.toNat 0 true).runFault t.toNat a.toNat
        (aryErr t.toNat a.toNat) i.cmd (engCause st.toNat) 0 := by
    have hi' : (Dev.queue { s.dev with response := none } t.toNat a.toNat).flight[0]? = some i := hi
    simp only [Dev.responseBad, Dev.engineFail, hi']
    exact if_pos ha
  refine ⟨_, yields_memoryResponse s _ st ((Dev.memoryResponse_bad s _ st bs hst (by simp) hr).trans he) ?_,
    Dev.queue_runFault _ _ _ _ _ _ _⟩
  obtain ⟨r, v, h⟩ := Dev.aryFault_eq { s.dev with response := none } t.toNat a.toNat 0 true
  rw [Dev.runFault_warmAsked, h]
  exact hw

omit hst in
/-- The oldest store an S-core posted lands, with its bytes (R225). -/
theorem memoryResponse_lands (n : CoreNo) (x : Store) (a : Nat) (hx : s.dev.oldestStore t.toNat n.toNat = some x)
    (hp : s.dev.place x.addr.toNat = .here a) (hreg : regionOf a = .hbm) (hin : inTier a x.data.length = true)
    (hsec : x.secure = true ∨ s.dev.memSecure a x.data.length = false) (hbl : s.dev.blockedBy a x.data.length = [])
    (hr : s.dev.ready (.score (BitVec.ofNat 14 x.t) (BitVec.ofNat 2 x.core)) false a x.data.length = true) :
    Does (.memoryResponse (.score t n) st) s fun e =>
      e.mem = (s.dev.wrB a x.data).mem ∧ e.stores = s.dev.stores.filter fun y => y.seq != x.seq := by
  obtain ⟨down, he⟩ := s.dev.landOne_lands x a hp hreg hin hsec hbl hr
  refine ⟨Dev.wrB { s.dev with stores := s.dev.stores.filter fun y => y.seq != x.seq, memDown := down } a x.data,
    yields_memoryResponse s _ st ?_ hw, Dev.mem_wrB_of rfl rfl a x.data, rfl⟩
  simp only [Dev.memoryResponse, hx, he]

end

/-! ### The code of a granule (R222 to R224) -/

theorem corrects_detects (g : Nat) : (regionOf g = .hbm → corrects g = 3 ∧ detects g = 5) ∧
    (regionOf g = .lpddr → corrects g = 2 ∧ detects g = 2) := by
  unfold corrects detects
  refine ⟨fun h => ?_, fun h => ?_⟩ <;> rw [h] <;> decide

/-- The units of 64 bytes are the granules of the memory tiers. -/
theorem region_of_unitLen {g : Nat} (h : unitLen g = 64) : regionOf g = .hbm ∨ regionOf g = .lpddr := by
  unfold unitLen at h
  split at h
  · next hr => exact .inl hr
  · next hr => exact .inr hr
  · exact absurd h (by decide)
  · exact absurd h (by decide)
  · exact absurd h (by decide)

section
variable (d : Dev) {g n : Nat} (again : Bool) (hg : g % 64 = 0) (hu : unitLen g = 64)
include hg hu

theorem struck_granule (e : Upset) : d.struck [(g, e)] = { d with flips := d.flips ++ [(g, e)] } := by
  have hbase : unitBase g = g := by
    unfold unitBase
    rw [hu]
    omega
  show d.upset g e = _
  rw [Dev.upset, if_neg (by rw [hu]; decide), hbase]

omit hg in
theorem Dev.unitMet_granule (e : Upset) : d.unitMet (g, e) = d.granuleMet g e := by
  rcases region_of_unitLen hu with h | h <;> simp only [Dev.unitMet, h]

end

/-- An error within the reach of the code is corrected. -/
theorem Dev.granuleMet_corrected (d : Dev) {g n : Nat} (h1 : 1 ≤ n) (hn : n ≤ corrects g) :
    d.granuleMet g (.wrong n false) = d.corrected g :=
  (if_neg (by omega)).trans (if_pos hn)

/-- One beyond it that the code detects leaves the granule uncorrectable. -/
theorem Dev.granuleMet_detected (d : Dev) {g n : Nat} (again : Bool) (h1 : corrects g < n) (hn : n ≤ detects g) :
    d.granuleMet g (.wrong n again) = Dev.spoil { d with fresh := d.fresh + 1 } g :=
  (if_neg (by omega)).trans ((if_neg (by omega)).trans (if_neg fun h => absurd h.1 (by omega)))

theorem Dev.corrected_leaves (d : Dev) (g : Nat) : (d.corrected g).mem = d.mem ∧ (d.corrected g).bad = d.bad ∧
    ∃ y : Event, (d.corrected g).events = d.events ++ [y] ∧ y.cls = 1 := by
  obtain ⟨r, die, blk, i, h⟩ : ∃ r die blk i, d.corrected g = (d.bump r 1).dieErr die 0 blk 1 0x02 i :=
    ⟨_, _, _, _, rfl⟩
  obtain ⟨y, hy, hcls, -⟩ := (d.bump r 1).dieErr_events die 0 blk 1 0x02 i (by decide)
  rw [h]
  exact ⟨(Dev.dieErr_frame _ _ _ _ _ _ _).1, Dev.bad_dieErr _ _ _ _ _ _ _, y, hy, hcls⟩

/-- The only error that a read of quiet memory meets is the one that has just struck. -/
theorem Dev.meetWhere_struck (d : Dev) {g : Nat} (e : Upset) (f : Nat → Bool) (hno : ∀ p ∈ d.flips, f p.1 = false)
    (hf : f g = true) : Dev.meetWhere { d with flips := d.flips ++ [(g, e)] } f = d.unitMet (g, e) := by
  have hmet : (d.flips ++ [(g, e)]).filter (fun p => f p.1) = [(g, e)] := by
    rw [List.filter_append, List.filter_eq_nil_iff.mpr fun p hp => by rw [hno p hp]; decide]
    simp [hf]
  have hrest : (d.flips ++ [(g, e)]).filter (fun p => !f p.1) = d.flips := by
    rw [List.filter_append, List.filter_eq_self.mpr fun p hp => by rw [hno p hp]; rfl]
    simp [hf]
  have hsome : (d.flips ++ [(g, e)]).isEmpty = false := by cases d.flips <;> rfl
  unfold Dev.meetWhere
  refine (if_neg (by rw [hsome]; decide)).trans ?_
  rw [hmet, hrest]
  rfl


/-! ### Reads that meet an error -/

theorem Dev.memRead_secure (d : Dev) {q : MemReq} (hq : q.secure = true) (a n : Nat) : d.memRead q a n =
    if ((d.memWake a n).meet a n).badIn a n then
      (⟨1, (((d.memWake a n).meet a n).rdOpen a n).1⟩,
        (((d.memWake a n).meet a n).rdOpen a n).2.uncorrEvent q (((d.memWake a n).meet a n).badUnits a n))
    else (⟨0, ((d.memWake a n).meet a n).rd a n⟩, (d.memWake a n).meet a n) :=
  if_neg (by simp [hq])

theorem Dev.uncorrEvent_bad (d : Dev) (q : MemReq) (gs : List Nat) : (d.uncorrEvent q gs).bad = d.bad := by
  obtain ⟨regs, h⟩ := d.foldl_bump (fun d g => (d.memLoc g).cnt 0x108) gs
  rw [Dev.uncorrEvent, h]
  exact (Dev.msdEvent_leaves { d with regs := regs } q (gs.foldl min (gs.headD 0)) 1 (by decide)).2.1

theorem Dev.mem_spoil (d : Dev) (a : Nat) : (d.spoil a).mem = d.mem := by
  unfold Dev.spoil
  split <;> rfl

theorem Dev.mem_bad_spoil (d : Dev) (a : Nat) : unitBase a ∈ (d.spoil a).bad := by
  unfold Dev.spoil
  split
  · next h => exact List.contains_iff_mem.mp h
  · exact List.mem_append_right _ List.mem_cons_self

section
variable (s : State) (a : RAccess) (u : Writer) (x g n : Nat) (hu : s.acting a.by_ = some u)
  (hx : s.dev.memHere a.addr.toNat a.len = some x) (hr : s.dev.ready u.who true x a.len = true) (hg : g % 64 = 0)
  (hunit : unitLen g = 64) (hlo : x < g + 64) (hhi : g < x + a.len) (hsec : u.secure = true)
include hu hx hr hg hunit hlo hhi hsec

/-- A read that meets an error in one of its granules answers with what memory gives once the code has met it. -/
theorem does_memoryRead_struck (e : Upset) {P : Dev → Prop} (h : ∀ (b : Dev) q tents, b.mem = s.dev.mem → b.bad = s.dev.bad →
      b.events = s.dev.events → q.secure = true → ∀ r : Answer × Dev, (r = if (b.granuleMet g e).badIn x a.len then
        (⟨1, ((b.granuleMet g e).rdOpen x a.len).1⟩,
          ((b.granuleMet g e).rdOpen x a.len).2.uncorrEvent q ((b.granuleMet g e).badUnits x a.len))
      else (⟨0, (b.granuleMet g e).rd x a.len⟩, b.granuleMet g e)) →
      P { r.2 with response := some (u.who, r.1), tents := tents }) :
    Does (.memoryRead a [] [(g, e)]) s P := by
  obtain ⟨hc, hqu⟩ := Dev.ready_iff.mp hr
  obtain ⟨b, hb, hgr⟩ := Dev.request_granted (acc := false) [] hx hc
  obtain ⟨hm, hbad, hev, -, hqe, -⟩ := hgr.same
  have hreq : s.dev.request u true false a.addr.toNat a.len [] [(g, e)] = some { b with flips := b.flips ++ [(g, e)] } := by
    rw [← struck_granule b hg hunit e]
    simp only [Dev.request, hx, hc] at hb ⊢
    obtain rfl := Option.some.inj hb
    rfl
  generalize hq : Dev.memReq { b with flips := b.flips ++ [(g, e)] } u = q
  have hqs : q.secure = true := by rw [← hq]; exact hsec
  obtain ⟨down, hw⟩ := Dev.memWake_eq { b with flips := b.flips ++ [(g, e)] } x a.len
  have hquiet : ∀ p ∈ b.flips, (decide (p.1 < x + a.len) && decide (x < p.1 + unitLen p.1)) = false := by
    have := (hqe x a.len).trans hqu
    exact fun p hp => by simpa only [Bool.not_eq_true'] using List.all_eq_true.mp this p hp
  have hmeet : (Dev.memWake { b with flips := b.flips ++ [(g, e)] } x a.len).meet x a.len =
      Dev.granuleMet { b with memDown := down } g e := by
    rw [hw, ← Dev.unitMet_granule _ hunit]
    exact Dev.meetWhere_struck { b with memDown := down } e _ hquiet (by simp [hunit, hlo, hhi])
  have hread := Dev.memRead_secure { b with flips := b.flips ++ [(g, e)] } hqs x a.len
  rw [hmeet] at hread
  generalize hres : Dev.memRead { b with flips := b.flips ++ [(g, e)] } q x a.len = r at hread
  obtain ⟨tents, ht⟩ := Dev.answerLoad_eq { r.2 with response := some (u.who, r.1) } u.who a.addr r.1
  refine ⟨_, yields_lift (fun d => d.memoryRead { a with by_ := u } [] [(g, e)]) (asWriter_next a.by_ u _ s hu) ?_,
    h { b with memDown := down } q tents hm hbad hev hqs r hread⟩
  rw [← ht, ← hres, ← hq]
  simp only [Dev.memoryRead, hreq, ← (Dev.memHere_some hx).1]

theorem memoryRead_corrects (h1 : 1 ≤ n) (hn : n ≤ corrects g) (hb : s.dev.badIn x a.len = false) :
    Does (.memoryRead a [] [(g, .wrong n false)]) s fun e => e.response = some (u.who, ⟨0, s.dev.rd x a.len⟩) ∧
      e.mem = s.dev.mem ∧ e.bad = s.dev.bad ∧ ∃ y : Event, e.events = s.dev.events ++ [y] ∧ y.cls = 1 := by
  refine does_memoryRead_struck s a u x g hu hx hr hg hunit hlo hhi hsec _ fun b q tents hm hbad hev _ r hres => ?_
  obtain ⟨hcm, hcb, y, hy, hcls⟩ := b.corrected_leaves g
  have hgood : ¬(b.corrected g).badIn x a.len = true := by
    unfold Dev.badIn at *
    rw [hcb, hbad, hb]
    decide
  rw [Dev.granuleMet_corrected b h1 hn, if_neg hgood] at hres
  subst hres
  refine ⟨?_, hcm.trans hm, hcb.trans hbad, y, hy.trans (by rw [hev]), hcls⟩
  exact congrArg (fun bs : List Byte => some (u.who, (⟨0, bs⟩ : Answer))) (by rw [Dev.rd, Dev.rd, hcm, hm])

theorem memoryRead_detects (again : Bool) (h1 : corrects g < n) (hn : n ≤ detects g) :
    Does (.memoryRead a [] [(g, .wrong n again)]) s fun e =>
      g ∈ e.bad ∧ e.mem = s.dev.mem ∧ ∃ bs, e.response = some (u.who, ⟨1, bs⟩) := by
  refine does_memoryRead_struck s a u x g hu hx hr hg hunit hlo hhi hsec _ fun b q tents hm hbad hev _ r hres => ?_
  have hbase : unitBase g = g := by
    unfold unitBase
    rw [hunit]
    omega
  have hmem := Dev.mem_bad_spoil { b with fresh := b.fresh + 1 } g
  rw [hbase] at hmem
  have hyes : (Dev.spoil { b with fresh := b.fresh + 1 } g).badIn x a.len = true := by
    refine List.any_eq_true.mpr ⟨g, hmem, ?_⟩
    simp [hunit, hlo, hhi]
  rw [Dev.granuleMet_detected b again h1 hn, if_pos hyes] at hres
  subst hres
  refine ⟨?_, ?_, _, rfl⟩
  · show g ∈ (Dev.uncorrEvent _ _ _).bad
    rw [Dev.uncorrEvent_bad]
    exact hmem
  · exact (Dev.uncorrEvent_leaves _ _ _).1.trans ((Dev.mem_spoil _ g).trans hm)

end


/-! ### The scrub (R226) -/

/-- Where an address lies follows from MSD_CTL alone. -/
theorem Dev.memLoc_of_reg {d e : Dev} (h : e.reg msdCtl = d.reg msdCtl) (a : Nat) : e.memLoc a = d.memLoc a := by
  unfold Dev.memLoc Dev.regF
  rw [h]

theorem Dev.ofController_of_reg {d e : Dev} (h : e.reg msdCtl = d.reg msdCtl) (key a : Nat) :
    e.ofController key a = d.ofController key a := by
  unfold Dev.ofController
  rw [Dev.memLoc_of_reg h]

theorem Dev.reg_corrected_msdCtl (d : Dev) (g : Nat) : (d.corrected g).reg msdCtl = d.reg msdCtl := by
  have hcnt (x : MemLoc) (hx : 2 ≤ x.die) : msdCtl ≠ x.cnt 0x100 := by
    unfold msdCtl MemLoc.cnt MemLoc.maint dieReg dieBase
    omega
  have hdie : 2 ≤ (d.memLoc g).die := Nat.le_add_right 2 _
  have herr : ∀ die, msdCtl ≠ dieReg die 0x1500_0008 := by
    intro die
    unfold msdCtl dieReg dieBase
    omega
  unfold Dev.corrected
  generalize d.memLoc g = x at hdie
  exact (Dev.reg_dieErr_ne _ _ _ _ _ _ _ herr).trans (Dev.reg_setReg_ne _ _ (hcnt x hdie))

theorem unitLen_of_ofController {d : Dev} {key g : Nat} (h : d.ofController key g = true) : unitLen g = 64 := by
  unfold Dev.ofController at h
  simp only [Bool.and_eq_true, Bool.or_eq_true, beq_iff_eq] at h
  unfold unitLen
  rcases h.1 with h | h <;> rw [h]

/-- The record of an uncorrectable granule that a scrub meets: status 1 and port 5 in MSD_ERR, cause 5 of the
controller's log. -/
def Dev.scrubLog (d : Dev) (g : Nat) : Dev :=
  let x := d.memLoc g
  ((d.setReg (dieReg x.die 0x200) (1 + MemSrc.maint.port x.msd * 2 ^ 8)).setReg (dieReg x.die 0x208) g).dieErr
    x.die 0 x.blk clsCorrected 0x05 { op := 5, addr := g }

theorem Dev.scrubLog_leaves (d : Dev) (g : Nat) {u : Nat} (hu : u ∈ d.bad) : u ∈ (d.scrubLog g).bad ∧
    (d.scrubLog g).mem = d.mem ∧ ∃ y : Event, (d.scrubLog g).events = d.events ++ [y] ∧ y.cls = 1 := by
  obtain ⟨r, v, r', v', die, blk, i, h⟩ : ∃ r v r' v' die blk i,
      d.scrubLog g = ((d.setReg r v).setReg r' v').dieErr die 0 blk 1 0x05 i := ⟨_, _, _, _, _, _, _, rfl⟩
  obtain ⟨y, hy, hcls, -⟩ := Dev.dieErr_events ((d.setReg r v).setReg r' v') die 0 blk 1 0x05 i (by decide)
  rw [h]
  exact ⟨by rwa [Dev.bad_dieErr], (Dev.dieErr_frame _ _ _ _ _ _ _).1, y, hy, hcls⟩

section
variable (s : State) (ctl : BitVec 4) (g n : Nat)

theorem yields_scrub {find : List (Nat × Upset)} {reports : List Nat} {e : Dev}
    (h : s.dev.scrub (8 + ctl.toNat) (find ++ reports.map fun g => (g, Upset.onDie)) = e) :
    Yields (.scrub ctl find reports) s e :=
  yields_lift (fun d => d.scrub (8 + ctl.toNat) (find ++ reports.map fun g => (g, .onDie))) rfl h

variable (hon : s.dev.regF (dieReg ((8 + ctl.toNat) / 4) ((2 + (8 + ctl.toNat) % 4) * 0x100_0000)) 0 8 ≠ 0)
  (hf : s.dev.flips = []) (hb : ∀ u ∈ s.dev.bad, s.dev.ofController (8 + ctl.toNat) u = false)
  (ho : s.dev.ofController (8 + ctl.toNat) g = true) (hg : g % 64 = 0)
include hf ho hg

/-- What a scrub meets of one error that has struck a granule of its controller. -/
theorem meetWhere_scrub (e : Upset) : (s.dev.struck [(g, e)]).meetWhere
    (fun u => (s.dev.struck [(g, e)]).ofController (8 + ctl.toNat) u) = s.dev.granuleMet g e := by
  have hunit := unitLen_of_ofController ho
  rw [struck_granule s.dev hg hunit e, ← s.dev.unitMet_granule hunit e]
  exact s.dev.meetWhere_struck e _ (fun p hp => absurd hp (by rw [hf]; exact List.not_mem_nil)) ho

include hon

theorem scrub_on (e : Upset) : s.dev.scrub (8 + ctl.toNat) [(g, e)] =
    ((s.dev.granuleMet g e).bad.filter fun u => (s.dev.granuleMet g e).ofController (8 + ctl.toNat) u).foldl
      Dev.scrubLog (s.dev.granuleMet g e) := by
  rw [← meetWhere_scrub s ctl g hf ho hg e]
  exact if_neg hon

include hb

theorem yields_scrub_corrects (h1 : 1 ≤ n) (hn : n ≤ corrects g) :
    Yields (.scrub ctl [(g, .wrong n false)] []) s (s.dev.corrected g) := by
  refine yields_scrub s ctl ((scrub_on s ctl g hon hf ho hg _).trans ?_)
  rw [s.dev.granuleMet_corrected h1 hn, (s.dev.corrected_leaves g).2.1, List.filter_eq_nil_iff.mpr]
  · rfl
  · intro u hu
    rw [Dev.ofController_of_reg (s.dev.reg_corrected_msdCtl g), hb u hu]
    decide

theorem does_scrub_detects (h1 : corrects g < n) (hn : n ≤ detects g) :
    Does (.scrub ctl [(g, .wrong n false)] []) s fun e =>
      g ∈ e.bad ∧ e.mem = s.dev.mem ∧ ∃ y : Event, e.events = s.dev.events ++ [y] ∧ y.cls = 1 := by
  have hunit := unitLen_of_ofController ho
  have hbase : unitBase g = g := by
    unfold unitBase
    rw [hunit]
    omega
  have hnew : g ∉ s.dev.bad := fun hin => by
    have := hb g hin
    rw [ho] at this
    exact absurd this (by decide)
  obtain ⟨b, hmet, hbad, hctl, hmem, hev⟩ : ∃ b, s.dev.granuleMet g (.wrong n false) = b ∧ b.bad = s.dev.bad ++ [g] ∧
      (∀ u, b.ofController (8 + ctl.toNat) u = s.dev.ofController (8 + ctl.toNat) u) ∧ b.mem = s.dev.mem ∧
      b.events = s.dev.events := by
    rw [s.dev.granuleMet_detected false h1 hn, Dev.spoil, hbase]
    refine ⟨_, if_neg fun h => hnew (List.contains_iff_mem.mp h), rfl, fun u => rfl, rfl, rfl⟩
  have hlist : b.bad.filter (fun u => b.ofController (8 + ctl.toNat) u) = [g] := by
    simp only [hbad, hctl]
    rw [List.filter_append, List.filter_eq_nil_iff.mpr fun u hu => by rw [hb u hu]; decide]
    simp [ho]
  obtain ⟨hin, hm, y, hy, hcls⟩ := b.scrubLog_leaves g (u := g) (by rw [hbad]; simp)
  refine ⟨b.scrubLog g, yields_scrub s ctl ((scrub_on s ctl g hon hf ho hg _).trans ?_), hin, hm.trans hmem, y,
    hy.trans (by rw [hev]), hcls⟩
  rw [hmet, hlist]
  rfl

end

/-! ### Repairs (R227, R228) -/

/-- A record of a repair keeps the lists of repairs and memory. -/
theorem Dev.repairLog_leaves (d : Dev) (a die blk : Nat) {cause : Nat} (i : ErrInfo) (hc : cause < 256) :
    ((d.bump a 1).dieErr die 0 blk 1 cause i).rowSaves = d.rowSaves ∧
      ((d.bump a 1).dieErr die 0 blk 1 cause i).bankCopies = d.bankCopies ∧
      ((d.bump a 1).dieErr die 0 blk 1 cause i).bankMap = d.bankMap ∧
      ((d.bump a 1).dieErr die 0 blk 1 cause i).mem = d.mem ∧
      ∃ y : Event, ((d.bump a 1).dieErr die 0 blk 1 cause i).events = d.events ++ [y] ∧ y.cls = 1 ∧
        y.detail % 256 = cause := by
  obtain ⟨y, hy, hcls, -, -, hdetail, -⟩ := (d.bump a 1).dieErr_events die 0 blk 1 cause i hc
  refine ⟨?_, ?_, ?_, (Dev.dieErr_frame _ _ _ _ _ _ _).1, y, hy, hcls, hdetail⟩ <;>
    simp [Dev.dieErr, Dev.logErr, Dev.raise, Dev.bump, Dev.setReg, clsDevice]

theorem liftAll_eq (f : Perm → Dev → Perm × Dev) (s : State) {p : Perm} {d : Dev} (h : f s.perm s.dev = (p, d)) :
    liftAll f s = .next { s with perm := p, dev := d } := by
  rw [liftAll, h]

section
variable (s : State) (ctl : BitVec 4) (r : MemLoc)

theorem exec_rowRepairDone (h : s.dev.rowSaves.find? (fun x => x.key == 8 + ctl.toNat) = some r) :
    ∃ d, exec (.rowRepairDone ctl) s = .next { s with
        perm := { s.perm with flash := { s.perm.flash with repairs := s.perm.flash.repairs ++ [.row r] } }, dev := d } ∧
      d.rowSaves = s.dev.rowSaves.erase r ∧ d.mem = s.dev.mem ∧
      ∃ y : Event, d.events = s.dev.events ++ [y] ∧ y.cls = 1 ∧ y.detail % 256 = 3 := by
  have hexec : exec (.rowRepairDone ctl) s = execRowRepairDone ctl s := rfl
  obtain ⟨hrow, -, -, hmem, hev⟩ := Dev.repairLog_leaves { s.dev with rowSaves := s.dev.rowSaves.erase r } (r.cnt 0x118)
    r.die r.blk (cause := 3) { addr := r.loc, spec := r.ch } (by decide)
  refine ⟨_, hexec.trans (liftAll_eq _ s ?_), hrow, hmem, hev⟩
  extract_lets key
  rw [h]
  rfl

theorem exec_bankCopyDone (h : s.dev.bankCopies.find? (fun x => x.key == 8 + ctl.toNat) = some r) :
    ∃ d, exec (.bankCopyDone ctl) s = .next { s with
        perm := { s.perm with flash := { s.perm.flash with repairs := s.perm.flash.repairs ++ [.bank r] } }, dev := d } ∧
      d.bankCopies = s.dev.bankCopies.erase r ∧ d.mem = s.dev.mem ∧ (∃ k, d.physBank r = spareBank r.ch k) ∧
      ∃ y : Event, d.events = s.dev.events ++ [y] ∧ y.cls = 1 ∧ y.detail % 256 = 4 := by
  have hexec : exec (.bankCopyDone ctl) s = execBankCopyDone ctl s := rfl
  obtain ⟨k, hk⟩ : ∃ k, (s.dev.bankMap.filter fun m => m.1 == r.key && m.2.2 % 2 ^ 48 == r.ch * 2 ^ 32).length = k :=
    ⟨_, rfl⟩
  obtain ⟨-, hcopies, hmap, hmem, hev⟩ := Dev.repairLog_leaves { s.dev with
      bankCopies := s.dev.bankCopies.erase r, bankMap := (r.key, r.bank, spareBank r.ch k) :: s.dev.bankMap }
    (r.cnt 0x120) r.die 8 (cause := 4) { addr := r.loc, spec := r.ch } (by decide)
  refine ⟨_, hexec.trans (liftAll_eq _ s ?_), hcopies, hmem, ⟨k, ?_⟩, hev⟩
  · extract_lets key
    rw [h, ← hk]
    rfl
  · unfold Dev.physBank
    rw [hmap]
    simp

end

/-! ### O29 -/

/-- Settles O29: a response by its requester, an error by the number of its symbols, a repair by its list. -/
theorem memoryResponsesAndRepair : Obligations.MemoryResponsesAndRepair := by
  unfold Obligations.MemoryResponsesAndRepair
  refine ⟨⟨fun s who bs hr hw hno => memoryResponse_ok s who hw bs hr hno,
      fun s t st bs i hst hw => ⟨fun hr hi => memoryResponse_vector s st hw t bs i hst hr hi,
        fun a ha hr hi => memoryResponse_array s st hw t bs i hst a ha hr hi⟩,
      fun s t n st x a hx hp hreg hin hsec hbl hw hr => memoryResponse_lands s st hw t n x a hx hp hreg hin hsec hbl hr⟩,
    fun s a u x g n again hu hx hr hg hunit hlo hhi hsec =>
      ⟨memoryRead_corrects s a u x g n hu hx hr hg hunit hlo hhi hsec,
        memoryRead_detects s a u x g n hu hx hr hg hunit hlo hhi hsec again⟩,
    corrects_detects, fun s ctl find reports => ?_, fun s ctl r => ⟨exec_rowRepairDone s ctl r, exec_bankCopyDone s ctl r⟩⟩
  intro key maint
  exact ⟨fun hoff => yields_scrub s ctl (if_pos hoff), fun g n hon hf hb ho hg =>
    ⟨yields_scrub_corrects s ctl g n hon hf hb ho hg, does_scrub_detects s ctl g n hon hf hb ho hg⟩⟩

end Sys2Proof.Machine

/-! The fast clear of a range of memory (R233 to R235), for O30. -/

namespace Sys2Proof.Machine

/-! ### Records that only log -/

/-- Everything but registers and what events and error records keep is as before. -/
def Dev.onlyLogs (d e : Dev) : Prop :=
  e = { d with regs := e.regs, events := e.events, errCounts := e.errCounts, pulses := e.pulses }

theorem Dev.onlyLogs_refl (d : Dev) : d.onlyLogs d := rfl

theorem Dev.onlyLogs.trans {d e f : Dev} (h : d.onlyLogs e) (h' : e.onlyLogs f) : d.onlyLogs f := by
  unfold Dev.onlyLogs at *
  rw [h', h]

theorem Dev.onlyLogs_setReg (d : Dev) (a v : Nat) : d.onlyLogs (d.setReg a v) := rfl

theorem Dev.onlyLogs_pulse (d : Dev) (src : Nat) : d.onlyLogs (d.pulse src) := by
  unfold Dev.pulse
  split
  · exact d.onlyLogs_setReg _ _
  · rfl

/-- A record that is no DEVICE error only logs. -/
theorem Dev.onlyLogs_logErr (d : Dev) (src unit blk cause : Nat) {cls : Nat} (i : ErrInfo) (h : cls ≠ clsDevice) :
    d.onlyLogs (d.logErr src unit blk cls cause i) := by
  have hcls : (cls == clsDevice) = false := beq_eq_false_iff_ne.mpr h
  have hne : (cls != clsDevice) = true := bne_iff_ne.mpr h
  unfold Dev.logErr
  extract_lets key n
  generalize cause + _ + _ + _ + _ + _ = detail
  have hp := Dev.onlyLogs_pulse { d with errCounts := put (fun _ => 0) d.errCounts key n } src
  unfold Dev.raise Dev.onlyLogs at *
  generalize Dev.pulse _ src = e at *
  rw [hp]
  simp only [if_neg h, hcls, hne, Bool.or_false, Bool.and_true]

/-! ### MSD_CLEAR_CTL -/

section
variable (d : Dev)

/-- BUSY and PENDING as a change of the clears leaves them. -/
theorem Dev.clearBits_leaves : d.clearBits.regF (clearAddr + 0x10) 1 1 = b2n d.clearRun.isSome ∧
    d.clearBits.regF (clearAddr + 0x10) 2 1 = b2n d.clearWait.isSome ∧ d.clearBits.mem = d.mem ∧
    d.clearBits.clearRun = d.clearRun ∧ d.clearBits.clearWait = d.clearWait ∧ d.clearBits.strikeRgn = d.strikeRgn := by
  have hbit (o : Option Clear) : b2n o.isSome % 2 ^ 1 = b2n o.isSome := by cases o <;> rfl
  unfold Dev.clearBits
  generalize clearAddr + 0x10 = a
  refine ⟨?_, ?_, rfl, rfl, rfl, rfl⟩
  · rw [Dev.regF_setRegF_apart _ _ (l := 2) (w := 1) (j := 1) (k := 1) _ (by decide) (by decide), Dev.regF_setRegF_self _ _ _ (by decide), hbit]
  · rw [Dev.regF_setRegF_self _ _ _ (by decide), hbit]

/-- Registers of the dies set in turn leave the others. -/
theorem Dev.reg_foldl_setReg_ne (f g v w : Nat → Nat) {a : Nat} (l : List Nat) (h : ∀ i, a ≠ f i ∧ a ≠ g i) (d : Dev) :
    (l.foldl (fun d i => (d.setReg (f i) (v i)).setReg (g i) (w i)) d).reg a = d.reg a := by
  induction l generalizing d with
  | nil => rfl
  | cons i l ih =>
    exact (ih _).trans ((Dev.reg_setReg_ne _ _ (h i).2).trans (Dev.reg_setReg_ne _ _ (h i).1))

theorem clearCtl_ne_dieReg {o : Nat} (h : o % 2 ^ 32 ≠ 0x110) (die : Nat) : clearAddr + 0x10 ≠ dieReg die o := by
  unfold clearAddr dieReg dieBase
  omega

/-- CLR_ERR is set by a refused clear, which clears nothing. -/
theorem Dev.refuseClear_leaves (q : MemReq) : (d.refuseClear q).regF (clearAddr + 0x10) 3 1 = 1 ∧
    (d.refuseClear q).mem = d.mem ∧ (d.refuseClear q).clearRun = d.clearRun ∧
    (d.refuseClear q).clearWait = d.clearWait := by
  have ha {o : Nat} (h : o % 2 ^ 32 ≠ 0x110) (die : Nat) := clearCtl_ne_dieReg h die
  have h200 := ha (o := 0x200) (by decide)
  have h208 := ha (o := 0x208) (by decide)
  have hcnt := ha (o := 0x1500_0008) (by decide)
  unfold Dev.refuseClear
  generalize clearAddr + 0x10 = a at *
  generalize clearAddr = b
  extract_lets lo
  obtain ⟨regs, hregs⟩ := Dev.foldl_setReg (fun die => dieReg die 0x200) (fun die => dieReg die 0x208)
    (fun _ => 5 + 6 * 2 ^ 8 + q.job * 2 ^ 12) (fun _ => lo) [2, 3, 4, 5] (d.setRegF a 3 1 1)
  have hreg := Dev.reg_foldl_setReg_ne (fun die => dieReg die 0x200) (fun die => dieReg die 0x208)
    (fun _ => 5 + 6 * 2 ^ 8 + q.job * 2 ^ 12) (fun _ => lo) [2, 3, 4, 5] (fun i => ⟨h200 i, h208 i⟩) (d.setRegF a 3 1 1)
  generalize List.foldl _ (d.setRegF a 3 1 1) [2, 3, 4, 5] = e at *
  have hlog : e.onlyLogs (e.dieErr 2 0 7 clsCorrected 5 { op := 6, addr := lo }) :=
    e.onlyLogs_logErr _ _ _ _ _ (by decide)
  refine ⟨?_, ?_, ?_, ?_⟩
  · rw [Dev.regF, Dev.reg_dieErr_ne _ _ _ _ _ _ _ hcnt, hreg]
    exact d.regF_setRegF_self a 1 (by decide)
  all_goals rw [hlog, hregs]; rfl

theorem Dev.startClear_leaves (c : Clear) : (d.startClear c).clearRun = some c ∧
    (d.startClear c).clearWait = d.clearWait ∧ (d.startClear c).regF (clearAddr + 0x10) 1 1 = 1 ∧
    ∀ i, look byte0 (d.startClear c).mem i = if c.lo ≤ i ∧ i < c.hi then 0 else look byte0 d.mem i := by
  obtain ⟨hbusy, -, hmem, hrun, hwait, -⟩ := Dev.clearBits_leaves { d.zero c.lo c.hi with clearRun := some c }
  exact ⟨hrun, hwait, hbusy, fun i => (congrArg (fun m => look byte0 m i) hmem).trans (look_zero d c.lo c.hi i)⟩

/-- No strike has regions left to clear. -/
theorem Dev.nextStrikeClear_none {d : Dev} (h : d.strikeRgn = []) : d.nextStrikeClear = d := by
  unfold Dev.nextStrikeClear
  rw [h]

theorem Dev.countClear_eq : ∃ regs, d.countClear = { d with regs := regs } :=
  d.foldl_bump (fun _ die => dieReg die 0x330) [2, 3, 4, 5]

end

/-! ### O30 -/

section
variable (s : State) (w u : Writer) (hu : s.acting w = some u)
include hu

theorem yields_clearGo {e : Dev} (h : s.dev.clearGo u = e) : Yields (.clearGo w) s e :=
  yields_lift (·.clearGo u) (asWriter_next w u _ s hu) h

variable (hb : clearBounds (s.dev.reg clearAddr) (s.dev.reg (clearAddr + 8)) = true)
  (hne : s.dev.reg clearAddr ≠ s.dev.reg (clearAddr + 8))
  (hsec : u.secure = true ∨ s.dev.memSecure (s.dev.reg clearAddr) (s.dev.reg (clearAddr + 8) - s.dev.reg clearAddr) = false)
include hb hne hsec

/-- A clear whose bounds are good, and which its writer may ask, starts, waits, or is refused (R233). -/
theorem yields_clearGo_asked {e : Dev} (h : (match s.dev.clearRun, s.dev.clearWait with
      | none, _ => s.dev.startClear { lo := s.dev.reg clearAddr, hi := s.dev.reg (clearAddr + 8) }
      | some _, none => Dev.clearBits { s.dev with
          clearWait := some { lo := s.dev.reg clearAddr, hi := s.dev.reg (clearAddr + 8) } }
      | some _, some _ => s.dev.setRegF (clearAddr + 0x10) 3 1 1) = e) : Yields (.clearGo w) s e := by
  refine yields_clearGo s w u hu ((if_neg (by rw [hb]; decide)).trans ((if_neg hne).trans ((if_neg ?_).trans h)))
  rcases hsec with h | h <;> simp [h]

end

/-- Settles O30: GO by its bounds, its writer's world and the clears that run or wait. -/
theorem fastClear : Obligations.FastClear := by
  unfold Obligations.FastClear
  refine ⟨fun s w u hu => ?_, fun s c hrun hrgn => ?_⟩
  · intro d lo hi
    refine ⟨fun hb => ?_, fun hb heq => ?_, fun hb hne hns hs => ?_, fun hb hne hsec =>
      ⟨fun hrun => ?_, fun hrun hwait => ?_, fun hrun hwait => ?_⟩⟩
    · exact ⟨_, yields_clearGo s w u hu (if_pos (by rw [hb]; decide)), d.refuseClear_leaves _⟩
    · obtain ⟨regs, h⟩ := d.countClear_eq
      refine ⟨_, yields_clearGo s w u hu ((if_neg (by rw [hb]; decide)).trans ((if_pos heq).trans h)), rfl, rfl⟩
    · obtain ⟨herr, hmem, -⟩ := d.refuseClear_leaves { d.memReq u with src := .clear }
      refine ⟨_, yields_clearGo s w u hu ((if_neg (by rw [hb]; decide)).trans ((if_neg hne).trans (if_pos ?_))), herr, hmem⟩
      rw [hns, hs]
      rfl
    · obtain ⟨hr, -, hbusy, hlook⟩ := d.startClear_leaves { lo := lo, hi := hi }
      refine ⟨_, yields_clearGo_asked s w u hu hb hne hsec ?_, hr, hbusy, hlook⟩
      rw [hrun]
    · obtain ⟨c, hc⟩ := Option.isSome_iff_exists.mp hrun
      obtain ⟨-, hpend, hmem, -, hw, -⟩ := Dev.clearBits_leaves { d with clearWait := some { lo := lo, hi := hi } }
      refine ⟨_, yields_clearGo_asked s w u hu hb hne hsec ?_, hw, hpend, hmem⟩
      conv_lhs => rw [hc, hwait]
    · obtain ⟨c, hc⟩ := Option.isSome_iff_exists.mp hrun
      obtain ⟨c', hc'⟩ := Option.isSome_iff_exists.mp hwait
      refine yields_clearGo_asked s w u hu hb hne hsec ?_
      rw [hc, hc']
  · obtain ⟨regs, hcount⟩ := Dev.countClear_eq { s.dev with clearRun := none, clearWait := none }
    refine ⟨fun x hwait => ?_, fun hwait hstrike => ?_⟩
    · obtain ⟨hr, hw, -, hlook⟩ := Dev.startClear_leaves { s.dev with clearRun := none, clearWait := none, regs := regs } x
      refine ⟨_, yields_lift (·.clearDone) rfl ?_, hr, hw, hlook⟩
      simp only [Dev.clearDone, hrun, hrgn, hwait, hcount]
    · obtain ⟨hbusy, -, hmem, hr, hw, hst⟩ :=
        Dev.clearBits_leaves { s.dev with clearRun := none, clearWait := none, regs := regs }
      refine ⟨_, yields_lift (·.clearDone) rfl ?_, hr, hw, hbusy, hmem⟩
      simp only [Dev.clearDone, hrun, hrgn, hwait, hcount]
      exact Dev.nextStrikeClear_none (hst.trans hstrike)

end Sys2Proof.Machine

/-! The end of a region's lowering (R239), for O31. -/

namespace Sys2Proof.Machine

/-- The lowering of region 0 is the last that the start of a job waits for. -/
def startWaits : Dev := { lowering := [(0, 0, 0, 0)], startWait := some ({}, 0, 0) }

/-- Whether a command leaves a job started on the device. -/
def startedAfter (o : Out) : Option Bool :=
  match o with
  | .next s => some s.dev.jobHere.isSome
  | _ => none

/-- Once the rest of its start has run, the job is here. -/
theorem Dev.isSome_jobHere_startRest (d : Dev) (j : Job) (k1 k2 : Word) : (d.startRest j k1 k2).jobHere.isSome = true :=
  rfl

/-- After the last lowering that it waits for, the start goes on. -/
theorem startedAfter_lowering : startedAfter (exec (.regionLowerDone 0) { dev := startWaits }) = some true := by
  have hexec : exec (.regionLowerDone 0) { dev := startWaits } = execRegionLowerDone 0 { dev := startWaits } := rfl
  rw [hexec, execRegionLowerDone, lift]
  exact congrArg some (Dev.isSome_jobHere_startRest _ _ _ _)

/-- Refutes O31: where the start of a job waits for the lowering, REGION_LOWER_DONE sets the job going besides putting
the entry in force (R239), and the statement leaves the rest of the device as before. -/
theorem not_regionWrites : ¬ Obligations.RegionWrites := by
  unfold Obligations.RegionWrites
  rintro ⟨-, h⟩
  have hy := congrArg startedAfter (h { dev := startWaits } 0 0 0 0 rfl)
  rw [startedAfter_lowering] at hy
  exact absurd hy (by decide)

end Sys2Proof.Machine

/-! MOVE and FILL of the movers, and the registers of a ring channel (R255 to R263, R467), for O32. -/

namespace Sys2Proof.Machine

/-! ### The queue of a mover -/

@[simp] theorem Dev.movQueue_modMov (d : Dev) (m : MoverId) (f : Queue → Queue) :
    (d.modMov m f).movQueue m = f (d.movQueue m) := by
  cases m with
  | tent t => exact d.queue_modQueue_self _ _ f
  | ring die ch => exact look_put_self _ _ _ _

@[simp] theorem Dev.movQueue_setReg (d : Dev) (m : MoverId) (a v : Nat) : (d.setReg a v).movQueue m = d.movQueue m := by
  cases m <;> rfl

theorem Dev.movQueue_issue (d : Dev) (t : TentId) (i : Issued) :
    ((d.issue t.toNat 8 i).movQueue (.tent t)).flight = (d.movQueue (.tent t)).flight ++ [i] := by
  rw [Dev.issue, Dev.movQueue, Dev.queue_modQueue_self]
  rfl

theorem getElem?_concat_length {α : Type} (xs : List α) (x : α) : (xs ++ [x])[xs.length]? = some x := by simp

theorem dropNth_concat_length {α : Type} (xs : List α) (x : α) : dropNth (xs ++ [x]) xs.length = xs := by
  simp [dropNth]

theorem getElem?_setNth {α : Type} {xs : List α} {k : Nat} (x : α) (h : xs[k]?.isSome = true) :
    (setNth xs k x)[k]? = some x := by
  have hk : k < xs.length := by simpa using h
  simp [setNth, hk]

/-! ### The run of a command in flight -/

/-- A command in flight whose work ends: done, with what its work gave, `f` its writes sent. -/
def Issued.ended (i : Issued) (d : Dev) (x : EngS) (sent : List Nat) : Issued :=
  { i with flags := x.flags, stage := [], want := none, acks := x.acks ++ sent, done := true, moving := false
           outs := [], olds := d.wordsLost x.dev }

section
variable (d : Dev) (o : Owner) (c : Carry) {i : Issued} (hstage : i.stage = []) (send : Dev → List OutW → List Nat × Dev)
  (put : Issued → Dev → Dev) (fault : Nat → Nat → Dev → Dev) {work : Eng Unit}
include hstage

theorem Dev.runIssued_ends {x : EngS} (hx : workEnds work d = some x) :
    d.runIssued o c i none send put fault work = put (i.ended d x (send x.dev x.out).1) (send x.dev x.out).2 := by
  unfold workEnds at hx
  rw [Dev.runIssued, hstage]
  split at hx
  · next hrun =>
    obtain rfl := Option.some.inj hx
    rw [hrun]
    simp only [Option.getD_none, List.take_length, List.drop_length]
    rfl
  · cases hx

theorem Dev.runIssued_faults {cause addr : Nat} {e : Dev} (hx : workFaults work d = some (cause, addr, e)) :
    d.runIssued o c i none send put fault work = fault cause addr e := by
  unfold workFaults at hx
  rw [Dev.runIssued, hstage]
  split at hx
  · next hrun =>
    obtain ⟨rfl, rfl, rfl⟩ := Prod.mk.injEq .. ▸ Option.some.inj hx
    rw [hrun]
  · cases hx

end

section
variable (d : Dev) (p : Perm) (m : MoverId) {k : Nat} {i : Issued} (hk : (d.movQueue m).flight[k]? = some i)
  (hstage : i.stage = [])
include hk hstage

/-- Work that ends: its writes are sent, the command is done, and transfers that need no more answers end. -/
theorem Dev.movRun_ends {x : EngS} (hx : workEnds (moverWork p m i d) d = some x)
    (hleft : ((moverSent m i d x).2.movQueue m).flight[k]?.isSome = true) :
    d.movRun p m k = (i.ended d x (moverSent m i d x).1).acks.foldl Dev.mcCheck
      ((moverSent m i d x).2.modMov m fun y =>
        { y with flight := setNth y.flight k (i.ended d x (moverSent m i d x).1) }) := by
  rw [Dev.movRun]
  simp -zeta only [hk]
  extract_lets grp e carry send store d1
  have hsent : send x.dev x.out = moverSent m i d x := rfl
  have hd1 : d1 = store (i.ended d x (send x.dev x.out).1) (send x.dev x.out).2 :=
    d.runIssued_ends _ _ hstage _ _ _ hx
  rw [hd1, hsent]
  unfold store
  rw [Dev.movQueue_modMov, getElem?_setNth _ hleft]

theorem Dev.movRun_faults {c o : Nat} {e : Dev} (hx : workFaults (moverWork p m i d) d = some (c, o, e))
    (hgone : ((e.movFail m k c o).movQueue m).flight[k]? = none) : d.movRun p m k = e.movFail m k c o := by
  rw [Dev.movRun]
  simp -zeta only [hk]
  extract_lets grp e' carry send store d1
  have hd1 : d1 = e.movFail m k c o := d.runIssued_faults _ _ hstage _ _ _ hx
  rw [hd1, hgone]

end

/-! ### Issue -/

/-- A row of a mover that is named runs the mover's commands of its opcode. -/
theorem moverRows_exec : ∀ r ∈ moverRows, ∀ (m : MoverId) (s : State), movNamed m = true →
    exec (r.1 m) s = liftBus (fun p d => d.movExec p m r.2) s := by
  simp only [moverRows, List.forall_mem_cons, List.not_mem_nil, false_implies, implies_true, and_true]
  refine ⟨fun m s hm => ?_, fun m s hm => ?_⟩
  · change liftBus (fun p d => if movNamed m then d.movExec p m 1 else d) s = _
    simp only [hm, if_true]
  · change liftBus (fun p d => if movNamed m then d.movExec p m 2 else d) s = _
    simp only [hm, if_true]

section
variable (d : Dev) (p : Perm) {op : Nat}

/-- With nothing held, the command that issues runs. -/
theorem Dev.movExec_issues {m : MoverId} {d1 d2 : Dev} (hhalted : d.halted = false) (hretry : d.movRetry m op = none)
    (hissue : d.movIssue p m op = (some d1, d2)) :
    d.movExec p m op = d1.movRun p m ((d1.movQueue m).flight.length - 1) := by
  simp [Dev.movExec, hhalted, hretry, hissue]

theorem Dev.movIssue_tent {t : TentId} {c : Cmd} {ds : List Byte} (hhead : d.movHead t.toNat op = some c)
    (hfence : cmdFence c = true → (d.movQueue (.tent t)).flight = [])
    (hds : (tentDescs t.toNat c).run { dev := d } = (.ok ds, { dev := d })) :
    d.movIssue p (.tent t) op = (some (d.issue t.toNat 8 { cmd := c, descs := ds, done := false }), d) := by
  have hgo : ¬(cmdFence c ∧ (d.movQueue (.tent t)).flight ≠ []) := fun h => h.2 (hfence h.1)
  simp only [Dev.movIssue, hhead, if_neg hgo, hds]

theorem Dev.movIssue_ring {die : BitVec 3} {ch : BitVec 4} {c : Cmd} {bs : List Byte} {d1 : Dev}
    (hhead : d.ringHead p (.ring die ch) die.toNat ch.toNat = (some (c, bs), d1)) (hop : cmdOp c = op)
    (hfence : cmdFence c = true → (d.movQueue (.ring die ch)).flight = []) :
    d.movIssue p (.ring die ch) op = (some ((d1.setReg (ringReg die.toNat ch.toNat 0xC)
      ((d1.reg (ringReg die.toNat ch.toNat 0xC) + 1) % 2 ^ 32)).modMov (.ring die ch) fun x =>
        { x with flight := x.flight ++ [{ cmd := c, descs := bs.drop 32, done := false }] }), d) := by
  have hgo : ¬(cmdOp c ≠ op ∨ (cmdFence c ∧ (d.movQueue (.ring die ch)).flight ≠ [])) := by
    rintro (h | h)
    · exact h hop
    · exact h.2 (hfence h.1)
  simp only [Dev.movIssue, hhead, if_neg hgo]

end

/-! ### A fault of a tent mover -/

theorem movReg_lt_dieBase {t o : Nat} (ht : t < 16384) (ho : o < 0x100) : movReg t o < dieBase :=
  tentReg_lt_dieBase ht (by omega)

/-- A fault recorded, its place put in a register, and a queue stopped without the commands that wait. -/
theorem Dev.stopAt_leaves (d : Dev) (t q a w : Nat) (e : ErrPlace) (c : Cmd) (cause addr : Nat) :
    let f := (((d.recordFault t e c cause addr).setReg a addr).modQueue t q fun x =>
      { x with stopped := true, entries := [], waiting := false }).dropWaits t w
    f.warmAsked = d.warmAsked ∧
      f.queue t q = { d.queue t q with stopped := true, entries := [], waiting := false } ∧ f.reg a = addr % 2 ^ 64 ∧
      ∃ y : Event, f.events = d.events ++ [y] ∧ y.cls = 2 ∧ y.code = 0x400 + e.blk ∧ y.detail % 256 = cause % 256 := by
  obtain ⟨y, hy, hy'⟩ := d.recordFault_events t e c cause addr
  refine ⟨?_, ?_, ?_, y, ?_, hy'⟩
  · simp [Dev.dropWaits, Dev.modTent, Dev.modQueue, Dev.setQueue, Dev.recordFault, Dev.tentErr]
  · have hq : ((d.recordFault t e c cause addr).setReg a addr).queue t q = d.queue t q := d.queue_recordFault t q e c cause addr
    rw [Dev.dropWaits, Dev.queue_modTent _ _ _ rfl, Dev.queue_modQueue_self, hq]
  · rw [Dev.dropWaits, Dev.reg_modTent, Dev.reg_modQueue, Dev.reg_setReg_self]
  · rw [← hy]
    simp [Dev.dropWaits]

/-- What a fault of a tent mover leaves: its queue stopped, without the commands that wait, MOV_ADDR, and one record
of block 0x0A. -/
theorem Dev.movFaultTent_leaves (d : Dev) (t : Nat) (c : Cmd) (cause addr : Nat) :
    let f := d.movFaultTent t c cause addr
    f.warmAsked = d.warmAsked ∧
      f.queue t 8 = { d.queue t 8 with stopped := true, entries := [], waiting := false } ∧
      f.reg (movReg t 0x10) = addr % 2 ^ 64 ∧
      ∃ y : Event, f.events = d.events ++ [y] ∧ y.cls = 2 ∧ y.code = 0x40A ∧ y.detail % 256 = cause % 256 :=
  d.stopAt_leaves t 8 (movReg t 0x10) 12 (movErr t) c cause addr

/-- Command k in flight of a tent mover faults: the same, and it has left the flight. -/
theorem Dev.movFail_leaves (d : Dev) (t : TentId) {k : Nat} {i : Issued} (cause addr : Nat)
    (hk : (d.queue t.toNat 8).flight[k]? = some i) :
    let f := d.movFail (.tent t) k cause addr
    f.warmAsked = d.warmAsked ∧ (f.queue t.toNat 8).entries = [] ∧ (f.queue t.toNat 8).stopped = true ∧
      (f.queue t.toNat 8).flight = dropNth (d.queue t.toNat 8).flight k ∧
      f.reg (movReg t.toNat 0x10) = addr % 2 ^ 64 ∧
      ∃ y : Event, f.events = d.events ++ [y] ∧ y.cls = 2 ∧ y.code = 0x40A ∧ y.detail % 256 = cause % 256 := by
  intro f
  have hf : f = ((d.modQueue t.toNat 8 fun x => { x with flight := dropNth x.flight k }).undefDest
      (descOf (i.descs.drop 64))).movFaultTent t.toNat i.cmd cause addr := by
    unfold f Dev.movFail
    simp only [Dev.movQueue, hk]
    rfl
  obtain ⟨-, htents, hevents, hwarm, -⟩ := (Dev.onlyMemory_undefDest
    (d.modQueue t.toNat 8 fun x => { x with flight := dropNth x.flight k }) (descOf (i.descs.drop 64))).frame
  obtain ⟨hwarm', hqueue, haddr, y, hy, hy'⟩ := Dev.movFaultTent_leaves ((d.modQueue t.toNat 8 fun x =>
    { x with flight := dropNth x.flight k }).undefDest (descOf (i.descs.drop 64))) t.toNat i.cmd cause addr
  rw [Dev.queue_of_tents htents, Dev.queue_modQueue_self] at hqueue
  rw [hf]
  refine ⟨hwarm'.trans (hwarm.trans ?_), ?_, ?_, ?_, haddr, y, ?_, hy'⟩
  · simp [Dev.modQueue, Dev.setQueue, Dev.modTent]
  · rw [hqueue]
  · rw [hqueue]
  · rw [hqueue]
  · rw [hy, hevents]
    simp


/-! ### The registers of a ring channel -/

theorem ringReg_ne_merged {die ch o : Nat} (hch : ch < 16) (ho : o < 0x100) (n : Nat) :
    ringReg die ch o ≠ dieReg n 0x1500_0008 := by
  unfold ringReg dieReg
  split <;> omega

section
variable (d : Dev) (die ch : Nat) {v : Nat}

/-- While the channel is off, CTL takes what is written beside EN, and clears STOPPED and CAUSE unless it asks for EN. -/
def Dev.ctlSettled (d : Dev) (a v : Nat) : Dev :=
  if bitAt v 0 then d.setRegF a 1 17 (v / 2) else (d.setRegF a 1 17 (v / 2)).setRegF a 18 9 0

theorem Dev.ctlSettled_leaves (a : Nat) : (d.ctlSettled a v).mem = d.mem ∧
    (d.ctlSettled a v).regF a 1 17 = v / 2 % 2 ^ 17 ∧ (d.ctlSettled a v).regF a 0 1 = d.regF a 0 1 ∧
    (bitAt v 0 = true → (d.ctlSettled a v).regF a 18 1 = d.regF a 18 1) ∧
    (bitAt v 0 = false → (d.ctlSettled a v).regF a 18 9 = 0) := by
  have hself := d.regF_setRegF_self a (l := 1) (w := 17) (v / 2) (by omega)
  have hen := d.regF_setRegF_apart a (l := 1) (w := 17) (j := 0) (k := 1) (v / 2) (by omega) (by omega)
  have hstop := d.regF_setRegF_apart a (l := 1) (w := 17) (j := 18) (k := 1) (v / 2) (by omega) (by omega)
  have hmem := (d.setRegF_frame a 1 17 (v / 2)).1
  unfold Dev.ctlSettled
  generalize d.setRegF a 1 17 (v / 2) = e at *
  cases bitAt v 0 with
  | true => exact ⟨hmem, hself, hen, fun _ => hstop, nofun⟩
  | false =>
    exact ⟨hmem, (e.regF_setRegF_apart a 0 (by omega) (by omega)).trans hself,
      (e.regF_setRegF_apart a 0 (by omega) (by omega)).trans hen, nofun, fun _ => e.regF_setRegF_self a 0 (by omega)⟩

/-- A write of CTL by a secure requester while the channel is off. -/
theorem Dev.ringCtl_off {u : Writer} (hu : u.secure = true) (hoff : d.ringOn die ch = false) :
    let e := d.ctlSettled (ringReg die ch 8) v
    d.ringCtl u die ch v =
      if bitAt v 0 && (decide (4 ≤ field v 1 4) && decide (field v 1 4 ≤ 12)) && !e.ringStopped die ch then
        e.setRegF (ringReg die ch 8) 0 1 1
      else if bitAt v 0 then e.ringRefused die ch 8 0x30 else e := by
  have hsec : ¬(!u.secure) = true := by simp [hu]
  have hon : ¬d.ringOn die ch = true := by simp [hoff]
  exact (if_neg hsec).trans (if_neg hon)

/-- Then every field but EN, STOPPED and CAUSE takes what is written; EN written 0 leaves the channel off with STOPPED
and CAUSE clear; EN written 1 turns it on where SIZE is one that a ring may have and the channel has not stopped. -/
theorem Dev.ringCtl_leaves {u : Writer} (hch : ch < 16) (hu : u.secure = true) (hoff : d.ringOn die ch = false) :
    let e := d.ringCtl u die ch v
    e.regF (ringReg die ch 8) 1 17 = v / 2 % 2 ^ 17 ∧ e.mem = d.mem ∧
      (bitAt v 0 = false → e.ringOn die ch = false ∧ e.regF (ringReg die ch 8) 18 9 = 0) ∧
      (bitAt v 0 = true → d.ringStopped die ch = false →
        (e.ringOn die ch = true ↔ 4 ≤ field v 1 4 ∧ field v 1 4 ≤ 12)) := by
  intro f
  have hf : f = _ := d.ringCtl_off die ch hu hoff
  have hne := ringReg_ne_merged (die := die) hch (o := 8) (by decide)
  unfold Dev.ringOn Dev.ringStopped Dev.ringRefused at *
  generalize ringReg die ch 8 = a at *
  obtain ⟨hmem, hself, hen, hstop, hclear⟩ := d.ctlSettled_leaves (v := v) a
  generalize d.ctlSettled a v = e at *
  rw [hf]
  cases hb : bitAt v 0 with
  | false =>
    simp only [Bool.false_and, Bool.false_eq_true, if_false]
    exact ⟨hself, hmem, fun _ => ⟨by rw [hen, hoff], hclear hb⟩, nofun⟩
  | true =>
    simp only [Bool.true_and, if_true]
    split
    · next hok =>
      simp only [Bool.and_eq_true, decide_eq_true_eq, Bool.not_eq_true'] at hok
      refine ⟨(e.regF_setRegF_apart a 1 (by omega) (by omega)).trans hself, (e.setRegF_frame a 0 1 1).1.trans hmem, nofun, fun _ _ => ?_⟩
      simp [e.regF_setRegF_self a 1 (l := 0) (w := 1) (by omega), hok.1]
    · next hno =>
      have hregF : ∀ l w, (e.dieErr die ch 0x0A clsCorrected 0x30 { addr := a }).regF a l w = e.regF a l w :=
        fun l w => congrArg (field · l w) (e.reg_dieErr_ne _ _ _ _ _ _ hne)
      refine ⟨(hregF 1 17).trans hself, (e.dieErr_frame ..).1.trans hmem, nofun, fun _ hns => ?_⟩
      have hnotOk : ¬(4 ≤ field v 1 4 ∧ field v 1 4 ≤ 12) := by simpa [hstop hb, hns] using hno
      simp [hregF, hen, hoff, hnotOk]

end


/-- MOVE and FILL at a mover: the command that issues runs, and its work ends. -/
theorem yields_moverRow {r : (MoverId → Instr) × Nat} (hr : r ∈ moverRows) {m : MoverId} {s : State}
    {d d2 : Dev} {k : Nat} {i : Issued} {x : EngS} (hm : movNamed m = true) (hhalted : s.dev.halted = false)
    (hretry : s.dev.movRetry m r.2 = none) (hissue : s.dev.movIssue s.perm m r.2 = (some d, d2))
    (hlast : (d.movQueue m).flight.length - 1 = k) (hk : (d.movQueue m).flight[k]? = some i)
    (hnew : i = { cmd := i.cmd, descs := i.descs, done := false })
    (hx : workEnds (moverWork s.perm m i d) d = some x)
    (hsame : ((moverSent m i d x).2.movQueue m).flight[k]? = some i) (hw : (moverDone m k i d x).warmAsked = false) :
    Yields (r.1 m) s (moverDone m k i d x) := by
  have hended : ∀ sent, i.ended d x sent =
      { i with flags := x.flags, acks := x.acks ++ sent, done := true, olds := d.wordsLost x.dev } := by
    intro sent
    rw [hnew]
    rfl
  have hrun := d.movRun_ends s.perm m hk (by rw [hnew]) hx (by rw [hsame]; rfl)
  rw [hended] at hrun
  exact yields_liftBus _ (moverRows_exec r hr m s hm)
    ((s.dev.movExec_issues s.perm hhalted hretry hissue).trans (by rw [hlast]; exact hrun)) hw

section
variable (d : Dev) (die ch v : Nat) {u : Writer}

/-- A non-secure write of a register of the channel is refused. -/
theorem Dev.ringWrite_nonsecure (h : u.secure = false) : d.ringBase u die ch v = d.ringRefused die ch 0 0x31 ∧
    d.ringCtl u die ch v = d.ringRefused die ch 8 0x31 := by
  simp [Dev.ringBase, Dev.ringCtl, h]

/-- While the channel is on, only a write of EN = 0 acts. -/
theorem Dev.ringWrite_on (h : u.secure = true) (hon : d.ringOn die ch = true) :
    d.ringBase u die ch v = d.ringRefused die ch 0 0x30 ∧
      (bitAt v 0 = true → d.ringCtl u die ch v = d.ringRefused die ch 8 0x30) ∧
      (bitAt v 0 = false → d.ringCtl u die ch v =
        (d.setRegF (ringReg die ch 8) 0 1 0).setRegF (ringReg die ch 8) 18 9 0) := by
  refine ⟨by simp [Dev.ringBase, h, hon], fun hb => ?_, fun hb => ?_⟩ <;> simp [Dev.ringCtl, h, hon, hb]

theorem Dev.ringBase_off (h : u.secure = true) (hoff : d.ringOn die ch = false) :
    d.ringBase u die ch v = d.setReg (ringReg die ch 0) (v / 64 * 64) := by
  simp [Dev.ringBase, h, hoff]

end

/-- A command of a row that changes a ring's registers. -/
theorem yields_ringCtl {s : State} {die : BitVec 3} {ch : BitVec 4} {w u : Writer} {v : Word} {e : Dev} (base : Bool)
    (hu : s.acting w = some u) (hdie : ringDie die.toNat = true)
    (he : (if base then s.dev.ringBase u die.toNat ch.toNat v.toNat else s.dev.ringCtl u die.toNat ch.toNat v.toNat) = e) :
    Yields (.ringCtlWrite die ch w base v) s e := by
  have hexec : exec (.ringCtlWrite die ch w base v) s = asWriter w (fun w => lift fun x =>
    if !ringDie die.toNat then x
    else if base then x.ringBase w die.toNat ch.toNat v.toNat
    else x.ringCtl w die.toNat ch.toNat v.toNat) s := rfl
  rw [asWriter_next _ _ _ _ hu] at hexec
  exact yields_lift _ hexec ((if_neg (by simp [hdie])).trans he)

/-- Settles O32: a command by how its work ends, then each register of a ring by its writer and the state of the channel. -/
theorem moversAndRings : Obligations.MoversAndRings := by
  unfold Obligations.MoversAndRings
  refine ⟨fun r hr s hhalted => ⟨?_, ?_⟩, ?_⟩
  · intro t c ds m i d k hretry hhead hfence hds
    have hissue := s.dev.movIssue_tent s.perm hhead (fun h => List.length_eq_zero_iff.mp (hfence h)) hds
    have hflight : (d.movQueue m).flight = (s.dev.movQueue m).flight ++ [i] := s.dev.movQueue_issue t i
    have hlast : (d.movQueue m).flight.length - 1 = k := by simp [hflight, k]
    have hk : (d.movQueue m).flight[k]? = some i := by rw [hflight]; exact getElem?_concat_length _ i
    constructor
    · intro x hx hsame hw
      exact yields_moverRow hr rfl hhalted hretry hissue hlast hk rfl hx hsame hw
    · intro n o e hx hw he
      have hke : (e.queue t.toNat 8).flight[k]? = some i := by
        rw [← hk, ← he]
        rfl
      obtain ⟨hwarm, hentries, hstopped, hdropped, haddr, -⟩ := e.movFail_leaves t n o hke
      have hgone : ((e.movFail m k n o).movQueue m).flight[k]? = none := by
        have hout : ((e.movFail m k n o).movQueue m).flight = (s.dev.movQueue m).flight := by
          rw [← dropNth_concat_length (s.dev.movQueue m).flight i, ← hflight, ← he]
          exact hdropped
        rw [hout]
        simp [k]
      have hfaults : s.dev.movExec s.perm m r.2 = e.movFail m k n o :=
        (s.dev.movExec_issues s.perm hhalted hretry hissue).trans
          (by rw [hlast]; exact d.movRun_faults s.perm m hk rfl hx hgone)
      exact ⟨_, yields_liftBus _ (moverRows_exec r hr m s rfl) hfaults (hwarm.trans hw), hentries, hstopped, hdropped, haddr⟩
  · intro die ch c bs d1 m i a d k hdie hretry hhead hop hfence x hx hsame hw
    have hissue := s.dev.movIssue_ring s.perm hhead hop hfence
    have hflight : (d.movQueue m).flight = (d1.movQueue m).flight ++ [i] := by
      unfold d
      rw [Dev.movQueue_modMov, Dev.movQueue_setReg]
    have hlast : (d.movQueue m).flight.length - 1 = k := by simp [hflight, k]
    have hk : (d.movQueue m).flight[k]? = some i := by rw [hflight]; exact getElem?_concat_length _ i
    exact yields_moverRow hr hdie hhalted hretry hissue hlast hk rfl hx hsame hw
  · intro s die ch w u hu hdie d a log
    refine ⟨fun v => ?_, fun hsec v => ⟨?_, ?_⟩, fun hsec hon v => ⟨?_, fun hb => ?_, fun hb => ?_⟩,
      fun hsec hoff v => ⟨?_, _, yields_ringCtl false hu hdie rfl, ?_⟩⟩
    · have hexec : exec (.ringDoorbell die ch w v) s = asWriter w (fun _ => lift fun x =>
          if ringDie die.toNat then x.ringTail die.toNat ch.toNat v.toNat else x) s := rfl
      rw [asWriter_next _ _ _ _ hu] at hexec
      refine yields_lift _ hexec ((if_pos hdie).trans ?_)
      rw [Dev.ringTail, Nat.mod_eq_of_lt v.isLt]
    · exact yields_ringCtl true hu hdie (d.ringWrite_nonsecure _ _ _ hsec).1
    · exact yields_ringCtl false hu hdie (d.ringWrite_nonsecure _ _ _ hsec).2
    · exact yields_ringCtl true hu hdie (d.ringWrite_on _ _ _ hsec hon).1
    · exact yields_ringCtl false hu hdie ((d.ringWrite_on _ _ _ hsec hon).2.1 hb)
    · exact yields_ringCtl false hu hdie ((d.ringWrite_on _ _ _ hsec hon).2.2 hb)
    · exact yields_ringCtl true hu hdie (d.ringBase_off _ _ _ hsec hoff)
    · exact d.ringCtl_leaves die.toNat ch.toNat ch.isLt hsec hoff

end Sys2Proof.Machine

/-! What the work of a mover leaves of the acknowledgements it awaits; accumulating writes into a tent, and commands that
wait on a MOVING plot entry (R248, R253), for O33. -/

namespace Sys2Proof.Machine

/-! ### Work that awaits no acknowledgement of its own -/

/-- The work awaits no acknowledgement beside those it began with. -/
def Eng.noAcks {α : Type} (w : Eng α) : Prop := ∀ x, (w.run x).2.acks = x.acks

namespace Eng.noAcks
variable {α β : Type} {w : Eng α} {f : α → Eng β}

theorem bind (hw : w.noAcks) (hf : ∀ v, (f v).noAcks) : Eng.noAcks (w >>= f) := by
  intro x
  rw [Eng.run_bind]
  have hwx := hw x
  cases hrun : w.run x with
  | mk r y =>
    rw [hrun] at hwx
    cases r with
    | error e => exact hwx
    | ok v => exact (hf v y).trans hwx

theorem pure (v : α) : Eng.noAcks (Pure.pure v : Eng α) := fun _ => rfl
theorem throw (e : Stop) : Eng.noAcks (MonadExcept.throw e : Eng α) := fun _ => rfl
theorem failWith (c a : Nat) : Eng.noAcks (failWith c a : Eng α) := fun _ => rfl
theorem ask (f : Dev → α) : (askDev f).noAcks := fun _ => rfl
theorem get : Eng.noAcks (MonadState.get : Eng EngS) := fun _ => rfl
theorem onDev (f : Dev → Dev) : (onDev f).noAcks := fun _ => rfl
theorem modify {g : EngS → EngS} (h : ∀ s, (g s).acks = s.acks) : Eng.noAcks (modify g : Eng PUnit) := fun s => h s

theorem ite {c : Prop} [Decidable c] {v : Eng α} (hw : w.noAcks) (hv : v.noAcks) : Eng.noAcks (if c then w else v) := by
  split
  · exact hw
  · exact hv

theorem need (ok : Bool) (c a : Nat) : (need ok c a).noAcks := ite (pure _) (failWith _ _)

theorem mapM (h : ∀ a, (f a).noAcks) (as : List α) : (as.mapM f).noAcks := by
  induction as with
  | nil => exact pure _
  | cons a as ih =>
    rw [List.mapM_cons]
    exact (h a).bind fun _ => ih.bind fun _ => pure _

theorem forM {f : α → Eng PUnit} (h : ∀ a, (f a).noAcks) (as : List α) : (as.forM f).noAcks := by
  induction as with
  | nil => exact pure _
  | cons a as ih => exact (h a).bind fun _ => ih

theorem map (g : α → β) (hw : w.noAcks) : Eng.noAcks (g <$> w) := by
  rw [map_eq_pure_bind]
  exact hw.bind fun _ => pure _

/-- A check within work: where it fails the work stops, and else goes on. -/
theorem check {c : Prop} [Decidable c] {v : Eng PUnit} {k : PUnit → Eng β} (hv : v.noAcks) (hk : ∀ u, (k u).noAcks) :
    Eng.noAcks (if c then v >>= k else k ()) := ite (hv.bind hk) (hk ())

/-- The same where a failure is logged. -/
theorem checkLog {c : Prop} [Decidable c] {u v : Eng PUnit} {k : PUnit → Eng β} (hu : u.noAcks) (hv : v.noAcks)
    (hk : ∀ u, (k u).noAcks) : Eng.noAcks (if c then u >>= fun _ => v >>= k else k ()) :=
  ite (hu.bind fun _ => hv.bind hk) (hk ())

/-- Either of two parts, and then the rest. -/
theorem choose {c : Prop} [Decidable c] {u v : Eng α} {k : α → Eng β} (hu : u.noAcks) (hv : v.noAcks)
    (hk : ∀ a, (k a).noAcks) : Eng.noAcks (if c then u >>= k else v >>= k) :=
  ite (hu.bind hk) (hv.bind hk)

end Eng.noAcks

theorem noAcks_padCheck (p : PadPort) (o n : Nat) : (padCheck p o n).noAcks :=
  .bind (.need _ _ _) fun _ => .bind (.ask _) fun _ => .check (.throw _) fun _ =>
    .bind (.ask _) fun _ => .ite (.bind (.onDev _) fun _ => .failWith _ _) (.pure _)

theorem noAcks_padRead (p : PadPort) (o n : Nat) : (padRead p o n).noAcks :=
  .bind (noAcks_padCheck p o n) fun _ => .bind (.onDev _) fun _ => .bind (.ask _) fun _ =>
    .checkLog (.onDev _) (.failWith _ _) fun _ => .ite (.ask _) (.bind (.ask _) fun _ => .bind (.onDev _) fun _ => .pure _)

theorem noAcks_padWrite (p : PadPort) (o : Nat) (bs : List Byte) : (padWrite p o bs).noAcks :=
  .bind (noAcks_padCheck p o _) fun _ => .bind (.onDev _) fun _ => .bind (.ask _) fun _ => .bind (.onDev _) fun _ =>
    .ite (.bind (.onDev _) fun _ => .failWith _ _) (.pure _)

/-! ### Accesses at camp addresses -/

theorem noAcks_fetched (sec : Bool) (x n : Nat) : (fetched sec x n).noAcks := by
  refine .bind .get fun s => ?_
  split
  · exact .pure _
  · exact .throw _

theorem noAcks_remoteRead (sec : Bool) (x n : Nat) : (remoteRead sec x n).noAcks :=
  .bind (.mapM (fun _ => noAcks_fetched _ _ _) _) fun _ => .bind .get fun _ => .pure _

theorem noAcks_remoteWrite (sec : Bool) (acc : Option Nat) (x : Nat) (bs : List Byte) : (remoteWrite sec acc x bs).noAcks := by
  refine .modify fun s => ?_
  extract_lets s0 split
  split
  · rfl
  · split
    · split
      · rfl
      · split <;> rfl
    · rfl

theorem noAcks_ok (r : Reach) (status a : Nat) : (r.ok status a).noAcks := .need _ _ _

theorem noAcks_read (r : Reach) (x n : Nat) : (r.read x n).noAcks := by
  refine .bind (.ask _) fun p => ?_
  split
  · exact .failWith _ _
  · exact noAcks_remoteRead _ _ _
  · refine .bind (.ask _) fun _ => .check (.throw _) fun _ => ?_
    split
    · exact noAcks_padRead _ _ _
    · exact .bind (.bind (.need _ _ _) fun _ => .bind (.ask _) fun _ => .need _ _ _) fun _ => .bind (.onDev _) fun _ =>
        .bind (.ask _) fun _ => .bind (.need _ _ _) fun _ => .bind (.ask _) fun _ => .bind (.onDev _) fun _ => .pure _
    · exact .bind (.need _ _ _) fun _ => .bind (.ask _) fun _ => .bind (.onDev _) fun _ => .bind (.need _ _ _) fun _ => .pure _
    · exact .bind (.need _ _ _) fun _ => .bind (.ask _) fun _ => .bind (.onDev _) fun _ => .bind (.need _ _ _) fun _ => .pure _
    · exact .bind (.ask _) fun _ => .bind (.onDev _) fun _ => .bind (.need _ _ _) fun _ => .pure _

theorem noAcks_write (r : Reach) (x : Nat) (bs : List Byte) : (r.write x bs).noAcks := by
  refine .bind (.ask _) fun p => ?_
  split
  · exact .failWith _ _
  · exact noAcks_remoteWrite _ _ _ _
  · refine .bind (.ask _) fun _ => .check (.throw _) fun _ => ?_
    split
    · exact noAcks_padWrite _ _ _
    · exact .bind (.bind (.need _ _ _) fun _ => .bind (.ask _) fun _ => .need _ _ _) fun _ => .bind (.onDev _) fun _ =>
        .bind (.ask _) fun _ => .bind (.onDev _) fun _ => .need _ _ _
    · exact .bind (.need _ _ _) fun _ => .bind (.ask _) fun _ => .bind (.onDev _) fun _ => .need _ _ _
    · exact .bind (.need _ _ _) fun _ => .bind (.ask _) fun _ => .bind (.onDev _) fun _ => .need _ _ _
    · exact .bind (.ask _) fun _ => .bind (.onDev _) fun _ => .need _ _ _

theorem noAcks_accum (r : Reach) (fmt x : Nat) (bs : List Byte) : (r.accum fmt x bs).noAcks := by
  refine .bind (.ask _) fun p => ?_
  split
  · exact .failWith _ _
  · exact .ite (noAcks_remoteWrite _ _ _ _) (.failWith _ _)
  · refine .bind (.ask _) fun _ => .check (.throw _) fun _ => ?_
    split
    · exact .bind (.ask _) fun _ => .check (.throw _) fun _ => .bind (.ask _) fun _ => .bind (.onDev _) fun _ => .need _ _ _
    · exact .bind (.need _ _ _) fun _ => .bind (.ask _) fun _ => .bind (.onDev _) fun _ => .need _ _ _
    · exact .bind (.need _ _ _) fun _ => .bind (.ask _) fun _ => .bind (.onDev _) fun _ => .need _ _ _
    · exact .failWith _ _

/-- Accesses that await no acknowledgement. -/
structure Via.noAcks (v : Via) : Prop where
  rd : ∀ x n, (v.rd x n).noAcks
  wr : ∀ x bs, (v.wr x bs).noAcks
  fin : v.fin.noAcks

section
variable {v : Via} (hv : v.noAcks)
include hv

theorem Via.noAcks.landPend : v.landPend.noAcks := by
  refine .bind .get fun s => ?_
  split
  · exact .bind (.modify fun _ => rfl) fun _ => hv.wr _ _
  · exact .pure _

theorem Via.noAcks.whole (adds : Bool) : (v.whole adds).noAcks where
  rd x n := by
    refine .bind (hv.rd x n) fun bs => .bind .get fun s => ?_
    split
    · exact .pure _
    · exact .pure _
  wr x bs := by
    refine .bind .get fun s => ?_
    split
    · exact .modify fun _ => rfl
    · exact .ite (.modify fun _ => rfl) (.ite (.modify fun _ => rfl) (.bind hv.landPend fun _ => .modify fun _ => rfl))
  fin := hv.landPend

end

theorem Reach.noAcks_via (r : Reach) : r.via.noAcks :=
  Via.noAcks.whole ⟨noAcks_read r, noAcks_write r, .pure _⟩ _

theorem Reach.noAcks_accVia (r : Reach) (fmt : Nat) : (r.accVia fmt).noAcks :=
  Via.noAcks.whole ⟨noAcks_read r, noAcks_accum r fmt, .pure _⟩ _

/-! ### Elements, sparse operands, and views -/

section
variable {v : Via} (hv : v.noAcks) (d : Desc)
include hv

theorem Via.noAcks.getBits (p : Int) (bits : Nat) : (v.getBits d p bits).noAcks :=
  .ite (.bind (hv.rd _ _) fun _ => .pure _) (.bind (hv.rd _ _) fun _ => .pure _)

theorem Via.noAcks.putBits (p : Int) (bits x : Nat) : (v.putBits d p bits x).noAcks :=
  .ite (.bind (hv.rd _ _) fun _ => hv.wr _ _) (hv.wr _ _)

theorem Via.noAcks.get (i : List Nat) : (v.get d i).noAcks := .bind (hv.getBits d _ _) fun _ => .pure _

theorem Via.noAcks.put (i : List Nat) (x : Nat) : (v.put d i x).noAcks := .forM (fun p => hv.putBits d p d.bits x) _

theorem Via.noAcks.scale (i : List Nat) : (v.scale d i).noAcks := by
  unfold Via.scale
  split
  · exact .bind (hv.rd _ _) fun _ => .pure _
  · exact .pure _

theorem Via.noAcks.putScale (i : List Nat) (x : Nat) : (v.putScale d i x).noAcks := by
  unfold Via.putScale
  split
  · exact hv.wr _ _
  · exact .pure _

theorem Via.noAcks.pad : (v.pad d).noAcks :=
  .ite (hv.wr _ _) (.ite (.forM (fun _ => .forM (fun _ => hv.put d _ 0) _) _) (.pure _))

theorem Via.noAcks.nat (o n : Nat) : (v.nat d o n).noAcks := .bind (hv.rd _ _) fun _ => .pure _

theorem Via.noAcks.bbmRun (r : Nat) : (v.bbmRun d r).noAcks := by
  refine .bind (.mapM (fun g => .bind (hv.nat d _ _) fun off => ?_) _) fun _ => .pure _
  refine .choose (.pure _) (hv.nat d _ _) fun prev => .choose (.map _ (hv.nat d _ _)) (.pure _) fun next => ?_
  exact .ite (.pure _) (.bind (hv.nat d _ _) fun _ => .bind (.mapM (fun _ => hv.nat d _ _) _) fun _ => .pure _)

theorem Via.noAcks.n8Run (r : Nat) : (v.n8Run d r).noAcks :=
  .bind (.mapM (fun _ => .bind (hv.nat d _ _) fun _ => .bind (.mapM (fun _ => hv.nat d _ _) _) fun _ => .pure _) _)
    fun _ => .pure _

theorem Via.noAcks.denseRun (r : Nat) : (v.denseRun d r).noAcks :=
  .bind (.mapM (fun _ => .bind (hv.get d _) fun _ => .pure _) _) fun _ => .pure _

theorem Via.noAcks.raggedRun (r : Nat) : (v.raggedRun d r).noAcks :=
  .bind (hv.nat d _ _) fun _ => .choose (.pure _) (hv.nat d _ _) fun _ => .bind (hv.nat d _ _) fun _ =>
    .ite (.pure _) (.bind (.mapM (fun _ => .bind (hv.nat d _ _) fun _ => .bind (hv.nat d _ _) fun _ => .pure _) _)
      fun _ => .pure _)

theorem Via.noAcks.run (r : Nat) : (v.run d r).noAcks := by
  unfold Via.run
  split
  · exact hv.bbmRun d r
  · exact hv.n8Run d r
  · exact hv.raggedRun d r
  · exact hv.denseRun d r

theorem Via.noAcks.putBbmFrom (gs : List (List (Nat × Nat))) (off k : Nat) : (v.putBbmFrom d off k gs).noAcks := by
  induction gs generalizing off k with
  | nil => exact .pure _
  | cons xs rest ih => exact .bind (hv.wr _ _) fun _ => .bind (hv.wr _ _) fun _ => ih _ _

theorem Via.noAcks.putN8 (rs : List (List (Nat × Nat))) : (v.putN8 d rs).noAcks :=
  .forM (fun _ => .bind (.forM (fun _ => hv.wr _ _) _) fun _ => hv.wr _ _) _

theorem Via.noAcks.putRaggedFrom (rs : List (List (Nat × Nat))) (k r : Nat) : (v.putRaggedFrom d k r rs).noAcks := by
  induction rs generalizing k r with
  | nil => exact hv.wr _ _
  | cons xs rest ih =>
    exact .bind (hv.wr _ _) fun _ => .bind (.forM (fun _ => .bind (hv.wr _ _) fun _ => hv.wr _ _) _) fun _ => ih _ _

theorem Via.noAcks.encode (rs : List (List (Nat × Nat))) : (v.encode d rs).noAcks := by
  unfold Via.encode
  split
  · exact hv.putBbmFrom d _ _ _
  · exact hv.putN8 d rs
  · exact hv.putRaggedFrom d _ _ _
  · exact .bind (hv.pad d) fun _ => .forM (fun _ => hv.put d _ _) _

theorem Via.noAcks.sparseUsed : (v.sparseUsed d).noAcks := by
  unfold Via.sparseUsed
  extract_lets e
  split
  · exact .bind (.mapM (fun _ => .bind (hv.nat d _ _) fun _ => .ite (.pure _) (.bind (hv.nat d _ _) fun _ => .pure _)) _)
      fun _ => .pure _
  · exact .pure _
  · exact .bind (hv.nat d _ _) fun _ => .pure _

end

theorem noAcks_readHdr {v : Via} (hv : v.noAcks) (k : PlotCauses) (d : Desc) : (readHdr v k d).noAcks :=
  .bind (hv.rd _ _) fun _ => .bind (.need _ _ _) fun _ => .bind (.need _ _ _) fun _ => .bind (.need _ _ _) fun _ => .pure _

theorem noAcks_entryBytes {v : Via} (hv : v.noAcks) (a : Nat) : (entryBytes v a).noAcks := by
  refine .bind .get fun s => ?_
  split
  · exact .pure _
  · exact hv.rd _ _

theorem noAcks_readEnt {v : Via} (hv : v.noAcks) (k : PlotCauses) (d : Desc) (p : PlotAt) : (readEnt v k d p).noAcks :=
  .bind (noAcks_entryBytes hv _) fun _ => .bind (.need _ _ _) fun _ =>
    .checkLog (.modify fun _ => rfl) (.throw _) fun _ => .bind .get fun _ => .check (.modify fun _ => rfl) fun _ => .pure _

/-- A version log whose reads and writes await no acknowledgement. -/
def VerLog.noAcks (l : VerLog) : Prop := (∀ n, (l.rd n).noAcks) ∧ ∀ n x, (l.wr n x).noAcks

theorem noAcks_noLog : noLog.noAcks := ⟨fun _ => .pure _, fun _ _ => .pure _⟩

theorem noAcks_ownerOfRead {l : VerLog} (hl : l.noAcks) {prev : Eng Unit} (hp : prev.noAcks) (k : PlotCauses) (d : Desc)
    (n : Nat) (p : PlotAt) (e : PlotEnt) : (ownerOfRead k l prev d n p e).noAcks := by
  obtain ⟨hrd, hwr⟩ := hl
  exact .ite (.bind (hrd n) fun _ => .ite (.check (hwr _ _) fun _ => .pure _)
    (.ite (.bind hp fun _ => .check (hwr _ _) fun _ => .pure _) (.failWith _ _))) (.check (hwr _ _) fun _ => .pure _)

theorem noAcks_openView {v : Via} (hv : v.noAcks) {l : VerLog} (hl : l.noAcks) {prev : Eng Unit} (hp : prev.noAcks)
    (k : PlotCauses) (d : Desc) (is : List (List Nat)) : (openView v k l prev d is).noAcks :=
  .ite (.bind (noAcks_readHdr hv k d) fun _ => .bind (.mapM (fun p => .bind (noAcks_readEnt hv k d p) fun _ =>
      .bind (noAcks_ownerOfRead hl (.ite (.pure _) hp) k d _ p _) fun _ =>
        .ite (.pure _) (.bind (.need _ _ _) fun _ => .pure _)) _) fun _ => .pure _)
    (.bind (.need _ _ _) fun _ => .pure _)

section
variable {v : Via} (hv : v.noAcks) (w : View)
include hv

theorem View.noAcks_get (i : List Nat) : (w.get v i).noAcks := by
  unfold View.get
  split
  · exact hv.get _ _
  · exact .pure _

theorem View.noAcks_scale (i : List Nat) : (w.scale v i).noAcks := by
  unfold View.scale
  split
  · exact hv.scale _ _
  · exact .pure _

theorem View.noAcks_put (k : PlotCauses) (i : List Nat) (x : Nat) : (w.put v k i x).noAcks := by
  unfold View.put
  split
  · exact hv.put _ _ _
  · exact .failWith _ _

theorem View.noAcks_putScale (k : PlotCauses) (i : List Nat) (x : Nat) : (w.putScale v k i x).noAcks := by
  unfold View.putScale
  split
  · exact hv.putScale _ _ _
  · exact .failWith _ _

theorem View.noAcks_pad : (w.pad v).noAcks := by
  unfold View.pad
  split
  · exact hv.pad _
  · refine .forM (fun b => ?_) _
    split
    · exact hv.pad _
    · exact .pure _

theorem noAcks_frameOk (d : Desc) : (frameOk v d).noAcks := .ite (.pure _) (.bind (hv.rd _ _) fun _ => .pure _)

end

/-! ### The work of MOVE and FILL -/

section
variable (e : MovEnv)

theorem MovEnv.noAcks_reach (v : Desc) : (e.reach v).noAcks := .ask _

/-- Work that awaits no acknowledgement, whose value has a property. -/
def Eng.gives {α : Type} (P : α → Prop) (w : Eng α) : Prop :=
  ∀ x, (w.run x).2.acks = x.acks ∧ ∀ v, (w.run x).1 = .ok v → P v

theorem Eng.gives.bind {α β : Type} {P : α → Prop} {w : Eng α} {f : α → Eng β} (hw : w.gives P)
    (hf : ∀ v, P v → (f v).noAcks) : Eng.noAcks (w >>= f) := by
  intro x
  rw [Eng.run_bind]
  obtain ⟨hwx, hP⟩ := hw x
  cases hrun : w.run x with
  | mk r y =>
    rw [hrun] at hwx hP
    cases r with
    | error e => exact hwx
    | ok v => exact (hf v (hP v rfl) y).trans hwx

theorem MovEnv.src_gives (v : Desc) : (e.src v).gives Via.noAcks := fun x =>
  ⟨rfl, fun w hw => by cases hw; exact (x.dev.movReach e.p e.m v.worldS).noAcks_via⟩

theorem MovEnv.dst_gives (v : Desc) : (e.dst v).gives Via.noAcks := by
  intro x
  unfold MovEnv.dst
  have hreach : (e.reach v).run x = (.ok (x.dev.movReach e.p e.m v.worldS), x) := rfl
  simp only [Eng.run_bind, hreach]
  split
  · exact ⟨rfl, fun w hw => by cases hw; exact ⟨fun _ _ => .bind .get fun _ => .pure _, noAcks_remoteWrite _ _, .pure _⟩⟩
  · split
    · exact ⟨rfl, fun w hw => by cases hw; exact Reach.noAcks_accVia _ _⟩
    · exact ⟨rfl, fun w hw => by cases hw; exact Reach.noAcks_via _⟩

theorem MovEnv.noAcks_ownPad (v : Desc) : (e.ownPad v).noAcks := by
  unfold MovEnv.ownPad
  split
  · exact .ask _
  · exact .pure _

theorem MovEnv.noAcks_bump (o n : Nat) : (e.bump o n).noAcks := by
  unfold MovEnv.bump
  split
  · exact .onDev _
  · exact .pure _

theorem noAcks_movDescs (rs ws : List Desc) : (movDescs e rs ws).noAcks := .bind (.need _ _ _) fun _ => .need _ _ _

theorem noAcks_movLayouts (s d : Desc) : (movLayouts e s d).noAcks := .bind (e.noAcks_ownPad d) fun _ => .need _ _ _

theorem noAcks_pairOk (v : Desc) : (pairOk e v).noAcks := by
  refine .ite (.pure _) ?_
  split
  · exact .ask _
  · exact .pure _

theorem noAcks_copyDense {vs vd : Via} (hs : vs.noAcks) (hd : vd.noAcks) (s d : View) : (copyDense vs vd s d).noAcks :=
  .bind (d.noAcks_pad hd) fun _ =>
    .bind (.forM (fun _ => .bind (s.noAcks_get hs _) fun _ => d.noAcks_put hd _ _ _) _) fun _ =>
      .bind (.forM (fun _ => .bind (s.noAcks_scale hs _) fun _ => d.noAcks_putScale hd _ _ _) _) fun _ => hd.fin

theorem noAcks_denseItems {vs : Via} (hs : vs.noAcks) (s : View) : (denseItems vs s).noAcks :=
  .mapM (fun _ => .bind (.mapM (fun _ => .bind (s.noAcks_get hs _) fun _ => .pure _) _) fun _ => .pure _) _

theorem noAcks_copySparse {vs vd : Via} (hs : vs.noAcks) (hd : vd.noAcks) (s d : Desc) : (copySparse vs vd s d).noAcks :=
  .bind (hs.sparseUsed s) fun _ => .bind (.forM (fun _ => .ite (.bind (hs.rd _ _) fun _ => hd.wr _ _) (.pure _)) _) fun _ =>
    .ite (.bind (hs.rd _ _) fun _ => .bind (hd.wr _ _) fun _ => .bind hd.fin fun _ => .pure _)
      (.bind hd.fin fun _ => .pure _)

theorem noAcks_expandBbm {vs vd : Via} (hs : vs.noAcks) (hd : vd.noAcks) (s : Desc) (d : View) :
    (expandBbm vs vd s d).noAcks := by
  refine .bind (.mapM (fun _ => hs.run s _) _) fun held => .bind (.ask _) fun p => ?_
  have hwrite : Eng.noAcks (do
      d.pad vd
      (indices d.desc.extent).forM fun i => do
        let xs := (held.map (·.items)).getD (linear (d.desc.extent.drop 1) (i.drop 1)) []
        d.put vd movPlot i (((xs.find? fun p => p.1 == i.getD 0 0).map Prod.snd).getD 0)
      vd.fin) :=
    .bind (d.noAcks_pad hd) fun _ => .bind (.forM (fun _ => d.noAcks_put hd _ _ _) _) fun _ => hd.fin
  extract_lets here done rest
  clear_value here
  split
  · exact .check (.failWith _ _) fun _ => hwrite
  · exact .choose (.onDev _) (.onDev _) fun _ => .check (.failWith _ _) fun _ => hwrite

theorem movLog_gives (c : Cmd) : (movLog e c).gives VerLog.noAcks := by
  intro x
  unfold movLog
  split
  · exact ⟨rfl, fun l hl => by cases hl; exact noAcks_noLog⟩
  · refine ⟨rfl, fun l hl => by
      cases hl
      exact ⟨fun _ => .bind (noAcks_padRead _ _ _) fun _ => .pure _, fun _ _ => noAcks_padWrite _ _ _⟩⟩

theorem noAcks_openDst {vd : Via} (hd : vd.noAcks) (d : Desc) : (openDst e vd d).noAcks :=
  .ite (.bind (.need _ _ _) fun _ => .pure _) (noAcks_openView hd noAcks_noLog (.pure _) _ _ _)

theorem noAcks_moveWork (c : Cmd) (s d : Desc) : (moveWork e c s d).noAcks := by
  refine (movLog_gives e c).bind fun log hlog => ?_
  refine .bind (.need _ _ _) fun _ => .bind (noAcks_movDescs e _ _) fun _ => .bind (noAcks_movLayouts e _ _) fun _ =>
    .bind (.need _ _ _) fun _ => .bind (.need _ _ _) fun _ => .bind (noAcks_pairOk e _) fun _ => .bind (.need _ _ _) fun _ =>
      .ite (.bind (.need _ _ _) fun _ => ?_) (.pure _)
  refine (e.src_gives s).bind fun vs hs => (e.dst_gives _).bind fun vd hd => .bind (noAcks_frameOk hs s) fun _ =>
    .bind (.need _ _ _) fun _ => .bind (noAcks_openView hs hlog (e.noAcks_bump _ _) _ _ _) fun ws =>
      .bind (noAcks_openDst e hd _) fun wd => .bind (.ask _) fun _ => .bind (.need _ _ _) fun _ => ?_
  have hbump := e.noAcks_bump
  refine .ite ?_ (.ite ?_ (.ite ?_ ?_))
  · exact .bind (noAcks_copyDense hs hd ws wd) fun _ => .bind (hbump _ _) fun _ => hbump _ _
  · exact .bind (noAcks_denseItems hs ws) fun _ => .bind (hd.encode _ _) fun _ => .bind hd.fin fun _ =>
      .bind (hbump _ _) fun _ => hbump _ _
  · exact .bind (noAcks_expandBbm hs hd s wd) fun _ => .bind (hbump _ _) fun _ => hbump _ _
  · exact .bind (noAcks_copySparse hs hd s _) fun _ => hbump _ _

theorem noAcks_fillWork (c : Cmd) (d : Desc) : (fillWork e c d).noAcks := by
  refine .bind (noAcks_movDescs e _ _) fun _ => .bind (.need _ _ _) fun _ => .bind (.need _ _ _) fun _ => .ite ?_ (.pure _)
  exact (e.dst_gives d).bind fun vd hd => .bind (noAcks_openDst e hd d) fun wd =>
    .bind (.forM (fun _ => wd.noAcks_put hd _ _ _) _) fun _ => .bind (.forM (fun _ => wd.noAcks_putScale hd _ _ _) _) fun _ =>
      .bind hd.fin fun _ => .bind (e.noAcks_bump _ _) fun _ => e.noAcks_bump _ _

end

theorem noAcks_movWork (e : MovEnv) (i : Issued) : (movWork e i).noAcks :=
  .ite (noAcks_moveWork e _ _ _) (noAcks_fillWork _ _ _)


/-! ### A command that waits on a MOVING plot entry -/

/-- The work of a tent mover that makes no write at another device sends nothing. -/
theorem moverSent_nothing (t : TentId) (i : Issued) (d : Dev) {x : EngS} (h : x.out = []) :
    moverSent (.tent t) i d x = ([], x.dev) := by
  simp [moverSent, h, Dev.flush]

theorem acks_of_moverWork {p : Perm} {m : MoverId} {i : Issued} {d : Dev} {x : EngS}
    (h : workEnds (moverWork p m i d) d = some x) : x.acks = [] := by
  have hkeeps := noAcks_movWork ⟨m, p, d.movSecure m, (if cmdOp i.cmd = 1 then d.mcGroup m else none).isSome,
    d.mcValid ((if cmdOp i.cmd = 1 then d.mcGroup m else none).getD 0)⟩ i { dev := d }
  have hrun := runs_of_workEnds h
  unfold Runs moverWork at hrun
  rw [hrun] at hkeeps
  exact hkeeps

theorem getElem?_flight_modMov {d : Dev} {m : MoverId} {k : Nat} (j : Issued)
    (h : (d.movQueue m).flight[k]?.isSome = true) :
    ((d.modMov m fun y => { y with flight := setNth y.flight k j }).movQueue m).flight[k]? = some j := by
  rw [Dev.movQueue_modMov]
  exact getElem?_setNth j h

/-! ### An accumulating write into a tent -/

theorem regionOf_scratch {t o : Nat} (ht : t < 16384) (ho : o < 0x1_8000) : regionOf (tentMem t o) = .scratch t o := by
  have hmem : ¬tentMem t o < hbmEnd ∧ ¬(lpBase ≤ tentMem t o ∧ tentMem t o < lpEnd) := by
    unfold tentMem tentBase hbmEnd lpBase lpEnd
    omega
  have htent : tentBase ≤ tentMem t o ∧ tentMem t o < tentBase + 0x8000_0000 := by
    unfold tentMem
    omega
  have hdiv : (tentMem t o - tentBase) / 0x2_0000 = t ∧ (tentMem t o - tentBase) % 0x2_0000 = o := by
    unfold tentMem
    omega
  rw [regionOf, if_neg hmem.1, if_neg hmem.2, if_pos htent]
  simp only [hdiv, if_pos ho]

theorem elemsOf_single {bs : List Byte} (h : bs.length = 4) : elemsOf 4 bs = [leNat bs] := by
  match bs, h with
  | [a, b, c, d], _ => simp [elemsOf, leAt, slice]

section
variable (d : Dev) (t : Nat) (secure : Bool) (fmt o : Nat) (bs : List Byte)

theorem Dev.padAccum_refused (hsec : secure = false) (htouch : d.touchesSecure t o bs.length = true) :
    (d.padAccum t secure fmt o bs).1 = 2 ∧ (d.padAccum t secure fmt o bs).2.mem = d.mem := by
  simp [Dev.padAccum, hsec, htouch]

variable (hworld : secure = true ∨ d.touchesSecure t o bs.length = false)
include hworld

theorem Dev.padAccum_format (hfmt : accBytes fmt = 0) :
    (d.padAccum t secure fmt o bs).1 = 3 ∧ (d.padAccum t secure fmt o bs).2.mem = d.mem := by
  have hsec : ¬(!secure && d.touchesSecure t o bs.length) = true := by
    rcases hworld with h | h <;> simp [h]
  simp [Dev.padAccum, hsec, hfmt]

/-- One element of four bytes adds. -/
theorem Dev.padAccum_adds (hfmt : accBytes fmt = 4) (ho : o % 4 = 0) (hlen : bs.length = 4)
    (hquiet : d.quiet (tentMem t o) 4 = true) (hbad : d.badIn (tentMem t o) 4 = false) (hend : o + 4 ≤ 0x1_8000)
    {r : AccOut} (hr : accElem fmt (d.rdNat (tentMem t o) 4) (leNat bs) = some r) :
    (d.padAccum t secure fmt o bs).1 = (if r.sat then 4 else 0) ∧
      (d.padAccum t secure fmt o bs).2.mem = (d.wrNat (tentMem t o) 4 r.bits).mem := by
  have hsec : ¬(!secure && d.touchesSecure t o bs.length) = true := by
    rcases hworld with h | h <;> simp [h]
  have hform : ¬(accBytes fmt = 0 ∨ o % accBytes fmt ≠ 0 ∨ bs.length % accBytes fmt ≠ 0 ∨ padLen < o + bs.length) := by
    rw [hfmt, hlen, padLen]
    omega
  have hrun : padAccRun fmt 4 (tentMem t o) [leNat bs] d [] =
      (d.wrNat (tentMem t o) 4 r.bits, if r.sat then [4] else []) := by
    simp [padAccRun, hbad, hr]
  have hadd : d.padAccum t secure fmt o bs =
      if r.sat then (4, (d.wrNat (tentMem t o) 4 r.bits).tentErr t 0x0A clsContained 0x23 { addr := o })
      else (0, d.wrNat (tentMem t o) 4 r.bits) := by
    refine (if_neg hsec).trans ((if_neg hform).trans ?_)
    rw [hfmt, hlen, elemsOf_single hlen, d.meet_quiet _ _ hquiet, hrun]
    cases r.sat <;> rfl
  rw [hadd]
  cases r.sat <;> simp

end

theorem does_tentAccumWrite {s : State} {a : WAccess} {u : Writer} {fmt : BitVec 4} {t : TentId} {o : Nat}
    (hu : s.acting a.by_ = some u) (hplace : s.dev.place a.addr.toNat = .here (tentMem t.toNat o)) (ho : o < 0x1_8000)
    (hclear : s.dev.touchesClearing t.toNat o a.data.length = false) {n : Nat} {m : List (Nat × Byte)}
    (hm : (s.dev.padAccum t.toNat u.secure fmt.toNat o a.data).1 = n ∧
      (s.dev.padAccum t.toNat u.secure fmt.toNat o a.data).2.mem = m) :
    Does (.tentAccumWrite a fmt) s fun e => e.response = some (u.who, ⟨n, []⟩) ∧ e.mem = m := by
  have hexec : exec (.tentAccumWrite a fmt) s =
      asWriter a.by_ (fun w => lift fun d => d.tentAccumWrite { a with by_ := w } fmt.toNat) s := rfl
  rw [asWriter_next _ _ _ _ hu] at hexec
  refine ⟨_, yields_lift _ hexec rfl, ?_⟩
  simp only [Dev.tentAccumWrite, hplace, regionOf_scratch t.isLt ho, hclear]
  exact ⟨by rw [← hm.1]; rfl, hm.2⟩

/-- The work of a command of a tent mover that ends, with nothing to send and no read of another device before. -/
theorem Dev.movRun_done (d : Dev) (p : Perm) (t : TentId) {k : Nat} {j : Issued} {x : EngS}
    (hj : (d.movQueue (.tent t)).flight[k]? = some j) (hstage : j.stage = []) (hmoving : j.moving = false)
    (hx : workEnds (moverWork p (.tent t) j d) d = some x)
    (hleft : (x.dev.movQueue (.tent t)).flight[k]?.isSome = true) (hout : x.out = []) :
    d.movRun p (.tent t) k = x.dev.modMov (.tent t) fun y => { y with flight := setNth y.flight k { j with
      flags := x.flags, want := none, acks := x.acks, done := true, outs := [], olds := d.wordsLost x.dev } } := by
  have hsent := moverSent_nothing t j d hout
  have hrun := d.movRun_ends p _ hj hstage hx (by rw [hsent]; exact hleft)
  rw [hsent] at hrun
  have hended : j.ended d x [] = { j with
      flags := x.flags, want := none, acks := x.acks, done := true, outs := [], olds := d.wordsLost x.dev } := by
    rw [Issued.ended, List.append_nil, ← hstage, ← hmoving]
  rw [hended, acks_of_moverWork hx] at hrun
  rw [hrun, acks_of_moverWork hx]
  rfl

theorem Dev.plotReread_runs (d : Dev) (p : Perm) (t : TentId) {k : Nat} {i : Issued} (hhalted : d.halted = false)
    (hk : (d.queue t.toNat 8).flight[k]? = some i) (hmoving : i.moving = true) :
    d.plotReread p (.tent t) k = ((d.bump (movReg t.toNat 0x38) 1).modMov (.tent t) fun y =>
      { y with flight := setNth y.flight k { i with moving := false } }).movRun p (.tent t) k := by
  simp -zeta only [Dev.plotReread, hhalted, Dev.movQueue, hk, hmoving]
  rfl

theorem Dev.modMov_leaves (d : Dev) (t : TentId) (f : Queue → Queue) : (d.modMov (.tent t) f).mem = d.mem ∧
    (d.modMov (.tent t) f).warmAsked = d.warmAsked := by
  simp [Dev.modMov, Dev.modQueue, Dev.setQueue, Dev.modTent]

theorem Dev.queue_bump (d : Dev) (a n t q : Nat) : (d.bump a n).queue t q = d.queue t q := rfl

/-- A re-read of a MOVING entry after which the work of the command ends. -/
theorem does_plotMovingReread (s : State) (t : TentId) {k : Nat} {i j : Issued} {x : EngS} {d : Dev}
    (hhalted : s.dev.halted = false) (hk : (s.dev.queue t.toNat 8).flight[k]? = some i) (hmoving : i.moving = true)
    (hjdef : j = { i with moving := false })
    (hd : d = (s.dev.bump (movReg t.toNat 0x38) 1).modMov (.tent t) fun y => { y with flight := setNth y.flight k j })
    (hstage : j.stage = []) (hx : workEnds (moverWork s.perm (.tent t) j d) d = some x)
    (hleft : (x.dev.movQueue (.tent t)).flight[k]?.isSome = true) (hw : x.dev.warmAsked = false) (hout : x.out = []) :
    Does (.plotMovingReread (.tent t) k) s fun e =>
      e.mem = x.dev.mem ∧ (e.queue t.toNat 8).flight[k]? = some { j with
        flags := x.flags, want := none, acks := x.acks, done := true, outs := [], olds := d.wordsLost x.dev } := by
  have hexec : exec (.plotMovingReread (.tent t) k) s = liftBus (fun p d => d.plotReread p (.tent t) k) s := rfl
  have hreread := s.dev.plotReread_runs s.perm t hhalted hk hmoving
  rw [← hjdef, ← hd] at hreread
  have hj : (d.movQueue (.tent t)).flight[k]? = some j := by
    rw [hd]
    refine getElem?_flight_modMov j ?_
    rw [Dev.movQueue, Dev.queue_bump, hk]
    rfl
  have hrun := hreread.trans (d.movRun_done s.perm t hj hstage (by rw [hjdef]) hx hleft hout)
  obtain ⟨hmem, hwarm⟩ := x.dev.modMov_leaves t fun y => { y with flight := setNth y.flight k { j with
    flags := x.flags, want := none, acks := x.acks, done := true, outs := [], olds := d.wordsLost x.dev } }
  exact ⟨_, yields_liftBus _ hexec hrun (hwarm.trans hw), hmem, getElem?_flight_modMov _ hleft⟩

/-- An entry that stays MOVING is fault 0x11. -/
theorem does_plotBusyTimeout (s : State) (t : TentId) {k : Nat} {i : Issued}
    (hhalted : s.dev.halted = false) (hk : (s.dev.queue t.toNat 8).flight[k]? = some i) (hmoving : i.moving = true) :
    Yields (.plotBusyTimeout (.tent t) k) s (s.dev.movFail (.tent t) k 0x11 i.movingAt) := by
  have hexec : exec (.plotBusyTimeout (.tent t) k) s = lift (fun d => match (d.movQueue (.tent t)).flight[k]? with
    | some x => if x.moving && !d.halted then d.movFail (.tent t) k 0x11 x.movingAt else d
    | none => d) s := rfl
  refine yields_lift _ hexec ?_
  simp only [Dev.movQueue, hk, hmoving, hhalted]
  rfl

/-- Settles O33: an accumulate by the check it fails, a waiting command by what its plot entry reads. -/
theorem tentAccumulateAndPlotWaits : Obligations.TentAccumulateAndPlotWaits := by
  unfold Obligations.TentAccumulateAndPlotWaits
  constructor
  · intro s a u fmt t o hu d hplace ho hclear hquiet
    refine ⟨fun hsec htouch => does_tentAccumWrite hu hplace ho hclear (d.padAccum_refused _ _ _ _ _ hsec htouch),
      fun hworld => ⟨fun hfmt => does_tentAccumWrite hu hplace ho hclear (d.padAccum_format _ _ _ _ _ hworld hfmt),
        fun hfmt hal hlen hbad hend r hr => ?_⟩⟩
    have hbytes : accBytes fmt.toNat = 4 := by rcases hfmt with rfl | rfl <;> rfl
    rw [hlen] at hquiet
    obtain ⟨hstatus, hmem⟩ := d.padAccum_adds t.toNat _ _ _ _ hworld hbytes hal hlen hquiet hbad hend hr
    obtain ⟨e, hy, hresponse, he⟩ := does_tentAccumWrite hu hplace ho hclear ⟨hstatus, hmem⟩
    exact ⟨e, hy, he, hresponse⟩
  · intro s t k i hhalted hk hmoving
    constructor
    · intro x m j d hstage hacks hx hleft hw hout
      exact does_plotMovingReread s t hhalted hk hmoving rfl rfl hstage hx hleft hw hout
    · obtain ⟨-, hentries, hstopped, -, -, hevent⟩ := s.dev.movFail_leaves t 0x11 i.movingAt hk
      exact ⟨_, does_plotBusyTimeout s t hhalted hk hmoving, hstopped, hentries, hevent⟩

end Sys2Proof.Machine

/-! Register writes (R3 to R6), for O34. -/

namespace Sys2Proof.Machine

/-! ### Bits under a mask -/

theorem add_eq_or_of_and {a b : Nat} (h : a &&& b = 0) : a + b = a ||| b := by
  have hlt : a + b < 2 ^ (a + b) := Nat.lt_two_pow_self
  have ha : a < 2 ^ (a + b) := by omega
  have hb : b < 2 ^ (a + b) := by omega
  have hor : (BitVec.ofNat (a + b) a + BitVec.ofNat (a + b) b).toNat =
      (BitVec.ofNat (a + b) a ||| BitVec.ofNat (a + b) b).toNat := by
    rw [BitVec.add_eq_or_of_and_eq_zero]
    rw [← BitVec.ofNat_and, h]
  simpa [Nat.mod_eq_of_lt, ha, hb, hlt] using hor

/-- What a number holds beside a mask. -/
theorem sub_and_eq_ldiff (x k : Nat) : x - (x &&& k) = Nat.ldiff x k := by
  have hdisj : Nat.ldiff x k &&& (x &&& k) = 0 := by
    refine Nat.eq_of_testBit_eq fun i => ?_
    rw [Nat.testBit_and, Nat.testBit_ldiff, Nat.testBit_and, Nat.zero_testBit]
    cases x.testBit i <;> cases k.testBit i <;> rfl
  have hjoin : Nat.ldiff x k + (x &&& k) = x := by
    rw [add_eq_or_of_and hdisj]
    refine Nat.eq_of_testBit_eq fun i => ?_
    rw [Nat.testBit_or, Nat.testBit_ldiff, Nat.testBit_and]
    cases x.testBit i <;> cases k.testBit i <;> rfl
  omega

theorem testBit_sub_and (x k i : Nat) : (x - (x &&& k)).testBit i = (x.testBit i && !k.testBit i) := by
  rw [sub_and_eq_ldiff, Nat.testBit_ldiff]

/-- Bits under a mask replaced. -/
theorem testBit_replaced (x k v i : Nat) :
    (x - (x &&& k) + (v &&& k)).testBit i = if k.testBit i then v.testBit i else x.testBit i := by
  have hdisj : (x - (x &&& k)) &&& (v &&& k) = 0 := by
    refine Nat.eq_of_testBit_eq fun j => ?_
    rw [Nat.testBit_and, testBit_sub_and, Nat.testBit_and, Nat.zero_testBit]
    cases k.testBit j <;> simp
  rw [add_eq_or_of_and hdisj, Nat.testBit_or, testBit_sub_and, Nat.testBit_and]
  cases k.testBit i <;> simp

theorem testBit_fieldMask (width lsb mask i : Nat) : (((2 ^ width - 1) * 2 ^ lsb) &&& mask).testBit i =
    (decide (lsb ≤ i) && decide (i < lsb + width) && mask.testBit i) := by
  rw [Nat.testBit_and, Nat.testBit_mul_two_pow, Nat.testBit_two_pow_sub_one]
  congr 1
  by_cases h : lsb ≤ i
  · simp [h]
    omega
  · simp [h]

/-- What the access types leave of a field (Table 0.3). -/
theorem fieldAfter_bits (locked : Bool) (mask v old : Nat) (f : Field) :
    let new := fieldAfter locked mask v old f
    let in_ := fun i => decide (f.lsb ≤ i) && decide (i < f.lsb + f.width) && mask.testBit i
    (f.acc = .ro ∨ f.acc = .wo ∨ (f.acc = .rwl ∧ locked = true) → new = old) ∧
      (f.acc = .rw ∨ (f.acc = .rwl ∧ locked = false) →
        ∀ i, new.testBit i = if in_ i then v.testBit i else old.testBit i) ∧
      (f.acc = .w1c → ∀ i, new.testBit i = if in_ i && v.testBit i then false else old.testBit i) := by
  intro new in_
  refine ⟨?_, ?_, ?_⟩
  · rintro (h | h | ⟨h, hl⟩)
    · simp [new, fieldAfter, h]
    · simp [new, fieldAfter, h]
    · simp [new, fieldAfter, h, hl]
  · intro h i
    have hnew : new = old - (old &&& ((2 ^ f.width - 1) * 2 ^ f.lsb &&& mask)) +
        (v &&& ((2 ^ f.width - 1) * 2 ^ f.lsb &&& mask)) := by
      rcases h with h | ⟨h, hl⟩
      · simp [new, fieldAfter, h]
      · simp [new, fieldAfter, h, hl]
    rw [hnew, testBit_replaced, testBit_fieldMask]
  · intro h i
    have hnew : new = old - (old &&& (v &&& ((2 ^ f.width - 1) * 2 ^ f.lsb &&& mask))) := by
      simp [new, fieldAfter, h, Nat.and_assoc]
    rw [hnew, testBit_sub_and, Nat.testBit_and, testBit_fieldMask]
    cases v.testBit i <;> simp [in_]
    cases old.testBit i <;> simp

/-! ### A write of one register -/

theorem dieOfSrc_lt (src : Nat) : dieOfSrc src < 8 := by
  unfold dieOfSrc
  split
  · omega
  · split
    · omega
    · split <;> omega

/-- A record of an error changes no memory, no tent, and no register but a die's count of merged notices. -/
theorem Dev.logErr_leaves (d : Dev) (src unit blk cls cause : Nat) (i : ErrInfo) :
    (d.logErr src unit blk cls cause i).mem = d.mem ∧ (d.logErr src unit blk cls cause i).tents = d.tents ∧
      ∀ a, (∀ die < 8, a ≠ dieReg die 0x1500_0008) → (d.logErr src unit blk cls cause i).reg a = d.reg a := by
  refine ⟨by simp [Dev.logErr], by simp [Dev.logErr], fun a ha => ?_⟩
  let key := (unit * 256 + blk) * 256 + cause
  change (({ d with errCounts := put (fun _ => 0) d.errCounts key (look (fun _ => 0) d.errCounts key + 1) } : Dev).pulse
    src).reg a = d.reg a
  have hne := ha _ (dieOfSrc_lt src)
  unfold Dev.pulse
  generalize dieReg (dieOfSrc src) 0x1500_0008 = b at *
  split
  · exact Dev.reg_setReg_ne _ _ hne
  · rfl

/-- A write whose world does not reach the register is logged, or an S-core's own fault. -/
theorem Dev.regRefused_leaves (d : Dev) (w : Writer) (x : Nat) (lock : Bool) :
    (d.regRefused w x lock).mem = d.mem ∧ (d.regRefused w x lock).tents = d.tents ∧
      ∀ a, (∀ die < 8, a ≠ dieReg die 0x1500_0008) → (d.regRefused w x lock).reg a = d.reg a := by
  unfold Dev.regRefused
  extract_lets i
  split
  · split
    · exact ⟨rfl, rfl, fun _ _ => rfl⟩
    · split
      · exact d.logErr_leaves _ _ _ _ _ _
      · exact d.logErr_leaves _ _ _ _ _ _
  · split
    · exact ⟨rfl, rfl, fun _ _ => rfl⟩
    · exact d.logErr_leaves _ _ _ _ _ _
  · exact d.logErr_leaves _ _ _ _ _ _
  · exact d.logErr_leaves _ _ _ _ _ _

theorem leNat_lt (bs : List Byte) : leNat bs < 2 ^ (8 * bs.length) := by
  induction bs with
  | nil => simp [leNat]
  | cons b bs ih =>
    have hb := b.isLt
    rw [leNat, List.length_cons, Nat.mul_succ, Nat.pow_add]
    omega

/-- Under the mask of the bytes written, the value a write works with is those bytes. -/
theorem writtenValue_and (keep k : Nat) (bs : List Byte) :
    let mask := 2 ^ (8 * bs.length) - 1
    (keep - (keep &&& mask) + leNat bs) &&& (k &&& mask) = leNat bs &&& (k &&& mask) := by
  intro mask
  have hlow : leNat bs &&& mask = leNat bs := Nat.and_two_pow_sub_one_of_lt_two_pow (leNat_lt bs)
  refine Nat.eq_of_testBit_eq fun i => ?_
  have hbit : (keep - (keep &&& mask) + leNat bs).testBit i =
      if mask.testBit i then (leNat bs).testBit i else keep.testBit i := by
    conv_lhs => rw [← hlow, testBit_replaced]
  simp only [Nat.testBit_and, hbit]
  cases mask.testBit i <;> simp

theorem fieldAfter_congr (locked : Bool) (old : Nat) (f : Field) {mask v v' : Nat}
    (h : ∀ k, v &&& (k &&& mask) = v' &&& (k &&& mask)) : fieldAfter locked mask v old f = fieldAfter locked mask v' old f := by
  simp only [fieldAfter, Nat.and_assoc, h]

theorem Dev.plainWrite_congr (d : Dev) (r : RegAt) {mask v v' : Nat} (h : ∀ k, v &&& (k &&& mask) = v' &&& (k &&& mask)) :
    d.plainWrite r mask v = d.plainWrite r mask v' := by
  have hfield : fieldAfter d.kitApplied mask v = fieldAfter d.kitApplied mask v' := by
    funext old f
    exact fieldAfter_congr _ _ _ h
  rw [Dev.plainWrite, hfield]
  rfl

/-- A whole register of the clock window of a die takes what its access types allow. -/
theorem Dev.regWrite_clocks (d : Dev) (w : Writer) (r : RegAt) (bs : List Byte) {die o : Nat} (hworld : d.regWorldOk w r = true)
    (hkit : d.kitApplied = false) (hwch : wchBaseOf r.addr = none) (hr : regionOf r.addr = .dieR die o)
    (hwin : o / 0x100_0000 = 21) :
    d.regWrite w r 0 bs = (0, (d.plainWrite r (2 ^ (8 * bs.length) - 1) (leNat bs)).noteHand r.addr bs.length) := by
  have hok : ¬(!d.regWorldOk w r) = true := by simp [hworld]
  have hplain : ∀ mask v, d.writeDieReg w r die o mask v = d.plainWrite r mask v := fun _ _ => if_pos (Or.inl hwin)
  have hmask : (2 ^ (8 * bs.length) - 1) * 2 ^ (8 * 0) = 2 ^ (8 * bs.length) - 1 := Nat.mul_one _
  unfold Dev.regWrite
  rw [if_neg hok, hmask]
  simp only [hkit, hwch, hr, hplain, Bool.false_and, Bool.false_eq_true, if_false, Nat.mul_zero, Nat.pow_zero, Nat.mul_one,
    Nat.add_zero]
  rw [d.plainWrite_congr r (writtenValue_and _ · bs)]

/-- A write of a whole register, alone in its bytes. -/
theorem Dev.winWrite_single (d : Dev) (w : Writer) {x : Nat} {r : RegAt} {bs : List Byte} (hr : regAt x = some r)
    (hhome : homeOf x = r.addr) (hlen : bs.length = r.row.bytes) (hbs : bs ≠ []) :
    d.winWrite w x bs.length bs = d.regWrite w r 0 bs := by
  have hworse : ∀ n, worse n 0 = n := by
    intro n
    unfold worse
    split <;> [omega; split <;> omega]
  match bs, hbs with
  | b :: bs, _ =>
    have hstop : ∀ (e : Dev) k, e.winWrite w (x + (b :: bs).length) k [] = (0, e) := by
      intro e k
      cases k <;> rfl
    have hstep : d.winWrite w x (b :: bs).length (b :: bs) =
        (worse (d.regWrite w r 0 (b :: bs)).1 0, (d.regWrite w r 0 (b :: bs)).2) := by
      change (match regAt x with
        | some r => _
        | none => _) = _
      rw [hr]
      simp only [hhome, Nat.sub_self, Nat.sub_zero, ← hlen, Nat.min_self, List.take_length, List.drop_length, hstop]
    rw [hstep, hworse]

theorem Dev.windowWrite_single (d : Dev) (w : Writer) {x : Nat} {r : RegAt} {bs : List Byte} (hr : regAt x = some r)
    (hhome : homeOf x = r.addr) (hlen : bs.length = r.row.bytes) (hbs : bs ≠ []) (hpeg : hitsPeg x bs.length = false) :
    d.windowWrite w x bs = d.regWrite w r 0 bs :=
  (if_neg (by simp [hpeg])).trans (d.winWrite_single w hr hhome hlen hbs)

/-- A write in a register window goes there, and its status to the writer. -/
theorem Dev.registerWrite_window (d : Dev) (a : WAccess) {x : Nat} {y : Nat × Dev}
    (hplace : d.place a.addr.toNat = .here x)
    (hregion : (∃ t o, regionOf x = .tentR t o) ∨ ∃ die o, regionOf x = .dieR die o)
    (hy : d.windowWrite a.by_ x a.data = y) :
    d.registerWrite a = { y.2 with response := some (a.by_.who, ⟨y.1, []⟩) } := by
  rw [← hy]
  rcases hregion with ⟨t, o, hx⟩ | ⟨die, o, hx⟩
  · simp only [Dev.registerWrite, hplace, hx, Dev.busWrite]
  · simp only [Dev.registerWrite, hplace, hx, Dev.busWrite]

/-- The debug port acts in the world of Table 18.8. -/
theorem acting_debug (s : State) (b : Bool) : s.acting ⟨.debug, b⟩ =
    if s.perm.fuses.lifecycle = 2 then some ⟨.debug, s.dev.debugOpen⟩
    else if s.perm.fuses.lifecycle < 4 then some ⟨.debug, true⟩ else none := by
  change (debugWorld s.perm s.dev).map (fun b => (⟨Master.debug, b⟩ : Writer)) = _
  simp only [debugWorld]
  split
  · rfl
  · by_cases h : 4 ≤ s.perm.fuses.lifecycle
    · rw [if_pos h, if_neg (by omega)]
      rfl
    · rw [if_neg h, if_pos (by omega)]
      rfl

/-- Settles O34: a requester by its kind, then a write by its world and, field by field, by its access types. -/
theorem registerWrites : Obligations.RegisterWrites := by
  unfold Obligations.RegisterWrites
  refine ⟨fun s b t die ch n => ⟨rfl, rfl, rfl, rfl, fun k hk => ?_, fun a ha => ?_⟩, ?_, ?_,
    fun d w r bs die o hworld hkit hwch hr hwin _ => d.regWrite_clocks w r bs hworld hkit hwch hr hwin, fieldAfter_bits⟩
  · obtain rfl := hk
    exact acting_debug s b
  · exact asWriter_none _ _ _ ha
  · intro s a u x r hu hplace hr hregion hhome hlen hbs hpeg y hw
    have hexec : exec (.registerWrite a) s =
        asWriter a.by_ (fun w => liftBus fun _ d => d.registerWrite { a with by_ := w }) s := rfl
    rw [asWriter_next _ _ _ _ hu] at hexec
    exact yields_liftBus _ hexec (s.dev.registerWrite_window { a with by_ := u } hplace hregion
      (s.dev.windowWrite_single u hr hhome hlen hbs hpeg)) hw
  · intro d w r lo bs hworld
    have hno : d.regWrite w r lo bs = (2, d.regRefused w r.addr false) := if_pos (by simp [hworld])
    intro y
    unfold y
    rw [hno]
    exact ⟨rfl, d.regRefused_leaves w r.addr false⟩

end Sys2Proof.Machine

/-! Trail links: what their steps leave of links and memory, and the acceptance of groups in order (R265 to R269), for
O35. -/

namespace Sys2Proof.Machine

/-! ### Links after a change -/

theorem Dev.link_setLink (d : Dev) (l n : Nat) (x : Link) : (d.setLink l x).link n = if n = l then x else d.link n :=
  look_put _ _ _ _ _

@[simp] theorem Dev.link_setLink_self (d : Dev) (l : Nat) (x : Link) : (d.setLink l x).link l = x := by
  rw [Dev.link_setLink, if_pos rfl]

@[simp] theorem Dev.link_modLink_self (d : Dev) (l : Nat) (f : Link → Link) : (d.modLink l f).link l = f (d.link l) :=
  d.link_setLink_self l _

theorem Dev.link_modLink (d : Dev) (l n : Nat) (f : Link → Link) :
    (d.modLink l f).link n = if n = l then f (d.link l) else d.link n := d.link_setLink l n _

/-! ### Steps that leave the links -/

/-- The links and memory are as before. -/
def Dev.sameLinks (d e : Dev) : Prop := e.links = d.links ∧ e.mem = d.mem

theorem Dev.sameLinks_refl (d : Dev) : d.sameLinks d := ⟨rfl, rfl⟩

theorem Dev.sameLinks.trans {d e f : Dev} (h : d.sameLinks e) (k : e.sameLinks f) : d.sameLinks f :=
  ⟨k.1.trans h.1, k.2.trans h.2⟩

theorem Dev.sameLinks.link {d e : Dev} (h : d.sameLinks e) (l : Nat) : e.link l = d.link l := by
  rw [Dev.link, h.1]
  rfl

theorem Dev.sameLinks_setReg (d : Dev) (a v : Nat) : d.sameLinks (d.setReg a v) := ⟨rfl, rfl⟩
theorem Dev.sameLinks_bump (d : Dev) (a n : Nat) : d.sameLinks (d.bump a n) := ⟨rfl, rfl⟩
theorem Dev.sameLinks_setLinkState (d : Dev) (l s : Nat) : d.sameLinks (d.setLinkState l s) :=
  d.sameLinks_setReg _ _
theorem Dev.sameLinks_sendSb (d : Dev) (p t : Nat) (bs : List Byte) : d.sameLinks (d.sendSb p t bs) := ⟨rfl, rfl⟩

theorem Dev.sameLinks_of_onlyLogs {d e : Dev} (h : d.onlyLogs e) : d.sameLinks e := by
  unfold Dev.onlyLogs at h
  rw [h]
  exact ⟨rfl, rfl⟩

theorem Dev.sameLinks_trlErr (d : Dev) (l cause : Nat) (i : ErrInfo) : d.sameLinks (d.trlErr l clsCorrected cause i) :=
  Dev.sameLinks_of_onlyLogs (d.onlyLogs_logErr _ _ _ _ _ (by decide))

theorem Dev.sameLinks_vlog (d : Dev) (l cls reason : Nat) (hdr : List Byte) : d.sameLinks (d.vlog l cls reason hdr) := by
  unfold Dev.vlog
  extract_lets die n a
  exact ((((d.sameLinks_setReg _ _).trans (Dev.sameLinks_setReg _ _ _)).trans (Dev.sameLinks_setReg _ _ _)).trans
    (Dev.sameLinks_setReg _ _ _)).trans (Dev.sameLinks_setReg _ _ _)

theorem Dev.sameLinks_badGroup (d : Dev) (l : Nat) (fec : Bool) : d.sameLinks (d.badGroup l fec) := by
  cases fec
  · exact d.sameLinks_vlog _ _ _ _
  · exact (d.sameLinks_bump _ _).trans (Dev.sameLinks_vlog _ _ _ _ _)

theorem Dev.sameLinks_foldl {α : Type} {f : Dev → α → Dev} (h : ∀ (d : Dev) a, d.sameLinks (f d a)) (as : List α) (d : Dev) :
    d.sameLinks (as.foldl f d) := by
  induction as generalizing d with
  | nil => exact d.sameLinks_refl
  | cons a as ih => exact (h d a).trans (ih (f d a))

theorem Dev.sameLinks_fecDecode (d : Dev) (l : Nat) (errs : List Nat) : d.sameLinks (d.fecDecode l errs) := by
  refine Dev.sameLinks_foldl (fun d n => ?_) errs d
  split
  · exact d.sameLinks_bump _ _
  · exact d.sameLinks_badGroup _ _

theorem Dev.sameLinks_beginRetrain (d : Dev) (l : Nat) : d.sameLinks (d.beginRetrain l) := by
  unfold Dev.beginRetrain
  split
  · exact ((d.sameLinks_setLinkState l 3).trans (Dev.sameLinks_bump _ _ _)).trans (Dev.sameLinks_trlErr _ _ _ _)
  · exact d.sameLinks_refl

theorem Dev.sameLinks_startRetrain (d : Dev) (l : Nat) : d.sameLinks (d.startRetrain l) := by
  unfold Dev.startRetrain
  split
  · exact (d.sameLinks_beginRetrain l).trans (Dev.sameLinks_sendSb _ _ _ _)
  · exact d.sameLinks_refl

/-! ### Steps that leave the order of a link's groups -/

/-- Memory and the sequence that link l expects are as before, and no group is held that was not. -/
def Dev.sameOrder (l : Nat) (d e : Dev) : Prop :=
  e.mem = d.mem ∧ (e.link l).rxSeq = (d.link l).rxSeq ∧ ((d.link l).held = none → (e.link l).held = none)

section
variable {l : Nat}

theorem Dev.sameOrder_refl (d : Dev) : d.sameOrder l d := ⟨rfl, rfl, id⟩

theorem Dev.sameOrder.trans {d e f : Dev} (h : Dev.sameOrder l d e) (k : Dev.sameOrder l e f) : Dev.sameOrder l d f :=
  ⟨k.1.trans h.1, k.2.1.trans h.2.1, k.2.2 ∘ h.2.2⟩

theorem Dev.sameLinks.sameOrder {d e : Dev} (h : d.sameLinks e) : Dev.sameOrder l d e := by
  refine ⟨h.2, ?_, ?_⟩ <;> rw [h.link l]
  exact id

theorem Dev.sameOrder_foldl {α : Type} {f : Dev → α → Dev} (h : ∀ (d : Dev) a, Dev.sameOrder l d (f d a)) (as : List α) (d : Dev) :
    Dev.sameOrder l d (as.foldl f d) := by
  induction as generalizing d with
  | nil => exact d.sameOrder_refl
  | cons a as ih => exact (h d a).trans (ih (f d a))

/-- A change of a link that leaves the sequence it expects, and holds nothing new. -/
theorem Dev.sameOrder_setLink (d : Dev) (n : Nat) {x : Link} (hseq : x.rxSeq = (d.link n).rxSeq)
    (hheld : (d.link n).held = none → x.held = none) : Dev.sameOrder l d (d.setLink n x) := by
  refine ⟨rfl, ?_, ?_⟩ <;> rw [Dev.link_setLink] <;> split
  · next h => rw [hseq, h]
  · rfl
  · next h => rw [h]; exact hheld
  · exact id

theorem Dev.sameOrder_modLink (d : Dev) (n : Nat) {f : Link → Link} (hseq : ∀ x, (f x).rxSeq = x.rxSeq)
    (hheld : ∀ x, x.held = none → (f x).held = none) : Dev.sameOrder l d (d.modLink n f) :=
  d.sameOrder_setLink n (hseq _) (hheld _)

theorem Dev.sameOrder_enqueue (d : Dev) (n vc : Nat) (pkt : List Byte) : Dev.sameOrder l d (d.enqueue n vc pkt) :=
  d.sameOrder_modLink n (fun _ => rfl) (fun _ => id)

theorem Dev.sameOrder_free (d : Dev) (n v k : Nat) : Dev.sameOrder l d (d.modLink n (·.free v k)) :=
  d.sameOrder_modLink n (fun _ => rfl) (fun _ => id)

theorem Dev.sameOrder_sendNak (d : Dev) (n reason : Nat) (hdr : List Byte) : Dev.sameOrder l d (d.sendNak n reason hdr) := by
  unfold Dev.sendNak
  extract_lets nak pkt
  split
  · exact d.sameOrder_modLink n (fun _ => rfl) (fun _ => id)
  · split
    · exact (d.sameOrder_enqueue _ _ _).trans (Dev.sameLinks_bump _ _ _).sameOrder
    · exact (d.sameLinks_trlErr _ _ _).sameOrder

theorem Dev.sameOrder_moveQueue (d : Dev) (n : Nat) (ps : List (Nat × List Byte)) : Dev.sameOrder l d (d.moveQueue n ps) := by
  induction ps with
  | nil => exact d.sameOrder_refl
  | cons p ps ih =>
    rw [Dev.moveQueue]
    refine ih.trans ?_
    split
    · refine Dev.sameOrder_modLink _ _ (fun x => ?_) (fun x => ?_)
      · unfold Link.putHead
        split
        · rfl
        · split <;> rfl
      · unfold Link.putHead
        split
        · exact id
        · split <;> exact id
    · exact Dev.sameOrder_sendNak _ _ _ _

theorem Dev.sameOrder_stopLink (d : Dev) (n s : Nat) : Dev.sameOrder l d (d.stopLink n s) := by
  unfold Dev.stopLink
  extract_lets x cut d1
  have h1 : Dev.sameOrder l d d1 := (d.sameLinks_setLinkState n s).sameOrder.trans
    (Dev.sameOrder_setLink _ n rfl fun _ => rfl)
  exact (h1.trans (Dev.sameOrder_moveQueue _ _ _)).trans (Dev.sameOrder_foldl (fun d _ => d.sameOrder_sendNak _ _ _) _ _)

theorem Dev.sameOrder_countViolation (d : Dev) (n cls : Nat) : Dev.sameOrder l d (d.countViolation n cls) := by
  unfold Dev.countViolation
  extract_lets ctl now win recent d1
  have h1 : Dev.sameOrder l d d1 := (d.sameLinks_bump _ _).sameOrder.trans
    (Dev.sameOrder_modLink _ _ (fun _ => rfl) (fun _ => id))
  split
  · exact ((h1.trans (Dev.sameOrder_stopLink _ _ _)).trans (Dev.sameLinks_sendSb _ _ _ _).sameOrder).trans
      (Dev.sameLinks_trlErr _ _ _ _).sameOrder
  · exact h1

theorem Dev.sameOrder_violate (d : Dev) (n cls : Nat) (hdr : List Byte) : Dev.sameOrder l d (d.violate n cls hdr) :=
  ((d.sameLinks_vlog _ _ _ _).sameOrder.trans (Dev.sameOrder_sendNak _ _ _ _)).trans (Dev.sameOrder_countViolation _ _ _)

theorem Dev.sameOrder_packetDone (d : Dev) (n v : Nat) (bs : List Byte) (marked : Option Nat) :
    Dev.sameOrder l d (d.packetDone n v bs marked) := by
  unfold Dev.packetDone
  extract_lets flits drop
  have hdrop : ∀ cls, Dev.sameOrder l d (drop cls) := fun cls =>
    (d.sameOrder_free n v flits).trans (Dev.sameOrder_violate _ _ _ _)
  split
  · split
    · exact (hdrop 5).trans (Dev.sameOrder_modLink _ _ (fun _ => rfl) (fun _ => id))
    · exact hdrop _
  · split
    · exact hdrop 1
    · split
      · exact hdrop 3
      · exact d.sameOrder_modLink _ (fun _ => rfl) (fun _ => id)

theorem Dev.sameOrder_takeFlit (d : Dev) (n : Nat) (f : Flit) : Dev.sameOrder l d (d.takeFlit n f) := by
  unfold Dev.takeFlit
  extract_lets x have_ used mark mark' bs d1
  have h1 : Dev.sameOrder l d d1 := d.sameOrder_setLink n rfl id
  split
  · exact h1.trans (Dev.sameOrder_packetDone _ _ _ _ _)
  · exact h1

theorem Dev.sameOrder_replay (d : Dev) (n ack : Nat) : Dev.sameOrder l d (d.replay n ack) := by
  unfold Dev.replay
  extract_lets x now recent d1
  have hlink : Dev.sameOrder l d (d.setLink n { x with lastNak := some ack, resend := x.stored, replayAt := recent }) :=
    d.sameOrder_setLink n rfl id
  have h1 : Dev.sameOrder l d d1 := (hlink.trans (Dev.sameLinks_bump _ _ _).sameOrder).trans
    (Dev.sameLinks_trlErr _ _ _ _).sameOrder
  split
  · exact d.sameOrder_refl
  · split
    · exact h1.trans (Dev.sameLinks_startRetrain _ _).sameOrder
    · exact h1

theorem Dev.sameOrder_useHead (d : Dev) (n : Nat) (head : List Byte) : Dev.sameOrder l d (d.useHead n head) := by
  unfold Dev.useHead
  extract_lets w0 w1 ack cred x stored credits seen d1
  have h1 : Dev.sameOrder l d d1 := d.sameOrder_setLink n rfl id
  split
  · exact h1.trans (Dev.sameOrder_replay _ _ _)
  · exact h1

end

/-! ### The count of corrected symbols -/

theorem linkCnt_ne_merged (l die : Nat) : linkCnt l 0x10 ≠ dieReg die 0x1500_0008 := by
  unfold linkCnt portReg dieReg
  omega

theorem linkCnt_ne_linkCnt (l : Nat) {o p : Nat} (h : o ≠ p) : linkCnt l o ≠ linkCnt l p := by
  unfold linkCnt portReg dieReg
  omega

theorem linkCnt_ne_linkStatus (l o : Nat) : linkCnt l o ≠ linkStatus l := by
  unfold linkCnt linkStatus portReg dieReg
  omega

section
variable (d : Dev) (l : Nat)

theorem Dev.corr_trlErr (cls cause : Nat) (i : ErrInfo) : (d.trlErr l cls cause i).reg (linkCnt l 0x10) = d.reg (linkCnt l 0x10) :=
  d.reg_dieErr_ne _ _ _ _ _ _ (linkCnt_ne_merged l)

theorem Dev.corr_bump {o : Nat} (n : Nat) (h : 0x10 ≠ o) : (d.bump (linkCnt l o) n).reg (linkCnt l 0x10) = d.reg (linkCnt l 0x10) :=
  d.reg_setReg_ne _ (linkCnt_ne_linkCnt l h)

theorem Dev.corr_beginRetrain : (d.beginRetrain l).reg (linkCnt l 0x10) = d.reg (linkCnt l 0x10) := by
  unfold Dev.beginRetrain
  split
  · rw [Dev.corr_trlErr, Dev.corr_bump _ _ _ (by decide), Dev.setLinkState,
      Dev.reg_setRegF_ne _ _ _ _ (linkCnt_ne_linkStatus l _)]
  · rfl

theorem Dev.corr_startRetrain : (d.startRetrain l).reg (linkCnt l 0x10) = d.reg (linkCnt l 0x10) := by
  unfold Dev.startRetrain
  split
  · exact d.corr_beginRetrain l
  · rfl

theorem Dev.corr_replay (ack : Nat) : (d.replay l ack).reg (linkCnt l 0x10) = d.reg (linkCnt l 0x10) := by
  unfold Dev.replay
  extract_lets x now recent d1
  have h1 : d1.reg (linkCnt l 0x10) = d.reg (linkCnt l 0x10) := by
    unfold d1
    rw [Dev.corr_trlErr, Dev.corr_bump _ _ _ (by decide)]
    generalize linkCnt l 0x10 = a
    rfl
  split
  · rfl
  · split
    · rw [Dev.corr_startRetrain, h1]
    · exact h1

theorem Dev.corr_useHead (head : List Byte) : (d.useHead l head).reg (linkCnt l 0x10) = d.reg (linkCnt l 0x10) := by
  unfold Dev.useHead
  extract_lets w0 w1 ack cred x stored credits seen d1
  have h1 : d1.reg (linkCnt l 0x10) = d.reg (linkCnt l 0x10) := by
    unfold d1
    generalize linkCnt l 0x10 = a
    rfl
  split
  · rw [Dev.corr_replay, h1]
  · exact h1

/-- Wrong symbols of codewords that the code corrects are counted. -/
theorem Dev.corr_fecDecode (errs : List Nat) (d : Dev) (herrs : ∀ n ∈ errs, n ≤ 15)
    (hlt : d.reg (linkCnt l 0x10) + errs.sum < 2 ^ 64) :
    (d.fecDecode l errs).reg (linkCnt l 0x10) = d.reg (linkCnt l 0x10) + errs.sum := by
  induction errs generalizing d with
  | nil => rfl
  | cons n errs ih =>
    obtain ⟨hn, hrest⟩ := List.forall_mem_cons.mp herrs
    rw [List.sum_cons] at hlt ⊢
    have hstep : d.fecDecode l (n :: errs) = (d.bump (linkCnt l 0x10) n).fecDecode l errs := by
      rw [Dev.fecDecode, List.foldl_cons, if_pos (show n ≤ fecMax from hn)]
      rfl
    have hcount : (d.bump (linkCnt l 0x10) n).reg (linkCnt l 0x10) = d.reg (linkCnt l 0x10) + n := by
      rw [Dev.reg_bump_self, Nat.mod_eq_of_lt (by omega)]
    rw [hstep, ih _ hrest (by rw [hcount]; omega), hcount]
    omega

/-! ### A group comes -/

variable {d l} {errs : List Nat} {head : List Byte} {slots : List (List Byte)}

theorem yields_groupReceive {s : State} {n : BitVec 6} {e : Dev} (h : s.dev.groupReceive n.toNat errs head slots = e) :
    Yields (.groupReceive n errs head slots) s e :=
  yields_lift (fun d => d.groupReceive n.toNat errs head slots) rfl h

theorem Dev.groupReceive_down (h : d.linkUp l = false) : d.groupReceive l errs head slots = d := if_pos (by simp [h])

/-- The group that a head names, once its codewords are decoded. -/
def groupOf (errs : List Nat) (head : List Byte) (slots : List (List Byte)) : HeldGroup :=
  ⟨field (leAt head 0 2) 0 12, errs.all fun n => decide (n ≤ fecMax),
    (List.range 19).filterMap fun s =>
      let t := field (leAt head 20 12) (5 * s) 5
      if bitAt t 3 then some ⟨t % 8, bitAt t 4, slots.getD s []⟩ else none,
    crc32c (slots.flatMap fun s => slice s 0 64)⟩

section
variable (hup : d.linkUp l = true)
include hup

/-- A DATA group with a good head is held. -/
theorem Dev.groupReceive_data (hhead : headGood head) (hheld : (d.link l).held = none)
    (hdata : bitAt (leAt head 0 2) 12 = false) : d.groupReceive l errs head slots =
      ((d.useHead l head).fecDecode l errs).modLink l fun x => { x with held := some (groupOf errs head slots) } := by
  have hnot : ¬(!d.linkUp l) = true := by simp [hup]
  have hcrc : (crc32c (slice head 0 60) == leAt head 60 4) = true := by simpa [headGood] using hhead
  have hidle : ¬bitAt (leAt head 0 2) 12 = true := by simp [hdata]
  refine (if_neg hnot).trans ?_
  simp only [hcrc, hheld, Bool.not_true, Bool.false_eq_true, if_false, if_true, if_neg hidle]
  rfl

/-- An IDLE group with a good head settles the group held, and takes the head's fields. -/
theorem Dev.groupReceive_idle (hhead : headGood head) (hidle : bitAt (leAt head 0 2) 12 = true) {g : HeldGroup}
    (hheld : (d.link l).held = some g) (hcrc : leAt head 56 4 = g.crc) :
    d.groupReceive l errs head slots = ((d.settleHeld l true).useHead l head).fecDecode l errs := by
  have hnot : ¬(!d.linkUp l) = true := by simp [hup]
  have hhcrc : (crc32c (slice head 0 60) == leAt head 60 4) = true := by simpa [headGood] using hhead
  refine (if_neg hnot).trans ?_
  simp only [hhcrc, hheld, hcrc, beq_self_eq_true, Bool.and_self, Bool.not_true, Bool.false_eq_true, if_false, if_true, if_pos hidle]

/-- A group whose head is bad, where none is held, is refused, once for each sequence number. -/
theorem Dev.groupReceive_bad (hhead : ¬headGood head) (hheld : (d.link l).held = none) : ∃ e, d.sameLinks e ∧
    d.groupReceive l errs head slots = if (e.link l).refusing then e else e.refuseGroup l := by
  have hnot : ¬(!d.linkUp l) = true := by simp [hup]
  have hcrc : (crc32c (slice head 0 60) == leAt head 60 4) = false := by simpa [headGood] using hhead
  have hsame : d.sameLinks (if (errs.all fun n => decide (n ≤ fecMax)) then (d.fecDecode l errs).badGroup l false
      else d.fecDecode l errs) := by
    split
    · exact (d.sameLinks_fecDecode l errs).trans (Dev.sameLinks_badGroup _ _ _)
    · exact d.sameLinks_fecDecode l errs
  refine ⟨_, hsame, (if_neg hnot).trans ?_⟩
  simp only [hcrc, hheld, Bool.not_false, Bool.false_eq_true, if_false, if_true]

end

/-- A good group that is not the next in order is dropped. -/
theorem Dev.settleHeld_other {g : HeldGroup} (hheld : (d.link l).held = some g) (hgood : g.good = true)
    (hseq : g.seq ≠ (d.link l).rxSeq) : d.settleHeld l true = d.modLink l fun x => { x with held := none } := by
  simp [Dev.settleHeld, hheld, hgood, hseq]

/-- A good group that is the next in order is accepted. -/
theorem Dev.settleHeld_next {g : HeldGroup} (hheld : (d.link l).held = some g) (hgood : g.good = true)
    (hseq : g.seq = (d.link l).rxSeq) :
    ((d.settleHeld l true).link l).rxSeq = ((d.link l).rxSeq + 1) % 4096 ∧ ((d.settleHeld l true).link l).held = none ∧
      (d.settleHeld l true).mem = d.mem := by
  let d0 := d.modLink l fun x => { x with held := none }
  let d1 := d0.modLink l fun x => { x with rxSeq := (x.rxSeq + 1) % 4096, refusing := false, refused := 0 }
  have hstep : d.settleHeld l true = (g.flits.foldl (fun d f => d.takeFlit l f) d1).bump (linkCnt l 0x08) g.flits.length := by
    simp [Dev.settleHeld, hheld, hgood, hseq, d1, d0]
  have hd1 : d1.link l = { d.link l with held := none, rxSeq := ((d.link l).rxSeq + 1) % 4096, refusing := false, refused := 0 } := by
    unfold d1 d0
    rw [Dev.link_modLink_self, Dev.link_modLink_self]
  have hkeep : Dev.sameOrder l d1 (d.settleHeld l true) := by
    rw [hstep]
    exact (Dev.sameOrder_foldl (fun d f => d.sameOrder_takeFlit l f) g.flits d1).trans (Dev.sameLinks_bump _ _ _).sameOrder
  obtain ⟨hmem, hrx, hnone⟩ := hkeep
  rw [hd1] at hrx hnone
  exact ⟨hrx, hnone rfl, hmem⟩

/-- A refusal short of the eighth in a row. -/
theorem Dev.refuseGroup_leaves (h : (d.link l).refused < 7) :
    d.refuseGroup l = d.modLink l fun x => { x with refusing := true, refused := x.refused + 1 } := by
  have hno : ¬8 ≤ ((d.modLink l fun x => { x with refusing := true, refused := x.refused + 1 }).link l).refused := by
    rw [Dev.link_modLink_self]
    simp only
    omega
  exact if_neg hno

end

/-! ### The head of a group that is sent -/

theorem crcStep_lt (k c : Nat) (h : c < 2 ^ 32) : crcStep k c < 2 ^ 32 := by
  induction k generalizing c with
  | zero => exact h
  | succ k ih =>
    rw [crcStep]
    refine ih _ ?_
    split
    · exact Nat.xor_lt_two_pow (by omega) (by decide)
    · omega

theorem crcRun_lt (bs : List Byte) (c : Nat) (h : c < 2 ^ 32) : crcRun bs c < 2 ^ 32 := by
  induction bs generalizing c with
  | nil => exact h
  | cons b bs ih =>
    exact ih _ (crcStep_lt _ _ (Nat.xor_lt_two_pow h (b.isLt.trans (by decide))))

theorem crc32c_lt (bs : List Byte) : crc32c bs < 2 ^ 32 := Nat.xor_lt_two_pow (crcRun_lt _ _ (by decide)) (by decide)

/-- A slice that lies in the second of three parts is that part. -/
theorem slice_middle (a b c : List Byte) : slice (a ++ b ++ c) a.length b.length = b := by
  simp [slice]

theorem leAt_leBytes (a c : List Byte) (n x : Nat) : leAt (a ++ leBytes n x ++ c) a.length n = x % 256 ^ n := by
  have h := slice_middle a (leBytes n x) c
  rw [length_leBytes] at h
  rw [leAt, h, leNat_leBytes]

/-- The first 60 bytes of a head. -/
def Dev.headBody (d : Dev) (l seq : Nat) (idle resync : Bool) (fs : List Flit) : List Byte :=
  leBytes 2 (seq + b2n idle * 2 ^ 12 + b2n resync * 2 ^ 13) ++
    leBytes 2 (((d.link l).rxSeq + 4095) % 4096 + b2n (d.link l).refusing * 2 ^ 12) ++
    (((List.range 8).flatMap fun v => leBytes 2 (d.headCred l resync v % 65536)) ++ slotTags fs ++
      List.replicate 24 0 ++ leBytes 4 (d.link l).pcrc)

theorem Dev.headFlit_eq (d : Dev) (l seq : Nat) (idle resync : Bool) (fs : List Flit) : d.headFlit l seq idle resync fs =
    d.headBody l seq idle resync fs ++ leBytes 4 (crc32c (d.headBody l seq idle resync fs)) := by
  simp only [Dev.headFlit, Dev.headBody, List.append_assoc]

theorem Dev.length_headBody (d : Dev) (l seq : Nat) (idle resync : Bool) (fs : List Flit) :
    (d.headBody l seq idle resync fs).length = 60 := by
  have hcred : ((List.range 8).flatMap fun v => leBytes 2 (d.headCred l resync v % 65536)).length = 16 := by
    simp [List.length_flatMap]
  simp only [Dev.headBody, slotTags, List.length_append, length_leBytes, List.length_replicate, hcred]

theorem Dev.headFlit_leaves (d : Dev) (l seq : Nat) (idle resync : Bool) (fs : List Flit) :
    let head := d.headFlit l seq idle resync fs
    headGood head ∧ head.length = 64 ∧ field (leAt head 2 2) 0 12 = ((d.link l).rxSeq + 4095) % 4096 ∧
      bitAt (leAt head 2 2) 12 = (d.link l).refusing := by
  intro head
  have hhead : head = _ := d.headFlit_eq l seq idle resync fs
  have hlen := d.length_headBody l seq idle resync fs
  have hword : leAt head 2 2 = ((d.link l).rxSeq + 4095) % 4096 + b2n (d.link l).refusing * 2 ^ 12 := by
    have hle := leAt_leBytes (leBytes 2 (seq + b2n idle * 2 ^ 12 + b2n resync * 2 ^ 13))
      ((((List.range 8).flatMap fun v => leBytes 2 (d.headCred l resync v % 65536)) ++ slotTags fs ++
        List.replicate 24 0 ++ leBytes 4 (d.link l).pcrc) ++ leBytes 4 (crc32c (d.headBody l seq idle resync fs))) 2
      (((d.link l).rxSeq + 4095) % 4096 + b2n (d.link l).refusing * 2 ^ 12)
    rw [length_leBytes, ← List.append_assoc] at hle
    rw [hhead]
    refine hle.trans (Nat.mod_eq_of_lt ?_)
    cases (d.link l).refusing <;> simp [b2n] <;> omega
  generalize d.headBody l seq idle resync fs = body at hhead hlen
  refine ⟨?_, ?_, ?_, ?_⟩
  · have hbody : slice head 0 60 = body := by
      have h := slice_middle [] body (leBytes 4 (crc32c body))
      rwa [List.length_nil, List.nil_append, ← hhead, hlen] at h
    have hcrc := leAt_leBytes body [] 4 (crc32c body)
    rw [List.append_nil, ← hhead, hlen, Nat.mod_eq_of_lt (show crc32c body < 256 ^ 4 from crc32c_lt body)] at hcrc
    rw [headGood, hbody, hcrc]
  · rw [hhead, List.length_append, hlen, length_leBytes]
  · rw [hword]
    simp [field]
  · rw [hword]
    have hlow : ((d.link l).rxSeq + 4095) % 4096 < 2 ^ 12 := Nat.mod_lt _ (by decide)
    have hbit : field (((d.link l).rxSeq + 4095) % 4096 + b2n (d.link l).refusing * 2 ^ 12) 12 1 = b2n (d.link l).refusing := by
      rw [field, Nat.add_mul_div_right _ _ (by decide), Nat.div_eq_of_lt hlow]
      cases (d.link l).refusing <;> rfl
    rw [bitAt, hbit]
    cases (d.link l).refusing <;> rfl

/-- Settles O35: a group by its codewords, checksums and number, then the fields of a sent head. -/
theorem groupsAreTakenInOrder : Obligations.GroupsAreTakenInOrder := by
  unfold Obligations.GroupsAreTakenInOrder
  refine ⟨fun s l errs head slots hl => ?_, fun d l seq idle resync fs => d.headFlit_leaves l seq idle resync fs⟩
  intro d x corr
  refine ⟨fun hdown => yields_groupReceive (Dev.groupReceive_down hdown), fun hup hhead hheld hdata => ?_,
    fun hup hhead hidle g hheld hgood hcrc => ?_, fun hup hhead hheld hfew => ?_⟩
  · have hlinks := (d.useHead l.toNat head).sameLinks_fecDecode l.toNat errs
    obtain ⟨hmem, hrx, -⟩ := (d.sameOrder_useHead (l := l.toNat) l.toNat head).trans hlinks.sameOrder
    refine ⟨_, yields_groupReceive (Dev.groupReceive_data hup hhead hheld hdata), groupOf errs head slots, ?_, rfl, rfl, ?_,
      hmem, fun herrs hlt => ?_⟩
    · rw [Dev.link_modLink_self]
    · rw [Dev.link_modLink_self]
      exact hrx
    · have hcount := Dev.corr_fecDecode l.toNat errs (d.useHead l.toNat head) herrs
      rw [d.corr_useHead l.toNat head] at hcount
      exact hcount hlt
  · have hrest : ∀ e : Dev, Dev.sameOrder l.toNat e ((e.useHead l.toNat head).fecDecode l.toNat errs) := fun e =>
      (e.sameOrder_useHead l.toNat head).trans (Dev.sameLinks_fecDecode _ _ _).sameOrder
    obtain ⟨hmem, hrx, hnone⟩ := hrest (d.settleHeld l.toNat true)
    have hgo := yields_groupReceive (s := s) (Dev.groupReceive_idle (errs := errs) (slots := slots) hup hhead hidle hheld hcrc)
    constructor
    · intro hseq
      obtain ⟨hrx', hnone', hmem'⟩ := Dev.settleHeld_next hheld hgood hseq
      exact ⟨_, hgo, hrx.trans hrx', hnone hnone', hmem.trans hmem'⟩
    · intro hseq
      rw [Dev.settleHeld_other hheld hgood hseq] at hmem hrx hnone hgo
      rw [Dev.link_modLink_self] at hrx hnone
      exact ⟨_, hgo, hrx, hnone rfl, hmem⟩
  · obtain ⟨e, hsame, hrecv⟩ := Dev.groupReceive_bad (errs := errs) (slots := slots) hup hhead hheld
    have hlink := hsame.link l.toNat
    refine ⟨_, yields_groupReceive hrecv, ?_⟩
    cases hr : x.refusing with
    | true =>
      rw [if_pos (by rw [hlink]; exact hr)]
      exact ⟨by rw [hlink], by rw [hlink]; exact hr, hsame.2, by rw [hlink, if_pos rfl]⟩
    | false =>
      rw [if_neg (by rw [hlink]; simp [x] at hr; simp [hr]), Dev.refuseGroup_leaves (by rw [hlink]; exact hfew)]
      rw [Dev.link_modLink_self, hlink]
      exact ⟨rfl, rfl, hsame.2, (if_neg nofun).symm⟩

end Sys2Proof.Machine

/-! States of Trail links: retrains, links that stop, and packets in transit (R24, R266, R270, R271, R276, R279, R288), for
O36. -/

namespace Sys2Proof.Machine

/-! ### The states of the links -/

theorem linkStatus_inj {l n : Nat} (h : linkStatus l = linkStatus n) : l = n := by
  unfold linkStatus portReg dieReg linkDie at h
  omega

/-- An address that is no TRL_STATUS. -/
def notStatus (a : Nat) : Prop := ∀ n, a ≠ linkStatus n

theorem notStatus_of_mod {a : Nat} (h : a % 2 ^ 24 ≠ 0x10 ∧ a % 2 ^ 24 ≠ 0x14) : notStatus a := by
  intro n ha
  unfold linkStatus portReg dieReg dieBase at ha
  omega

theorem notStatus_linkCnt (l : Nat) {o : Nat} (ho : o < 0x80) : notStatus (linkCnt l o) := by
  refine notStatus_of_mod ?_
  unfold linkCnt portReg dieReg dieBase
  omega

theorem notStatus_dieReg (die : Nat) {o : Nat} (ho : o % 2 ^ 24 ≠ 0x10 ∧ o % 2 ^ 24 ≠ 0x14) : notStatus (dieReg die o) := by
  refine notStatus_of_mod ?_
  unfold dieReg dieBase
  omega

/-- Every link is in the state in which it was. -/
def Dev.sameStates (d e : Dev) : Prop := ∀ n, e.linkState n = d.linkState n

theorem Dev.sameStates.trans {d e f : Dev} (h : d.sameStates e) (k : e.sameStates f) : d.sameStates f :=
  fun n => (k n).trans (h n)

theorem Dev.sameStates_of_regs {d e : Dev} (h : e.regs = d.regs) : d.sameStates e := by
  intro n
  rw [Dev.linkState, Dev.regF, Dev.reg, h]
  rfl

theorem Dev.sameStates_refl (d : Dev) : d.sameStates d := fun _ => rfl

theorem Dev.sameStates_setReg (d : Dev) {a : Nat} (v : Nat) (h : notStatus a) : d.sameStates (d.setReg a v) := by
  intro n
  rw [Dev.linkState, Dev.regF, d.reg_setReg_ne v (h n).symm]
  rfl

theorem Dev.sameStates_bump (d : Dev) {a : Nat} (v : Nat) (h : notStatus a) : d.sameStates (d.bump a v) :=
  d.sameStates_setReg _ h

theorem Dev.sameStates_setLink (d : Dev) (l : Nat) (x : Link) : d.sameStates (d.setLink l x) := Dev.sameStates_of_regs rfl
theorem Dev.sameStates_modLink (d : Dev) (l : Nat) (f : Link → Link) : d.sameStates (d.modLink l f) := Dev.sameStates_of_regs rfl
theorem Dev.sameStates_sendSb (d : Dev) (p t : Nat) (bs : List Byte) : d.sameStates (d.sendSb p t bs) := Dev.sameStates_of_regs rfl

theorem Dev.sameStates_trlErr (d : Dev) (l cls cause : Nat) (i : ErrInfo) : d.sameStates (d.trlErr l cls cause i) := by
  intro n
  have hne : ∀ die, linkStatus n ≠ dieReg die 0x1500_0008 := fun die => (notStatus_dieReg die (by decide) n).symm
  rw [Dev.linkState, Dev.regF, Dev.trlErr, Dev.reg_dieErr_ne _ _ _ _ _ _ _ hne]
  rfl

theorem Dev.sameStates.linkGone {d e : Dev} (h : d.sameStates e) (n : Nat) : e.linkGone n = d.linkGone n := by
  rw [Dev.linkGone, h n]
  rfl

theorem Dev.linkState_setLinkState (d : Dev) (l s n : Nat) (hs : s < 8) :
    (d.setLinkState l s).linkState n = if n = l then s else d.linkState n := by
  split
  · next h =>
    rw [h, Dev.linkState, Dev.setLinkState, Dev.regF_setRegF_self _ _ _ (by decide), Nat.mod_eq_of_lt (show s < 2 ^ 3 from hs)]
  · next h =>
    rw [Dev.linkState, Dev.setLinkState, Dev.regF_setRegF_ne _ _ _ _ _ _ fun he => h (linkStatus_inj he)]
    rfl

/-! ### Packets that leave a link which stops -/

/-- Link states are as before, and so are the packets queued on link l, where it is out of use, and its replay buffer. -/
def Dev.sends (l : Nat) (d e : Dev) : Prop :=
  d.sameStates e ∧ (d.linkGone l = true → (e.link l).queue = (d.link l).queue) ∧ (e.link l).stored = (d.link l).stored

section
variable {l : Nat}

theorem Dev.sends_refl (d : Dev) : d.sends l d := ⟨d.sameStates_refl, fun _ => rfl, rfl⟩

theorem Dev.sends.trans {d e f : Dev} (h : Dev.sends l d e) (k : Dev.sends l e f) : Dev.sends l d f :=
  ⟨h.1.trans k.1, fun hg => (k.2.1 (by rw [h.1.linkGone]; exact hg)).trans (h.2.1 hg), k.2.2.trans h.2.2⟩

theorem Dev.sends_foldl {α : Type} {f : Dev → α → Dev} (h : ∀ (d : Dev) a, Dev.sends l d (f d a)) (as : List α) (d : Dev) :
    Dev.sends l d (as.foldl f d) := by
  induction as generalizing d with
  | nil => exact d.sends_refl
  | cons a as ih => exact (h d a).trans (ih (f d a))

theorem Dev.sends_of_links {d e : Dev} (hs : d.sameStates e) (hl : d.sameLinks e) : Dev.sends l d e :=
  ⟨hs, fun _ => by rw [hl.link], by rw [hl.link]⟩

/-- A change of a link that leaves its replay buffer, and leaves its queue where it is out of use. -/
theorem Dev.sends_modLink (d : Dev) (n : Nat) {f : Link → Link} (hq : d.linkGone n = false ∨ ∀ x, (f x).queue = x.queue)
    (hst : ∀ x, (f x).stored = x.stored) : Dev.sends l d (d.modLink n f) := by
  refine ⟨d.sameStates_modLink _ _, fun hg => ?_, ?_⟩ <;> rw [Dev.link_modLink] <;> split
  · next h =>
    rcases hq with hq | hq
    · rw [← h, hg] at hq
      cases hq
    · rw [hq, h]
  · rfl
  · next h => rw [hst, h]
  · rfl

/-- The link a packet goes out on is in use. -/
theorem Dev.egressOf_some {d : Dev} {dest out : Nat} (h : d.egressOf dest = some out) :
    out ∈ d.routeLinks (field dest 48 10) ∧ d.linkGone out = false := by
  have hmem : out ∈ (d.routeTurn dest).filter fun l => !d.linkGone l := by
    unfold Dev.egressOf at h
    extract_lets ls at h
    cases hf : ls.find? fun l => d.linkState l != 0 with
    | some n =>
      rw [hf] at h
      obtain rfl := Option.some.inj h
      exact List.mem_of_find?_eq_some hf
    | none =>
      rw [hf] at h
      exact List.mem_of_head? h
  obtain ⟨hturn, hgone⟩ := List.mem_filter.mp hmem
  refine ⟨?_, by simpa using hgone⟩
  rcases List.mem_append.mp hturn with hd | ht
  · exact List.mem_of_mem_drop hd
  · exact List.mem_of_mem_take ht

theorem Dev.sends_sendNak (d : Dev) (n reason : Nat) (hdr : List Byte) : Dev.sends l d (d.sendNak n reason hdr) := by
  unfold Dev.sendNak
  extract_lets nak pkt
  split
  · exact d.sends_modLink n (.inr fun _ => rfl) fun _ => rfl
  · split
    · next out hout =>
      have henq : Dev.sends l d (d.enqueue out 0 pkt) := d.sends_modLink out (.inl (Dev.egressOf_some hout).2) fun _ => rfl
      exact henq.trans (Dev.sends_of_links (Dev.sameStates_bump _ _ (notStatus_linkCnt _ (by decide)))
        (Dev.sameLinks_bump _ _ _))
    · exact Dev.sends_of_links (d.sameStates_trlErr _ _ _ _) (d.sameLinks_trlErr _ _ _)

theorem Link.stored_putHead (x : Link) (v : Nat) (p : List Byte) : (x.putHead v p).stored = x.stored := by
  unfold Link.putHead
  split
  · rfl
  · split <;> rfl

theorem Dev.nextLink_some {d : Dev} {n dest m : Nat} (h : d.nextLink n dest = some m) : d.linkGone m = false := by
  unfold Dev.nextLink at h
  extract_lets ls at h
  split at h
  · have hp := List.find?_some h
    simp only [Bool.and_eq_true, Bool.not_eq_true'] at hp
    exact hp.1.2
  · cases h

theorem Dev.sends_moveQueue (d : Dev) (n : Nat) (ps : List (Nat × List Byte)) : Dev.sends l d (d.moveQueue n ps) := by
  induction ps with
  | nil => exact d.sends_refl
  | cons p ps ih =>
    rw [Dev.moveQueue]
    refine ih.trans ?_
    split
    · next m hm => exact Dev.sends_modLink _ m (.inl (Dev.nextLink_some hm)) fun x => x.stored_putHead _ _
    · exact Dev.sends_sendNak _ _ _ _

/-- A link that goes down or is quarantined is in that state, with nothing queued or to be sent again; the others stay in
theirs. -/
theorem Dev.stopLink_leaves (d : Dev) {s : Nat} (hs : s = 4 ∨ s = 5) :
    (∀ n, (d.stopLink l s).linkState n = if n = l then s else d.linkState n) ∧
      ((d.stopLink l s).link l).queue = [] ∧ ((d.stopLink l s).link l).stored = [] ∧
      ∀ n, n ≠ l → d.linkGone n = true → ((d.stopLink l s).link n).queue = (d.link n).queue := by
  obtain ⟨d1, hlink, hstates, hsends⟩ : ∃ d1 : Dev, ((d1.link l).queue = [] ∧ (d1.link l).stored = [] ∧
      ∀ n, n ≠ l → d1.link n = d.link n) ∧ (∀ n, d1.linkState n = if n = l then s else d.linkState n) ∧
      ∀ n, Dev.sends n d1 (d.stopLink l s) := by
    unfold Dev.stopLink
    extract_lets x cut d1
    have hd1 : d1.link l = _ := Dev.link_setLink_self _ _ _
    refine ⟨d1, ⟨by rw [hd1], by rw [hd1], fun n hn => ?_⟩, fun n => ?_, fun n =>
      (Dev.sends_moveQueue _ _ _).trans (Dev.sends_foldl (fun d _ => d.sends_sendNak _ _ _) _ _)⟩
    · unfold d1
      rw [Dev.link_setLink, if_neg hn]
      exact (d.sameLinks_setLinkState l s).link n
    · rw [← d.linkState_setLinkState l s n (by omega)]
      exact Dev.sameStates_setLink _ _ _ n
  obtain ⟨hqueue, hstored, hother⟩ := hlink
  have hgone : d1.linkGone l = true := by
    rw [Dev.linkGone, hstates, if_pos rfl]
    rcases hs with rfl | rfl <;> rfl
  refine ⟨fun n => ((hsends n).1 n).trans (hstates n), ((hsends l).2.1 hgone).trans hqueue, (hsends l).2.2.trans hstored,
    fun n hn hg => ((hsends n).2.1 ?_).trans (by rw [hother n hn])⟩
  rw [Dev.linkGone, hstates, if_neg hn]
  exact hg

end

/-! ### A change of every link of a port -/

theorem Dev.nodup_portLinks (d : Dev) (p : Nat) : (d.portLinks p).Nodup := by
  refine List.Nodup.filter _ ?_
  simp

theorem Dev.of_mem_portLinks {d : Dev} {p l : Nat} (h : l ∈ d.portLinks p) : l / 2 = p := by
  have hl := (List.mem_filter.mp h).1
  simp only [List.mem_cons, List.not_mem_nil, or_false] at hl
  omega

/-- Changes of one link after another: what a change does to its own link (`Q`) stands in the end, where a change of
another link keeps the link as it was (`K`). -/
theorem Dev.foldl_each {f : Dev → Nat → Dev} {K Q : Nat → Dev → Dev → Prop} (hrefl : ∀ l d, K l d d)
    (htrans : ∀ {l a b c}, K l a b → K l b c → K l a c) (hKQ : ∀ {l a b c}, K l a b → Q l b c → Q l a c)
    (hQK : ∀ {l a b c}, Q l a b → K l b c → Q l a c) {P : Nat → Prop} (hQ : ∀ l d, P l → Q l d (f d l))
    (hK : ∀ l n d, P n → l ≠ n → K l d (f d n)) (ls : List Nat) (hP : ∀ l ∈ ls, P l) (hnodup : ls.Nodup) (d : Dev) :
    (∀ l ∈ ls, Q l d (ls.foldl f d)) ∧ ∀ l, l ∉ ls → K l d (ls.foldl f d) := by
  induction ls generalizing d with
  | nil => exact ⟨fun _ h => absurd h List.not_mem_nil, fun l _ => hrefl l d⟩
  | cons n ns ih =>
    obtain ⟨hn, hns⟩ := List.nodup_cons.mp hnodup
    obtain ⟨hPn, hPns⟩ := List.forall_mem_cons.mp hP
    obtain ⟨hin, hout⟩ := ih hPns hns (f d n)
    refine ⟨List.forall_mem_cons.mpr ⟨hQK (hQ n d hPn) (hout n hn), fun l hl => ?_⟩, fun l hl => ?_⟩
    · exact hKQ (hK l n d hPn (ne_of_mem_of_not_mem hl hn)) (hin l hl)
    · obtain ⟨hne, hnot⟩ : l ≠ n ∧ l ∉ ns := by simpa using hl
      exact htrans (hK l n d hPn hne) (hout l hnot)

/-! ### Retrains -/

theorem Dev.link_startRetrain (d : Dev) (l n : Nat) : (d.startRetrain l).link n = d.link n := (d.sameLinks_startRetrain l).link n

theorem Dev.linkState_beginRetrain (d : Dev) (l n : Nat) : (d.beginRetrain l).linkState n =
    if n = l ∧ (d.linkState l = 2 ∨ d.linkState l = 4) then 3 else d.linkState n := by
  unfold Dev.beginRetrain
  split
  · next h =>
    have hrest := (((d.setLinkState l 3).sameStates_bump 1 (notStatus_linkCnt l (o := 0x28) (by decide))).trans
      (Dev.sameStates_trlErr _ l clsCorrected 0x01 { tag := l })) n
    rw [hrest, Dev.linkState_setLinkState _ _ _ _ (by decide)]
    simp only [h, and_true]
  · next h => rw [if_neg fun hn => h hn.2]

theorem Dev.linkState_startRetrain (d : Dev) (l n : Nat) : (d.startRetrain l).linkState n =
    if n = l ∧ (d.linkState l = 2 ∨ d.linkState l = 4) then 3 else d.linkState n := by
  unfold Dev.startRetrain
  split
  · exact (Dev.sameStates_sendSb _ _ _ _ n).trans (d.linkState_beginRetrain l n)
  · next h => rw [if_neg fun hn => h hn.2]

/-! ### Sideband frames that wait -/

theorem Dev.port_of_ports {d e : Dev} (h : e.ports = d.ports) (p : Nat) : e.port p = d.port p := by
  rw [Dev.port, h]
  rfl

theorem Dev.out_sendSb (d : Dev) (p t : Nat) (bs : List Byte) (q : Nat) : ∃ f : SbFrame, f.typ = BitVec.ofNat 8 t ∧
    ((d.sendSb p t bs).port q).out = if q = p then (d.port q).out ++ [f] else (d.port q).out := by
  refine ⟨⟨BitVec.ofNat 8 t, BitVec.ofNat 8 bs.length, BitVec.ofNat 8 (d.port p).seq, bs, true⟩, rfl, ?_⟩
  have hport : (d.sendSb p t bs).port q = if q = p then _ else d.port q := look_put _ _ _ _ _
  rw [hport]
  split
  · next h => rw [h]; rfl
  · rfl

theorem Dev.ports_trlErr (d : Dev) (l cause : Nat) (i : ErrInfo) : (d.trlErr l clsCorrected cause i).ports = d.ports := by
  have h : d.onlyLogs (d.trlErr l clsCorrected cause i) := d.onlyLogs_logErr _ _ _ _ _ (by decide)
  unfold Dev.onlyLogs at h
  rw [h]

theorem Dev.ports_setReg (d : Dev) (a v : Nat) : (d.setReg a v).ports = d.ports := rfl

theorem Dev.ports_beginRetrain (d : Dev) (l : Nat) : (d.beginRetrain l).ports = d.ports := by
  unfold Dev.beginRetrain
  split
  · rw [Dev.ports_trlErr]
    exact (Dev.ports_setReg _ _ _).trans (Dev.ports_setReg _ _ _)
  · rfl

/-- A retrain that starts asks the partner with a TRAIN frame. -/
theorem Dev.out_startRetrain (d : Dev) (l : Nat) :
    (∀ q, ∀ f ∈ (d.port q).out, f ∈ ((d.startRetrain l).port q).out) ∧
      ((d.linkState l = 2 ∨ d.linkState l = 4) → ∃ f ∈ ((d.startRetrain l).port (l / 2)).out, f.typ = 0x05) := by
  unfold Dev.startRetrain
  by_cases h : d.linkState l = 2 ∨ d.linkState l = 4
  · rw [if_pos h]
    have hsb := (d.beginRetrain l).out_sendSb (l / 2) 5
      [BitVec.ofNat 8 l, BitVec.ofNat 8 (d.laneCount l - (d.link l).lanesOut - (d.link l).lanesBad)]
    refine ⟨fun q f hf => ?_, fun _ => ?_⟩
    · obtain ⟨g, -, hout⟩ := hsb q
      rw [hout, Dev.port_of_ports (d.ports_beginRetrain l)]
      split
      · exact List.mem_append_left _ hf
      · exact hf
    · obtain ⟨g, htyp, hout⟩ := hsb (l / 2)
      rw [hout, if_pos rfl]
      exact ⟨g, List.mem_append_right _ (List.mem_singleton.mpr rfl), htyp⟩
  · rw [if_neg h]
    exact ⟨fun _ _ => id, fun hl => absurd hl h⟩

/-- Memory, the state of link l and what it holds are as before, and the sideband frames that wait still wait. -/
def Dev.keepsLink (l : Nat) (d e : Dev) : Prop :=
  e.mem = d.mem ∧ e.linkState l = d.linkState l ∧ e.link l = d.link l ∧ ∀ q, ∀ f ∈ (d.port q).out, f ∈ (e.port q).out

theorem Dev.keepsLink_refl (l : Nat) (d : Dev) : Dev.keepsLink l d d := ⟨rfl, rfl, rfl, fun _ _ => id⟩

theorem Dev.keepsLink.trans {l : Nat} {a b c : Dev} (h : Dev.keepsLink l a b) (k : Dev.keepsLink l b c) :
    Dev.keepsLink l a c :=
  ⟨k.1.trans h.1, k.2.1.trans h.2.1, k.2.2.1.trans h.2.2.1, fun q f hf => k.2.2.2 q f (h.2.2.2 q f hf)⟩

theorem Dev.keepsLink_startRetrain (d : Dev) {l n : Nat} (h : l ≠ n) : Dev.keepsLink l d (d.startRetrain n) :=
  ⟨(d.sameLinks_startRetrain n).2, by rw [d.linkState_startRetrain, if_neg fun hn => h hn.1], d.link_startRetrain n l,
    (d.out_startRetrain n).1⟩

theorem Dev.keepsLink_modLink (d : Dev) {l n : Nat} (f : Link → Link) (h : l ≠ n) : Dev.keepsLink l d (d.modLink n f) :=
  ⟨rfl, d.sameStates_modLink n f l, by rw [Dev.link_modLink, if_neg h], fun _ _ => id⟩

/-- What RETRAIN does to a link of its port. -/
def Dev.retrains (p l : Nat) (d e : Dev) : Prop := e.mem = d.mem ∧
  (d.linkState l = 2 ∨ d.linkState l = 4 → e.linkState l = 3 ∧ (e.link l).lanesOut = 0 ∧ ∃ f ∈ (e.port p).out, f.typ = 0x05) ∧
  (d.linkState l = 0 ∨ d.linkState l = 5 → e.linkState l = d.linkState l)

theorem Dev.keepsLink.retrains {p l : Nat} {a b c : Dev} (h : Dev.keepsLink l a b) (k : Dev.retrains p l b c) :
    Dev.retrains p l a c := by
  obtain ⟨hmem, hstate, -, -⟩ := h
  unfold Dev.retrains at *
  rwa [hmem, hstate] at k

theorem Dev.retrains.keepsLink {p l : Nat} {a b c : Dev} (h : Dev.retrains p l a b) (k : Dev.keepsLink l b c) :
    Dev.retrains p l a c := by
  obtain ⟨hmem, hstate, hlink, hout⟩ := k
  refine ⟨hmem.trans h.1, fun hl => ?_, fun hl => hstate.trans (h.2.2 hl)⟩
  obtain ⟨h3, hlanes, f, hf, htyp⟩ := h.2.1 hl
  exact ⟨hstate.trans h3, by rw [hlink, hlanes], f, hout p f hf, htyp⟩

/-- The step of RETRAIN at one link. -/
def Dev.retrainLink (d : Dev) (l : Nat) : Dev :=
  if d.linkState l = 0 then d else (d.modLink l fun x => { x with lanesOut := 0 }).startRetrain l

theorem Dev.retrains_retrainLink (l : Nat) (d : Dev) : Dev.retrains (l / 2) l d (d.retrainLink l) := by
  unfold Dev.retrainLink
  split
  · next h0 => exact ⟨rfl, fun h => absurd h (by omega), fun _ => rfl⟩
  · next h0 =>
    have hstate := d.sameStates_modLink l (fun x => { x with lanesOut := 0 }) l
    refine ⟨(Dev.sameLinks_startRetrain _ _).2, fun h => ⟨?_, ?_, (Dev.out_startRetrain _ _).2 (by rwa [hstate])⟩, fun h => ?_⟩
    · rw [Dev.linkState_startRetrain, hstate, if_pos ⟨rfl, h⟩]
    · rw [Dev.link_startRetrain, Dev.link_modLink_self]
    · rw [Dev.linkState_startRetrain, hstate, if_neg (by omega)]

theorem Dev.keepsLink_retrainLink (d : Dev) {l n : Nat} (h : l ≠ n) : Dev.keepsLink l d (d.retrainLink n) := by
  unfold Dev.retrainLink
  split
  · exact Dev.keepsLink_refl l d
  · exact (d.keepsLink_modLink _ h).trans (Dev.keepsLink_startRetrain _ h)

/-- No link of the next port is one of this port. -/
theorem Dev.next_not_mem_portLinks (d : Dev) (p : Nat) : 2 * p + 2 ∉ d.portLinks p := fun h => by
  have := Dev.of_mem_portLinks h
  omega

theorem Dev.retrainPort_leaves (d : Dev) (p : Nat) :
    (d.retrainPort p).mem = d.mem ∧ ∀ l ∈ d.portLinks p, Dev.retrains p l d (d.retrainPort p) := by
  obtain ⟨hin, hout⟩ := Dev.foldl_each (f := Dev.retrainLink) (K := Dev.keepsLink) (Q := Dev.retrains p)
    (P := fun l => l / 2 = p) Dev.keepsLink_refl Dev.keepsLink.trans Dev.keepsLink.retrains Dev.retrains.keepsLink
    (fun l d h => h ▸ Dev.retrains_retrainLink l d) (fun l n d _ h => d.keepsLink_retrainLink h) (d.portLinks p)
    (fun l => Dev.of_mem_portLinks) (d.nodup_portLinks p) d
  exact ⟨(hout _ (d.next_not_mem_portLinks p)).1, hin⟩

/-! ### The end of a quarantine -/

/-- The step of QREL at one link of port p. -/
def Dev.releaseLink (p : Nat) (d : Dev) (l : Nat) : Dev :=
  if d.linkState l = 5 then
    (((d.modLink l fun x => { x with viols := [] }).setLinkState l 4).startRetrain l).sendSb p 4 [BitVec.ofNat 8 l]
  else d

/-- What QREL does to a link of its port. -/
def Dev.releases (p l : Nat) (d e : Dev) : Prop := e.mem = d.mem ∧
  (d.linkState l = 5 → e.linkState l = 3 ∧ (e.link l).viols = [] ∧ ∃ f ∈ (e.port p).out, f.typ = 0x04) ∧
  (d.linkState l ≠ 5 → e.linkState l = d.linkState l)

theorem Dev.keepsLink.releases {p l : Nat} {a b c : Dev} (h : Dev.keepsLink l a b) (k : Dev.releases p l b c) :
    Dev.releases p l a c := by
  obtain ⟨hmem, hstate, -, -⟩ := h
  unfold Dev.releases at *
  rwa [hmem, hstate] at k

theorem Dev.releases.keepsLink {p l : Nat} {a b c : Dev} (h : Dev.releases p l a b) (k : Dev.keepsLink l b c) :
    Dev.releases p l a c := by
  obtain ⟨hmem, hstate, hlink, hout⟩ := k
  refine ⟨hmem.trans h.1, fun hl => ?_, fun hl => hstate.trans (h.2.2 hl)⟩
  obtain ⟨h3, hviols, f, hf, htyp⟩ := h.2.1 hl
  exact ⟨hstate.trans h3, by rw [hlink, hviols], f, hout p f hf, htyp⟩

theorem Dev.keepsLink_sendSb (d : Dev) (l p t : Nat) (bs : List Byte) : Dev.keepsLink l d (d.sendSb p t bs) := by
  refine ⟨rfl, d.sameStates_sendSb p t bs l, (d.sameLinks_sendSb p t bs).link l, fun q f hf => ?_⟩
  obtain ⟨g, -, hout⟩ := d.out_sendSb p t bs q
  rw [hout]
  split
  · exact List.mem_append_left _ hf
  · exact hf

theorem Dev.keepsLink_setLinkState (d : Dev) {l n : Nat} {s : Nat} (hs : s < 8) (h : l ≠ n) :
    Dev.keepsLink l d (d.setLinkState n s) :=
  ⟨(d.sameLinks_setLinkState n s).2, by rw [d.linkState_setLinkState n s l hs, if_neg h],
    (d.sameLinks_setLinkState n s).link l, fun q f hf => by
      rwa [Dev.port_of_ports (show (d.setLinkState n s).ports = d.ports from d.ports_setReg _ _)]⟩

theorem Dev.keepsLink_releaseLink (d : Dev) (p : Nat) {l n : Nat} (h : l ≠ n) : Dev.keepsLink l d (Dev.releaseLink p d n) := by
  unfold Dev.releaseLink
  split
  · exact (((d.keepsLink_modLink _ h).trans (Dev.keepsLink_setLinkState _ (by decide) h)).trans
      (Dev.keepsLink_startRetrain _ h)).trans (Dev.keepsLink_sendSb _ _ _ _ _)
  · exact Dev.keepsLink_refl l d

theorem Dev.releases_releaseLink (p l : Nat) (d : Dev) : Dev.releases p l d (Dev.releaseLink p d l) := by
  unfold Dev.releaseLink
  split
  · next h5 =>
    let d1 := d.modLink l fun x => { x with viols := [] }
    let d2 := d1.setLinkState l 4
    have h4 : d2.linkState l = 4 := by rw [Dev.linkState_setLinkState _ _ _ _ (by decide), if_pos rfl]
    have hlink : d2.link l = { d.link l with viols := [] } :=
      ((d1.sameLinks_setLinkState l 4).link l).trans (d.link_modLink_self l _)
    have hmem : ((d2.startRetrain l).sendSb p 4 [BitVec.ofNat 8 l]).mem = d1.mem :=
      ((d2.startRetrain l).keepsLink_sendSb l p 4 _).1.trans
        ((d2.sameLinks_startRetrain l).2.trans (d1.sameLinks_setLinkState l 4).2)
    refine ⟨hmem, fun _ => ⟨?_, ?_, ?_⟩,
      fun h => absurd h5 h⟩
    · rw [Dev.sameStates_sendSb _ _ _ _ l, Dev.linkState_startRetrain, if_pos ⟨rfl, .inr h4⟩]
    · rw [(Dev.sameLinks_sendSb _ _ _ _).link, Dev.link_startRetrain, hlink]
    · obtain ⟨f, htyp, hout⟩ := (d2.startRetrain l).out_sendSb p 4 [BitVec.ofNat 8 l] p
      rw [if_pos rfl] at hout
      exact ⟨f, by rw [hout]; exact List.mem_append_right _ (List.mem_singleton.mpr rfl), htyp⟩
  · next h5 => exact ⟨rfl, fun h => absurd h h5, fun _ => rfl⟩

theorem Dev.endQuarantine_leaves (d : Dev) (p : Nat) :
    (d.endQuarantine p).mem = d.mem ∧ ∀ l ∈ d.portLinks p, Dev.releases p l d (d.endQuarantine p) := by
  obtain ⟨hin, hout⟩ := Dev.foldl_each (f := Dev.releaseLink p) (K := Dev.keepsLink) (Q := Dev.releases p)
    (P := fun _ => True) Dev.keepsLink_refl Dev.keepsLink.trans Dev.keepsLink.releases Dev.releases.keepsLink
    (fun l d _ => Dev.releases_releaseLink p l d) (fun l n d _ h => d.keepsLink_releaseLink p h) (d.portLinks p)
    (fun _ _ => trivial) (d.nodup_portLinks p) d
  exact ⟨(hout _ (d.next_not_mem_portLinks p)).1, hin⟩

/-! ### A retrain ends (R266, R270, R271) -/

theorem wchBaseOf_egress {a die x : Nat} (hr : regionOf a = .dieR die x) (hlo : 6 ≤ die) (hw : x / 0x100_0000 = 19)
    (hi : x % 0x100_0000 / 0x1000 < 49) : wchBaseOf a ≠ none := by
  have hhome : (if die < 2 then 2 else if die < 6 then 7 else 19) = 19 := by
    rw [if_neg (by omega), if_neg (by omega)]
  simp only [wchBaseOf, hr, hhome]
  rw [if_pos ⟨hw, .inr (.inr (.inr ⟨hlo, hi⟩))⟩]
  exact Option.some_ne_none _

theorem wchBaseOf_port {a die x : Nat} (hr : regionOf a = .dieR die x) (hlo : 6 ≤ die) (hw : x / 0x100_0000 < 12) :
    wchBaseOf a = none := by
  have hhome : (if die < 2 then 2 else if die < 6 then 7 else 19) = 19 := by
    rw [if_neg (by omega), if_neg (by omega)]
  simp only [wchBaseOf, hr, hhome]
  exact if_neg fun h => by omega

section
variable {l : Nat} (hl : l < 48)
include hl

theorem regionOf_linkStatus : ∃ o, regionOf (linkStatus l) = .dieR (linkDie l) o ∧ o / 0x100_0000 < 12 := by
  refine ⟨_, regionOf_dieReg (by unfold linkDie; omega) (by omega), by omega⟩

theorem wchBaseOf_linkStatus : wchBaseOf (linkStatus l) = none := by
  obtain ⟨o, hr, ho⟩ := regionOf_linkStatus hl
  exact wchBaseOf_port hr (by unfold linkDie; omega) ho

omit hl in
theorem linkWch_add {o : Nat} : linkWch l + o = dieReg (linkDie l) (19 * 0x100_0000 + (l % 24) * 0x1000 + o) := by
  unfold linkWch dieReg
  omega

theorem wchBaseOf_linkWch {o : Nat} (ho : o < 0x1000) : wchBaseOf (linkWch l + o) ≠ none := by
  rw [linkWch_add]
  exact wchBaseOf_egress (regionOf_dieReg (by unfold linkDie; omega) (by omega)) (by unfold linkDie; omega) (by omega)
    (by omega)

theorem Dev.linkState_grant (d : Dev) (asking : List Nat) : (d.grant (linkWch l) asking).1.linkState l = d.linkState l :=
  congrArg (field · 0 3) (d.reg_grant (fun o ho => wchBaseOf_linkWch hl (o := o) ho) asking _ (wchBaseOf_linkStatus hl))

end

theorem Dev.sameLinks_grant (d : Dev) (b : Nat) (asking : List Nat) : d.sameLinks (d.grant b asking).1 := by
  rw [d.onlyArbiters_grant b asking]
  exact ⟨rfl, rfl⟩

section
variable (d : Dev) (l : Nat)

/-- A retrain's end with its grant, where no lane has failed. -/
def Dev.retrained (d : Dev) (l : Nat) : Dev :=
  let d0 := if d.allocFits l then d else d.trlErr l clsCorrected 0x09 { tag := l }
  (d0.grant (linkWch l) [8]).1.setLink l (d.link l)

theorem Dev.retrained_leaves : ((d.retrained l).link l) = d.link l ∧ (d.retrained l).mem = d.mem ∧
    (l < 48 → (d.retrained l).linkState l = d.linkState l) := by
  unfold Dev.retrained
  extract_lets d0
  have h0 : d.sameLinks d0 ∧ d.sameStates d0 := by
    unfold d0
    split
    · exact ⟨d.sameLinks_refl, d.sameStates_refl⟩
    · exact ⟨d.sameLinks_trlErr _ _ _, d.sameStates_trlErr _ _ _ _⟩
  refine ⟨Dev.link_setLink_self _ _ _, (d0.sameLinks_grant _ _).2.trans h0.1.2, fun hl => ?_⟩
  exact (Dev.sameStates_setLink _ _ _ l).trans ((d0.linkState_grant hl [8]).trans (h0.2 l))

variable {d l} (hstate : d.linkState l = 1 ∨ d.linkState l = 3) (hbad : (d.link l).lanesBad = 0)
  (hlanes : (d.link l).lanesOut + d.laneMin l ≤ d.laneCount l)
include hstate hbad hlanes

theorem Dev.retrainDone_eq (ok : Bool) : d.retrainDone l ok =
    if ok && d.allocFits l then
      (((d.retrained l).setLinkState l 2).modLink l fun y =>
        { y with failed := 0, refused := 0, held := none, idleHalf := false, resend := y.stored, lastNak := none }).setLanes l
    else if 2 ≤ (d.link l).failed then
      (((d.retrained l).modLink l fun y => { y with failed := 0 }).stopLink l 4).trlErr l clsCorrected 0x05 { tag := l }
    else (d.retrained l).modLink l fun y => { y with failed := y.failed + 1 } := by
  have hgo : ¬(d.linkState l ≠ 1 ∧ d.linkState l ≠ 3) := by omega
  have hcount : ¬d.laneCount l < (d.link l).lanesOut + 0 + d.laneMin l := by omega
  have hx : ({ d.link l with lanesOut := (d.link l).lanesOut + 0, lanesBad := 0 } : Link) = d.link l := by
    generalize d.link l = x at hbad
    obtain ⟨⟩ := x
    subst hbad
    rfl
  refine (if_neg hgo).trans ?_
  simp only [hbad, if_neg hcount, List.range_zero, List.foldl_nil, hx]
  rfl

theorem Dev.retrainDone_up (hfits : d.allocFits l = true) : let e := d.retrainDone l true
    e.linkState l = 2 ∧ (e.link l).stored = (d.link l).stored ∧ (e.link l).resend = (d.link l).stored ∧
      (e.link l).failed = 0 ∧ e.mem = d.mem := by
  intro e
  obtain ⟨hlink, hmem, -⟩ := d.retrained_leaves l
  have he : e = _ := Dev.retrainDone_eq hstate hbad hlanes true
  rw [hfits, Bool.and_self, if_pos rfl] at he
  have hstates := (d.retrained l).linkState_setLinkState l 2 l (by decide)
  have hlinks := (d.retrained l).sameLinks_setLinkState l 2
  have hlink1 := hlinks.link l
  rw [if_pos rfl] at hstates
  rw [hlink] at hlink1
  generalize (d.retrained l).setLinkState l 2 = d1 at *
  obtain ⟨d2, hd2, hlink2, hmem2, hst2⟩ : ∃ d2 : Dev, e = d2.setLanes l ∧ d2.link l = { d.link l with
      failed := 0, refused := 0, held := none, idleHalf := false, resend := (d.link l).stored, lastNak := none } ∧
      d2.mem = d1.mem ∧ d2.linkState l = d1.linkState l :=
    ⟨_, he, by rw [Dev.link_modLink_self, hlink1], rfl, d1.sameStates_modLink l _ l⟩
  have hup : (d2.setLanes l).linkState l = d2.linkState l :=
    d2.regF_setRegF_apart (linkStatus l) (l := 3) (w := 4) (j := 0) (k := 3) _ (by decide) (by decide)
  have hlast : d2.sameLinks (d2.setLanes l) := d2.sameLinks_setReg _ _
  have hfinal := hlast.link l
  rw [hd2, hfinal, hlink2]
  exact ⟨hup.trans (hst2.trans hstates), rfl, rfl, rfl, hlast.2.trans (hmem2.trans (hlinks.2.trans hmem))⟩

variable {ok : Bool} (hno : ok = false ∨ d.allocFits l = false)
include hno

theorem Dev.retrainDone_again (hl : l < 48) (hfew : (d.link l).failed < 2) : let e := d.retrainDone l ok
    e.linkState l = d.linkState l ∧ (e.link l).failed = (d.link l).failed + 1 := by
  intro e
  obtain ⟨hlink, -, hst⟩ := d.retrained_leaves l
  have he : e = _ := Dev.retrainDone_eq hstate hbad hlanes ok
  rw [if_neg (by rcases hno with h | h <;> simp [h]), if_neg (by omega)] at he
  rw [he, Dev.link_modLink_self, hlink]
  exact ⟨(Dev.sameStates_modLink _ _ _ l).trans (hst hl), rfl⟩

theorem Dev.retrainDone_down (hmany : 2 ≤ (d.link l).failed) : let e := d.retrainDone l ok
    e.linkState l = 4 ∧ (e.link l).stored = [] := by
  intro e
  have he : e = _ := Dev.retrainDone_eq hstate hbad hlanes ok
  rw [if_neg (by rcases hno with h | h <;> simp [h]), if_pos hmany] at he
  obtain ⟨hstates, -, hstored, -⟩ := ((d.retrained l).modLink l fun y => { y with failed := 0 }).stopLink_leaves (l := l)
    (s := 4) (.inl rfl)
  have hs4 := hstates l
  rw [if_pos rfl] at hs4
  rw [he, (Dev.sameLinks_trlErr _ _ _ _).link]
  exact ⟨(Dev.sameStates_trlErr _ _ _ _ _ l).trans hs4, hstored⟩

end

/-! ### Packets in transit -/

/-- The route entry's own link of a packet, and the order in which it tries the others. -/
theorem Dev.routeOf_some {d : Dev} {dest out : Nat} (h : d.routeOf dest = some out) :
    out ∈ d.routeLinks (field dest 48 10) ∧ (d.linkUp out = true → d.egressOf dest = some out) := by
  unfold Dev.routeOf at h
  extract_lets ls at h
  refine ⟨List.mem_of_getElem? h, fun hup => ?_⟩
  obtain ⟨rest, hrest⟩ : ∃ rest, d.routeTurn dest = out :: rest := by
    obtain ⟨hi, hget⟩ := List.getElem?_eq_some_iff.mp h
    refine ⟨ls.drop (routeHash dest % ls.length + 1) ++ ls.take (routeHash dest % ls.length), ?_⟩
    rw [Dev.routeTurn, ← List.cons_append, ← hget, List.getElem_cons_drop]
  have hst : d.linkState out = 2 := by simpa [Dev.linkUp] using hup
  have hgone : d.linkGone out = false := by simp [Dev.linkGone, hst]
  simp [Dev.egressOf, hrest, hgone, hst]

theorem Dev.routeOf_none (d : Dev) (dest : Nat) : d.routeOf dest = none ↔ d.routeLinks (field dest 48 10) = [] := by
  unfold Dev.routeOf
  extract_lets ls
  rw [List.getElem?_eq_none_iff]
  constructor
  · intro h
    rcases Nat.eq_zero_or_pos ls.length with h0 | h0
    · exact List.length_eq_zero_iff.mp h0
    · exact absurd (Nat.mod_lt (routeHash dest) h0) (by omega)
  · intro h
    rw [show ls = [] from h]
    exact Nat.zero_le _


/-! ### A port that found no partner (R24) -/

/-- The step of LINK_UP_TIMEOUT at one link. -/
def Dev.timeoutLink (d : Dev) (l : Nat) : Dev := if d.linkState l = 1 then d.stopLink l 4 else d

/-- Memory, the state of link l, and its queue where it is out of use are as before. -/
def Dev.keepsQueue (l : Nat) (d e : Dev) : Prop :=
  e.mem = d.mem ∧ e.linkState l = d.linkState l ∧ (d.linkGone l = true → (e.link l).queue = (d.link l).queue)

/-- What LINK_UP_TIMEOUT does to a link of its port. -/
def Dev.timesOut (l : Nat) (d e : Dev) : Prop := (d.linkState l = 1 → e.linkState l = 4 ∧ (e.link l).queue = []) ∧
  (d.linkState l ≠ 1 → e.linkState l = d.linkState l)

theorem Dev.linkGone_congr {l : Nat} {d e : Dev} (h : e.linkState l = d.linkState l) : e.linkGone l = d.linkGone l := by
  rw [Dev.linkGone, h]
  rfl

theorem Dev.keepsQueue.trans {l : Nat} {a b c : Dev} (h : Dev.keepsQueue l a b) (k : Dev.keepsQueue l b c) :
    Dev.keepsQueue l a c :=
  ⟨k.1.trans h.1, k.2.1.trans h.2.1, fun hg => (k.2.2 ((Dev.linkGone_congr h.2.1).trans hg)).trans (h.2.2 hg)⟩

theorem Dev.keepsQueue.timesOut {l : Nat} {a b c : Dev} (h : Dev.keepsQueue l a b) (k : Dev.timesOut l b c) :
    Dev.timesOut l a c := by
  unfold Dev.timesOut at *
  rwa [h.2.1] at k

theorem Dev.timesOut.keepsQueue {l : Nat} {a b c : Dev} (h : Dev.timesOut l a b) (k : Dev.keepsQueue l b c) :
    Dev.timesOut l a c := by
  refine ⟨fun h1 => ?_, fun h1 => k.2.1.trans (h.2 h1)⟩
  obtain ⟨h4, hq⟩ := h.1 h1
  have hgone : b.linkGone l = true := by simp [Dev.linkGone, h4]
  exact ⟨k.2.1.trans h4, (k.2.2 hgone).trans hq⟩

theorem Dev.timesOut_timeoutLink (l : Nat) (d : Dev) : Dev.timesOut l d (d.timeoutLink l) := by
  unfold Dev.timeoutLink
  split
  · next h1 =>
    obtain ⟨hstates, hqueue, -, -⟩ := d.stopLink_leaves (l := l) (s := 4) (.inl rfl)
    have h4 := hstates l
    rw [if_pos rfl] at h4
    exact ⟨fun _ => ⟨h4, hqueue⟩, fun h => absurd h1 h⟩
  · next h1 => exact ⟨fun h => absurd h h1, fun _ => rfl⟩

theorem Dev.keepsQueue_timeoutLink (d : Dev) {l n : Nat} (h : l ≠ n) : Dev.keepsQueue l d (d.timeoutLink n) := by
  unfold Dev.timeoutLink
  split
  · obtain ⟨hstates, -, -, hqueue⟩ := d.stopLink_leaves (l := n) (s := 4) (.inl rfl)
    have hl := hstates l
    rw [if_neg h] at hl
    exact ⟨(d.sameOrder_stopLink (l := n) n 4).1, hl, hqueue l h⟩
  · exact ⟨rfl, rfl, fun _ => rfl⟩

theorem Dev.timeoutPort_leaves (d : Dev) (p : Nat) : ((d.portLinks p).foldl Dev.timeoutLink d).mem = d.mem ∧
    ∀ l ∈ d.portLinks p, Dev.timesOut l d ((d.portLinks p).foldl Dev.timeoutLink d) := by
  obtain ⟨hin, hout⟩ := Dev.foldl_each (f := Dev.timeoutLink) (K := Dev.keepsQueue) (Q := Dev.timesOut)
    (P := fun _ => True) (fun _ _ => ⟨rfl, rfl, fun _ => rfl⟩) Dev.keepsQueue.trans Dev.keepsQueue.timesOut
    Dev.timesOut.keepsQueue (fun l d _ => Dev.timesOut_timeoutLink l d) (fun l n d _ h => d.keepsQueue_timeoutLink h)
    (d.portLinks p) (fun _ _ => trivial) (d.nodup_portLinks p) d
  exact ⟨(hout _ (d.next_not_mem_portLinks p)).1, hin⟩

/-- The record of a port that found no partner. -/
theorem Dev.trlErr_events (d : Dev) (l cause : Nat) (i : ErrInfo) (hc : cause < 256) : ∃ y : Event,
    (d.trlErr l clsCorrected cause i).events = d.events ++ [y] ∧ y.cls = 1 ∧ y.code = 0x40C ∧ y.detail % 256 = cause := by
  obtain ⟨y, hy, hcls, hcode, -, hdetail, -⟩ := d.dieErr_events (linkDie l) (l / 2) 0x0C clsCorrected cause i hc
  exact ⟨y, hy, hcls, hcode, hdetail⟩

section
variable (s : State) (p : BitVec 5) (hp : p.toNat < 24)

theorem yields_linkUpTimeout {e : Dev} (h : (if p.toNat < 24 ∧ (Config.kitPorts s.dev.topology).contains p.toNat ∧
      s.dev.regF (linkStatus (2 * p.toNat)) 23 1 = 0 then
        ((s.dev.portLinks p.toNat).foldl Dev.timeoutLink s.dev).trlErr (2 * p.toNat) clsCorrected 0x07 { tag := p.toNat }
      else s.dev) = e) : Yields (.linkUpTimeout p) s e :=
  yields_lift (fun d => if p.toNat < 24 ∧ (Config.kitPorts d.topology).contains p.toNat ∧
    d.regF (linkStatus (2 * p.toNat)) 23 1 = 0 then
      ((d.portLinks p.toNat).foldl Dev.timeoutLink d).trlErr (2 * p.toNat) clsCorrected 0x07 { tag := p.toNat }
    else d) rfl h

include hp

theorem does_linkUpTimeout (hno : s.dev.regF (linkStatus (2 * p.toNat)) 23 1 = 0) : Does (.linkUpTimeout p) s fun e =>
    if p.toNat ∉ Config.kitPorts s.dev.topology then e = s.dev
    else e.mem = s.dev.mem ∧ (∃ y ∈ e.events, y.cls = 1 ∧ y.code = 0x40C ∧ y.detail % 256 = 0x07) ∧
      ∀ l ∈ s.dev.portLinks p.toNat,
        (s.dev.linkState l = 1 → e.linkState l = 4 ∧ (e.link l).queue = []) ∧
        (s.dev.linkState l ≠ 1 → e.linkState l = s.dev.linkState l) := by
  by_cases hk : p.toNat ∈ Config.kitPorts s.dev.topology
  · have hgo : p.toNat < 24 ∧ (Config.kitPorts s.dev.topology).contains p.toNat ∧
        s.dev.regF (linkStatus (2 * p.toNat)) 23 1 = 0 := ⟨hp, by simpa using hk, hno⟩
    refine ⟨_, yields_linkUpTimeout s p (if_pos hgo), ?_⟩
    beta_reduce
    rw [if_neg (not_not_intro hk)]
    obtain ⟨hmem, hlinks⟩ := s.dev.timeoutPort_leaves p.toNat
    generalize (s.dev.portLinks p.toNat).foldl Dev.timeoutLink s.dev = d1 at *
    obtain ⟨y, hy, hrecord⟩ := d1.trlErr_events (2 * p.toNat) 0x07 { tag := p.toNat } (by decide)
    have hsame := d1.sameLinks_trlErr (2 * p.toNat) 0x07 { tag := p.toNat }
    have hstates := d1.sameStates_trlErr (2 * p.toNat) clsCorrected 0x07 { tag := p.toNat }
    refine ⟨hsame.2.trans hmem, ⟨y, by rw [hy]; simp, hrecord⟩, fun l hl => ?_⟩
    rw [hstates l, hsame.link l]
    exact hlinks l hl
  · have hgo : ¬(p.toNat < 24 ∧ (Config.kitPorts s.dev.topology).contains p.toNat ∧
        s.dev.regF (linkStatus (2 * p.toNat)) 23 1 = 0) := fun h => hk (by simpa using h.2.1)
    refine ⟨_, yields_linkUpTimeout s p (if_neg hgo), ?_⟩
    beta_reduce
    rw [if_pos hk]

end

/-! ### The rows -/

theorem yields_portRow {s : State} {port : BitVec 5} {w u : Writer} (hu : s.acting w = some u) (hp : port.toNat < 24) :
    (u.secure = false → Yields (.retrain port w) s (s.dev.trlRefused port.toNat) ∧
      Yields (.qrel port w) s (s.dev.trlRefused port.toNat)) ∧
    (u.secure = true → Yields (.retrain port w) s (s.dev.retrainPort port.toNat) ∧
      Yields (.qrel port w) s (s.dev.endQuarantine port.toNat)) := by
  have hretrain : exec (.retrain port w) s = asWriter w (fun w => lift fun d =>
    if 24 ≤ port.toNat then d else if !w.secure then d.trlRefused port.toNat else d.retrainPort port.toNat) s := rfl
  have hqrel : exec (.qrel port w) s = asWriter w (fun w => lift fun d =>
    if 24 ≤ port.toNat then d else if !w.secure then d.trlRefused port.toNat else d.endQuarantine port.toNat) s := rfl
  rw [asWriter_next _ _ _ _ hu] at hretrain hqrel
  have h24 : ¬24 ≤ port.toNat := by omega
  refine ⟨fun h => ⟨yields_lift _ hretrain ?_, yields_lift _ hqrel ?_⟩,
    fun h => ⟨yields_lift _ hretrain ?_, yields_lift _ hqrel ?_⟩⟩
  · exact (if_neg h24).trans (if_pos (by simp [h]))
  · exact (if_neg h24).trans (if_pos (by simp [h]))
  · exact (if_neg h24).trans (if_neg (by simp [h]))
  · exact (if_neg h24).trans (if_neg (by simp [h]))

theorem does_trailLaneFail (s : State) (l : BitVec 6) (h2 : s.dev.linkState l.toNat = 2) :
    Does (.trailLaneFail l) s fun e => e.linkState l.toNat = 3 ∧
      (e.link l.toNat).lanesBad = (s.dev.link l.toNat).lanesBad + 1 ∧ e.mem = s.dev.mem := by
  have hexec : exec (.trailLaneFail l) s = lift (fun d => if d.linkState l.toNat = 2 ∨ d.linkState l.toNat = 3 then
      (d.modLink l.toNat fun x => { x with lanesBad := x.lanesBad + 1 }).startRetrain l.toNat
    else d) s := rfl
  refine ⟨_, yields_lift _ hexec (if_pos (.inl h2)), ?_, ?_, (Dev.sameLinks_startRetrain _ _).2⟩
  · rw [Dev.linkState_startRetrain, Dev.sameStates_modLink, if_pos ⟨rfl, .inl h2⟩]
  · rw [Dev.link_startRetrain, Dev.link_modLink_self]

section
variable {s : State} {l : BitVec 6} {pkt : List Byte} (hdest : field (hdrOf pkt).dest 48 10 ≠ s.dev.devId)
include hdest

theorem yields_packetTransit {e : Dev} (h : (if !s.dev.turnOf l.toNat pkt then s.dev.await l.toNat pkt
      else match (s.dev.consume l.toNat pkt).routeOf (hdrOf pkt).dest with
      | some _ => (s.dev.consume l.toNat pkt).queuePkt l.toNat pkt
      | none => (s.dev.consume l.toNat pkt).violate l.toNat 4 (slice pkt 0 32)) = e) : Yields (.packetTransit l pkt) s e :=
  yields_lift (fun d => d.transit l.toNat pkt) rfl ((if_neg hdest).trans h)

theorem yields_transit_turn (hturn : s.dev.turnOf l.toNat pkt = true) {e : Dev}
    (h : (match (s.dev.consume l.toNat pkt).routeOf (hdrOf pkt).dest with
      | some _ => (s.dev.consume l.toNat pkt).queuePkt l.toNat pkt
      | none => (s.dev.consume l.toNat pkt).violate l.toNat 4 (slice pkt 0 32)) = e) : Yields (.packetTransit l pkt) s e :=
  yields_packetTransit hdest ((if_neg (by simp [hturn])).trans h)

end

/-- Settles O36: the state of every link after each of the commands, a packet in transit by the links of its route. -/
theorem linksRetrainAndPass : Obligations.LinksRetrainAndPass := by
  unfold Obligations.LinksRetrainAndPass
  refine ⟨⟨fun s port w u hu hp => ?_, fun s l hl => ?_⟩, fun s l pkt hdest => ?_, fun d dest out => Dev.routeOf_some,
    fun d dest out => Dev.egressOf_some, Dev.routeOf_none, fun s => ⟨fun l hup hq hb hidle => ?_, fun p hp => ?_⟩⟩
  · obtain ⟨hnonsecure, hsecure⟩ := yields_portRow hu hp
    intro d p
    obtain ⟨hmem, hlinks⟩ := d.retrainPort_leaves p
    obtain ⟨hmem', hlinks'⟩ := d.endQuarantine_leaves p
    exact ⟨hnonsecure, fun h => ⟨_, (hsecure h).1, hmem, fun l hl => (hlinks l hl).2⟩,
      fun h => ⟨_, (hsecure h).2, hmem', fun l hl => (hlinks' l hl).2⟩⟩
  · intro d x
    refine ⟨fun hstate hbad hlanes => ⟨fun hfits => ?_, fun ok hno => ⟨fun hfew => ?_, fun hmany => ?_⟩⟩,
      fun h2 => does_trailLaneFail s l h2⟩
    · exact ⟨_, yields_lift (fun d => d.retrainDone l.toNat true) rfl rfl, Dev.retrainDone_up hstate hbad hlanes hfits⟩
    · exact ⟨_, yields_lift (fun d => d.retrainDone l.toNat ok) rfl rfl,
        Dev.retrainDone_again hstate hbad hlanes hno hl hfew⟩
    · exact ⟨_, yields_lift (fun d => d.retrainDone l.toNat ok) rfl rfl,
        Dev.retrainDone_down hstate hbad hlanes hno hmany⟩
  · intro h d
    refine ⟨fun hturn => yields_packetTransit hdest (if_pos (by simp [hturn])), fun hturn =>
      ⟨fun r out hr hout => ?_, fun r hr hout => ?_, fun hr => ?_⟩⟩
    · exact yields_transit_turn hdest hturn (by simp only [d, h] at hr hout; simp only [hr, Dev.queuePkt, hout]; rfl)
    · exact yields_transit_turn hdest hturn (by simp only [d, h] at hr hout; simp only [hr, Dev.queuePkt, hout]; rfl)
    · exact yields_transit_turn hdest hturn (by simp only [d, h] at hr; simp only [hr]; rfl)
  · have hgo : s.dev.linkUp l.toNat ∧ (s.dev.link l.toNat).queue.isEmpty ∧ (s.dev.link l.toNat).branch.isEmpty ∧
        s.dev.regF (dieReg (linkDie l.toNat) 0x1800_0000) 18 10 ≠ 0 := ⟨hup, by simp [hq], by simp [hb], hidle⟩
    have hexec : exec (.laneIdleHalf l) s = execLaneIdleHalf l s := rfl
    exact yields_lift _ hexec (if_pos hgo)
  · refine ⟨fun hpresent => yields_linkUpTimeout s p (if_neg fun h => ?_), does_linkUpTimeout s p hp⟩
    rw [hpresent] at h
    exact absurd h.2.2 (by decide)

end Sys2Proof.Machine

/-! The frames of the sideband types, and what PRESENCE and TRAIN leave at their port (R284, R285), for O37. -/

namespace Sys2Proof.Machine

/-! ### Frames that are ignored and frames that are passed on -/

theorem Dev.sbTake_bad (d : Dev) {p : Nat} (typ : Nat) {f : SbFrame} (act : Dev → Dev) (hp : p < 24)
    (hbad : sbBad f = true) : d.sbTake p typ f act = d.bump (linkCnt (2 * p) 0x50) 1 :=
  (if_neg (by omega)).trans (if_pos hbad)

theorem Dev.sbTake_good (d : Dev) {p typ : Nat} {f : SbFrame} (act : Dev → Dev) (hp : p < 24)
    (hgood : sbBad f = false) (htyp : f.typ.toNat = typ) : d.sbTake p typ f act = act d :=
  (if_neg (by omega)).trans ((if_neg (by simp [hgood])).trans (if_pos htyp))

/-- The row's command takes a frame of its type by `sbTake`. -/
theorem yields_badFrame {i : Instr} {s : State} {p typ : Nat} {f : SbFrame} {act : Dev → Dev}
    (hi : exec i s = lift (fun d => d.sbTake p typ f act) s) (hp : p < 24) (hbad : sbBad f = true) :
    Yields i s (s.dev.bump (linkCnt (2 * p) 0x50) 1) :=
  yields_lift _ hi (s.dev.sbTake_bad typ act hp hbad)

theorem yields_goodFrame {i : Instr} {s : State} {p typ : Nat} {f : SbFrame} {act : Dev → Dev}
    (hi : exec i s = lift (fun d => d.sbTake p typ f act) s) (hp : p < 24) (hgood : sbBad f = false)
    (htyp : f.typ.toNat = typ) : Yields i s (act s.dev) :=
  yields_lift _ hi (s.dev.sbTake_good act hp hgood htyp)

/-! ### The status registers of a port's links -/

/-- Memory, the ports and the status register of link l are as before. -/
def Dev.keepsStatus (l : Nat) (d e : Dev) : Prop :=
  e.mem = d.mem ∧ e.ports = d.ports ∧ e.reg (linkStatus l) = d.reg (linkStatus l)

theorem Dev.keepsStatus_refl (l : Nat) (d : Dev) : Dev.keepsStatus l d d := ⟨rfl, rfl, rfl⟩

theorem Dev.keepsStatus.trans {l : Nat} {a b c : Dev} (h : Dev.keepsStatus l a b) (k : Dev.keepsStatus l b c) :
    Dev.keepsStatus l a c :=
  ⟨k.1.trans h.1, k.2.1.trans h.2.1, k.2.2.trans h.2.2⟩

theorem Dev.keepsStatus.regF {l : Nat} {d e : Dev} (h : Dev.keepsStatus l d e) (j k : Nat) :
    e.regF (linkStatus l) j k = d.regF (linkStatus l) j k := by
  rw [Dev.regF, h.2.2]
  rfl

theorem Dev.keepsStatus_setRegF (d : Dev) {l n : Nat} (i w v : Nat) (h : l ≠ n) :
    Dev.keepsStatus l d (d.setRegF (linkStatus n) i w v) :=
  ⟨(d.setRegF_frame _ i w v).1, d.ports_setReg _ _, d.reg_setRegF_ne i w v fun heq => h (linkStatus_inj heq)⟩

/-- A status register whose partner fields are told. -/
def Dev.tellPartner (f : SbFrame) (d : Dev) (l : Nat) : Dev :=
  let a := linkStatus l
  (((d.setRegF a 7 10 (leAt f.payload 0 2)).setRegF a 17 5 (leAt f.payload 2 1)).setRegF a 22 1
    (if leAt f.payload 3 1 = 0 then 0 else l % 2)).setRegF a 23 1 1

/-- What PRESENCE leaves of a link of its port. -/
def Dev.toldPartner (f : SbFrame) (l : Nat) (d e : Dev) : Prop :=
  e.regF (linkStatus l) 7 10 = leAt f.payload 0 2 % 2 ^ 10 ∧ e.regF (linkStatus l) 17 5 = leAt f.payload 2 1 % 2 ^ 5 ∧
    e.regF (linkStatus l) 23 1 = 1 ∧ e.linkState l = d.linkState l

theorem Dev.keepsStatus_tellPartner (f : SbFrame) (d : Dev) {l n : Nat} (h : l ≠ n) :
    Dev.keepsStatus l d (Dev.tellPartner f d n) :=
  (((d.keepsStatus_setRegF _ _ _ h).trans (Dev.keepsStatus_setRegF _ _ _ _ h)).trans
    (Dev.keepsStatus_setRegF _ _ _ _ h)).trans (Dev.keepsStatus_setRegF _ _ _ _ h)

theorem Dev.toldPartner_tellPartner (f : SbFrame) (l : Nat) (d : Dev) :
    Dev.toldPartner f l d (Dev.tellPartner f d l) := by
  unfold Dev.toldPartner Dev.linkState Dev.tellPartner
  refine ⟨?_, ?_, Dev.regF_setRegF_self _ _ _ (by decide), ?_⟩
  · rw [Dev.regF_setRegF_apart _ _ _ (by decide) (by decide), Dev.regF_setRegF_apart _ _ _ (by decide) (by decide),
      Dev.regF_setRegF_apart _ _ _ (by decide) (by decide), Dev.regF_setRegF_self _ _ _ (by decide)]
  · rw [Dev.regF_setRegF_apart _ _ _ (by decide) (by decide), Dev.regF_setRegF_apart _ _ _ (by decide) (by decide),
      Dev.regF_setRegF_self _ _ _ (by decide)]
  · rw [Dev.regF_setRegF_apart _ _ _ (by decide) (by decide), Dev.regF_setRegF_apart _ _ _ (by decide) (by decide),
      Dev.regF_setRegF_apart _ _ _ (by decide) (by decide), Dev.regF_setRegF_apart _ _ _ (by decide) (by decide)]

/-- A fold that tells of the partner leaves it told on every link of the port, and memory and ports as before. -/
theorem Dev.tellPartner_foldl (f : SbFrame) (d c : Dev) (p : Nat) :
    let e := (d.portLinks p).foldl (Dev.tellPartner f) c
    (e.mem = c.mem ∧ e.ports = c.ports) ∧ ∀ l ∈ d.portLinks p, Dev.toldPartner f l c e := by
  obtain ⟨hin, hout⟩ := Dev.foldl_each (f := Dev.tellPartner f) (K := Dev.keepsStatus) (Q := Dev.toldPartner f)
    (P := fun _ => True) Dev.keepsStatus_refl Dev.keepsStatus.trans
    (fun h k => ⟨k.1, k.2.1, k.2.2.1, k.2.2.2.trans (h.regF 0 3)⟩)
    (fun h k => ⟨(k.regF 7 10).trans h.1, (k.regF 17 5).trans h.2.1, (k.regF 23 1).trans h.2.2.1,
      (k.regF 0 3).trans h.2.2.2⟩)
    (fun l d _ => Dev.toldPartner_tellPartner f l d) (fun _ _ d _ h => d.keepsStatus_tellPartner f h)
    (d.portLinks p) (fun _ _ => trivial) (d.nodup_portLinks p) c
  obtain ⟨hmem, hports, -⟩ := hout _ (d.next_not_mem_portLinks p)
  exact ⟨⟨hmem, hports⟩, hin⟩

/-- What PARTNER_ABSENT leaves of a link of its port. -/
def Dev.lostPartner (l : Nat) (d e : Dev) : Prop := e.regF (linkStatus l) 23 1 = 0 ∧ e.linkState l = d.linkState l

theorem Dev.losePartner_foldl (d : Dev) (p : Nat) : ∀ l ∈ d.portLinks p, Dev.lostPartner l d
    ((d.portLinks p).foldl (fun d l => d.setRegF (linkStatus l) 23 1 0) d) :=
  (Dev.foldl_each (f := fun d l => d.setRegF (linkStatus l) 23 1 0) (K := Dev.keepsStatus) (Q := Dev.lostPartner)
    (P := fun _ => True) Dev.keepsStatus_refl Dev.keepsStatus.trans (fun h k => ⟨k.1, k.2.trans (h.regF 0 3)⟩)
    (fun h k => ⟨(k.regF 23 1).trans h.1, (k.regF 0 3).trans h.2⟩)
    (fun _ d _ => ⟨d.regF_setRegF_self _ _ (by decide), d.regF_setRegF_apart _ _ (by decide) (by decide)⟩)
    (fun _ _ d _ h => d.keepsStatus_setRegF _ _ _ h)
    (d.portLinks p) (fun _ _ => trivial) (d.nodup_portLinks p) d).1

/-! ### Ports -/

@[simp] theorem Dev.port_setPort_self (d : Dev) (p : Nat) (x : Port) : (d.setPort p x).port p = x :=
  look_put_self _ _ _ _

theorem Dev.port_sendSb_self (d : Dev) (p t : Nat) (bs : List Byte) : (d.sendSb p t bs).port p =
    { d.port p with
      seq := ((d.port p).seq + 1) % 256,
      out := (d.port p).out ++ [⟨BitVec.ofNat 8 t, BitVec.ofNat 8 bs.length, BitVec.ofNat 8 (d.port p).seq, bs, true⟩] } :=
  look_put_self _ _ _ _

/-! ### The rows -/

section
variable (s : State) {port : BitVec 5} (hp : port.toNat < 24) (f : SbFrame)
include hp

theorem does_presence (hgood : sbBad f = false) (htyp : f.typ = 0x01) : Does (.presence port f) s fun e =>
    (∀ l ∈ s.dev.portLinks port.toNat, Dev.toldPartner f l s.dev e) ∧
      (e.port port.toNat).peerRole = leAt f.payload 4 1 ∧ (e.port port.toNat).peerLans = leAt f.payload 5 1 ∧
        e.mem = s.dev.mem := by
  let x := s.dev.port port.toNat
  let d1 := s.dev.setPort port.toNat
    { x with peerRole := leAt f.payload 4 1, peerLans := leAt f.payload 5 1, passed := x.passed ++ [f] }
  obtain ⟨⟨hmem, hports⟩, hlinks⟩ := Dev.tellPartner_foldl f s.dev d1 port.toNat
  refine ⟨_, yields_goodFrame (act := fun d => (d.portLinks port.toNat).foldl (Dev.tellPartner f)
    (d.setPort port.toNat { d.port port.toNat with
      peerRole := leAt f.payload 4 1, peerLans := leAt f.payload 5 1, passed := (d.port port.toNat).passed ++ [f] }))
    rfl hp hgood (by rw [htyp]; rfl), hlinks, ?_, ?_, hmem⟩
  · rw [Dev.port_of_ports hports, Dev.port_setPort_self]
  · rw [Dev.port_of_ports hports, Dev.port_setPort_self]

theorem does_train (hgood : sbBad f = false) (htyp : f.typ = 0x05) : Does (.train port f) s fun e =>
    (e.port port.toNat).asked = leAt f.payload 1 1 ∧
      let l := 2 * port.toNat + leAt f.payload 0 1 % 2
      s.dev.linkExists l = true → (s.dev.linkState l = 2 ∨ s.dev.linkState l = 4 → e.linkState l = 3) ∧
        (s.dev.linkState l = 5 → e.linkState l = 5) := by
  let p := port.toNat
  let l := 2 * p + leAt f.payload 0 1 % 2
  let d1 := s.dev.passFrame p f
  let d2 := d1.setPort p { d1.port p with asked := leAt f.payload 1 1 }
  have hy : Yields (.train port f) s (if d2.linkExists l then d2.beginRetrain l else d2) :=
    yields_goodFrame (act := fun d =>
      let d1 := d.passFrame p f
      let d2 := d1.setPort p { d1.port p with asked := leAt f.payload 1 1 }
      if d2.linkExists l then d2.beginRetrain l else d2) rfl hp hgood (by rw [htyp]; rfl)
  refine ⟨_, hy, ?_, ?_⟩
  · have hports : (if d2.linkExists l then d2.beginRetrain l else d2).ports = d2.ports := by
      split
      · exact d2.ports_beginRetrain l
      · rfl
    rw [Dev.port_of_ports hports, Dev.port_setPort_self]
  · intro l' hexists
    have hd2 : d2.linkExists l = true := hexists
    rw [if_pos hd2, Dev.linkState_beginRetrain]
    exact ⟨fun h => if_pos ⟨rfl, h⟩, fun h => (if_neg fun hn => by
      have h5 : d2.linkState l = 5 := h
      rw [h5] at hn
      exact absurd hn.2 (by decide)).trans h⟩

omit f in
theorem does_presenceSend (hoff : s.dev.power ≠ .off) (hheld : s.dev.power ≠ .held) :
    Does (.presenceSend port) s fun e =>
      (e.port port.toNat).seq = ((s.dev.port port.toNat).seq + 1) % 256 ∧
        ∃ f : SbFrame, (e.port port.toNat).out = (s.dev.port port.toNat).out ++ [f] ∧ f.typ = 0x01 ∧
          f.seq = BitVec.ofNat 8 (s.dev.port port.toNat).seq ∧ leAt f.payload 0 2 = s.dev.devId % 2 ^ 16 := by
  have hgo : ¬(24 ≤ port.toNat ∨ s.dev.power = .off ∨ s.dev.power = .held) := by
    rintro (h | h | h)
    · omega
    · exact hoff h
    · exact hheld h
  have hexec : exec (.presenceSend port) s = execPresenceSend port s := rfl
  refine ⟨_, yields_lift _ hexec (if_neg hgo), ?_⟩
  beta_reduce
  rw [Dev.port_sendSb_self]
  exact ⟨rfl, _, rfl, rfl, rfl, leAt_leBytes [] _ 2 s.dev.devId⟩

end

/-- Settles O37: a row's command takes a frame by `sbTake`, and the links of a port are told one after another. -/
theorem sideband : Obligations.Sideband := by
  unfold Obligations.Sideband
  intro s port hp d p rows
  refine ⟨fun r hr f hbad => ?_, ?_⟩
  · simp only [rows, List.mem_cons, List.not_mem_nil, or_false] at hr
    rcases hr with rfl | rfl | rfl | rfl | rfl | rfl <;> exact yields_badFrame rfl hp hbad
  · intro passed
    refine ⟨fun r hr f hgood htyp => ?_, fun f => does_presence s hp f, fun f => does_train s hp f, ?_,
      does_presenceSend s hp⟩
    · simp only [passed, List.mem_cons, List.not_mem_nil, or_false] at hr
      rcases hr with rfl | rfl | rfl <;>
        exact yields_goodFrame (act := fun d => d.passFrame port.toNat f) rfl hp hgood (by rw [htyp]; rfl)
    · have hexec : exec (.partnerAbsent port) s = execPartnerAbsent port s := rfl
      exact ⟨_, yields_lift _ hexec (if_neg (by omega)), s.dev.losePartner_foldl p⟩

end Sys2Proof.Machine

/-! The identity register of the reduction engines, and the closing of a context (R298, R314 to R320), for O41. -/

namespace Sys2Proof.Machine

/-! ### The identity register -/

theorem field_field {x k l w : Nat} (h : l + w ≤ k) : field (field x 0 k) l w = field x l w := by
  unfold field
  rw [Nat.pow_zero, Nat.div_one, show k = l + (k - l) by omega, Nat.pow_add, Nat.mod_mul_right_div_self,
    Nat.mod_mod_of_dvd _ (Nat.pow_dvd_pow 2 (by omega))]

/-- A field of a wider field written from bit 0. -/
theorem Dev.regF_setRegF_inside (d : Dev) (a v : Nat) {k l w : Nat} (hk : k ≤ 64) (h : l + w ≤ k) :
    (d.setRegF a 0 k v).regF a l w = field v l w := by
  have hwide : field ((d.setRegF a 0 k v).reg a) 0 k = field v 0 k := by
    have hself := d.regF_setRegF_self a (l := 0) (w := k) v (by omega)
    rw [Dev.regF] at hself
    rw [hself]
    unfold field
    rw [Nat.pow_zero, Nat.div_one]
  rw [Dev.regF, ← field_field h, hwide, field_field h]

theorem Dev.regF_of_regs {d e : Dev} (h : e.regs = d.regs) (a l w : Nat) : e.regF a l w = d.regF a l w := by
  rw [Dev.regF, Dev.reg, h]
  rfl

section
variable {s : State} {w u : Writer} (hu : s.acting w = some u)
include hu

theorem yields_identRefused (h : u.secure = false) : (∀ job, Yields (.jobWrite w job) s s.dev.identRefused) ∧
    Yields (.cancel w) s s.dev.identRefused ∧ Yields (.reshard w) s s.dev.identRefused := by
  have hn : ¬u.secure = true := by simp [h]
  refine ⟨fun job => ?_, ?_, ?_⟩
  · exact yields_lift (fun d => d.jobWrite u job.toNat) (asWriter_next w u _ s hu) (if_pos (by simp [h]))
  · exact yields_lift (fun d => if u.secure then d.cancel else d.identRefused) (asWriter_next w u _ s hu) (if_neg hn)
  · exact yields_lift (fun d => if u.secure then d.setRegF identAddr 26 1 1 else d.identRefused)
      (asWriter_next w u _ s hu) (if_neg hn)

variable (h : u.secure = true)
include h

theorem does_jobWrite (job : BitVec 12) (hnone : s.dev.jobCtxs s.dev.job = []) :
    Does (.jobWrite w job) s fun e => e.job = job.toNat ∧ e.epoch = 0 ∧ e.gen = 0 ∧ e.mem = s.dev.mem ∧
      ∀ a, a ≠ identAddr → e.reg a = s.dev.reg a := by
  have hjob : job.toNat < 2 ^ 12 := job.isLt
  refine ⟨_, yields_lift (fun d => d.jobWrite u job.toNat) (asWriter_next w u _ s hu)
    ((if_neg (by simp [h])).trans (if_neg (by simp [hnone]))), ?_, ?_, ?_, rfl, fun a ha => s.dev.reg_setRegF_ne _ _ _ ha⟩
  · rw [Dev.job, Dev.regF_setRegF_inside _ _ _ (by decide) (by decide), field, Nat.pow_zero, Nat.div_one,
      Nat.mod_eq_of_lt hjob]
  · rw [Dev.epoch, Dev.regF_setRegF_inside _ _ _ (by decide) (by decide), field, Nat.div_eq_of_lt hjob, Nat.zero_mod]
  · rw [Dev.gen, Dev.regF_setRegF_inside _ _ _ (by decide) (by decide), field,
      Nat.div_eq_of_lt (Nat.lt_of_lt_of_le hjob (Nat.pow_le_pow_right (by decide) (by decide))), Nat.zero_mod]

theorem yields_jobWrite_open (job : BitVec 12) (hopen : s.dev.jobCtxs s.dev.job ≠ []) :
    Yields (.jobWrite w job) s s.dev :=
  yields_lift (fun d => d.jobWrite u job.toNat) (asWriter_next w u _ s hu)
    ((if_neg (by simp [h])).trans (if_pos (by simpa using hopen)))

omit hu h in
theorem Dev.cancel_frame (d : Dev) :
    d.cancel.regs = (d.setRegF identAddr 16 8 (d.gen + 1)).regs ∧ d.cancel.mem = d.mem := by
  unfold Dev.cancel
  generalize identAddr = a
  exact ⟨rfl, rfl⟩

theorem does_cancel : Does (.cancel w) s fun e => e.gen = (s.dev.gen + 1) % 256 ∧ e.job = s.dev.job ∧
    e.epoch = s.dev.epoch ∧ e.mem = s.dev.mem ∧ ∀ a, a ≠ identAddr → e.reg a = s.dev.reg a := by
  obtain ⟨hregs, hmem⟩ := s.dev.cancel_frame
  have hfield := Dev.regF_of_regs hregs identAddr
  refine ⟨_, yields_lift (fun d => if u.secure then d.cancel else d.identRefused) (asWriter_next w u _ s hu) (if_pos h),
    (hfield 16 8).trans (s.dev.regF_setRegF_self _ _ (by decide)),
    (hfield 0 12).trans (s.dev.regF_setRegF_apart _ _ (by decide) (by decide)),
    (hfield 12 4).trans (s.dev.regF_setRegF_apart _ _ (by decide) (by decide)), hmem, fun a ha => ?_⟩
  rw [Dev.reg, hregs]
  exact s.dev.reg_setRegF_ne _ _ _ ha

theorem does_reshard : Does (.reshard w) s fun e => e.regF identAddr 26 1 = 1 ∧ e.job = s.dev.job ∧
    e.epoch = s.dev.epoch ∧ e.gen = s.dev.gen ∧ e.mem = s.dev.mem ∧ ∀ a, a ≠ identAddr → e.reg a = s.dev.reg a :=
  ⟨_, yields_lift (fun d => if u.secure then d.setRegF identAddr 26 1 1 else d.identRefused)
      (asWriter_next w u _ s hu) (if_pos h),
    s.dev.regF_setRegF_self _ _ (by decide), s.dev.regF_setRegF_apart _ _ (by decide) (by decide),
    s.dev.regF_setRegF_apart _ _ (by decide) (by decide), s.dev.regF_setRegF_apart _ _ (by decide) (by decide),
    (s.dev.setRegF_frame identAddr 26 1 1).1,
    fun a ha => s.dev.reg_setRegF_ne _ _ _ ha⟩

end

/-! ### The end of a re-shard -/

theorem Dev.recheckAll_none {d : Dev} (h : d.waitPkts = []) : d.recheckAll = d := by
  have hd : ({ d with waitPkts := [] } : Dev) = d := by
    rw [← h]
  rw [Dev.recheckAll, h]
  unfold Dev.recheck
  rw [h]
  dsimp only [List.foldl_nil]
  exact (if_pos rfl).trans hd

/-- The directory of a re-shard, in memory. -/
def Dev.reshardImage (d : Dev) : Dev :=
  match d.jobHere with
  | some j => d.placeAll (Config.imageEntriesAt j.image ((d.epoch + 1) % 16))
  | none => d

theorem Dev.onlyMemory_placeAll (d : Dev) (bs : List (Nat × Byte)) : d.onlyMemory (d.placeAll bs) :=
  Dev.onlyMemory_foldl (f := fun (d : Dev) (p : Nat × Byte) => d.wrB p.1 [p.2]) (fun _ _ => rfl) bs d

theorem Dev.onlyMemory_reshardImage (d : Dev) : d.onlyMemory d.reshardImage := by
  unfold Dev.reshardImage
  split
  · exact d.onlyMemory_placeAll _
  · exact d.onlyMemory_refl

/-- The device with the identity of the next epoch and no GO held; its register is at a. -/
def Dev.resharded (d : Dev) (a v : Nat) : Dev := { (d.setRegF a 26 1 0).setRegF a 12 4 v with heldGo := [] }

theorem Dev.noHeldGo_frame (d : Dev) : ({ d with heldGo := [] } : Dev).mem = d.mem ∧
    ({ d with heldGo := [] } : Dev).waitPkts = d.waitPkts ∧ ({ d with heldGo := [] } : Dev).regs = d.regs :=
  ⟨rfl, rfl, rfl⟩

theorem Dev.waitPkts_setRegF (d : Dev) (a l w v : Nat) : (d.setRegF a l w v).waitPkts = d.waitPkts := rfl

theorem Dev.resharded_frame (d : Dev) (a v : Nat) : (d.resharded a v).mem = d.mem ∧ (d.resharded a v).heldGo = [] ∧
    (d.resharded a v).waitPkts = d.waitPkts ∧
      ∀ l w, (d.resharded a v).regF a l w = ((d.setRegF a 26 1 0).setRegF a 12 4 v).regF a l w := by
  obtain ⟨hmem, hwait, hregs⟩ := ((d.setRegF a 26 1 0).setRegF a 12 4 v).noHeldGo_frame
  exact ⟨hmem.trans ((Dev.setRegF_frame _ _ _ _ _).1.trans (Dev.setRegF_frame _ _ _ _ _).1), rfl,
    hwait.trans ((Dev.waitPkts_setRegF _ _ _ _ _).trans (Dev.waitPkts_setRegF _ _ _ _ _)), Dev.regF_of_regs hregs a⟩

theorem Dev.reshardEnd_eq (d : Dev) : d.reshardEnd = (d.heldGo.foldl (fun (d : Dev) g => d.ctxGo (g % 64) (g / 64 == 1))
    (d.reshardImage.resharded identAddr (d.epoch + 1))).recheckAll := rfl

/-- With no GO held and no packet waiting, the end of a re-shard is its directory and its identity. -/
theorem Dev.reshardEnd_quiet {d : Dev} (hgo : d.heldGo = []) (hpkts : d.waitPkts = []) :
    d.reshardEnd = d.reshardImage.resharded identAddr (d.epoch + 1) := by
  have hwait : (d.reshardImage.resharded identAddr (d.epoch + 1)).waitPkts = [] := by
    rw [(Dev.resharded_frame _ _ _).2.2.1, d.onlyMemory_reshardImage]
    exact hpkts
  rw [Dev.reshardEnd_eq, hgo, List.foldl_nil, Dev.recheckAll_none hwait]

theorem Dev.resharded_leaves (d : Dev) (a v : Nat) :
    (d.resharded a v).regF a 12 4 = v % 16 ∧ (d.resharded a v).regF a 26 1 = 0 ∧
      (d.resharded a v).regF a 0 12 = d.regF a 0 12 ∧ (d.resharded a v).regF a 16 8 = d.regF a 16 8 := by
  have hkeep (l w : Nat) (h1 : l + w ≤ 26 ∨ 26 + 1 ≤ l) (h2 : l + w ≤ 12 ∨ 12 + 4 ≤ l) :
      (d.resharded a v).regF a l w = d.regF a l w := by
    rw [(d.resharded_frame a v).2.2.2, Dev.regF_setRegF_apart _ _ _ (by decide) h2,
      Dev.regF_setRegF_apart _ _ _ (by decide) h1]
  refine ⟨?_, ?_, hkeep 0 12 (by decide) (by decide), hkeep 16 8 (by decide) (by decide)⟩
  · exact ((d.resharded_frame a v).2.2.2 12 4).trans (Dev.regF_setRegF_self _ _ _ (by decide))
  · rw [(d.resharded_frame a v).2.2.2, Dev.regF_setRegF_apart _ _ _ (by decide) (by decide),
      Dev.regF_setRegF_self _ _ _ (by decide), Nat.zero_mod]

theorem Dev.reshardEnd_leaves {d : Dev} (hgo : d.heldGo = []) (hpkts : d.waitPkts = []) :
    d.reshardEnd.epoch = (d.epoch + 1) % 16 ∧ d.reshardEnd.regF identAddr 26 1 = 0 ∧ d.reshardEnd.job = d.job ∧
      d.reshardEnd.gen = d.gen ∧ d.reshardEnd.mem = d.reshardImage.mem ∧ d.reshardEnd.heldGo = [] := by
  have hfield := Dev.regF_of_regs d.onlyMemory_reshardImage.frame.1 identAddr
  obtain ⟨hepoch, hbit, hjob, hgen⟩ := d.reshardImage.resharded_leaves identAddr (d.epoch + 1)
  obtain ⟨hmem, hheld, -⟩ := d.reshardImage.resharded_frame identAddr (d.epoch + 1)
  rw [Dev.reshardEnd_quiet hgo hpkts]
  exact ⟨hepoch, hbit, hjob.trans (hfield 0 12), hgen.trans (hfield 16 8), hmem, hheld⟩

/-! ### A context that closes -/

theorem length_ctxRecord {d : Dev} {c : Nat} (status cause : Nat) (h : (d.ctx c).tally.length = 4) :
    (d.ctxRecord c status cause).length = 64 := by
  obtain ⟨x, y, z, w, hxyzw⟩ : ∃ x y z w, (d.ctx c).tally = [x, y, z, w] := by
    match hl : (d.ctx c).tally, h with
    | [x, y, z, w], _ => exact ⟨x, y, z, w, rfl⟩
  simp [Dev.ctxRecord, hxyzw, length_leBytes]

theorem leAt_ctxRecord (d : Dev) (c : Nat) {status cause : Nat} (hs : status < 256) (hc : cause < 2 ^ 24) :
    leAt (d.ctxRecord c status cause) 0 4 = status + cause * 2 ^ 8 := by
  unfold Dev.ctxRecord
  simp only [List.append_assoc]
  refine (leAt_leBytes [] _ 4 _).trans (Nat.mod_eq_of_lt ?_)
  omega

theorem Dev.ctxState_bumps (c : Nat) (ps : List (List Byte)) (d : Dev) :
    (ps.foldl (fun d p => d.bump (rdxReg (leAt p 32 1 % 64) 0x108) 1) d).ctxState c = d.ctxState c := by
  induction ps generalizing d with
  | nil => rfl
  | cons p ps ih =>
    have hne : ctxReg c 0 ≠ rdxReg (leAt p 32 1 % 64) 0x108 := by
      unfold ctxReg rdxReg dieReg
      omega
    rw [List.foldl_cons, ih, Dev.ctxState, Dev.regF, Dev.bump, Dev.reg_setReg_ne _ _ hne]
    rfl

theorem Dev.purgeWaiting_leaves (d : Dev) (c : Nat) : d.purgeWaiting.ctxState c = d.ctxState c ∧
    d.purgeWaiting.ctx c = d.ctx c ∧ d.purgeWaiting.mem = d.mem := by
  unfold Dev.purgeWaiting
  extract_lets known lost
  obtain ⟨regs, h⟩ := Dev.foldl_bump { d with waitPkts := d.waitPkts.filter known }
    (fun _ p => rdxReg (leAt p 32 1 % 64) 0x108) lost
  refine ⟨Dev.ctxState_bumps c lost _, ?_, ?_⟩ <;> rw [h]
  rfl

theorem Dev.modCtx_frame (d : Dev) (c : Nat) (f : Ctx → Ctx) : (d.modCtx c f).ctx c = f (d.ctx c) ∧
    (d.modCtx c f).mem = d.mem ∧ ∀ a l w, (d.modCtx c f).regF a l w = d.regF a l w :=
  ⟨look_put_self _ _ _ _, rfl, Dev.regF_of_regs rfl⟩

theorem Dev.mem_setReg (d : Dev) (a v : Nat) : (d.setReg a v).mem = d.mem := rfl

theorem Dev.ctxClosed_leaves (d : Dev) (b c : Nat) (h : ctxReg c 0 ≠ b) :
    let e := ((d.setCtxState c 0).setReg b 0).modCtx c fun _ => {}
    e.ctxState c = 0 ∧ e.ctx c = {} ∧ e.mem = d.mem := by
  obtain ⟨hctx, hmem, hregF⟩ := ((d.setCtxState c 0).setReg b 0).modCtx_frame c fun _ => {}
  refine ⟨?_, hctx, hmem.trans ((Dev.mem_setReg _ _ _).trans (Dev.mem_setReg _ _ _))⟩
  rw [Dev.ctxState, hregF, Dev.regF, Dev.reg_setReg_ne _ _ h, Dev.setCtxState, d.reg_setRegF_self _ 0 (by decide),
    field_withField, Nat.zero_mod]

theorem Dev.ctxClose_eq (d : Dev) (c status cause : Nat) : (d.ctxClose c status cause).1 =
    (((((if status = 0 then d.noteTally c else d).memWrite (d.ctxMem c) (d.reg (ctxReg c 0x48))
      (d.ctxRecord c status cause)).2.setCtxState c 0).setReg (ctxReg c 0x60) 0).modCtx c fun _ => {}).purgeWaiting := rfl

theorem Dev.ctxClose_leaves (d : Dev) (c status cause : Nat) :
    (d.ctxClose c status cause).1.ctxState c = 0 ∧ (d.ctxClose c status cause).1.ctx c = {} ∧
      (d.ctxClose c status cause).1.mem = ((if status = 0 then d.noteTally c else d).memWrite (d.ctxMem c)
        (d.reg (ctxReg c 0x48)) (d.ctxRecord c status cause)).2.mem := by
  rw [Dev.ctxClose_eq]
  generalize (Dev.memWrite _ _ _ _).2 = e
  have hne : ctxReg c 0 ≠ ctxReg c 0x60 := by
    unfold ctxReg dieReg
    omega
  obtain ⟨hstate, hctx, hmem⟩ := e.ctxClosed_leaves (ctxReg c 0x60) c hne
  rw [(Dev.purgeWaiting_leaves _ c).1, (Dev.purgeWaiting_leaves _ c).2.1, (Dev.purgeWaiting_leaves _ c).2.2]
  exact ⟨hstate, hctx, hmem⟩

theorem Dev.noteTally_eq (d : Dev) (c : Nat) : ∃ qm, d.noteTally c = { d with qm := qm } := by
  unfold Dev.noteTally
  split
  · exact ⟨_, rfl⟩
  · exact ⟨_, rfl⟩

/-- The record is written whole where its granules are readable and no secure region stops it. -/
theorem Dev.ctxClose_record (d : Dev) (c status cause : Nat)
    (hsec : d.memSecure (d.reg (ctxReg c 0x48)) 64 = false) (hbad : d.badIn (d.reg (ctxReg c 0x48)) 64 = false)
    (hquiet : d.quiet (d.reg (ctxReg c 0x48)) 64 = true) (htally : (d.ctx c).tally.length = 4) :
    (d.ctxClose c status cause).1.mem = (d.wrB (d.reg (ctxReg c 0x48)) (d.ctxRecord c status cause)).mem := by
  have hlen := length_ctxRecord (d := d) status cause htally
  obtain ⟨qm, hqm⟩ : ∃ qm, (if status = 0 then d.noteTally c else d) = { d with qm := qm } := by
    split
    · exact d.noteTally_eq c
    · exact ⟨_, rfl⟩
  rw [(d.ctxClose_leaves c status cause).2.2, hqm]
  have hwrite := Dev.memWrite_good { d with qm := qm } (d.ctxMem c) (d.reg (ctxReg c 0x48))
    (d.ctxRecord c status cause)
  rw [hlen] at hwrite
  rw [hwrite (Bool.and_eq_false_imp.mpr fun _ => hsec) hquiet (Dev.blockedBy_of_good hbad)]
  obtain ⟨down, hw⟩ := ({ d with qm := qm } : Dev).memWake_eq (d.reg (ctxReg c 0x48)) 64
  exact Dev.mem_wrB_of (by rw [hw]) (by rw [hw]) _ _

/-- Settles O41: identity writes by their writer, then the contexts that close and what a re-shard writes. -/
theorem reductionIdentityAndClosing : Obligations.ReductionIdentityAndClosing := by
  unfold Obligations.ReductionIdentityAndClosing
  refine ⟨⟨fun s w u hu => ?_, fun s => ?_⟩, fun d c status cause hc hs hcause => ?_⟩
  · intro d
    exact ⟨yields_identRefused hu, fun h => ⟨fun job => ⟨does_jobWrite hu h job, yields_jobWrite_open hu h job⟩,
      does_cancel hu h, does_reshard hu h⟩⟩
  · intro d old ended
    have hcancel : exec .contextCancel s = lift (·.contextCancel) s := rfl
    have hcomplete : exec .reshardComplete s = execReshardComplete s := rfl
    have htimeout : exec .reshardDrainTimeout s = execReshardDrainTimeout s := rfl
    have hold : d.contextCancel = (old.foldl (fun d c => d.ctxEnd c 1 0) d).recheckAll := rfl
    refine ⟨fun hnone hpkts => yields_lift _ hcancel ?_, fun c hone => yields_lift _ hcancel ?_,
      fun hbit hnone hgo hpkts => ?_, fun hopen => yields_lift _ hcomplete ?_, fun c hbit hone => yields_lift _ htimeout ?_⟩
    · exact hold.trans (by rw [hnone]; exact Dev.recheckAll_none hpkts)
    · exact hold.trans (by rw [hone]; rfl)
    · obtain ⟨hepoch, hbit', hjob, hgen, hmem, hheld⟩ := Dev.reshardEnd_leaves hgo hpkts
      have hdone : Yields .reshardComplete s d.reshardEnd := yields_lift _ hcomplete (if_pos ⟨hbit, by simp [d, hnone]⟩)
      have hlate : Yields .reshardDrainTimeout s d.reshardEnd :=
        yields_lift _ htimeout ((if_neg (by simp only [d] at hbit; rw [hbit]; decide)).trans (by
          simp only [d] at hnone
          simp only [hnone]
          rfl))
      refine ⟨fun hhere => ?_, fun j hj => ⟨_, hdone, hepoch, ?_⟩⟩
      · have hmem' : d.reshardEnd.mem = d.mem := by rw [hmem, Dev.reshardImage, hhere]
        exact ⟨⟨_, hdone, hepoch, hbit', hjob, hgen, hmem', hheld⟩, ⟨_, hlate, hepoch, hbit', hjob, hgen, hmem', hheld⟩⟩
      · rw [hmem, Dev.reshardImage, hj]
    · exact if_neg fun h => hopen (by simpa using h.2)
    · refine (if_neg (by simp only [d] at hbit; rw [hbit]; decide)).trans ?_
      simp only [d] at hone
      simp only [hone]
      rfl
  · intro a e
    obtain ⟨hstate, hctx, -⟩ := d.ctxClose_leaves c status cause
    exact ⟨hstate, hctx, fun hsec hbad hquiet htally => ⟨d.ctxClose_record c status cause hsec hbad hquiet htally,
      length_ctxRecord status cause htally, leAt_ctxRecord d c hs hcause⟩⟩

end Sys2Proof.Machine

/-! What sending a packet and telling the host leave of the Quartermaster's desk, and the messages of the host (R356 to
R361), for O44. -/

namespace Sys2Proof.Machine

/-- A fold of changes that each stand in a reflexive and transitive relation. -/
theorem foldl_related {σ α : Type} {R : σ → σ → Prop} (hrefl : ∀ d, R d d) (htrans : ∀ {a b c}, R a b → R b c → R a c)
    {f : σ → α → σ} (h : ∀ d x, R d (f d x)) (xs : List α) (d : σ) : R d (xs.foldl f d) := by
  induction xs generalizing d with
  | nil => exact hrefl d
  | cons x xs ih => exact htrans (h d x) (ih (f d x))

/-! ### Packets of this device -/

/-- Only links, tags, logs and registers differ: what sending a packet can touch. -/
def Dev.onlySends (d e : Dev) : Prop := e = { d with
  regs := e.regs, links := e.links, events := e.events, errCounts := e.errCounts, pulses := e.pulses, fresh := e.fresh
  mgmtSeq := e.mgmtSeq, nextTid := e.nextTid, tids := e.tids, tidAt := e.tidAt }

theorem Dev.onlySends_refl (d : Dev) : d.onlySends d := rfl

theorem Dev.onlySends.trans {d e f : Dev} (h : d.onlySends e) (h' : e.onlySends f) : d.onlySends f := by
  unfold Dev.onlySends at *
  rw [h', h]

theorem Dev.onlyLogs.onlySends {d e : Dev} (h : d.onlyLogs e) : d.onlySends e := by
  unfold Dev.onlyLogs at h
  unfold Dev.onlySends
  rw [h]

theorem Dev.onlySends_setReg (d : Dev) (a v : Nat) : d.onlySends (d.setReg a v) := rfl
theorem Dev.onlySends_modLink (d : Dev) (l : Nat) (f : Link → Link) : d.onlySends (d.modLink l f) := rfl
theorem Dev.onlySends_fresh (d : Dev) (n : Nat) : d.onlySends { d with fresh := n } := rfl
theorem Dev.onlySends_mgmtSeq (d : Dev) (n : Nat) : d.onlySends { d with mgmtSeq := n } := rfl
theorem Dev.onlySends_newTid (d : Dev) (o : Owner) : d.onlySends (d.newTid o).2 := rfl
theorem Dev.onlySends_noteTid (d : Dev) (t a : Nat) : d.onlySends (d.noteTid t a) := rfl

theorem Dev.onlySends_enqueue (d : Dev) (l vc : Nat) (p : List Byte) : d.onlySends (d.enqueue l vc p) :=
  d.onlySends_modLink l _

theorem Dev.onlySends_vlog (d : Dev) (l cls reason : Nat) (hdr : List Byte) : d.onlySends (d.vlog l cls reason hdr) :=
  ((((d.onlySends_setReg _ _).trans (Dev.onlySends_setReg _ _ _)).trans (Dev.onlySends_setReg _ _ _)).trans
    (Dev.onlySends_setReg _ _ _)).trans (Dev.onlySends_setReg _ _ _)

theorem Dev.onlySends_sendNak (d : Dev) (l reason : Nat) (hdr : List Byte) : d.onlySends (d.sendNak l reason hdr) := by
  unfold Dev.sendNak
  dsimp only
  split
  · exact d.onlySends_modLink l _
  · split
    · exact (d.onlySends_enqueue _ _ _).trans (Dev.onlySends_setReg _ _ _)
    · exact Dev.onlyLogs.onlySends (d.onlyLogs_logErr _ _ _ _ _ (by decide))

theorem Dev.onlySends_queuePkt (d : Dev) (l : Nat) (p : List Byte) : d.onlySends (d.queuePkt l p) := by
  unfold Dev.queuePkt
  dsimp only
  split
  · exact d.onlySends_enqueue _ _ _
  · exact d.onlySends_sendNak _ _ _

theorem Dev.onlySends_sendPkt (d : Dev) (h : Hdr) (bs : List Byte) : d.onlySends (d.sendPkt h bs) := by
  unfold Dev.sendPkt
  dsimp only
  split
  · exact d.onlySends_queuePkt _ _
  · exact (d.onlySends_vlog _ _ _ _).trans (Dev.onlySends_sendNak _ _ _ _)

theorem Dev.onlySends_sendMgmt (d : Dev) (dev msg : Nat) (bs : List Byte) : d.onlySends (d.sendMgmt dev msg bs) :=
  (d.onlySends_mgmtSeq _).trans (Dev.onlySends_sendPkt _ _ _)

theorem Dev.onlySends_sendCmd (d : Dev) (dev : Nat) (a : MgmtAct) : d.onlySends (d.sendCmd dev a) :=
  (d.onlySends_fresh _).trans (Dev.onlySends_sendMgmt _ _ _ _)

theorem Dev.onlySends_sendRead (d : Dev) (o : Owner) (c : Carry) (a n : Nat) : d.onlySends (d.sendRead o c a n).2 :=
  ((d.onlySends_newTid o).trans (Dev.onlySends_noteTid _ _ _)).trans (Dev.onlySends_sendPkt _ _ _)

theorem Dev.onlySends_sendWrite (d : Dev) (o : Owner) (c : Carry) (acc : Option Nat) (a : Nat) (bs : List Byte) :
    d.onlySends (d.sendWrite o c acc a bs).2 :=
  ((d.onlySends_newTid o).trans (Dev.onlySends_noteTid _ _ _)).trans (Dev.onlySends_sendPkt _ _ _)

/-! ### The Quartermaster's desk -/

/-- The Quartermaster and the host port are as before. -/
def Dev.keepsDesk (d e : Dev) : Prop := e.qm = d.qm ∧ e.host = d.host

theorem Dev.keepsDesk_refl (d : Dev) : d.keepsDesk d := ⟨rfl, rfl⟩

theorem Dev.keepsDesk.trans {d e f : Dev} (h : d.keepsDesk e) (h' : e.keepsDesk f) : d.keepsDesk f :=
  ⟨h'.1.trans h.1, h'.2.trans h.2⟩

theorem Dev.onlySends.keepsDesk {d e : Dev} (h : d.onlySends e) : d.keepsDesk e := by
  unfold Dev.onlySends at h
  rw [h]
  exact ⟨rfl, rfl⟩

theorem Dev.onlyMemory.keepsDesk {d e : Dev} (h : d.onlyMemory e) : d.keepsDesk e := by
  rw [h]
  exact ⟨rfl, rfl⟩

theorem Dev.keepsDesk_setReg (d : Dev) (a v : Nat) : d.keepsDesk (d.setReg a v) := ⟨rfl, rfl⟩
theorem Dev.keepsDesk_wrB (d : Dev) (a : Nat) (bs : List Byte) : d.keepsDesk (d.wrB a bs) := ⟨rfl, rfl⟩
theorem Dev.keepsDesk_zero (d : Dev) (a b : Nat) : d.keepsDesk (d.zero a b) := ⟨rfl, rfl⟩

theorem Dev.keepsDesk_foldl {α : Type} {f : Dev → α → Dev} (h : ∀ (d : Dev) x, d.keepsDesk (f d x)) (xs : List α)
    (d : Dev) : d.keepsDesk (xs.foldl f d) :=
  foldl_related Dev.keepsDesk_refl Dev.keepsDesk.trans h xs d

theorem Dev.keepsDesk_actOn (d : Dev) (dev : Nat) {here : Dev → Dev} (a : MgmtAct) (h : ∀ d : Dev, d.keepsDesk (here d)) :
    d.keepsDesk (d.actOn dev here a) := by
  unfold Dev.actOn
  split
  · exact h d
  · exact (d.onlySends_sendCmd dev a).keepsDesk

theorem Dev.keepsDesk_cancel (d : Dev) : d.keepsDesk d.cancel := ⟨rfl, rfl⟩

theorem Dev.keepsDesk_cancelJob (d : Dev) (j : Job) : d.keepsDesk (d.cancelJob j) :=
  Dev.keepsDesk_foldl (f := fun (d : Dev) x => d.actOn x (·.cancel) .cancel)
    (fun d x => d.keepsDesk_actOn x .cancel Dev.keepsDesk_cancel) j.devices d

theorem Dev.keepsDesk_updStep (d : Dev) (j : Job) (step : Nat) : d.keepsDesk (d.updStep j step) :=
  ((d.keepsDesk_wrB _ _).trans (Dev.keepsDesk_setReg _ _ _)).trans (Dev.keepsDesk_setReg _ _ _)

theorem Dev.keepsDesk_stashClear (d : Dev) (num : Nat) : d.keepsDesk (d.stashClear num) := by
  refine Dev.keepsDesk_foldl (fun d i => ?_) (List.range 4) d
  split
  · exact d.keepsDesk_zero _ _
  · exact d.keepsDesk_refl

theorem Dev.keepsDesk_releaseHere (d : Dev) (num : Nat) : d.keepsDesk (d.releaseHere num) := by
  unfold Dev.releaseHere
  dsimp only
  split
  · exact (d.keepsDesk_stashClear num).trans ⟨rfl, rfl⟩
  · exact d.keepsDesk_stashClear num

theorem Dev.keepsDesk_buddyCopy (d : Dev) (job to_ : Nat) (header data : List Byte) :
    d.keepsDesk (d.buddyCopy job to_ header data) := by
  unfold Dev.buddyCopy
  dsimp only
  have hsent := foldl_related (R := fun x y : List Nat × Dev => x.2.keepsDesk y.2) (fun x => x.2.keepsDesk_refl)
    (fun h h' => h.trans h') (f := fun (x : List Nat × Dev) (w : Nat × List Byte) =>
      let y := x.2.sendWrite .stash (stashCarry job) none (to_ + w.1) w.2
      (x.1 ++ [y.1], y.2)) (fun x w => (x.2.onlySends_sendWrite _ _ _ _ _).keepsDesk)
    ((0, header) :: (pieces (data.length / 4096 + 1) 0 data).map fun p => (64 + p.1, p.2)) ([], d)
  exact hsent.trans ⟨rfl, rfl⟩

theorem Dev.keepsDesk_stashStep (d : Dev) (j : Job) (image : List Byte) (pos buddy : Nat) :
    d.keepsDesk (d.stashStep j image pos buddy) := by
  unfold Dev.stashStep
  dsimp only
  split
  · exact (d.keepsDesk_wrB _ _).trans (Dev.keepsDesk_wrB _ _ _)
  · exact (d.keepsDesk_wrB _ _).trans (Dev.keepsDesk_buddyCopy _ _ _ _ _)

theorem Dev.keepsDesk_beginHere (d : Dev) (j : Job) (pos buddy : Nat) : d.keepsDesk (d.beginHere j pos buddy) := by
  unfold Dev.beginHere
  dsimp only
  split
  · exact (d.keepsDesk_updStep _ _).trans (Dev.keepsDesk_stashStep _ _ _ _ _)
  · exact d.keepsDesk_updStep _ _

theorem Dev.keepsDesk_beginStep (d : Dev) (j : Job) : d.keepsDesk (d.beginStep j) :=
  Dev.keepsDesk_foldl (f := fun (d : Dev) (x : Nat × Nat) =>
      let b := d.buddyOf x.1
      d.actOn x.1 (·.beginHere j x.2 b) (.beginStep j x.2 b))
    (fun d x => d.keepsDesk_actOn x.1 _ fun d => d.keepsDesk_beginHere j x.2 _) j.devices.zipIdx d

theorem Dev.keepsDesk_writeReports (p : Perm) (d : Dev) (j : Job) : d.keepsDesk (writeReports p d j).1 := by
  unfold writeReports
  dsimp only
  exact (Dev.keepsDesk_foldl (fun d x => (d.onlySends_sendCmd x (.report j)).keepsDesk) _ d).trans
    ⟨rfl, rfl⟩

/-! ### Messages for the host -/

/-- Of the Quartermaster only what waits for the host, what it has dropped and the tallies noted differ. -/
def Dev.keepsJobs (d e : Dev) : Prop := e.qm = { d.qm with
  waiting := e.qm.waiting, dropped := e.qm.dropped, tallies := e.qm.tallies }

theorem Dev.keepsJobs_refl (d : Dev) : d.keepsJobs d := rfl

theorem Dev.keepsJobs.trans {d e f : Dev} (h : d.keepsJobs e) (h' : e.keepsJobs f) : d.keepsJobs f := by
  unfold Dev.keepsJobs at *
  rw [h', h]

theorem Dev.keepsDesk.keepsJobs {d e : Dev} (h : d.keepsDesk e) : d.keepsJobs e := by
  unfold Dev.keepsJobs
  rw [h.1]

/-- What the message of a job to the host leaves: memory, the Quartermaster's jobs, and the mailboxes the host writes. -/
def Dev.tells (d e : Dev) : Prop := d.keepsJobs e ∧ e.mem = d.mem ∧ ∀ m < 128, e.mailLen m = d.mailLen m

theorem look_putAll_below {α : Type} [DecidableEq α] (f : Nat → α) (vs : List α) {a k : Nat} (m : List (Nat × α))
    (h : a < k) : look f (putAll f m k vs) a = look f m a := by
  induction vs generalizing m k with
  | nil => rfl
  | cons v vs ih => rw [putAll, ih _ (by omega), look_put_ne _ _ _ (by omega)]

theorem lookAll_congr {α : Type} {f : Nat → α} {m m' : List (Nat × α)} {n k : Nat}
    (h : ∀ a, k ≤ a → a < k + n → look f m' a = look f m a) : lookAll f m' k n = lookAll f m k n := by
  induction n generalizing k with
  | zero => rfl
  | succ n ih => rw [lookAll, lookAll, h k (by omega) (by omega), ih fun a ha hn => h a (by omega) (by omega)]

theorem lookAll_putAll {α : Type} [DecidableEq α] (f : Nat → α) (vs : List α) (m : List (Nat × α)) (k : Nat) :
    lookAll f (putAll f m k vs) k vs.length = vs := by
  induction vs generalizing m k with
  | nil => rfl
  | cons v vs ih => rw [putAll, List.length_cons, lookAll, ih, look_putAll_below _ _ _ (by omega), look_put_self]

theorem Dev.mailLen_setMailLen_self (d : Dev) (m n : Nat) : (d.setMailLen m n).mailLen m = n % 256 ^ 4 := by
  have h := lookAll_putAll byte0 (leBytes 4 n) d.host.mail (0x1000 * m + 0xFF0)
  rw [length_leBytes] at h
  have hmail : (d.setMailLen m n).mailLen m = leNat (lookAll byte0 (putAll byte0 d.host.mail (0x1000 * m + 0xFF0)
    (leBytes 4 n)) (0x1000 * m + 0xFF0) 4) := rfl
  rw [hmail, h, leNat_leBytes]

theorem Dev.mailLen_mailPut_above (d : Dev) {m n : Nat} (o : Nat) (bs : List Byte) (h : n < m) :
    (d.mailPut m o bs).mailLen n = d.mailLen n := by
  have hmail : (d.mailPut m o bs).mailLen n =
    leNat (lookAll byte0 (putAll byte0 d.host.mail (0x1000 * m + o) bs) (0x1000 * n + 0xFF0) 4) := rfl
  rw [hmail, lookAll_congr fun a _ ha => look_putAll_below byte0 bs d.host.mail (by omega)]
  rfl

theorem Dev.sendVector_frame (d : Dev) (v : Nat) : (d.sendVector v).qm = d.qm ∧ (d.sendVector v).mem = d.mem ∧
    (d.sendVector v).host.mail = d.host.mail := by
  unfold Dev.sendVector
  split
  · exact ⟨rfl, rfl, rfl⟩
  · exact ⟨rfl, rfl, rfl⟩

theorem Dev.mailLen_of_mail {d e : Dev} (h : e.host.mail = d.host.mail) (m : Nat) : e.mailLen m = d.mailLen m := by
  rw [Dev.mailLen, Dev.mailAt, h]
  rfl

theorem Dev.tells_mailSend (d : Dev) (m : Nat) (msg : List Byte) : d.tells (d.mailSend m msg) := by
  let d1 := d.mailPut (m + 128) 0 msg
  let d2 := d1.setMailLen (m + 128) msg.length
  obtain ⟨hqm, hmem, hmail⟩ := d2.sendVector_frame m
  refine ⟨Dev.keepsJobs.trans (e := d2) rfl (by unfold Dev.keepsJobs; rw [Dev.mailSend, hqm]), hmem, fun n hn => ?_⟩
  have h2 : d2.mailLen n = d1.mailLen n := d1.mailLen_mailPut_above _ _ (by omega)
  have h1 : d1.mailLen n = d.mailLen n := d.mailLen_mailPut_above _ _ (by omega)
  exact (Dev.mailLen_of_mail hmail n).trans (h2.trans h1)

theorem Dev.tells_post (d : Dev) (m : Nat) (msg : List Byte) : d.tells (d.post m msg) := by
  unfold Dev.post
  split
  · exact d.tells_mailSend m msg
  · refine ⟨?_, rfl, fun _ _ => rfl⟩
    unfold Dev.keepsJobs Dev.modQm
    dsimp only
    split
    · rfl
    · split <;> rfl

theorem Dev.tells_tellHost (d : Dev) (j : Job) (typ : Nat) (bs : List Byte) : d.tells (d.tellHost j typ bs) :=
  d.tells_post _ _

/-! ### The end of a job -/

/-- DONE sends reports and a message, and the job is done. -/
theorem jobDone_eq (p : Perm) (d : Dev) (j : Job) (status : Nat) : ∃ (d1 : Dev) (body : List Byte), d.keepsDesk d1 ∧
    jobDone p d j status = (d1.tellHost j 0x8004 body).modJob j.num fun j => { j with state := 3 } := by
  unfold jobDone
  extract_lets r src d1 att
  have hr : d.keepsDesk r.1 := by
    unfold r
    split
    · exact d.keepsDesk_refl
    · exact Dev.keepsDesk_writeReports p d j
  exact ⟨d1, _, hr, rfl⟩

/-- The jobs after one is changed, in a device that has kept its jobs. -/
theorem Dev.qm_modJob (d : Dev) (num : Nat) (f : Job → Job) : (d.modJob num f).qm =
    { d.qm with running := d.qm.running.map fun j => if j.num = num then f j else j } := rfl

theorem mem_modJob {d : Dev} {num : Nat} {f : Job → Job} {k : Job} (hk : k ∈ (d.modJob num f).qm.running) :
    (∃ j, j.num = num ∧ k = f j) ∨ k.num ≠ num := by
  obtain ⟨j, -, rfl⟩ := List.mem_map.mp hk
  split
  · next h => exact .inl ⟨j, h, rfl⟩
  · next h => exact .inr h

theorem jobDone_ends (p : Perm) (d : Dev) (j : Job) (status : Nat) :
    (∀ k ∈ (jobDone p d j status).qm.running, k.num = j.num → k.state = 3) ∧
      (jobDone p d j status).qm.queue = d.qm.queue ∧ (jobDone p d j status).qm.lost = d.qm.lost := by
  obtain ⟨d1, body, hdesk, hdone⟩ := jobDone_eq p d j status
  have hqm := (d1.tells_tellHost j 0x8004 body).1
  rw [hdone]
  refine ⟨fun k hk hnum => ?_, ?_, ?_⟩
  · rcases mem_modJob hk with ⟨i, -, rfl⟩ | hne
    · rfl
    · exact absurd hnum hne
  · rw [Dev.qm_modJob, hqm, hdesk.1]
  · rw [Dev.qm_modJob, hqm, hdesk.1]

/-! ### The rows -/

theorem Dev.takeMail_leaves (d : Dev) (m : Nat) : (d.takeMail m).mailLen m = 0 ∧ (d.takeMail m).mem = d.mem ∧
    (d.takeMail m).qm = { d.qm with rung := d.qm.rung.filter (· != m) } :=
  ⟨(Dev.mailLen_of_mail (d := d.setMailLen m 0) rfl m).trans ((d.mailLen_setMailLen_self m 0).trans (Nat.zero_mod _)),
    rfl, rfl⟩

theorem Dev.refusal_form (d : Dev) (j : Job) (h : manifestForm j.manifest j.ref = false) : d.refusal j = 1 :=
  if_pos (by simp [h])

theorem Dev.mailLen_modQm (d : Dev) (f : Quarter → Quarter) (m : Nat) : (d.modQm f).mailLen m = d.mailLen m :=
  Dev.mailLen_of_mail rfl m

theorem Dev.mem_modQm (d : Dev) (f : Quarter → Quarter) : (d.modQm f).mem = d.mem := rfl

theorem yields_liftP {i : Instr} {s : State} {e : Dev} (f : Perm → Dev → Dev) (hi : exec i s = liftP f s)
    (he : f s.perm s.dev = e) : Yields i s e := by
  rw [Yields, hi, liftP_next, he]

/-- The job of a message SUBMIT. -/
def Dev.submitted (d : Dev) (m : Nat) (msg : List Byte) : Job :=
  let manifest := (d.lanRead (leAt msg 16 8) (leAt msg 24 4)).getD []
  let image := (d.lanRead (leAt manifest 16 8) (leAt manifest 24 4)).getD []
  { ref := leAt msg 8 4, mbox := m, seq := leAt msg 4 4, manifest := manifest, image := image }

theorem Dev.submit_queued {d : Dev} {m : Nat} {msg : List Byte} (h : d.inbound m 1 = some msg)
    (hwhy : d.refusal (d.submitted m msg) = 0) : d.submit m =
      ((d.takeMail m).modQm fun q => { q with queue := q.queue ++ [d.submitted m msg] }).tellHost (d.submitted m msg)
        0x8001 (leBytes 4 d.qm.queue.length) := by
  simp only [Dev.submit, h]
  exact if_neg (not_not_intro hwhy)

theorem Dev.submit_refused {d : Dev} {m : Nat} {msg : List Byte} (h : d.inbound m 1 = some msg)
    (hwhy : d.refusal (d.submitted m msg) ≠ 0) : d.submit m =
      (d.takeMail m).refuseJob (d.submitted m msg) (d.refusal (d.submitted m msg)) := by
  simp only [Dev.submit, h]
  exact if_pos hwhy

theorem Dev.refuseJob_leaves (d : Dev) (j : Job) (why : Nat) : (d.refuseJob j why).mem = d.mem ∧
    (∀ m < 128, (d.refuseJob j why).mailLen m = d.mailLen m) ∧ (d.refuseJob j why).qm.running = d.qm.running ∧
      (d.refuseJob j why).qm.queue = d.qm.queue ∧
        (d.refuseJob j why).qm.refusals = d.qm.refusals ++ [(j.ref, why)] ∧
          (d.refuseJob j why).qm.lastNum = d.qm.lastNum := by
  obtain ⟨hjobs, hmem, hmail⟩ := d.tells_tellHost j 0x8002 [BitVec.ofNat 8 why]
  unfold Dev.refuseJob
  generalize d.tellHost j 0x8002 [BitVec.ofNat 8 why] = e at *
  refine ⟨hmem, fun m hm => (e.mailLen_modQm _ m).trans (hmail m hm), ?_⟩
  unfold Dev.modQm
  dsimp only
  rw [hjobs]
  exact ⟨rfl, rfl, rfl, rfl⟩

section
variable {s : State} {m : BitVec 7} {msg : List Byte}

theorem does_submit (h : s.dev.inbound m.toNat 1 = some msg) :
    let d := s.dev
    let j := d.submitted m.toNat msg
    let why := d.refusal j
    Does (.submit m) s fun e => e.mailLen m.toNat = 0 ∧ e.mem = d.mem ∧ e.qm.running = d.qm.running ∧
      e.qm.queue = (if why = 0 then d.qm.queue ++ [j] else d.qm.queue) ∧
      e.qm.refusals = (if why = 0 then d.qm.refusals else d.qm.refusals ++ [(j.ref, why)]) := by
  intro d j why
  obtain ⟨hlen, hmem, hqm⟩ := d.takeMail_leaves m.toNat
  refine ⟨d.submit m.toNat, yields_lift (·.submit m.toNat) rfl rfl, ?_⟩
  by_cases hwhy : why = 0
  · rw [Dev.submit_queued h hwhy, if_pos hwhy, if_pos hwhy]
    let d1 := (d.takeMail m.toNat).modQm fun q => { q with queue := q.queue ++ [j] }
    obtain ⟨hjobs, hmem', hmail⟩ := d1.tells_tellHost j 0x8001 (leBytes 4 d.qm.queue.length)
    have hq1 : d1.qm = { (d.takeMail m.toNat).qm with queue := (d.takeMail m.toNat).qm.queue ++ [j] } := rfl
    rw [hqm] at hq1
    refine ⟨(hmail _ m.isLt).trans ((Dev.mailLen_modQm _ _ _).trans hlen), hmem'.trans ((Dev.mem_modQm _ _).trans hmem),
      ?_, ?_, ?_⟩
    · rw [hjobs, hq1]
    · rw [hjobs, hq1]
    · rw [hjobs, hq1]
  · rw [Dev.submit_refused h hwhy, if_neg hwhy, if_neg hwhy]
    obtain ⟨hmem', hmail, hrun, hqueue, href, -⟩ := (d.takeMail m.toNat).refuseJob_leaves j why
    rw [hqm] at hrun hqueue href
    exact ⟨(hmail _ m.isLt).trans hlen, hmem'.trans hmem, hrun, hqueue, href⟩

theorem does_hostCancel_queued (h : s.dev.inbound m.toNat 2 = some msg) {j : Job}
    (hj : s.dev.qm.queue.find? (·.ref == leAt msg 8 4) = some j) :
    Does (.hostCancel m) s fun e => ∀ k ∈ e.qm.queue, k.ref ≠ leAt msg 8 4 := by
  let d1 := s.dev.takeMail m.toNat
  let d2 := d1.modQm fun q => { q with queue := q.queue.filter (·.ref != leAt msg 8 4) }
  have hj1 : d1.qm.queue.find? (·.ref == leAt msg 8 4) = some j := hj
  refine ⟨jobDone s.perm d2 j 1, yields_liftP (fun p d => hostCancel p d m.toNat) rfl ?_, fun k hk => ?_⟩
  · simp only [hostCancel, h]
    rw [hj1]
  · rw [(jobDone_ends _ _ _ _).2.1] at hk
    simpa using (List.mem_filter.mp hk).2

theorem does_hostCancel_running (h : s.dev.inbound m.toNat 2 = some msg) {j : Job}
    (hnone : s.dev.qm.queue.find? (·.ref == leAt msg 8 4) = none)
    (hj : s.dev.qm.running.find? (fun j => j.ref == leAt msg 8 4 && decide (j.state ≠ 3)) = some j) :
    Does (.hostCancel m) s fun e => (∀ k ∈ e.qm.running, k.num = j.num → k.state = 3) ∧ e.qm.queue = s.dev.qm.queue := by
  let d1 := s.dev.takeMail m.toNat
  have hnone1 : d1.qm.queue.find? (·.ref == leAt msg 8 4) = none := hnone
  have hj1 : d1.qm.running.find? (fun j => j.ref == leAt msg 8 4 && decide (j.state ≠ 3)) = some j := hj
  obtain ⟨hstate, hqueue, -⟩ := jobDone_ends s.perm (d1.cancelJob j) j 1
  refine ⟨jobDone s.perm (d1.cancelJob j) j 1, yields_liftP (fun p d => hostCancel p d m.toNat) rfl ?_, hstate, ?_⟩
  · simp only [hostCancel, h]
    rw [hnone1, hj1]
  · rw [hqueue, (d1.keepsDesk_cancelJob j).1]
    rfl

theorem yields_query_none (h : s.dev.inbound m.toNat 3 = some msg)
    (hall : ∀ j ∈ s.dev.qm.running ++ s.dev.qm.queue, leAt msg 8 4 ≠ 0 ∧ j.ref ≠ leAt msg 8 4) :
    Yields (.query m) s (s.dev.takeMail m.toNat) := by
  have hexec : exec (.query m) s = execQuery m s := rfl
  have hrun : ((s.dev.takeMail m.toNat).qm.running.filter fun j => leAt msg 8 4 == 0 || j.ref == leAt msg 8 4) = [] :=
    List.filter_eq_nil_iff.mpr fun j hj => by simpa using hall j (List.mem_append_left _ hj)
  have hqueue (d : Dev) (hd : d.qm.queue = s.dev.qm.queue) :
      (d.qm.queue.zipIdx.filter fun x => leAt msg 8 4 == 0 || x.1.ref == leAt msg 8 4) = [] :=
    List.filter_eq_nil_iff.mpr fun x hx => by
      rw [hd] at hx
      simpa using hall x.1 (List.mem_append_right _ (List.fst_mem_of_mem_zipIdx hx))
  refine yields_lift _ hexec ?_
  simp only [h, Dev.statusAll]
  rw [hrun, hqueue (s.dev.takeMail m.toNat) rfl]
  rfl

theorem yields_query_one (h : s.dev.inbound m.toNat 3 = some msg) {j : Job} (hrun : s.dev.qm.running = [j])
    (hqueue : s.dev.qm.queue = []) (hj : j.ref = leAt msg 8 4) : Yields (.query m) s
      ((s.dev.takeMail m.toNat).sendStatus m.toNat (leAt msg 4 4) j (statusOf j) 0) := by
  have hexec : exec (.query m) s = execQuery m s := rfl
  have hrun' : (s.dev.takeMail m.toNat).qm.running = [j] := hrun
  have hqueue' : (s.dev.takeMail m.toNat).qm.queue = [] := hqueue
  refine yields_lift _ hexec ?_
  have hone : [j].filter (fun j => leAt msg 8 4 == 0 || j.ref == leAt msg 8 4) = [j] := by simp [hj]
  simp only [h, Dev.statusAll]
  rw [hrun', hqueue', hone]
  rfl

/-- The job as LOADED leaves it: one placed that waits for its input runs at step 1. -/
def Job.loaded (ref : Nat) (j : Job) : Job :=
  if j.ref = ref ∧ j.state = 1 then { j with state := 2, step := 1 } else j

theorem Dev.loadedJobs_eq (d : Dev) (ref : Nat) : d.loadedJobs ref =
    ((d.qm.running.filter fun j => (j.ref == ref && j.state == 1) && stashDue j 1).map (Job.loaded ref)).foldl
      (fun (d : Dev) j => d.beginStep j) (d.modQm fun q => { q with running := q.running.map (Job.loaded ref) }) := by
  have hrun : (fun j : Job => if (j.ref == ref && j.state == 1) then { j with state := 2, step := 1 } else j) =
      Job.loaded ref := by
    funext j
    simp [Job.loaded]
  rw [← hrun]
  rfl

theorem does_loaded (h : s.dev.inbound m.toNat 4 = some msg) :
    Does (.loaded m) s fun e => e.mailLen m.toNat = 0 ∧ e.qm.queue = s.dev.qm.queue ∧
      e.qm.running = s.dev.qm.running.map (Job.loaded (leAt msg 8 4)) ∧
      ((∀ j ∈ s.dev.qm.running, j.ref = leAt msg 8 4 → stashDue j 1 = false) → e.mem = s.dev.mem) := by
  have hexec : exec (.loaded m) s = execLoaded m s := rfl
  let d1 := s.dev.takeMail m.toNat
  obtain ⟨hlen, hmem, hqm⟩ := s.dev.takeMail_leaves m.toNat
  have hy : Yields (.loaded m) s (d1.loadedJobs (leAt msg 8 4)) := yields_lift _ hexec (by simp only [h]; rfl)
  refine ⟨_, hy, ?_⟩
  rw [Dev.loadedJobs_eq]
  have hdesk := Dev.keepsDesk_foldl (f := fun (d : Dev) j => d.beginStep j) Dev.keepsDesk_beginStep
    ((d1.qm.running.filter fun j => (j.ref == leAt msg 8 4 && j.state == 1) && stashDue j 1).map
      (Job.loaded (leAt msg 8 4))) (d1.modQm fun q => { q with running := q.running.map (Job.loaded (leAt msg 8 4)) })
  refine ⟨?_, by rw [hdesk.1]; rfl, by rw [hdesk.1]; rfl, fun hdue => ?_⟩
  · exact (Dev.mailLen_of_mail (by rw [hdesk.2]; rfl) m.toNat).trans hlen
  · have hnone : (d1.qm.running.filter fun j => (j.ref == leAt msg 8 4 && j.state == 1) && stashDue j 1) = [] :=
      List.filter_eq_nil_iff.mpr fun j hj hb => by
        simp only [Bool.and_eq_true, beq_iff_eq] at hb
        rw [hdue j hj hb.1.1] at hb
        exact absurd hb.2 (by decide)
    rw [hnone]
    rfl

theorem does_hostRelease (h : s.dev.inbound m.toNat 5 = some msg) {j : Job}
    (hj : (s.dev.qm.running.find? fun j => j.ref == leAt msg 8 4 && j.state == 3) = some j) :
    Does (.hostRelease m) s fun e => e.qm.running = s.dev.qm.running.filter (·.num != j.num) ∧
      e.qm.queue = s.dev.qm.queue := by
  have hexec : exec (.hostRelease m) s = execHostRelease m s := rfl
  let d1 := s.dev.takeMail m.toNat
  have hj1 : (d1.qm.running.find? fun j => j.ref == leAt msg 8 4 && j.state == 3) = some j := hj
  let f := fun (d : Dev) x => d.actOn x (·.releaseHere j.num) (.release j.num)
  have hdesk := Dev.keepsDesk_foldl (f := f) (fun d x => d.keepsDesk_actOn x _ fun d => d.keepsDesk_releaseHere j.num)
    (j.devices ++ j.devices.map d1.buddyOf).eraseDups d1
  have hy : Yields (.hostRelease m) s (((j.devices ++ j.devices.map d1.buddyOf).eraseDups.foldl f d1).modQm fun q =>
      { q with running := q.running.filter (·.num != j.num) }) := by
    refine yields_lift _ hexec ?_
    simp only [h]
    rw [hj1]
  refine ⟨_, hy, ?_⟩
  unfold Dev.modQm
  dsimp only
  rw [hdesk.1]
  exact ⟨rfl, rfl⟩

theorem does_hold (h : s.dev.inbound m.toNat 6 = some msg) : Does (.hold m) s fun e => e.mailLen m.toNat = 0 ∧
    e.mem = s.dev.mem ∧ e.qm.hold = (leAt msg 16 1 == 1) ∧ e.qm.queue = s.dev.qm.queue ∧
      e.qm.running = s.dev.qm.running := by
  have hexec : exec (.hold m) s = execHold m s := rfl
  obtain ⟨hlen, hmem, hqm⟩ := s.dev.takeMail_leaves m.toNat
  have hy : Yields (.hold m) s ((s.dev.takeMail m.toNat).modQm fun q => { q with hold := leAt msg 16 1 == 1 }) :=
    yields_lift _ hexec (by simp only [h])
  generalize s.dev.takeMail m.toNat = d1 at *
  refine ⟨_, hy, (Dev.mailLen_modQm _ _ _).trans hlen, (Dev.mem_modQm _ _).trans hmem, rfl, ?_, ?_⟩
  · rw [Dev.modQm, hqm]
  · rw [Dev.modQm, hqm]

end

/-- Settles O44: a message by its TYPE, each by what its answer to the host leaves of the Quartermaster. -/
theorem hostMessages : Obligations.HostMessages := by
  unfold Obligations.HostMessages
  intro s m msg d ref
  exact ⟨fun h => ⟨fun hform => d.refusal_form _ hform, does_submit h⟩,
    fun h => ⟨fun j hj => does_hostCancel_queued h hj, fun j hnone hj => does_hostCancel_running h hnone hj⟩,
    yields_query_none, fun h j => yields_query_one h, does_loaded, fun h j => does_hostRelease h, does_hold⟩

end Sys2Proof.Machine

/-! What the work of the reduction contexts keeps, said once for every relation that its accesses keep, and so what the
strike of a device leaves of the Quartermaster (R298 to R320, R414), for O45 and O46. -/

namespace Sys2Proof.Machine

/-! ### Work that keeps a relation -/

/-- The device after the work stands in R to the device before it, whether it ends or faults. -/
def Eng.keeps {α : Type} (R : Dev → Dev → Prop) (w : Eng α) : Prop := ∀ x, R x.dev (w.run x).2.dev

theorem Eng.keeps.onDev {R : Dev → Dev → Prop} {f : Dev → Dev} (h : ∀ d, R d (f d)) : Eng.keeps R (onDev f) :=
  fun x => h x.dev

theorem Eng.keeps.ite {α : Type} {R : Dev → Dev → Prop} {c : Prop} [Decidable c] {w v : Eng α} (hw : Eng.keeps R w)
    (hv : Eng.keeps R v) : Eng.keeps R (if c then w else v) := by
  split
  · exact hw
  · exact hv

/-- A relation that every access of the reduction contexts keeps. -/
structure CtxKept (R : Dev → Dev → Prop) : Prop where
  refl : ∀ d, R d d
  trans : ∀ {a b c}, R a b → R b c → R a c
  setReg : ∀ d a v, R d (d.setReg a v)
  modCtx : ∀ d c f, R d (Dev.modCtx d c f)
  memRead : ∀ (d : Dev) q a n, R d (d.memRead q a n).2
  memWrite : ∀ (d : Dev) q a bs, R d (d.memWrite q a bs).2
  undef : ∀ (d : Dev) a n, R d (d.undef a n)
  sendPkt : ∀ (d : Dev) h bs, R d (d.sendPkt h bs)
  grant : ∀ (d : Dev) b asking, R d (d.grant b asking).1
  raise : ∀ (d : Dev) src cls code unit detail, R d (d.raise src cls code unit detail)
  logErr : ∀ (d : Dev) src unit blk cls cause i, R d (d.logErr src unit blk cls cause i)
  waitPkts : ∀ (d : Dev) ps, R d { d with waitPkts := ps }
  gyl : ∀ (d : Dev) ms, R d { d with gyl := ms }
  armed : ∀ (d : Dev) m, R d { d with armed := m }
  noteTally : ∀ (d : Dev) c, R d (d.noteTally c)

section
variable {R : Dev → Dev → Prop} (hR : CtxKept R)
include hR

theorem CtxKept.foldl {α : Type} {f : Dev → α → Dev} (h : ∀ (d : Dev) x, R d (f d x)) (xs : List α) (d : Dev) :
    R d (xs.foldl f d) := foldl_related hR.refl hR.trans h xs d

theorem CtxKept.bump (d : Dev) (a v : Nat) : R d (d.bump a v) := hR.setReg d a _
theorem CtxKept.orReg (d : Dev) (a v : Nat) : R d (d.orReg a v) := hR.setReg d a _
theorem CtxKept.setRegF (d : Dev) (a l w v : Nat) : R d (d.setRegF a l w v) := hR.setReg d a _

/-! ### Work -/

namespace CtxKept
variable {α β : Type} {w : Eng α} {f : α → Eng β}

theorem bind (hw : Eng.keeps R w) (hf : ∀ v, Eng.keeps R (f v)) : Eng.keeps R (w >>= f) := by
  intro x
  rw [Eng.run_bind]
  have hwx := hw x
  cases hrun : w.run x with
  | mk r y =>
    rw [hrun] at hwx
    cases r with
    | error e => exact hwx
    | ok v => exact hR.trans hwx (hf v y)

theorem pure (v : α) : Eng.keeps R (Pure.pure v : Eng α) := fun _ => hR.refl _
theorem failWith (c a : Nat) : Eng.keeps R (failWith c a : Eng α) := fun _ => hR.refl _
theorem ask (f : Dev → α) : Eng.keeps R (askDev f) := fun _ => hR.refl _
theorem need (ok : Bool) (c a : Nat) : Eng.keeps R (need ok c a) := .ite (hR.pure _) (hR.failWith _ _)

theorem mapM (h : ∀ a, Eng.keeps R (f a)) (as : List α) : Eng.keeps R (as.mapM f) := by
  induction as with
  | nil => exact hR.pure _
  | cons a as ih =>
    rw [List.mapM_cons]
    exact hR.bind (h a) fun _ => hR.bind ih fun _ => hR.pure _

theorem forM {f : α → Eng PUnit} (h : ∀ a, Eng.keeps R (f a)) (as : List α) : Eng.keeps R (as.forM f) := by
  induction as with
  | nil => exact hR.pure _
  | cons a as ih => exact hR.bind (h a) fun _ => ih

/-- A part that is done or left out, and then the rest. -/
theorem check {c : Prop} [Decidable c] {v : Eng PUnit} {k : PUnit → Eng β} (hv : Eng.keeps R v)
    (hk : ∀ u, Eng.keeps R (k u)) : Eng.keeps R (if c then v >>= k else k ()) := .ite (hR.bind hv hk) (hk ())

/-- Either of two parts, and then the rest. -/
theorem choose {c : Prop} [Decidable c] {u v : Eng α} {k : α → Eng β} (hu : Eng.keeps R u) (hv : Eng.keeps R v)
    (hk : ∀ a, Eng.keeps R (k a)) : Eng.keeps R (if c then u >>= k else v >>= k) :=
  .ite (hR.bind hu hk) (hR.bind hv hk)

/-- An access that gives a result and a device, which is then the device. -/
theorem access {f : Dev → α × Dev} (h : ∀ d, R d (f d).2) {k : α × Dev → Eng β} (hk : ∀ r, Eng.keeps R (k r)) :
    Eng.keeps R (askDev f >>= fun r => Sys2Proof.Machine.onDev (fun _ => r.2) >>= fun _ => k r) := by
  intro x
  have hrun : (askDev f >>= fun r => Sys2Proof.Machine.onDev (fun _ => r.2) >>= fun _ => k r).run x =
      (k (f x.dev)).run { x with dev := (f x.dev).2 } := rfl
  rw [hrun]
  exact hR.trans (h x.dev) (hk _ { x with dev := (f x.dev).2 })

end CtxKept

/-! ### Signals -/

theorem CtxKept.setCtxState (d : Dev) (c s : Nat) : R d (d.setCtxState c s) := hR.setRegF d _ _ _ _
theorem CtxKept.markDone (d : Dev) (c i : Nat) : R d (d.markDone c i) := hR.modCtx d c _
theorem CtxKept.dieErr (d : Dev) (die port blk cls cause : Nat) (i : ErrInfo) : R d (d.dieErr die port blk cls cause i) :=
  hR.logErr d _ _ _ _ _ _
theorem CtxKept.tentErr (d : Dev) (t blk cls cause : Nat) (i : ErrInfo) : R d (d.tentErr t blk cls cause i) :=
  hR.logErr d _ _ _ _ _ _
theorem CtxKept.sendPeg (d : Dev) (a n : Nat) (i : Ident) : R d (d.sendPeg a n i) := hR.sendPkt d _ _
theorem CtxKept.ctxPeg (d : Dev) (c dev a : Nat) : R d (d.ctxPeg c dev a) := hR.sendPkt d _ _
theorem CtxKept.gylBad (d : Dev) (die : Nat) : R d (d.gylBad die) := hR.trans (hR.bump d _ _) (hR.dieErr _ _ _ _ _ _ _)

theorem CtxKept.pegSig (d : Dev) (t p c : Nat) : R d (d.pegSig t p c) := by
  unfold Dev.pegSig
  dsimp only
  split
  · exact hR.setReg d _ _
  · exact hR.trans (hR.trans (hR.setReg d _ _) (hR.orReg _ _ _)) (hR.tentErr _ _ _ _ _ _)

theorem CtxKept.ioPegTest (d : Dev) (die n : Nat) : R d (d.ioPegTest die n) := by
  unfold Dev.ioPegTest
  dsimp only
  split
  · exact hR.trans (hR.trans (hR.armed d _) (hR.setReg _ _ _)) (hR.raise _ _ _ _ _ _)
  · exact hR.refl d

theorem CtxKept.ioPegSig (d : Dev) (die n c : Nat) : R d (d.ioPegSig die n c) := by
  unfold Dev.ioPegSig
  dsimp only
  split
  · exact hR.trans (hR.setReg d _ _) (hR.ioPegTest _ _ _)
  · exact hR.trans (hR.trans (hR.trans (hR.setReg d _ _) (hR.orReg _ _ _)) (hR.dieErr _ _ _ _ _ _ _))
      (hR.ioPegTest _ _ _)

theorem CtxKept.gylRelease (d : Dev) (g : Nat) (forced : Bool) : R d (d.gylRelease g forced) :=
  hR.trans (hR.trans (hR.trans (hR.setRegF d _ _ _ _) (hR.setRegF _ _ _ _ _))
    (hR.foldl (f := fun d c => d.sendPeg (c * 2 ^ 48 + (campAddr g + 0x84)) 1) (fun d _ => hR.sendPeg d _ _ _) _ _))
    (hR.gyl _ _)

theorem CtxKept.devCount (d : Dev) (g n : Nat) : R d (d.devCount g n) := by
  unfold Dev.devCount
  dsimp only
  split
  · exact hR.setRegF d _ _ _ _
  · split
    · exact hR.trans (hR.trans (hR.setRegF d _ _ _ _) (hR.setRegF _ _ _ _ _)) (hR.sendPeg _ _ _ _)
    · exact hR.gylRelease d g false

theorem CtxKept.gylUp (d : Dev) (g src n die : Nat) : R d (d.gylUp g src n die) := by
  unfold Dev.gylUp
  split
  · exact hR.devCount d g n
  · exact hR.gylBad d die

theorem CtxKept.gylDown (d : Dev) (g src die : Nat) : R d (d.gylDown g src die) := by
  unfold Dev.gylDown
  dsimp only
  split
  · exact hR.gylRelease d g false
  · exact hR.gylBad d die

/-! ### Contexts that close -/

theorem CtxKept.purgeWaiting (d : Dev) : R d d.purgeWaiting :=
  hR.trans (hR.waitPkts d _) (hR.foldl (f := fun d p => d.bump (rdxReg (leAt p 32 1 % 64) 0x108) 1)
    (fun d _ => hR.bump d _ _) _ _)

theorem CtxKept.ctxClose (d : Dev) (c status cause : Nat) : R d (d.ctxClose c status cause).1 := by
  rw [Dev.ctxClose_eq]
  refine hR.trans (hR.trans (hR.trans (hR.trans (hR.trans ?_ (hR.memWrite _ _ _ _)) (hR.setCtxState _ _ _))
    (hR.setReg _ _ _)) (hR.modCtx _ _ _)) (hR.purgeWaiting _)
  split
  · exact hR.noteTally d c
  · exact hR.refl d

theorem CtxKept.ctxFinish (d : Dev) (c : Nat) : R d (d.ctxFinish c).1 := by
  unfold Dev.ctxFinish
  dsimp only
  split
  · exact hR.trans (hR.memWrite d _ _ _) (hR.ctxClose _ _ _ _)
  · exact hR.ctxClose d _ _ _

theorem CtxKept.fenceTest (d : Dev) (c : Nat) : R d (d.fenceTest c).1 := by
  unfold Dev.fenceTest
  dsimp only
  split
  · exact hR.refl d
  · split
    · split
      · exact hR.refl d
      · exact hR.trans (hR.foldl (f := fun d m => d.ctxPeg c m (ctxReg c 0x60)) (fun d _ => hR.ctxPeg d _ _ _) _ d)
          (hR.ctxFinish _ _)
    · split
      · exact hR.refl d
      · exact hR.ctxFinish d c

omit hR in
/-- A recursion on a number has what each of its steps has where the recursion below it does. -/
theorem brecOn_related {motive : Nat → Sort*} (F : ∀ n, Nat.below (motive := motive) n → motive n)
    (P : ∀ n, motive n → Prop) (hzero : P 0 (F 0 ⟨⟩)) (hsucc : ∀ n below, P n below.1 → P (n + 1) (F (n + 1) below)) (n : Nat) :
    P n (Nat.brecOn n F) := by
  induction n with
  | zero => exact hzero
  | succ n ih => exact hsucc n _ ih

/-- `signalHere` one round further, over any recursion below it. -/
theorem CtxKept.signalRound (die src a n fuel : Nat) (d : Dev)
    (below : Nat.below (motive := fun _ => Dev → Nat → Nat → Nat → Dev) (fuel + 1))
    (h : ∀ d src a n, R d (below.1 d src a n)) : R d (Dev.signalHere._f die (fuel + 1) below d src a n) := by
  cases ha : pegTargetOf a with
  | tent t p =>
    simp only [Dev.signalHere._f, ha]
    exact hR.pegSig d _ _ _
  | io die' k =>
    simp only [Dev.signalHere._f, ha]
    exact hR.ioPegSig d _ _ _
  | up g =>
    simp only [Dev.signalHere._f, ha]
    split
    · exact hR.refl d
    · exact hR.gylUp d _ _ _ _
  | down g =>
    simp only [Dev.signalHere._f, ha]
    split
    · exact hR.refl d
    · exact hR.gylDown d _ _ _
  | fence c =>
    have hclosed := hR.trans (hR.bump d (ctxReg c 0x60) n) (hR.fenceTest _ c)
    simp only [Dev.signalHere._f, ha]
    generalize (d.bump (ctxReg c 0x60) n).fenceTest c = r at *
    obtain ⟨e, o⟩ := r
    split
    · exact hR.refl d
    · cases o with
      | none => exact hclosed
      | some x =>
        cases hp : e.place x with
        | here b => simp only [hp]; exact hR.trans hclosed (h _ _ _ _)
        | remote _ _ => simp only [hp]; exact hR.trans hclosed (hR.sendPeg _ _ _ _)
        | bad => simp only [hp]; exact hR.trans hclosed (hR.gylBad _ _)
  | none =>
    simp only [Dev.signalHere._f, ha]
    exact hR.gylBad d _

theorem CtxKept.signalHere (d : Dev) (die src a n fuel : Nat) : R d (d.signalHere die src a n fuel) := by
  delta Dev.signalHere
  exact brecOn_related (Dev.signalHere._f die) (fun _ g => ∀ (d : Dev) src a n, R d (g d src a n))
    (fun d _ _ _ => hR.refl d) (fun fuel below h d src a n => hR.signalRound die src a n fuel d below h) fuel d src a n

theorem CtxKept.signalCamp (d : Dev) (x n : Nat) (i : Ident) : R d (d.signalCamp x n i) := by
  unfold Dev.signalCamp
  split
  · exact hR.signalHere d _ _ _ _ _
  · exact hR.sendPeg d _ _ _
  · exact hR.gylBad d _

theorem CtxKept.ctxEnd (d : Dev) (c status cause : Nat) : R d (d.ctxEnd c status cause) :=
  hR.trans (hR.ctxClose d c status cause) (hR.signalCamp _ _ _ _)

theorem CtxKept.ctxUndef (d : Dev) (c : Nat) : R d (d.ctxUndef c) := by
  unfold Dev.ctxUndef
  extract_lets x d1 d2
  have h1 : R d d1 := by
    unfold d1
    split
    · exact hR.refl d
    · exact hR.trans (hR.undef d _ _) (hR.undef _ _ _)
  have h2 : R d d2 := by
    unfold d2
    split
    · exact hR.trans h1 (hR.undef _ _ _)
    · exact h1
  split
  · exact h2
  · exact hR.trans h2 (hR.undef _ _ _)

theorem CtxKept.ctxFault (d : Dev) (c cause a : Nat) : R d (d.ctxFault c cause a) := by
  unfold Dev.ctxFault
  extract_lets die d0 d1
  have h1 : R d d1 := by
    unfold d1
    split
    · exact hR.trans (hR.trans (hR.ctxUndef d c) (hR.setReg _ _ _)) (hR.setReg _ _ _)
    · exact hR.ctxUndef d c
  exact hR.trans (hR.trans h1 (hR.dieErr _ _ _ _ _ _ _)) (hR.ctxEnd _ _ _ _)

/-! ### Blocks and packets of a context -/

theorem CtxKept.ctxRead (c a n : Nat) : Eng.keeps R (ctxRead c a n) :=
  hR.access (fun d => hR.memRead d _ _ _) fun _ => hR.bind (hR.need _ _ _) fun _ => hR.pure _

theorem CtxKept.ctxWrite (c a : Nat) (bs : List Byte) : Eng.keeps R (ctxWrite c a bs) :=
  hR.access (fun d => hR.memWrite d _ _ _) fun _ => hR.need _ _ _

theorem CtxKept.ctxAgree (c b : Nat) : Eng.keeps R (ctxAgree c b) :=
  hR.bind (hR.ask _) fun _ => hR.bind (hR.ctxRead _ _ _) fun _ => hR.pure _

theorem CtxKept.ctxLocal (c b : Nat) : Eng.keeps R (ctxLocal c b) :=
  hR.bind (hR.ask _) fun _ => hR.bind (hR.ctxRead _ _ _) fun _ => .ite (hR.pure _) <|
    hR.bind (hR.ctxAgree _ _) fun _ => hR.bind (hR.need _ _ _) fun _ => hR.bind (hR.ctxRead _ _ _) fun _ => hR.pure _

theorem CtxKept.ctxPut (c b e : Nat) (els : List Int) : Eng.keeps R (ctxPut c b e els) :=
  hR.bind (hR.ask _) fun _ => hR.bind (hR.ctxWrite _ _ _) fun _ => hR.ctxWrite _ _ _

theorem CtxKept.ctxCrc (c : Nat) (is : List Nat) : Eng.keeps R (ctxCrc c is) :=
  hR.bind (hR.mapM (fun _ => hR.bind (hR.ask _) fun _ => hR.ctxAgree _ _) _) fun _ => hR.pure _

theorem CtxKept.ctxSendRun (c tgt phase : Nat) (items : List Item) : Eng.keeps R (ctxSendRun c tgt phase items) :=
  hR.bind (hR.ask _) fun _ => hR.bind (hR.ctxCrc _ _) fun _ =>
    .onDev fun d => hR.trans (hR.modCtx d _ _) (hR.sendPkt _ _ _)

theorem CtxKept.ctxSend (c tgt phase : Nat) (items : List Item) : Eng.keeps R (ctxSend c tgt phase items) :=
  hR.bind (hR.ask _) fun _ => hR.forM (fun _ => hR.ctxSendRun _ _ _ _) _

theorem CtxKept.ctxSpread (c phase : Nat) (items : List Item) : Eng.keeps R (ctxSpread c phase items) :=
  hR.bind (hR.ask _) fun _ => hR.forM (fun _ => hR.ctxSend _ _ _ _) _

/-! ### Results and rounds -/

theorem CtxKept.mainResult (c i : Nat) (b : Blk) (ends : Bool) : Eng.keeps R (mainResult c i b ends) := by
  refine hR.bind (hR.ask _) fun d => hR.bind (hR.ctxAgree _ _) fun a => ?_
  have hend {n : Nat} : Eng.keeps R (Sys2Proof.Machine.onDev fun d => (d.modCtx c fun x =>
      { x with ovf := if b.ovf then i :: x.ovf else x.ovf, nf := if b.nf then i :: x.nf else x.nf
               next := put (fun _ => 0) x.next i n }).markDone c i) :=
    .onDev fun d => hR.trans (hR.modCtx d _ _) (hR.markDone _ _ _)
  refine .ite (.ite (hR.bind (hR.ctxPut _ _ _ _) fun _ => hend) hend) (.ite (.ite (hR.bind (hR.ctxPut _ _ _ _) fun _ => hend) hend) hend)

theorem CtxKept.mainEnd (c : Nat) (xs : List (Nat × Blk)) : Eng.keeps R (mainEnd c xs) :=
  hR.bind (hR.forM (fun _ => hR.mainResult _ _ _ _) _) fun _ => hR.bind (hR.ask _) fun _ =>
    .ite (hR.ctxSpread _ _ _) (hR.ctxSpread _ _ _)

theorem CtxKept.rpResult (c i e : Nat) (els : List Int) (a : Nat) (ends : Bool) :
    Eng.keeps R (rpResult c i e els a ends) :=
  hR.bind (hR.ask _) fun _ => hR.check (hR.ctxPut _ _ _ _) fun _ =>
    .onDev fun d => hR.trans (hR.modCtx d _ _) (hR.markDone _ _ _)

theorem CtxKept.rpEnd (c : Nat) (xs : List (Nat × Blk)) : Eng.keeps R (rpEnd c xs) :=
  hR.bind (hR.mapM (fun _ => hR.bind (hR.ask _) fun _ => hR.bind (hR.ctxAgree _ _) fun _ =>
    hR.bind (hR.rpResult _ _ _ _ _ _) fun _ => hR.check (hR.ctxWrite _ _ _) fun _ => hR.pure _) _) fun _ =>
      hR.bind (hR.ask _) fun _ => .ite (hR.ctxSpread _ _ _) (hR.ctxSpread _ _ _)

theorem CtxKept.expResult (c i m : Nat) : Eng.keeps R (expResult c i m) :=
  hR.bind (hR.ask _) fun _ => hR.bind (hR.ctxWrite _ _ _) fun _ => hR.check (hR.ctxWrite _ _ _) fun _ =>
    .onDev fun d => hR.markDone d _ _

theorem CtxKept.expEnd (c : Nat) (xs : List (Nat × Nat)) : Eng.keeps R (expEnd c xs) :=
  hR.bind (hR.forM (fun _ => hR.expResult _ _ _) _) fun _ => hR.ctxSpread _ _ _

theorem CtxKept.ownExp (c i : Nat) : Eng.keeps R (ownExp c i) :=
  hR.bind (hR.ask _) fun _ => .ite (hR.pure _) (hR.bind (hR.ctxRead _ _ _) fun _ => hR.pure _)

theorem CtxKept.ownBlk (c i : Nat) : Eng.keeps R (ownBlk c i) :=
  hR.bind (hR.ask _) fun _ => .ite (hR.pure _) (hR.bind (hR.ctxLocal _ _) fun _ => hR.pure _)

theorem CtxKept.joinBlk (c : Nat) (x y : Blk) : Eng.keeps R (joinBlk c x y) :=
  hR.bind (hR.ask _) fun _ => .ite (hR.pure _) (hR.check (.onDev fun d => hR.bump d _ _) fun _ => hR.pure _)

theorem CtxKept.joinOwn (c i : Nat) (x : Blk) : Eng.keeps R (joinOwn c i x) := by
  refine .ite (hR.pure _) (hR.bind (hR.ownBlk c i) fun o => ?_)
  cases o with
  | none => exact hR.pure _
  | some y => exact hR.joinBlk c x y

theorem CtxKept.roundEnd (c : Nat) (xs : List (Nat × Blk)) : Eng.keeps R (roundEnd c xs) :=
  hR.bind (hR.ask _) fun _ => .ite (hR.rpEnd c xs) (hR.mainEnd c xs)

theorem CtxKept.ringSums (c : Nat) (xs : List (Nat × Nat × Blk)) : Eng.keeps R (ringSums c xs) :=
  hR.bind (hR.mapM (fun _ => hR.bind (hR.joinOwn _ _ _) fun _ => hR.pure _) _) fun _ => hR.bind (hR.ask _) fun _ =>
    hR.bind (hR.roundEnd _ _) fun _ => hR.ctxSend _ _ _ _

theorem CtxKept.treeOne (c i cnt : Nat) (b : Blk) : Eng.keeps R (treeOne c i cnt b) := by
  refine hR.bind (hR.ask _) fun _ => ?_
  have hrest (s : Blk) (n total : Nat) (kids : List Nat) (relay : Bool) : Eng.keeps R (
      if n < kids.length then do
        Sys2Proof.Machine.onDev fun d => d.modCtx c fun x =>
          { x with heard := put (fun _ => 0) x.heard i n, sums := put (fun _ => {}) x.sums i s
                   counts := put (fun _ => 0) x.counts i total }
        return none
      else do
        Sys2Proof.Machine.onDev fun d => d.modCtx c fun x =>
          { x with heard := dropAt i x.heard, sums := dropAt i x.sums, counts := dropAt i x.counts }
        let s ← Sys2Proof.Machine.joinOwn c i s
        return some (i, total + b2n (!relay), s)) :=
    .ite (hR.bind (.onDev fun d => hR.modCtx d _ _) fun _ => hR.pure _)
      (hR.bind (.onDev fun d => hR.modCtx d _ _) fun _ => hR.bind (hR.joinOwn _ _ _) fun _ => hR.pure _)
  exact .ite (hR.bind (hR.pure _) fun _ => hrest _ _ _ _ _) (hR.bind (hR.joinBlk _ _ _) fun _ => hrest _ _ _ _ _)

theorem CtxKept.treeSums (c : Nat) (xs : List (Nat × Nat × Blk)) : Eng.keeps R (treeSums c xs) :=
  hR.bind (hR.mapM (fun _ => hR.treeOne _ _ _ _) _) fun _ => hR.bind (hR.ask _) fun _ =>
    .ite (hR.roundEnd _ _) (hR.ctxSend _ _ _ _)

theorem CtxKept.ringExp (c : Nat) (xs : List (Nat × Nat)) : Eng.keeps R (ringExp c xs) :=
  hR.bind (hR.mapM (fun _ => hR.bind (hR.ownExp _ _) fun _ => hR.pure _) _) fun _ => hR.bind (hR.ask _) fun _ =>
    hR.bind (hR.expEnd _ _) fun _ => hR.ctxSend _ _ _ _

theorem CtxKept.treeExpOne (c i m : Nat) : Eng.keeps R (treeExpOne c i m) :=
  hR.bind (hR.ask _) fun _ => .ite (hR.bind (.onDev fun d => hR.modCtx d _ _) fun _ => hR.pure _)
    (hR.bind (.onDev fun d => hR.modCtx d _ _) fun _ => hR.bind (hR.ownExp _ _) fun _ => hR.pure _)

theorem CtxKept.treeExp (c : Nat) (xs : List (Nat × Nat)) : Eng.keeps R (treeExp c xs) :=
  hR.bind (hR.mapM (fun _ => hR.treeExpOne _ _ _) _) fun _ => hR.bind (hR.ask _) fun _ =>
    .ite (hR.expEnd _ _) (hR.ctxSend _ _ _ _)

/-! ### Phases of a context -/

theorem CtxKept.roundStart (c : Nat) : Eng.keeps R (roundStart c) :=
  hR.bind (hR.ask _) fun _ => .ite
    (hR.bind (hR.mapM (fun _ => hR.bind (hR.ownExp _ _) fun _ => hR.pure _) _) fun _ =>
      .ite (hR.expEnd _ _) (hR.ctxSend _ _ _ _))
    (hR.bind (hR.mapM (fun _ => hR.bind (hR.ownBlk _ _) fun _ => hR.pure _) _) fun _ =>
      .ite (hR.roundEnd _ _) (hR.ctxSend _ _ _ _))

theorem CtxKept.fenceStart (d : Dev) (c : Nat) : R d (d.fenceStart c) := by
  unfold Dev.fenceStart
  extract_lets x d1 d2 r
  have h1 : R d d1 := hR.trans (hR.setCtxState d _ _) (hR.modCtx _ _ _)
  have h2 : R d d2 := by
    unfold d2
    split
    · exact hR.trans h1 (hR.bump _ _ _)
    · exact hR.trans h1 (hR.ctxPeg _ _ _ _)
  have h3 : R d r.1 := hR.trans h2 (hR.fenceTest _ _)
  clear_value r
  split
  · exact hR.trans h3 (hR.signalCamp _ _ _ _)
  · exact h3

theorem CtxKept.mainComplete (c : Nat) : Eng.keeps R (mainComplete c) := by
  refine hR.bind (hR.ask _) fun d => ?_
  extract_lets x phi ovl
  have hend (base : Nat) : Eng.keeps R (do
      Sys2Proof.Machine.onDev fun d => d.modCtx c fun x => { x with phi := phi, ovlBase := base, done := [], got := [] }
      if phi.isEmpty then return false
      else
        Sys2Proof.Machine.onDev fun d => (d.setCtxState c 4).bump (rdxReg c 0x138) 1
        Sys2Proof.Machine.roundStart c
        return true) :=
    hR.bind (.onDev fun d => hR.modCtx d _ _) fun _ => .ite (hR.pure _)
      (hR.bind (.onDev fun d => hR.trans (hR.setCtxState d _ _) (hR.bump _ _ _)) fun _ =>
        hR.bind (hR.roundStart c) fun _ => hR.pure _)
  have hlist (base : Nat) : Eng.keeps R (phi.zipIdx.forM fun (b, k) =>
      if base + k < d.reg (ctxReg c 0x40) then Sys2Proof.Machine.ctxWrite c (ovl + 16 + 8 * (base + k)) (leBytes 8 b)
      else Pure.pure ()) :=
    hR.forM (fun _ => .ite (hR.ctxWrite _ _ _) (hR.pure _)) _
  have hrest (base : Nat) := Eng.keeps.ite (c := (!phi.isEmpty) = true)
    (hR.bind (hR.ctxWrite c ovl (leBytes 4 (base + phi.length))) fun _ => hR.bind (hlist base) fun _ => hend base) (hend base)
  exact .ite (hR.bind (hR.pure _) fun _ => hrest _) (hR.bind (hR.ctxRead _ _ _) fun _ => hR.bind (hR.pure _) fun _ => hrest _)

theorem CtxKept.ctxAdvance (c k : Nat) : Eng.keeps R (ctxAdvance c k) := by
  induction k with
  | zero => exact hR.pure _
  | succ k ih =>
    refine hR.bind (hR.ask _) fun d => .ite ?_ (hR.pure _)
    split
    · exact .onDev fun d => hR.trans (hR.trans (hR.setCtxState d _ _) (hR.modCtx _ _ _)) (hR.signalCamp _ _ _ _)
    · exact hR.bind (hR.mainComplete c) fun _ => .ite ih (.onDev fun d => hR.fenceStart d c)
    · exact .onDev fun d => hR.fenceStart d c
    · exact hR.pure _

theorem CtxKept.redBlks (d : Dev) (c : Nat) (h : Hdr) (r : RedHdr) (body : List Byte) :
    Eng.keeps R (redBlks d c h r body) := by
  refine .ite (hR.bind (hR.need _ _ _) fun _ => ?_)
    (hR.bind (hR.need _ _ _) fun _ => hR.bind (hR.need _ _ _) fun _ => hR.pure _)
  split
  · exact hR.pure _
  · exact hR.failWith _ _

theorem CtxKept.redAct (c : Nat) (h : Hdr) (r : RedHdr) (res : Bool) (body : List Byte) :
    Eng.keeps R (redAct c h r res body) := by
  refine hR.bind (hR.ask _) fun d => .ite (hR.bind (hR.need _ _ _) fun _ => hR.bind (hR.need _ _ _) fun _ => ?_) ?_
  all_goals
    split
    · exact .ite (hR.bind (hR.forM (fun _ => hR.expResult _ _ _) _) fun _ => hR.ctxSpread _ _ _)
        (.ite (hR.treeExp _ _) (hR.ringExp _ _))
    · exact hR.bind (hR.redBlks _ _ _ _ _) fun _ => .ite (hR.treeSums _ _) (hR.ringSums _ _)
    · exact hR.bind (hR.redBlks _ _ _ _ _) fun _ => hR.bind (hR.forM (fun _ => hR.mainResult _ _ _ _) _) fun _ =>
        hR.ctxSpread _ _ _
    · exact hR.bind (hR.forM (fun _ => hR.bind (hR.ask _) fun _ => hR.bind (hR.need _ _ _) fun _ =>
        .onDev fun d => hR.trans (hR.modCtx d _ _) (hR.markDone _ _ _)) _) fun _ => hR.ctxSpread _ _ _
    · exact .ite (hR.treeSums _ _) (hR.ringSums _ _)
    · exact hR.bind (hR.forM (fun _ => hR.bind (hR.ask _) fun _ => hR.bind (hR.ctxAgree _ _) fun _ =>
        hR.rpResult _ _ _ _ _ _) _) fun _ => hR.ctxSpread _ _ _

theorem CtxKept.adderGrants (d : Dev) (c flits : Nat) : R d (d.adderGrants c flits) :=
  hR.foldl (f := fun d k => (d.grant (dieReg (6 + c / 32) (0x1300_0000 + 0x1000 * (24 + k % 24))) [c % 32]).1)
    (fun d _ => hR.grant d _ _) (List.range flits) d

theorem CtxKept.tallyPkt (d : Dev) (c which : Nat) (pkt : List Byte) : R d (d.tallyPkt c which pkt) := by
  unfold Dev.tallyPkt
  exact hR.modCtx d c _

theorem CtxKept.redTake (c : Nat) (pkt : List Byte) : Eng.keeps R (redTake c pkt) := by
  refine hR.bind (hR.ask _) fun d => ?_
  split
  · exact hR.failWith _ _
  · next res _ =>
    have hact : Eng.keeps R (do
        Sys2Proof.Machine.redAct c (hdrOf pkt) (redHdrOf pkt) res (slice pkt 64 ((hdrOf pkt).len - 32))
        Sys2Proof.Machine.ctxAdvance c 3) := hR.bind (hR.redAct _ _ _ _ _) fun _ => hR.ctxAdvance c 3
    refine hR.bind (hR.need _ _ _) fun _ =>
      .ite (hR.bind (hR.ctxCrc _ _) fun _ => hR.bind (hR.need _ _ _) fun _ => ?_) ?_
    all_goals
      beta_reduce
      exact hR.bind (.onDev fun d => hR.trans (hR.trans (hR.bump d _ _) (hR.tallyPkt _ _ _ _)) (hR.modCtx _ _ _)) fun _ =>
        .ite (hR.bind (.onDev fun d => hR.adderGrants d _ _) fun _ => hact) hact

/-! ### Packets that arrive or wait -/

theorem CtxKept.ctxRun (d : Dev) (c : Nat) {w : Eng Unit} (h : Eng.keeps R w) : R d (d.ctxRun c w) := by
  have hrun := h { dev := d }
  unfold Dev.ctxRun
  split
  · next heq =>
    rw [heq] at hrun
    exact hR.trans hrun (hR.ctxFault _ _ _ _)
  · next heq =>
    rw [heq] at hrun
    exact hrun

theorem CtxKept.redOne (d : Dev) (pkt : List Byte) : R d (d.redOne pkt) := by
  unfold Dev.redOne
  dsimp only
  split
  · exact hR.bump d _ _
  · exact hR.waitPkts d _
  · exact hR.ctxRun d _ (hR.redTake _ _)

theorem CtxKept.recheck (d : Dev) (k : Nat) : R d (d.recheck k) := by
  induction k generalizing d with
  | zero => exact hR.refl d
  | succ k ih =>
    unfold Dev.recheck
    extract_lets ps d1
    have h1 : R d d1 := hR.trans (hR.waitPkts d _) (hR.foldl (f := fun d p => d.redOne p) (fun d p => hR.redOne d p) _ _)
    split
    · exact h1
    · exact hR.trans h1 (ih d1)

theorem CtxKept.recheckAll (d : Dev) : R d d.recheckAll := hR.recheck d _

theorem CtxKept.contextCancel (d : Dev) : R d d.contextCancel :=
  hR.trans (hR.foldl (f := fun d c => d.ctxEnd c 1 0) (fun d _ => hR.ctxEnd d _ _ _) _ d) (hR.recheckAll _)

end
end Sys2Proof.Machine

/-! The strike of a device and what it leaves of the Quartermaster; the start and the end of jobs (R354 to R361, R414,
R441), for O45 and O46. -/

namespace Sys2Proof.Machine

/-! ### The Quartermaster through every access -/

/-- The Quartermaster and the device's ID. -/
def Dev.desk (d : Dev) : Quarter × Nat := (d.qm, d.devId)

theorem Dev.desk_setReg (d : Dev) (a v : Nat) : (d.setReg a v).desk = d.desk := rfl

theorem Dev.desk_pulse (d : Dev) (src : Nat) : (d.pulse src).desk = d.desk := by
  unfold Dev.pulse
  split
  · exact d.desk_setReg _ _
  · rfl

theorem Dev.desk_raise (d : Dev) (src cls code unit detail : Nat) : (d.raise src cls code unit detail).desk = d.desk :=
  d.desk_pulse src

theorem Dev.desk_logErr (d : Dev) (src unit blk cls cause : Nat) (i : ErrInfo) :
    (d.logErr src unit blk cls cause i).desk = d.desk := Dev.desk_raise _ _ _ _ _ _

theorem Dev.desk_spoil (d : Dev) (a : Nat) : (d.spoil a).desk = d.desk := by
  unfold Dev.spoil
  split
  · rfl
  · rfl

theorem Dev.desk_undef (d : Dev) (a n : Nat) : (d.undef a n).desk = d.desk := rfl

theorem Dev.desk_corrected (d : Dev) (a : Nat) : (d.corrected a).desk = d.desk :=
  (Dev.desk_logErr _ _ _ _ _ _ _).trans (Dev.desk_setReg _ _ _)

theorem Dev.desk_repair (d : Dev) (a : Nat) : (d.repair a).1.desk = d.desk := by
  unfold Dev.repair
  extract_lets x bank used spares
  split
  · rfl
  · split
    · rfl
    · split
      · split
        · rfl
        · rfl
      · split
        · rfl
        · split
          · rfl
          · exact Dev.desk_logErr _ _ _ _ _ _ _

theorem Dev.desk_granuleMet (d : Dev) (a : Nat) (e : Upset) : (d.granuleMet a e).desk = d.desk := by
  cases e with
  | onDie => exact Dev.desk_setReg _ _ _
  | wrong n again =>
    have hrepair := ((d.corrected a).desk_repair a).trans (d.desk_corrected a)
    unfold Dev.granuleMet
    dsimp only
    split
    · rfl
    · split
      · split
        · split
          · exact hrepair
          · exact hrepair
        · exact d.desk_corrected a
      · split
        · split
          · exact (Dev.desk_corrected _ _).trans (Dev.desk_undef _ _ _)
          · exact Dev.desk_undef _ _ _
        · exact Dev.desk_spoil _ _

theorem Dev.desk_wordMet (d : Dev) (t a n : Nat) : (d.wordMet t a n).desk = d.desk := by
  unfold Dev.wordMet
  split
  · rfl
  · split
    · exact Dev.desk_logErr _ _ _ _ _ _ _
    · exact Dev.desk_spoil _ _

theorem Dev.desk_elementMet (d : Dev) (t a n : Nat) : (d.elementMet t a n).desk = d.desk := by
  unfold Dev.elementMet
  split
  · rfl
  · split
    · exact (Dev.desk_logErr _ _ _ _ _ _ _).trans (Dev.desk_setReg _ _ _)
    · exact Dev.desk_spoil _ _

theorem Dev.desk_unitMet (d : Dev) (p : Nat × Upset) : (d.unitMet p).desk = d.desk := by
  unfold Dev.unitMet
  split
  · exact Dev.desk_granuleMet _ _ _
  · exact Dev.desk_granuleMet _ _ _
  · exact Dev.desk_wordMet _ _ _ _
  · exact Dev.desk_elementMet _ _ _ _
  · rfl

/-- A fold of changes that leave the Quartermaster leaves it. -/
theorem Dev.desk_foldl {α : Type} {f : Dev → α → Dev} (h : ∀ (d : Dev) x, (f d x).desk = d.desk) (xs : List α) (d : Dev) :
    (xs.foldl f d).desk = d.desk :=
  foldl_related (R := fun d e : Dev => e.desk = d.desk) (fun _ => rfl) (fun h h' => h'.trans h) h xs d

theorem Dev.desk_meetWhere (d : Dev) (f : Nat → Bool) : (d.meetWhere f).desk = d.desk := by
  unfold Dev.meetWhere
  split
  · rfl
  · exact Dev.desk_foldl (f := Dev.unitMet) Dev.desk_unitMet _ _

theorem Dev.desk_memWake (d : Dev) (a n : Nat) : (d.memWake a n).desk = d.desk := by
  unfold Dev.memWake
  split
  · rfl
  · rfl

theorem Dev.desk_msdEvent (d : Dev) (q : MemReq) (status a : Nat) : (d.msdEvent q status a).desk = d.desk :=
  (Dev.desk_logErr _ _ _ _ _ _ _).trans ((Dev.desk_setReg _ _ _).trans (Dev.desk_setReg _ _ _))

theorem Dev.desk_msdRefuse (d : Dev) (q : MemReq) (a n : Nat) : (d.msdRefuse q a n).desk = d.desk :=
  (Dev.desk_msdEvent _ _ _ _).trans (Dev.desk_setReg _ _ _)

theorem Dev.desk_uncorrEvent (d : Dev) (q : MemReq) (gs : List Nat) : (d.uncorrEvent q gs).desk = d.desk :=
  (Dev.desk_msdEvent _ _ _ _).trans (Dev.desk_foldl (fun _ _ => Dev.desk_setReg _ _ _) gs d)

theorem Dev.desk_memRead (d : Dev) (q : MemReq) (a n : Nat) : (d.memRead q a n).2.desk = d.desk := by
  unfold Dev.memRead
  dsimp only
  split
  · exact (Dev.desk_msdRefuse _ _ _ _).trans (d.desk_memWake a n)
  · have hmet : ((d.memWake a n).meet a n).desk = d.desk := (Dev.desk_meetWhere _ _).trans (d.desk_memWake a n)
    split
    · exact (Dev.desk_uncorrEvent _ _ _).trans hmet
    · exact hmet

theorem Dev.desk_memWrite (d : Dev) (q : MemReq) (a : Nat) (bs : List Byte) : (d.memWrite q a bs).2.desk = d.desk := by
  unfold Dev.memWrite
  dsimp only
  split
  · exact (Dev.desk_msdRefuse _ _ _ _).trans (d.desk_memWake _ _)
  · have hmet : (((d.memWake a bs.length).meetParts a bs.length).wr a bs).1.desk = d.desk :=
      ((d.memWake a bs.length).desk_meetWhere _).trans (d.desk_memWake a bs.length)
    split
    · exact hmet
    · exact (Dev.desk_uncorrEvent _ _ _).trans hmet

/-- The Quartermaster's jobs and the device's ID are as before. -/
def Dev.keepsPost (d e : Dev) : Prop := d.keepsJobs e ∧ e.devId = d.devId

theorem Dev.keepsPost_refl (d : Dev) : d.keepsPost d := ⟨d.keepsJobs_refl, rfl⟩

theorem Dev.keepsPost.trans {d e f : Dev} (h : d.keepsPost e) (h' : e.keepsPost f) : d.keepsPost f :=
  ⟨h.1.trans h'.1, h'.2.trans h.2⟩

theorem Dev.keepsPost_of_desk {d e : Dev} (h : e.desk = d.desk) : d.keepsPost e := by
  obtain ⟨hqm, hid⟩ := Prod.mk.inj h
  exact ⟨by rw [Dev.keepsJobs, hqm], hid⟩

theorem Dev.onlySends.desk {d e : Dev} (h : d.onlySends e) : e.desk = d.desk := by
  rw [h]
  rfl

theorem Dev.keepsPost_noteTally (d : Dev) (c : Nat) : d.keepsPost (d.noteTally c) := by
  unfold Dev.noteTally
  split
  · exact d.keepsPost_refl
  · exact ⟨rfl, rfl⟩

/-- The reduction contexts keep the Quartermaster's jobs. -/
theorem ctxKept_keepsPost : CtxKept Dev.keepsPost where
  refl := Dev.keepsPost_refl
  trans := Dev.keepsPost.trans
  setReg _ _ _ := ⟨rfl, rfl⟩
  modCtx _ _ _ := ⟨rfl, rfl⟩
  memRead d q a n := Dev.keepsPost_of_desk (d.desk_memRead q a n)
  memWrite d q a bs := Dev.keepsPost_of_desk (d.desk_memWrite q a bs)
  undef _ _ _ := ⟨rfl, rfl⟩
  sendPkt d h bs := Dev.keepsPost_of_desk (d.onlySends_sendPkt h bs).desk
  grant d b asking := Dev.keepsPost_of_desk (by rw [d.onlyArbiters_grant b asking]; rfl)
  raise d _ _ _ _ _ := Dev.keepsPost_of_desk (d.desk_raise _ _ _ _ _)
  logErr d _ _ _ _ _ _ := Dev.keepsPost_of_desk (d.desk_logErr _ _ _ _ _ _)
  waitPkts _ _ := ⟨rfl, rfl⟩
  gyl _ _ := ⟨rfl, rfl⟩
  armed _ _ := ⟨rfl, rfl⟩
  noteTally := Dev.keepsPost_noteTally

/-! ### The strike -/

theorem Dev.desk_wipeDies (d : Dev) (dies : List Nat) (lo hi : Nat) : (d.wipeDies dies lo hi).desk = d.desk :=
  Dev.desk_foldl (f := fun d x => d.wipeRegs (dieReg x lo) (dieReg x hi)) (fun _ _ => rfl) dies d

theorem Dev.desk_wipeRings (d : Dev) : d.wipeRings.desk = d.desk :=
  (Dev.desk_wipeDies _ _ _ _).trans (Dev.desk_wipeDies _ _ _ _)

theorem Dev.desk_wipeSync (d : Dev) : (d.wipeSync false).desk = d.desk := by
  have hfold := Dev.desk_foldl (f := fun (d : Dev) g => (d.wipeDies [6] (0x1200_0004 + 0x100 * g)
      (0x1200_0008 + 0x100 * g)).setRegF (dieReg 6 (0x1200_0000 + 0x100 * g)) 16 1 0)
    (fun d g => (Dev.desk_setReg _ _ _).trans (Dev.desk_wipeDies _ _ _ _)) (List.range 16)
    ((d.wipeDies [6, 7] 0x1100_0000 0x1100_4080).wipeDies [0, 1] 0x100_0000 0x100_8000)
  refine Eq.trans ?_ (hfold.trans ((Dev.desk_wipeDies _ _ _ _).trans (Dev.desk_wipeDies _ _ _ _)))
  rfl

theorem Dev.desk_wipeCtxs (d : Dev) (which : Nat → Bool) : (d.wipeCtxs which).desk = d.desk :=
  Dev.desk_foldl (f := fun d c => d.wipeRegs (ctxReg c 0) (ctxReg c 0x100)) (fun _ _ => rfl)
    ((List.range 64).filter which) d

theorem Dev.startClear_desk (d : Dev) (c : Clear) : (d.startClear c).desk = d.desk ∧ (d.startClear c).striking = d.striking :=
  ⟨rfl, rfl⟩

theorem Dev.nextStrikeClear_desk (d : Dev) : d.nextStrikeClear.desk = d.desk ∧ d.nextStrikeClear.striking = d.striking := by
  unfold Dev.nextStrikeClear
  split
  · refine ⟨(Dev.startClear_desk _ _).1.trans ?_, (Dev.startClear_desk _ _).2.trans ?_⟩
    · split <;> rfl
    · split <;> rfl
  · exact ⟨rfl, rfl⟩

theorem Dev.strike_leaves (d : Dev) : d.keepsPost d.strike ∧ d.strike.striking = some d.job := by
  unfold Dev.strike
  extract_lets job d1 relays d2 d3 d4 rs
  have h1 : d.keepsPost d1 := (show d.keepsPost d.cancel from ⟨rfl, rfl⟩).trans (ctxKept_keepsPost.contextCancel d.cancel)
  have h2 : d2.desk = d1.desk := (Dev.desk_wipeCtxs _ _).trans ((Dev.desk_wipeSync _).trans
    ((Dev.desk_wipeDies _ _ _ _).trans (Dev.desk_wipeRings _)))
  have h3 : d3.desk = d2.desk :=
    (Dev.desk_wipeDies _ _ _ _).trans ((Dev.desk_wipeDies _ _ _ _).trans (Dev.desk_wipeDies _ _ _ _))
  have h4 : d4.desk = d3.desk := (Dev.desk_wipeDies _ _ _ _).trans (Dev.desk_wipeDies _ _ _ _)
  clear_value d4 d3 d2 d1
  exact ⟨h1.trans (Dev.keepsPost_of_desk ((Dev.nextStrikeClear_desk _).1.trans (h4.trans (h3.trans h2)))),
    (Dev.nextStrikeClear_desk _).2⟩

/-! ### Acts on the devices of a job -/

theorem Dev.keepsPost_actOn (d : Dev) (dev : Nat) {here : Dev → Dev} (a : MgmtAct) (h : d.keepsPost (here d)) :
    d.keepsPost (d.actOn dev here a) := by
  unfold Dev.actOn
  split
  · exact h
  · exact Dev.keepsPost_of_desk (d.onlySends_sendCmd dev a).desk

theorem Dev.keepsPost_foldl {α : Type} {f : Dev → α → Dev} (h : ∀ (d : Dev) x, d.keepsPost (f d x)) (xs : List α) (d : Dev) :
    d.keepsPost (xs.foldl f d) := foldl_related Dev.keepsPost_refl Dev.keepsPost.trans h xs d

/-- Acts on other devices are commands that are sent. -/
theorem Dev.onlySends_acts {α : Type} (dev : α → Nat) {here : α → Dev → Dev} (act : α → MgmtAct) (xs : List α) (d : Dev)
    (h : ∀ x ∈ xs, dev x ≠ d.devId) : d.onlySends (xs.foldl (fun (d : Dev) x => d.actOn (dev x) (here x) (act x)) d) := by
  induction xs generalizing d with
  | nil => exact d.onlySends_refl
  | cons x xs ih =>
    obtain ⟨hx, hxs⟩ := List.forall_mem_cons.mp h
    have hsend : d.onlySends (d.actOn (dev x) (here x) (act x)) := by
      rw [Dev.actOn, if_neg hx]
      exact d.onlySends_sendCmd _ _
    have hid := (Prod.mk.inj hsend.desk).2
    exact hsend.trans (ih _ (by rwa [hid]))

theorem Dev.striking_sendCmd (d : Dev) (dev : Nat) (a : MgmtAct) : (d.sendCmd dev a).striking = d.striking := by
  rw [d.onlySends_sendCmd dev a]

/-- The strike of a job's devices: the jobs stand, and a device that is among them is being struck. -/
theorem Dev.strikeAll_leaves (devs : List Nat) (d : Dev) :
    let e := devs.foldl (fun (d : Dev) x => d.actOn x (·.strike) .strike) d
    d.keepsPost e ∧ ((devs.contains d.devId = true ∨ d.striking.isSome = true) → e.striking.isSome = true) := by
  induction devs generalizing d with
  | nil => exact ⟨d.keepsPost_refl, fun h => h.resolve_left (by simp)⟩
  | cons x xs ih =>
    obtain ⟨hpost, hstriking⟩ := d.strike_leaves
    have hact := d.keepsPost_actOn x .strike (here := (·.strike)) hpost
    obtain ⟨hrest, hend⟩ := ih (d.actOn x (·.strike) .strike)
    refine ⟨hact.trans hrest, fun h => hend ?_⟩
    rw [hact.2]
    by_cases hx : x = d.devId
    · refine .inr ?_
      rw [Dev.actOn, if_pos hx, hstriking]
      rfl
    · rw [Dev.actOn, if_neg hx, Dev.striking_sendCmd]
      refine h.imp_left fun h => ?_
      simpa [Ne.symm hx] using h

/-! ### JOB_START -/

/-- A start whose devices are others: the queue and the numbers stand. -/
theorem Dev.finishStart_remote (d : Dev) (j : Job) (h : ∀ x ∈ j.devices, x ≠ d.devId) :
    (d.finishStart j).qm.queue = d.qm.queue ∧ (d.finishStart j).qm.lastNum = d.qm.lastNum := by
  unfold Dev.finishStart
  extract_lets fs want wrong d1 src k1 k2 d2 j1 d3
  split
  · obtain ⟨-, -, -, hqueue, -, hlast⟩ := d1.refuseJob_leaves j 6
    exact ⟨hqueue, hlast⟩
  · have h3 : d2.onlySends d3 := Dev.onlySends_acts Prod.fst (here := fun _ d => d.startHere j1 k1 k2)
      (fun x => .start j1 x.2 k1 k2) j.devices.zipIdx d2 fun x hx => h x.1 (List.fst_mem_of_mem_zipIdx hx)
    have hqm : d3.qm = d.qm := (Prod.mk.inj h3.desk).1
    have htell := ((d3.modJob j.num fun _ => j1).tells_tellHost j1 0x8003
      (leBytes 2 (j.devices.getD 0 0) ++ leBytes 2 j.devices.length)).1
    rw [htell, Dev.qm_modJob, hqm]
    exact ⟨rfl, rfl⟩

/-- A start that has its base digest checked nowhere: the job is placed. -/
theorem Dev.finishStart_placed (d : Dev) (j : Job) (h : mval (fieldsIn j.manifest) 0x0F08 [] = []) :
    ∀ k ∈ (d.finishStart j).qm.running, k.num = j.num → k.state = 1 := by
  unfold Dev.finishStart
  extract_lets fs want wrong d1 src k1 k2 d2 j1 d3
  have hwrong : wrong = [] := by simp [wrong, want, fs, h]
  have htell := ((d3.modJob j.num fun _ => j1).tells_tellHost j1 0x8003
    (leBytes 2 (j.devices.getD 0 0) ++ leBytes 2 j.devices.length)).1
  rw [if_neg (by simp [hwrong]), htell]
  intro k hk hnum
  rcases mem_modJob hk with ⟨-, -, rfl⟩ | hne
  · rfl
  · exact absurd hnum hne

section
variable {s : State} (hqm : s.dev.qmHere = true) (hrun : s.dev.halted = false) (hwait : s.dev.waitingTakeOver = none)
include hqm hrun hwait

theorem yields_jobStart_struck {j : Job} (hj : s.dev.qm.running.find? (·.state == 4) = some j)
    (hstruck : s.dev.striking = none) : Yields .jobStart s (s.dev.finishStart j) := by
  refine yields_lift (·.jobStartStep) rfl ?_
  unfold Dev.jobStartStep
  rw [if_neg (by simp [hqm, hrun]), hwait]
  simp only [hj, hstruck]
  rfl

variable {j : Job} {rest : List Job} (hnone : s.dev.qm.running.find? (·.state == 4) = none)
  (hqueue : s.dev.qm.queue = j :: rest)
include hnone hqueue

theorem yields_jobStart_hold (hhold : s.dev.qm.hold = true) : Yields .jobStart s s.dev := by
  refine yields_lift (·.jobStartStep) rfl ?_
  unfold Dev.jobStartStep
  rw [if_neg (by simp [hqm, hrun]), hwait]
  simp only [hnone, hqueue, hhold]
  rfl

/-- The device where a job placed with number n waits for its strike. -/
def Dev.placing (d : Dev) (j : Job) (rest : List Job) (devs : List Nat) (n : Nat) : Dev :=
  devs.foldl (fun (d : Dev) x => d.actOn x (·.strike) .strike)
    (d.modQm fun q => { q with
      queue := rest, running := q.running ++ [{ j with num := n, state := 4, devices := devs }], lastNum := n })

omit hqm hrun hwait hnone hqueue in
theorem Dev.placing_leaves (d : Dev) (j : Job) (rest : List Job) (devs : List Nat) (n : Nat) :
    ((d.placing j rest devs n).qm.queue = rest ∧ (d.placing j rest devs n).qm.lastNum = n ∧
      ∃ k ∈ (d.placing j rest devs n).qm.running, k.devices = devs ∧ k.num = n ∧ k.state = 4) ∧
    (d.placing j rest devs n).devId = d.devId ∧
      (devs.contains d.devId = true → (d.placing j rest devs n).striking.isSome = true) := by
  obtain ⟨⟨hjobs, hid⟩, hstriking⟩ := Dev.strikeAll_leaves devs (d.modQm fun q => { q with
    queue := rest, running := q.running ++ [{ j with num := n, state := 4, devices := devs }], lastNum := n })
  refine ⟨?_, hid, fun h => hstriking (.inl h)⟩
  rw [Dev.placing, hjobs]
  exact ⟨rfl, rfl, _, List.mem_append_right _ (List.mem_singleton.mpr rfl), rfl, rfl, rfl⟩

theorem jobStartStep_places (hhold : s.dev.qm.hold = false) : s.dev.jobStartStep =
    match placement (fieldsIn j.manifest) j.image s.dev.freeWorkers with
    | none => s.dev
    | some devs =>
      if devs.contains s.dev.devId then s.dev.placing j rest devs s.dev.nextJobNum
      else (s.dev.placing j rest devs s.dev.nextJobNum).finishStart
        { j with num := s.dev.nextJobNum, state := 4, devices := devs } := by
  unfold Dev.jobStartStep
  rw [if_neg (by simp [hqm, hrun]), hwait]
  simp only [hnone, hqueue, hhold]
  rfl

theorem does_jobStart_places (hhold : s.dev.qm.hold = false) : Does .jobStart s fun e =>
    match placement (fieldsIn j.manifest) j.image s.dev.freeWorkers with
    | none => e = s.dev
    | some devs => e.qm.queue = rest ∧ e.qm.lastNum = s.dev.nextJobNum ∧
        (devs.contains s.dev.devId = true → e.striking.isSome = true ∧
          ∃ k ∈ e.qm.running, k.devices = devs ∧ k.num = s.dev.nextJobNum ∧ k.state = 4) := by
  refine ⟨s.dev.jobStartStep, yields_lift (·.jobStartStep) rfl rfl, ?_⟩
  rw [jobStartStep_places hqm hrun hwait hnone hqueue hhold]
  generalize s.dev.nextJobNum = n
  cases placement (fieldsIn j.manifest) j.image s.dev.freeWorkers with
  | none => rfl
  | some devs =>
    obtain ⟨⟨hq, hlast, hmem⟩, hid, hstriking⟩ := s.dev.placing_leaves j rest devs n
    by_cases hin : devs.contains s.dev.devId = true
    · simp only [if_pos hin]
      exact ⟨hq, hlast, fun h => ⟨hstriking h, hmem⟩⟩
    · simp only [if_neg hin]
      obtain ⟨hq', hlast'⟩ := (s.dev.placing j rest devs n).finishStart_remote
        { j with num := n, state := 4, devices := devs } fun x hx h => by
          rw [hid] at h
          exact hin (by simpa [← h] using hx)
      exact ⟨hq'.trans hq, hlast'.trans hlast, fun h => absurd h hin⟩

end

/-! ### The strike that ends -/

/-- A device free of its job; the register of its identity is at a. -/
def Dev.freed (d : Dev) (a : Nat) (record : List Nat) : Dev :=
  { d.setRegF a 0 24 0 with
    striking := none, evacLater := [], strikeRec := record, jobHere := none, owedStart := none, owedRestore := none }

theorem Dev.freed_leaves (d : Dev) (a : Nat) (record : List Nat) : (∀ l w, l + w ≤ 24 → (d.freed a record).regF a l w = 0) ∧
    (d.freed a record).mem = d.mem := by
  obtain ⟨e, he, hregs, hmem⟩ : ∃ e, e = d.setRegF a 0 24 0 ∧ (d.freed a record).regs = e.regs ∧
    (d.freed a record).mem = e.mem := ⟨_, rfl, rfl, rfl⟩
  refine ⟨fun l w h => ?_, hmem.trans (by rw [he]; rfl)⟩
  rw [Dev.regF_of_regs hregs, he, Dev.regF_setRegF_inside _ _ _ (by decide) h, field, Nat.zero_div, Nat.zero_mod]

theorem strikeComplete_frees (p : Perm) (d : Dev) (hclear : d.strikeCleared = true) (hlater : d.evacLater = [])
    (howed : d.owedStart = none) :
    strikeComplete p d = ({ p with flash := { p.flash with strikes := p.flash.strikes + 1 } },
      d.freed identAddr [p.flash.strikes + 1, d.strikeCount, b2n d.tampered]) := by
  unfold strikeComplete Dev.freed
  simp only [hclear, hlater, howed, List.filter_nil, List.map_nil, List.append_nil, List.foldl_nil]
  rfl

theorem exec_strikeComplete (s : State) (hclear : s.dev.strikeCleared = true) (hlater : s.dev.evacLater = [])
    (howed : s.dev.owedStart = none) :
    let n := s.perm.flash.strikes + 1
    ∃ e : Dev, exec .strikeComplete s =
        .next { s with perm := { s.perm with flash := { s.perm.flash with strikes := n } }, dev := e } ∧
      e.job = 0 ∧ e.epoch = 0 ∧ e.gen = 0 ∧ e.striking = none ∧ e.jobHere = none ∧ e.mem = s.dev.mem ∧
      e.strikeRec = [n, s.dev.strikeCount, b2n s.dev.tampered] := by
  intro n
  obtain ⟨hfield, hmem⟩ := s.dev.freed_leaves identAddr [n, s.dev.strikeCount, b2n s.dev.tampered]
  have hexec : exec .strikeComplete s = liftAll strikeComplete s := rfl
  exact ⟨_, hexec.trans (liftAll_eq strikeComplete s (strikeComplete_frees s.perm s.dev hclear hlater howed)),
    hfield 0 12 (by decide), hfield 12 4 (by decide), hfield 16 8 (by decide), rfl, rfl, hmem, rfl⟩

/-- Settles O45: a strike leaves the Quartermaster its jobs, so a start is what its placement makes it. -/
theorem jobStarts : Obligations.JobStarts := by
  unfold Obligations.JobStarts
  refine ⟨fun s => ?_, exec_strikeComplete⟩
  intro d hqm hrun hwait
  exact ⟨fun j hj hstruck => ⟨yields_jobStart_struck hqm hrun hwait hj hstruck, fun hbase =>
      ⟨_, yields_jobStart_struck hqm hrun hwait hj hstruck, s.dev.finishStart_placed j hbase⟩⟩,
    fun j rest hnone hqueue => ⟨yields_jobStart_hold hqm hrun hwait hnone hqueue,
      does_jobStart_places hqm hrun hwait hnone hqueue⟩⟩

end Sys2Proof.Machine

/-! The end of a job: done, replayed, or taken over from a device that is lost (R354, R355, R361, R441), for O46. -/

namespace Sys2Proof.Machine

/-! ### Restores and re-shards -/

/-- A relation that the acts of a job on a device keep: what they write, send and await. -/
structure JobKept (R : Dev → Dev → Prop) : Prop where
  refl : ∀ d, R d d
  trans : ∀ {a b c}, R a b → R b c → R a c
  onlySends : ∀ {d e : Dev}, d.onlySends e → R d e
  wrB : ∀ (d : Dev) a bs, R d (d.wrB a bs)
  pull : ∀ (d : Dev) p, R d { d with pull := p }
  owedRestore : ∀ (d : Dev) r, R d { d with owedRestore := r }
  jobHere : ∀ (d : Dev) j, R d { d with jobHere := j }

section
variable {R : Dev → Dev → Prop} (hR : JobKept R)
include hR

namespace JobKept

theorem foldl {α : Type} {f : Dev → α → Dev} (h : ∀ (d : Dev) x, R d (f d x)) (xs : List α) (d : Dev) :
    R d (xs.foldl f d) := foldl_related hR.refl hR.trans h xs d

theorem setReg (d : Dev) (a v : Nat) : R d (d.setReg a v) := hR.onlySends (d.onlySends_setReg a v)

theorem placeAll (d : Dev) (bs : List (Nat × Byte)) : R d (d.placeAll bs) :=
  hR.foldl (f := fun (d : Dev) (p : Nat × Byte) => d.wrB p.1 [p.2]) (fun d _ => hR.wrB d _ _) bs d

theorem updStep (d : Dev) (j : Job) (step : Nat) : R d (d.updStep j step) :=
  hR.trans (hR.wrB d _ _) (hR.trans (hR.setReg _ _ _) (hR.setReg _ _ _))

theorem putState (rs : List (Nat × Nat)) (bs : List Byte) (d : Dev) : R d (putState rs bs d) := by
  induction rs generalizing bs d with
  | nil => exact hR.refl d
  | cons r rs ih => exact hR.trans (hR.wrB d _ _) (ih _ _)

theorem putCheckpoint (d : Dev) (j : Job) (image bytes : List Byte) : R d (d.putCheckpoint j image bytes) :=
  hR.trans (hR.putState _ _ _) (hR.trans (hR.placeAll _ _) (hR.updStep _ _ _))

theorem restoreFrom (d : Dev) (j : Job) (image : List Byte) (slots : List Nat) : R d (d.restoreFrom j image slots) := by
  unfold Dev.restoreFrom
  split
  · exact hR.updStep d _ _
  · exact hR.putCheckpoint d _ _ _

theorem pullStart (d : Dev) (j : Job) (buddy : Nat) : R d (d.pullStart j buddy) := by
  unfold Dev.pullStart
  extract_lets ask a b
  have ha : R d a.2 := hR.onlySends (Dev.onlySends_sendRead _ _ _ _ _)
  have hb : R a.2 b.2 := hR.onlySends (Dev.onlySends_sendRead _ _ _ _ _)
  exact hR.trans (hR.trans ha hb) (hR.pull _ _)

theorem restoreHere (d : Dev) (j : Job) (buddy : Option Nat) : R d (d.restoreHere j buddy) := by
  unfold Dev.restoreHere
  dsimp only
  split
  · exact hR.restoreFrom d _ _ _
  · split
    · exact hR.owedRestore d _
    · split
      · exact hR.restoreFrom d _ _ _
      · exact hR.pullStart d _ _

theorem reshardHere (d : Dev) (j : Job) : R d (d.reshardHere j) := by
  unfold Dev.reshardHere
  extract_lets image d1
  have h1 : R d d1 := hR.trans (hR.placeAll d _) (hR.setReg _ _ _)
  exact hR.trans h1 (hR.jobHere d1 _)

theorem actOn (d : Dev) (dev : Nat) {here : Dev → Dev} (a : MgmtAct) (h : ∀ d : Dev, R d (here d)) :
    R d (d.actOn dev here a) := by
  unfold Dev.actOn
  split
  · exact h d
  · exact hR.onlySends (d.onlySends_sendCmd dev a)

theorem raiseMarked (d : Dev) (j : Job) : R d (d.raiseMarked j) := by
  refine hR.foldl (fun d c => hR.foldl (fun d b => ?_) (d.markedBlocks c) d) _ d
  dsimp only
  split
  · exact hR.refl d
  · split
    · exact hR.wrB d _ _
    · exact hR.refl d

end JobKept
end

/-- The acts of a job on a device leave the Quartermaster. -/
theorem jobKept_desk : JobKept fun d e => e.desk = d.desk where
  refl _ := rfl
  trans h h' := h'.trans h
  onlySends h := h.desk
  wrB _ _ _ := rfl
  pull _ _ := rfl
  owedRestore _ _ := rfl
  jobHere _ _ := rfl

/-! ### A take-over -/

/-- What the loss of a device leaves of the Quartermaster beside its running jobs and what waits for the host. -/
def Dev.keepsLine (d e : Dev) : Prop := e.qm.queue = d.qm.queue ∧ e.qm.lost = d.qm.lost

theorem Dev.keepsJobs.keepsLine {d e : Dev} (h : d.keepsJobs e) : d.keepsLine e := by
  unfold Dev.keepsLine
  rw [h]
  exact ⟨rfl, rfl⟩

theorem Dev.keepsLine.trans {d e f : Dev} (h : d.keepsLine e) (h' : e.keepsLine f) : d.keepsLine f :=
  ⟨h'.1.trans h.1, h'.2.trans h.2⟩

theorem Dev.keepsLine_of_qm {d e : Dev} (h : e.qm = d.qm) : d.keepsLine e :=
  ⟨congrArg Quarter.queue h, congrArg Quarter.lost h⟩

theorem Dev.keepsLine_modJob (d : Dev) (num : Nat) (f : Job → Job) : d.keepsLine (d.modJob num f) := ⟨rfl, rfl⟩

theorem Dev.keepsLine_jobDone (p : Perm) (d : Dev) (j : Job) (status : Nat) : d.keepsLine (jobDone p d j status) :=
  (jobDone_ends p d j status).2

theorem Dev.keepsLine_takeOver (d : Dev) (j : Job) (dev reserve : Nat) : d.keepsLine (d.takeOver j dev reserve) := by
  unfold Dev.takeOver
  extract_lets step j1 k1 k2 d0 pos _ d1 d2
  have h1 : d.keepsPost d1 := by
    unfold d1
    split
    · exact (d0.strike_leaves).1
    · exact Dev.keepsPost_of_desk (((Dev.onlySends_sendCmd _ _ _).desk.trans ((Dev.onlySends_sendCmd _ _ _).desk.trans
        (Dev.onlySends_sendCmd _ _ _).desk)))
  have h2 : d2.desk = d1.desk := by
    refine Dev.desk_foldl (fun d x => ?_) j1.devices.zipIdx d1
    refine (jobKept_desk.actOn _ _ _ fun d => jobKept_desk.restoreHere d j1 _).trans ?_
    split
    · rfl
    · exact jobKept_desk.actOn d _ _ fun d => jobKept_desk.reshardHere d j1
  exact ((h1.trans (Dev.keepsPost_of_desk h2)).1.keepsLine).trans (d2.keepsLine_modJob _ _)

/-! ### The rows -/

theorem Dev.qm_jobVector (d : Dev) (job : Nat) : (d.jobVector job).qm = d.qm := by
  unfold Dev.jobVector
  split
  · exact (d.sendVector_frame _).1
  · rfl

theorem Dev.runningJob_some {d : Dev} {num : Nat} {j : Job} (h : d.runningJob num = some j) :
    d.qmHere = true ∧ j.state = 2 := by
  unfold Dev.runningJob at h
  split at h
  · next hq =>
    have := List.find?_some h
    simp only [Bool.and_eq_true, beq_iff_eq] at this
    exact ⟨hq, this.2⟩
  · cases h

section
variable {s : State} {job : BitVec 12} {j : Job} (h : s.dev.runningJob job.toNat = some j)
include h

theorem does_jobComplete (nf : Bool) : Does (.jobComplete job nf) s fun e =>
    (∀ k ∈ e.qm.running, k.num = j.num → k.state = 3) ∧ e.qm.queue = s.dev.qm.queue := by
  have hexec : exec (.jobComplete job nf) s = execJobComplete job nf s := rfl
  let j1 := { j with step := mnum (fieldsIn j.manifest) 0x0F02 0 }
  obtain ⟨hstate, hqueue, -⟩ := jobDone_ends s.perm (s.dev.modJob j.num fun _ => j1) j1
    (if nf && stopsHeld j then 2 else 0)
  exact ⟨_, yields_liftP _ hexec (by simp only [h]; rfl), hstate, hqueue⟩

theorem does_deadlineExpiry (hdue : mnum (fieldsIn j.manifest) 0x0F0A 0 ≠ 0) : Does (.deadlineExpiry job) s fun e =>
    (∀ k ∈ e.qm.running, k.num = j.num → k.state = 3) ∧ e.qm.queue = s.dev.qm.queue := by
  have hexec : exec (.deadlineExpiry job) s = execDeadlineExpiry job s := rfl
  obtain ⟨hstate, hqueue, -⟩ := jobDone_ends s.perm (s.dev.cancelJob j) j 5
  refine ⟨_, yields_liftP _ hexec ((by simp only [h]; exact if_neg hdue)), hstate, hqueue.trans ?_⟩
  rw [(s.dev.keepsDesk_cancelJob j).1]

theorem yields_deadlineExpiry (hdue : mnum (fieldsIn j.manifest) 0x0F0A 0 = 0) :
    Yields (.deadlineExpiry job) s s.dev := by
  have hexec : exec (.deadlineExpiry job) s = execDeadlineExpiry job s := rfl
  exact yields_liftP _ hexec (by simp only [h]; exact if_pos hdue)

theorem does_containedReplay : Does (.containedReplay job) s fun e => e.qm.queue = s.dev.qm.queue ∧
    ∀ k ∈ e.qm.running, k.num = j.num →
      if Config.kitReplayLimit s.dev.kit ≤ j.replays then k.state = 3
      else k.state = 2 ∧ k.replays = j.replays + 1 := by
  obtain ⟨-, hstate⟩ := Dev.runningJob_some h
  refine ⟨_, yields_liftP (fun p d => containedReplay p d job.toNat) rfl rfl, ?_⟩
  have hcancel : (s.dev.cancelJob j).qm = s.dev.qm := (s.dev.keepsDesk_cancelJob j).1
  unfold containedReplay
  simp -zeta only [h]
  extract_lets d1 swept d2 step j1 src d3
  by_cases hlimit : Config.kitReplayLimit s.dev.kit ≤ j.replays
  · simp only [if_pos hlimit]
    obtain ⟨hdone, hqueue, -⟩ := jobDone_ends s.perm d1 j 3
    exact ⟨hqueue.trans (by rw [hcancel]), hdone⟩
  · simp only [if_neg hlimit]
    have hrun {e : Dev} (he : e.desk = d3.desk) : e.qm.queue = s.dev.qm.queue ∧
        ∀ k ∈ e.qm.running, k.num = j.num → k.state = 2 ∧ k.replays = j.replays + 1 := by
      have hqm : e.qm = (d2.modJob j.num fun _ => j1).qm := (Prod.mk.inj he).1
      rw [hqm]
      have hq2 : d2.qm = s.dev.qm := hcancel
      refine ⟨(d2.keepsLine_modJob j.num fun _ => j1).1.trans (congrArg Quarter.queue hq2), fun k hk hnum => ?_⟩
      rcases mem_modJob hk with ⟨-, -, rfl⟩ | hne
      · exact ⟨hstate, rfl⟩
      · exact absurd hnum hne
    split
    · exact hrun (jobKept_desk.foldl (fun d x => jobKept_desk.actOn d x _ fun d => jobKept_desk.restoreHere d j1 none)
        j.devices d3)
    · exact hrun (jobKept_desk.foldl (fun d x => jobKept_desk.actOn d x _ fun d => jobKept_desk.raiseMarked d j1)
        j.devices d3)

end

theorem yields_noJob {s : State} {job : BitVec 12} (h : s.dev.runningJob job.toNat = none) :
    (∀ nf, Yields (.jobComplete job nf) s s.dev) ∧ Yields (.deadlineExpiry job) s s.dev ∧
      Yields (.containedReplay job) s s.dev := by
  have hcomplete (nf : Bool) : exec (.jobComplete job nf) s = execJobComplete job nf s := rfl
  have hdeadline : exec (.deadlineExpiry job) s = execDeadlineExpiry job s := rfl
  refine ⟨fun nf => yields_liftP _ (hcomplete nf) (by simp only [h]), yields_liftP _ hdeadline (by simp only [h]),
    yields_liftP (fun p d => containedReplay p d job.toNat) rfl ?_⟩
  unfold containedReplay
  simp only [h]

section
variable {s : State} (x : BitVec 10)

/-- The Quartermaster with a device in its list of those lost. -/
def Dev.withLost (d : Dev) (x : Nat) : Dev :=
  if d.qm.lost.contains x then d else d.modQm fun q => { q with lost := q.lost ++ [x] }

theorem Dev.withLost_leaves (d : Dev) (x : Nat) : x ∈ (d.withLost x).qm.lost ∧ (d.withLost x).qm.queue = d.qm.queue ∧
    (d.withLost x).qm.running = d.qm.running ∧ (d.withLost x).mem = d.mem ∧ (d.withLost x).regs = d.regs := by
  unfold Dev.withLost
  split
  · next h => exact ⟨by simpa using h, rfl, rfl, rfl, rfl⟩
  · exact ⟨List.mem_append_right _ (List.mem_singleton.mpr rfl), rfl, rfl, rfl, rfl⟩

theorem keepsLine_deviceLoss (hqm : s.dev.qmHere = true) :
    (s.dev.withLost x.toNat).keepsLine (deviceLoss s.perm s.dev x.toNat) := by
  unfold deviceLoss
  rw [if_neg (by simp [hqm])]
  extract_lets d1
  have h1 : d1 = s.dev.withLost x.toNat := rfl
  rw [← h1]
  clear_value d1
  split
  · exact ⟨rfl, rfl⟩
  · next j _ =>
    extract_lets rest e d2
    have h2 : d1.keepsLine d2 := by
      have hcancel := d1.keepsDesk_cancelJob rest
      have htell := (d1.cancelJob rest).tells_tellHost j 0x8006 (leBytes 64 (e.record s.dev.evSeq))
      refine (hcancel.keepsJobs.trans htell.1).keepsLine.trans ?_
      exact Dev.keepsLine_of_qm (Dev.qm_jobVector _ _)
    split
    · exact h2.trans (Dev.keepsLine_takeOver _ _ _ _)
    · split
      · exact h2.trans (Dev.keepsLine_jobDone _ _ _ _)
      · exact h2.trans (Dev.keepsLine_modJob _ _ _)

theorem does_deviceLoss (hqm : s.dev.qmHere = true) :
    Does (.deviceLoss x) s (fun e => x.toNat ∈ e.qm.lost ∧ e.qm.queue = s.dev.qm.queue) := by
  obtain ⟨hlost, hqueue, -⟩ := s.dev.withLost_leaves x.toNat
  obtain ⟨hkeepq, hkeepl⟩ := keepsLine_deviceLoss x hqm
  exact ⟨_, yields_liftP (fun p d => deviceLoss p d x.toNat) rfl rfl, by rwa [hkeepl], hkeepq.trans hqueue⟩

theorem does_deviceLoss_free (hqm : s.dev.qmHere = true) (hfree : ∀ j ∈ s.dev.qm.running, x.toNat ∉ j.devices) :
    Does (.deviceLoss x) s fun e => e.qm.running = s.dev.qm.running ∧ e.mem = s.dev.mem ∧ e.regs = s.dev.regs := by
  obtain ⟨-, -, hrun, hmem, hregs⟩ := s.dev.withLost_leaves x.toNat
  refine ⟨s.dev.withLost x.toNat, yields_liftP (fun p d => deviceLoss p d x.toNat) rfl ?_, hrun, hmem, hregs⟩
  unfold deviceLoss
  rw [if_neg (by simp [hqm])]
  have hnone : ((s.dev.withLost x.toNat).qm.running.find? fun j => j.devices.contains x.toNat && decide (j.state ≠ 3)) =
      none := List.find?_eq_none.mpr fun j hj hb => by
    rw [hrun] at hj
    simp only [Bool.and_eq_true, List.contains_iff_mem] at hb
    exact hfree j hj hb.1
  unfold Dev.withLost at *
  simp only [hnone]

end

/-- Settles O46: what the acts on the devices of a job leave of the Quartermaster, then each end of a job. -/
theorem jobsEnd : Obligations.JobsEnd := by
  unfold Obligations.JobsEnd
  refine ⟨fun s job j hj => ?_, fun s job => yields_noJob, fun s x => ⟨fun hqm => ?_, fun hqm =>
    ⟨does_deviceLoss x hqm, does_deviceLoss_free x hqm⟩⟩⟩
  · intro done
    exact ⟨does_jobComplete hj, does_deadlineExpiry hj, yields_deadlineExpiry hj, does_containedReplay hj⟩
  · exact yields_liftP (fun p d => deviceLoss p d x.toNat) rfl (if_pos (by simp [hqm]))

end Sys2Proof.Machine

/-! What a tamper clears (R411, R413, R454), for O48; the rules of the Lanterns' state and of filtered memory that the
resets use too. -/

namespace Sys2Proof.Machine

/-! ### Filtered finite maps -/

theorem look_filter {α : Type} (f : Nat → α) (keep : Nat → Bool) (m : List (Nat × α)) (j : Nat) :
    look f (m.filter fun p => keep p.1) j = if keep j then look f m j else f j := by
  induction m with
  | nil => simp [look]
  | cons p m ih =>
    obtain ⟨i, v⟩ := p
    by_cases hk : keep i <;> by_cases hij : i = j <;> simp_all [look]

/-! ### The Lanterns' records -/

@[simp] theorem Dev.lan_setLan_self (d : Dev) (b : Bool) (x : Lantern) : (d.setLan b x).lan b = x := by
  cases b <;> rfl

@[simp] theorem Dev.lan_setLan_other (d : Dev) (b : Bool) (x : Lantern) : (d.setLan b x).lan (!b) = d.lan (!b) := by
  cases b <;> rfl

/-- What an entry of the Lantern's log leaves, whatever its class. -/
theorem Dev.lanErr_frame (d : Dev) (cls cause : Nat) (i : ErrInfo) :
    (d.lanErr cls cause i).mem = d.mem ∧ (∀ b, (d.lanErr cls cause i).lan b = d.lan b) ∧
      (d.lanErr cls cause i).power = d.power ∧ (d.lanErr cls cause i).tampered = d.tampered ∧
      (d.lanErr cls cause i).striking = d.striking ∧ (d.lanErr cls cause i).resp = d.resp := by
  simp [Dev.lanErr, Dev.dieErr, Dev.logErr, Dev.lan]

theorem Dev.lanErr_device (d : Dev) (cause : Nat) (i : ErrInfo) :
    (d.lanErr clsDevice cause i).halted = true ∧ (d.lanErr clsDevice cause i).alertN = false :=
  d.dieErr_device _ _ _ _ _

/-! ### Tamper -/

/-- Secure data reads zero afterwards, everything else as before. -/
theorem Dev.look_clearSecure (d : Dev) (a : Nat) :
    look byte0 d.clearSecure.mem a =
      if (match regionOf a with
        | .scratch t o => d.segSecure t (o / 8192)
        | .hbm => d.memSecure a 1
        | .lpddr => d.memSecure a 1
        | _ => false) then 0 else look byte0 d.mem a := by
  unfold Dev.clearSecure
  extract_lets sec
  refine (look_filter byte0 (fun a => !sec a) d.mem a).trans ?_
  rw [show (match regionOf a with
        | .scratch t o => d.segSecure t (o / 8192)
        | .hbm => d.memSecure a 1
        | .lpddr => d.memSecure a 1
        | _ => false) = sec a from rfl]
  cases sec a <;> rfl

/-- The device as a tamper leaves it before the record of it. -/
def Dev.tamperedBare (d : Dev) : Dev :=
  { d.wipeCanisters.clearSecure with
    tampered := true, alertN := false, striking := none, strikeRgn := [], owedStart := none, startWait := none,
    owedRestore := none }

theorem Dev.tamperedBare_lan (d : Dev) (b : Bool) : d.tamperedBare.lan b = (d.lan b).wiped := by
  cases b <;> rfl

/-- Settles O48: secure data by the filter that clears it; the record of the tamper changes nothing else. -/
theorem tamperClears : Obligations.TamperClears := by
  unfold Obligations.TamperClears
  refine ⟨fun s hoff => ?_, fun s hon => ?_⟩
  · have hrun : doTamper s.perm s.dev = (s.perm, s.dev) := if_pos hoff
    exact liftAll_eq doTamper s hrun
  · intro d sec
    obtain ⟨hmem, hlan, -, htampered, hstriking, -⟩ := d.tamperedBare.lanErr_frame clsDevice 0x05 {}
    obtain ⟨hhalted, halert⟩ := d.tamperedBare.lanErr_device 0x05 {}
    refine ⟨d.tamperedBare.lanErr clsDevice 0x05 {}, liftAll_eq doTamper s (if_neg hon), htampered, hhalted, halert,
      hstriking, fun b => ?_, fun a => ?_⟩
    · rw [hlan, Dev.tamperedBare_lan]
      exact ⟨rfl, rfl, rfl, rfl⟩
    · rw [hmem]
      exact d.wipeCanisters.look_clearSecure a

end Sys2Proof.Machine

/-! Management messages at the active Lantern (R9, R417, R419 to R421, R436, R440), for O52. -/

namespace Sys2Proof.Machine

theorem Dev.mgmtTake_of (d : Dev) {src msg : Nat} {body : List Byte} {act : Dev → List Byte → Dev}
    (h : leAt body 0 2 = msg) : d.mgmtTake src msg body act = act (d.takeMgmt src body) (body.drop 8) :=
  if_neg (not_not.mpr h)

/-- An answer in packets of up to 2,048 bytes behind the SEQ it answers. -/
def Dev.answered (d : Dev) (n seq : Nat) (r : List Byte) : Dev :=
  (List.range (r.length / 2048 + 1)).foldl (fun (d : Dev) i =>
    d.sendMgmt n msgCmdRsp (leBytes 6 seq ++ slice r (2048 * i) (min 2048 (r.length - 2048 * i)))) d

theorem Dev.answered_nil (d : Dev) (n seq : Nat) : d.answered n seq [] = d.sendMgmt n msgCmdRsp (leBytes 6 seq) :=
  congrArg (d.sendMgmt n msgCmdRsp) (List.append_nil _)

section
variable (s : State) (src : BitVec 10) (body : List Byte)

theorem yields_ownHeartbeat (hmsg : leAt body 0 2 = msgHeartbeat) {a b : Bool}
    (hsrc : src.toNat = (s.dev.takeMgmt src.toNat body).devId) (hact : (s.dev.takeMgmt src.toNat body).active = some a)
    (hstand : (s.dev.takeMgmt src.toNat body).standby = some b) :
    let d := s.dev.takeMgmt src.toNat body
    Yields (.heartbeat src body) s (d.setLan b { d.lan b with missed := 0 }) := by
  intro d
  have hexec : exec (.heartbeat src body) s = execHeartbeat src body s := rfl
  refine yields_lift _ hexec ((Dev.mgmtTake_of _ hmsg).trans ?_)
  simp only [if_pos hsrc, hact, hstand]
  rfl

theorem does_campHeartbeat (hmsg : leAt body 0 2 = msgHeartbeat)
    (hsrc : src.toNat ≠ (s.dev.takeMgmt src.toNat body).devId) (hrole : (s.dev.takeMgmt src.toNat body).role = 2)
    (hbase : src.toNat = (s.dev.takeMgmt src.toNat body).baseId) :
    let d := s.dev.takeMgmt src.toNat body
    Does (.heartbeat src body) s fun e =>
      e.qm.queue = (Config.journalOf (body.drop 8)).1 ∧ e.qm.running = (Config.journalOf (body.drop 8)).2 ∧
        e.mem = d.mem ∧ e.regs = d.regs := by
  intro d
  have hexec : exec (.heartbeat src body) s = execHeartbeat src body s := rfl
  refine ⟨_, yields_lift _ hexec ((Dev.mgmtTake_of _ hmsg).trans ((if_neg hsrc).trans (if_pos ⟨hrole, hbase⟩))), ?_⟩
  exact ⟨rfl, rfl, rfl, rfl⟩

theorem yields_ownTimeSync (hmsg : leAt body 0 2 = msgTimeSync) {a : Bool}
    (hsrc : src.toNat = (s.dev.takeMgmt src.toNat body).devId)
    (hbase : (s.dev.takeMgmt src.toNat body).baseId ≠ (s.dev.takeMgmt src.toNat body).devId)
    (hact : (s.dev.takeMgmt src.toNat body).active = some a) :
    let d := s.dev.takeMgmt src.toNat body
    Yields (.timeSync src body) s (d.sendMgmt d.baseId msgTimeSync (leBytes 8 d.time.toNat)) := by
  intro d
  have hexec : exec (.timeSync src body) s = execTimeSync src body s := rfl
  exact yields_lift _ hexec ((Dev.mgmtTake_of _ hmsg).trans ((if_pos hsrc).trans (if_neg (by simp [hbase, hact]))))

theorem yields_askedTimeSync (hmsg : leAt body 0 2 = msgTimeSync) {a : Bool}
    (hsrc : src.toNat ≠ (s.dev.takeMgmt src.toNat body).devId) (hrole : (s.dev.takeMgmt src.toNat body).role = 1)
    (hact : (s.dev.takeMgmt src.toNat body).active = some a) :
    let d := s.dev.takeMgmt src.toNat body
    Yields (.timeSync src body) s
      (d.sendMgmt src.toNat msgTimeReply (slice (body.drop 8) 0 8 ++ leBytes 8 d.campTime.toNat)) := by
  intro d
  have hexec : exec (.timeSync src body) s = execTimeSync src body s := rfl
  exact yields_lift _ hexec
    ((Dev.mgmtTake_of _ hmsg).trans ((if_neg hsrc).trans (if_pos ⟨hrole, by simp [hact]⟩)))

theorem does_timeReply (hmsg : leAt body 0 2 = msgTimeReply)
    (hbase : src.toNat = (s.dev.takeMgmt src.toNat body).baseId)
    (hself : (s.dev.takeMgmt src.toNat body).devId ≠ (s.dev.takeMgmt src.toNat body).baseId) :
    let d := s.dev.takeMgmt src.toNat body
    Does (.timeReply src body) s fun e =>
      let sent : Int := leAt (body.drop 8) 0 8
      let base : Int := leAt (body.drop 8) 8 8
      e.campTarget = base + (d.time.toNat - sent) / 2 - d.time.toNat ∧ e.mem = d.mem ∧ e.regs = d.regs ∧
        e.time = d.time := by
  intro d
  have hexec : exec (.timeReply src body) s = execTimeReply src body s := rfl
  exact ⟨_, yields_lift _ hexec ((Dev.mgmtTake_of _ hmsg).trans (if_pos ⟨hbase, hself⟩)), rfl, rfl, rfl, rfl⟩

theorem yields_eventFwd (hmsg : leAt body 0 2 = msgEventFwd) (hqm : (s.dev.takeMgmt src.toNat body).qmHere = true) :
    Yields (.eventFwd src body) s
      ((s.dev.takeMgmt src.toNat body).eventToHost (leNat (slice (body.drop 8) 0 64))) := by
  have hexec : exec (.eventFwd src body) s = execEventFwd src body s := rfl
  exact yields_lift _ hexec ((Dev.mgmtTake_of _ hmsg).trans (if_pos hqm))

theorem yields_cmdRsp (hmsg : leAt body 0 2 = msgCmdRsp) :
    Yields (.cmdRsp src body) s (s.dev.takeMgmt src.toNat body) := by
  have hexec : exec (.cmdRsp src body) s = execCmdRsp src body s := rfl
  exact yields_lift _ hexec (Dev.mgmtTake_of _ hmsg)

/-! ### CMD -/

section
variable (hmsg : leAt body 0 2 = msgCmd) {b : Bool} (hact : (s.dev.takeMgmt src.toNat body).active = some b)
include hmsg hact

/-- A CMD that is not accepted leaves a CORRECTED record and nothing else. -/
theorem yields_cmdRefused (hno : ((s.dev.takeMgmt src.toNat body).signedByNamed
        (Config.shake512 (body.take (body.length - sigLen))) (body.drop (body.take (body.length - sigLen)).length) &&
      decide (look (fun _ => 0) ((s.dev.takeMgmt src.toNat body).lan b).lastSeq src.toNat < leAt body 2 6)) = false) :
    Yields (.cmd src body) s ((s.dev.takeMgmt src.toNat body).lanErr clsCorrected 0x04 { tag := src.toNat }) := by
  have hexec : exec (.cmd src body) s = execCmd src body s := rfl
  refine yields_liftP _ hexec ((if_neg (not_not.mpr hmsg)).trans ?_)
  simp only [hact]
  exact if_pos (by rw [hno]; rfl)

theorem does_cmdStale
    (hstale : leAt body 2 6 ≤ look (fun _ => 0) ((s.dev.takeMgmt src.toNat body).lan b).lastSeq src.toNat) :
    let d := s.dev.takeMgmt src.toNat body
    Does (.cmd src body) s fun e => e.mem = d.mem ∧ (e.lan b).lastSeq = (d.lan b).lastSeq ∧
      ∃ y : Event, e.events = d.events ++ [y] ∧ y.cls = 1 := by
  intro d
  obtain ⟨hmem, hlan, -⟩ := d.lanErr_frame clsCorrected 0x04 { tag := src.toNat }
  refine ⟨_, yields_cmdRefused s src body hmsg hact ?_, hmem, congrArg Lantern.lastSeq (hlan b), ?_⟩
  · simp [Nat.not_lt.mpr hstale]
  · exact ⟨_, rfl, rfl⟩

theorem yields_cmdAccepted
    (hrise : look (fun _ => 0) ((s.dev.takeMgmt src.toNat body).lan b).lastSeq src.toNat < leAt body 2 6) :
    let n := src.toNat
    let d := s.dev.takeMgmt n body
    let seq := leAt body 2 6
    let signed := body.take (body.length - sigLen)
    Yields (.cmd src body) s
      (if d.signedByNamed (Config.shake512 signed) (body.drop signed.length) = false then d.lanErr 1 0x04 { tag := n }
      else
        let act := Config.cmdAct (signed.drop 8)
        let e := (d.setLan b { d.lan b with lastSeq := put (fun _ => 0) (d.lan b).lastSeq n seq }).cmdAct act
        let e1 := { e with fresh := e.fresh + 1 }
        match act with
        | .report j =>
          let r := attReport s.perm e (e.jobHere.getD j)
          (List.range (r.length / 2048 + 1)).foldl (fun (d : Dev) i =>
            d.sendMgmt n msgCmdRsp (leBytes 6 seq ++ slice r (2048 * i) (min 2048 (r.length - 2048 * i)))) e1
        | _ => e1.sendMgmt n msgCmdRsp (leBytes 6 seq)) := by
  intro n d seq signed
  by_cases hsigned : d.signedByNamed (Config.shake512 signed) (body.drop signed.length) = false
  · rw [if_pos hsigned]
    exact yields_cmdRefused s src body hmsg hact (by rw [hsigned]; rfl)
  · rw [if_neg hsigned]
    have hexec : exec (.cmd src body) s = execCmd src body s := rfl
    refine yields_liftP _ hexec ((if_neg (not_not.mpr hmsg)).trans ?_)
    have hok : (d.signedByNamed (Config.shake512 signed) (body.drop signed.length) &&
        decide (look (fun _ => 0) (d.lan b).lastSeq n < seq)) = true := by
      rw [Bool.eq_true_of_not_eq_false hsigned]
      exact decide_eq_true hrise
    simp only [hact]
    refine (if_neg (by rw [hok]; decide)).trans ?_
    cases Config.cmdAct (signed.drop 8) with
    | report j => rfl
    | _ => exact Dev.answered_nil _ _ _

end

end

/-- Settles O52: a message by its MSG, a CMD by its SEQ and its signature. -/
theorem managementMessages : Obligations.ManagementMessages := by
  unfold Obligations.ManagementMessages
  intro s src body n d
  refine ⟨fun hmsg => ⟨fun a b => yields_ownHeartbeat s src body hmsg, does_campHeartbeat s src body hmsg⟩,
    fun hmsg => ⟨fun a => yields_ownTimeSync s src body hmsg, fun a => yields_askedTimeSync s src body hmsg⟩,
    does_timeReply s src body, yields_eventFwd s src body, fun hmsg b hact => ?_, yields_cmdRsp s src body⟩
  intro last seq signed
  exact ⟨does_cmdStale s src body hmsg hact, yields_cmdAccepted s src body hmsg hact⟩

end Sys2Proof.Machine

/-! Lanterns lost, taken over from and returned (R398, R434, R436, R437), for O53. -/

namespace Sys2Proof.Machine

/-! ### Which Lantern is active -/

@[simp] theorem Dev.lan_setLan_not (d : Dev) (b : Bool) (x : Lantern) : (d.setLan (!b) x).lan b = d.lan b := by
  cases b <;> rfl

theorem Dev.setLan_frame (d : Dev) (b : Bool) (x : Lantern) :
    (d.setLan b x).mem = d.mem ∧ (d.setLan b x).regs = d.regs ∧ (d.setLan b x).role = d.role ∧
      (d.setLan b x).fresh = d.fresh ∧ (d.setLan b x).power = d.power ∧ (d.setLan b x).resp = d.resp := by
  cases b <;> exact ⟨rfl, rfl, rfl, rfl, rfl, rfl⟩

theorem Dev.active_of {d : Dev} {b : Bool} (hrole : (d.lan b).role = .active) (hlost : (d.lan b).lost = false)
    (hother : (d.lan (!b)).role ≠ .active) : d.active = some b := by
  cases b <;> simp_all [Dev.active, Dev.lan]

theorem Dev.lan_of_active {d : Dev} {b : Bool} (h : d.active = some b) :
    (d.lan b).role = .active ∧ (d.lan b).lost = false := by
  unfold Dev.active at h
  split at h
  · next hA => cases h; simpa [Dev.lan] using hA
  · split at h
    · next hB => cases h; simpa [Dev.lan] using hB
    · cases h

theorem Dev.lan_of_standby {d : Dev} {b : Bool} (h : d.standby = some b) :
    (d.lan b).role = .standby ∧ (d.lan b).lost = false := by
  unfold Dev.standby at h
  split at h
  · next hA => cases h; simpa [Dev.lan] using hA
  · split at h
    · next hB => cases h; simpa [Dev.lan] using hB
    · cases h

theorem Dev.active_congr {d e : Dev} (h : ∀ b, e.lan b = d.lan b) : e.active = d.active := by
  have hA : e.lanA = d.lanA := h false
  have hB : e.lanB = d.lanB := h true
  simp only [Dev.active, hA, hB]

/-- A Lantern whose role and loss stay leaves the same one active. -/
theorem Dev.active_setLan {d : Dev} {b : Bool} {x : Lantern} (hrole : x.role = (d.lan b).role)
    (hlost : x.lost = (d.lan b).lost) : (d.setLan b x).active = d.active := by
  cases b <;> simp_all [Dev.active, Dev.setLan, Dev.lan]

/-- The second Lantern never takes the active role, and is as lost as before. -/
theorem secondRole_leaves (a x : Lantern) : (secondRole a x).role ≠ .active ∧ (secondRole a x).lost = x.lost := by
  unfold secondRole
  split
  · exact ⟨nofun, rfl⟩
  · split
    · exact ⟨nofun, rfl⟩
    · exact ⟨nofun, rfl⟩

/-- One try of the slots over any further tries. -/
theorem lanTry_round (f : Fuses) (slots : List Byte × List Byte) (n : Nat) (x : Lantern)
    (below : Nat.below (motive := fun _ => Lantern → Lantern) (n + 1)) (ih : ∀ x, (below.1 x).lost = x.lost) :
    (lanTry._f f slots (n + 1) below x).lost = x.lost := by
  cases hslot : chooseSlot f slots x.badA x.badB with
  | none => simp only [lanTry._f, hslot]
  | some slot =>
    simp only [lanTry._f, hslot]
    generalize (if slot = true then slots.2 else slots.1) = k
    split
    · rfl
    · cases slot <;> exact ih _

theorem lanTry_lost (f : Fuses) (slots : List Byte × List Byte) (n : Nat) (x : Lantern) :
    (lanTry f slots n x).lost = x.lost := by
  delta lanTry
  exact brecOn_related (lanTry._f f slots) (fun _ g => ∀ x, (g x).lost = x.lost) (fun _ => rfl)
    (fun n below h x => lanTry_round f slots n x below h) n x
/-- A Lantern that boots is not lost any more. -/
theorem lanBoot_lost (p : Perm) (b : Bool) (x : Lantern) : (lanBoot p b x).lost = false := by
  unfold lanBoot
  dsimp only
  split
  · rfl
  · exact lanTry_lost _ _ _ _

/-- A new nonce changes neither roles nor losses. -/
theorem Dev.freshNonce_leaves (d : Dev) : d.freshNonce.mem = d.mem ∧ d.freshNonce.regs = d.regs ∧
    ∀ b, (d.freshNonce.lan b).role = (d.lan b).role ∧ (d.freshNonce.lan b).lost = (d.lan b).lost :=
  ⟨rfl, rfl, fun b => by cases b <;> exact ⟨rfl, rfl⟩⟩

/-! ### The loss of an active Lantern -/

/-- The active role as it passes to the other Lantern, before the record of it. -/
def Dev.passedOn (d : Dev) (b : Bool) : Dev :=
  ((d.setLan b { d.lan b with lost := true, role := .booting, barked := [] }).setLan (!b)
    { d.lan (!b) with role := .active, missed := 0 }).freshNonce

theorem Dev.passedOn_lan {d : Dev} {b : Bool} (hother : (d.lan (!b)).lost = false) :
    (d.passedOn b).active = some (!b) ∧ ((d.passedOn b).lan b).lost = true ∧ (d.passedOn b).mem = d.mem := by
  have hnonce := ((d.setLan b { d.lan b with lost := true, role := .booting, barked := [] }).setLan (!b)
    { d.lan (!b) with role := .active, missed := 0 }).freshNonce_leaves
  obtain ⟨hmem, -, hlan⟩ := hnonce
  obtain ⟨hroleb, hlostb⟩ := hlan b
  obtain ⟨hrolen, hlostn⟩ := hlan (!b)
  refine ⟨Dev.active_of ?_ ?_ ?_, ?_, ?_⟩
  · exact hrolen.trans (by rw [Dev.lan_setLan_self])
  · exact hlostn.trans (by rw [Dev.lan_setLan_self]; exact hother)
  · rw [Bool.not_not]
    exact fun h => by rw [Dev.passedOn, hroleb] at h; simp at h
  · exact hlostb.trans (by simp)
  · exact hmem.trans (((Dev.setLan_frame _ _ _).1).trans (d.setLan_frame _ _).1)

theorem Dev.loseLantern_active {d : Dev} {b : Bool} (hrole : (d.lan b).role = .active) (hlost : (d.lan b).lost = false)
    (hstand : d.standby = some (!b)) :
    (d.loseLantern b).active = some (!b) ∧ ((d.loseLantern b).lan b).lost = true ∧ (d.loseLantern b).alertN = false ∧
      (d.loseLantern b).mem = d.mem := by
  obtain ⟨hstandby, hlive⟩ := Dev.lan_of_standby hstand
  have heq : d.loseLantern b =
      { (d.passedOn b).lanErr clsCorrected 0x03 { tag := b2n b } with alertN := false } := by
    unfold Dev.loseLantern
    dsimp only
    rw [if_neg (by simp [hlost]), if_pos hrole, if_pos ⟨hstandby, by simp [hlive]⟩]
    rfl
  obtain ⟨hact, hgone, hmem⟩ := Dev.passedOn_lan (d := d) hlive
  obtain ⟨hmem', hlan, -⟩ := (d.passedOn b).lanErr_frame clsCorrected 0x03 { tag := b2n b }
  rw [heq]
  exact ⟨(Dev.active_congr hlan).trans hact, (congrArg Lantern.lost (hlan b)).trans hgone, rfl, hmem'.trans hmem⟩

/-! ### The rows -/

section
variable {s : State}

theorem does_heartbeatSend {b : Bool} (hstand : s.dev.standby = some b) (hqm : s.dev.qmHere = false) :
    Does .heartbeatSend s fun e =>
      (e.lan b).missed = (s.dev.lan b).missed + 1 ∧ e.mem = s.dev.mem ∧ e.regs = s.dev.regs := by
  have hexec : exec .heartbeatSend s = execHeartbeatSend s := rfl
  let d1 := s.dev.setLan b { s.dev.lan b with missed := (s.dev.lan b).missed + 1 }
  obtain ⟨hmem, hregs, hrole, -⟩ := s.dev.setLan_frame b { s.dev.lan b with missed := (s.dev.lan b).missed + 1 }
  have hqm1 : d1.qmHere = false := by
    rw [← hqm]
    unfold Dev.qmHere
    rw [hrole, show d1.active = s.dev.active from Dev.active_setLan rfl rfl]
  refine ⟨d1, yields_lift _ hexec ?_, congrArg Lantern.missed (Dev.lan_setLan_self _ _ _), hmem, hregs⟩
  simp only [hstand]
  exact if_neg fun h => by rw [hqm1] at h; exact absurd h.1 (by decide)

theorem yields_heartbeatLoss {b : Bool} (hstand : s.dev.standby = some b) :
    Yields .heartbeatLoss s (if 10 ≤ (s.dev.lan b).missed then s.dev.loseLantern (!b) else s.dev) := by
  have hexec : exec .heartbeatLoss s = execHeartbeatLoss s := rfl
  exact yields_lift _ hexec (by simp only [hstand])

theorem does_watchdogFirst (b : Bool) (core : BitVec 2) (hlost : (s.dev.lan b).lost = false)
    (hnew : core.toNat ∉ (s.dev.lan b).barked) : Does (.watchdogFirst b core) s fun e =>
      (e.lan b).barked = (s.dev.lan b).barked ++ [core.toNat] ∧ e.mem = s.dev.mem ∧ e.regs = s.dev.regs := by
  have hexec : exec (.watchdogFirst b core) s = execWatchdogFirst b core s := rfl
  obtain ⟨hmem, hregs, -⟩ :=
    s.dev.setLan_frame b { s.dev.lan b with barked := (s.dev.lan b).barked ++ [core.toNat] }
  refine ⟨_, yields_lift _ hexec (if_neg (by simp [hlost, hnew])), ?_, hmem, hregs⟩
  exact congrArg Lantern.barked (Dev.lan_setLan_self _ _ _)

theorem yields_watchdogSecond (b : Bool) (core : BitVec 2) : Yields (.watchdogSecond b core) s
    (if (s.dev.lan b).barked.contains core.toNat then s.dev.loseLantern b else s.dev) :=
  yields_lift (fun d => if (d.lan b).barked.contains core.toNat then d.loseLantern b else d) rfl rfl

/-- A Lantern that restarts beside an active one. -/
theorem lanternReturn_beside (p : Perm) {d : Dev} {b : Bool} (hact : d.active = some b) :
    ∃ e, lanternReturn p d (!b) = (p, e) ∧ (e.lan (!b)).lost = false ∧ e.active = some b ∧ e.mem = d.mem := by
  obtain ⟨hrole, hlive⟩ := Dev.lan_of_active hact
  unfold lanternReturn
  extract_lets x n _ y z d1
  rw [Bool.not_not, if_pos hact]
  obtain ⟨hz, hzlost⟩ := secondRole_leaves (d.lan (!!b)) y
  have hyz : z.lost = false := hzlost.trans (lanBoot_lost p (!b) (d.lan (!b)))
  have hself : d1.lan (!b) = z := Dev.lan_setLan_self _ _ _
  have hother : d1.lan b = d.lan b := (Dev.lan_setLan_not _ _ _).trans (by cases b <;> rfl)
  have hmem : d1.mem = d.mem := (Dev.setLan_frame _ _ _).1
  have hact1 : d1.active = some b := Dev.active_of (by rw [hother]; exact hrole) (by rw [hother]; exact hlive)
    (by rw [hself]; exact hz)
  refine ⟨_, rfl, ?_⟩
  split
  · exact ⟨by rw [hself]; exact hyz, hact1, hmem⟩
  · obtain ⟨hmem', hlan, -⟩ := d1.lanErr_frame clsCorrected 0x01 {}
    exact ⟨by rw [hlan, hself]; exact hyz, (Dev.active_congr hlan).trans hact1, hmem'.trans hmem⟩

theorem does_lostLanternReturn {b : Bool} (hact : s.dev.active = some b) (hlost : (s.dev.lan (!b)).lost = true) :
    Does .lostLanternReturn s fun e => (e.lan (!b)).lost = false ∧ e.active = some b ∧ e.mem = s.dev.mem := by
  have hexec : exec .lostLanternReturn s = execLostLanternReturn s := rfl
  obtain ⟨e, heq, hleaves⟩ := lanternReturn_beside s.perm hact
  refine ⟨e, hexec.trans (liftAll_eq _ s ?_), hleaves⟩
  simp only [hact]
  exact (if_pos hlost).trans heq

theorem yields_lostLanternReturn {b : Bool} (hact : s.dev.active = some b) (hlive : (s.dev.lan (!b)).lost = false) :
    Yields .lostLanternReturn s s.dev := by
  have hexec : exec .lostLanternReturn s = execLostLanternReturn s := rfl
  refine hexec.trans (liftAll_eq _ s ?_)
  simp only [hact]
  exact if_neg (by rw [hlive]; decide)

theorem does_lanternRecoveryTimeout (hnone : s.dev.active = none) : Does .lanternRecoveryTimeout s fun e =>
    e.halted = true ∧ e.alertN = false ∧ e.mem = s.dev.mem := by
  have hexec : exec .lanternRecoveryTimeout s = execLanternRecoveryTimeout s := rfl
  obtain ⟨hhalted, halert⟩ := s.dev.lanErr_device 0x07 {}
  exact ⟨_, yields_lift _ hexec (if_neg (by rw [hnone]; decide)), hhalted, halert, (s.dev.lanErr_frame _ _ _).1⟩

theorem does_handover {w u : Writer} {b : Bool} (hw : s.acting w = some u) (hsecure : u.secure = true)
    (hact : s.dev.active = some b) (hstand : s.dev.standby = some (!b)) : Does (.handover w b) s fun e =>
      e.active = some (!b) ∧ (e.lan b).role ≠ .active ∧ e.mem = s.dev.mem ∧ e.regs = s.dev.regs := by
  obtain ⟨hstandby, hlive⟩ := Dev.lan_of_standby hstand
  let y1 : Lantern := { s.dev.lan (!b) with role := .active, missed := 0 }
  let d1 := (s.dev.setLan (!b) y1).setLan b (secondRole y1 (s.dev.lan b))
  obtain ⟨hz, -⟩ := secondRole_leaves y1 (s.dev.lan b)
  obtain ⟨hmem1, hregs1, -⟩ := s.dev.setLan_frame (!b) y1
  obtain ⟨hmem2, hregs2, -⟩ := (s.dev.setLan (!b) y1).setLan_frame b (secondRole y1 (s.dev.lan b))
  obtain ⟨hmem, hregs, hlan⟩ := d1.freshNonce_leaves
  have hself : d1.lan b = secondRole y1 (s.dev.lan b) := Dev.lan_setLan_self _ _ _
  have hother : d1.lan (!b) = y1 := (Dev.lan_setLan_other _ _ _).trans (Dev.lan_setLan_self _ _ _)
  have hroleb : (d1.freshNonce.lan b).role ≠ .active := by rw [(hlan b).1, hself]; exact hz
  have hexec : exec (.handover w b) s = lift (fun d => if !u.secure then d.lanRefused 0x104 else d.handover b) s := by
    show asWriter w _ s = _
    rw [asWriter_next w u _ s hw]
  refine ⟨d1.freshNonce, yields_lift _ hexec ?_, Dev.active_of ?_ ?_ ?_, hroleb, hmem.trans (hmem2.trans hmem1),
    hregs.trans (hregs2.trans hregs1)⟩
  · rw [hsecure]
    exact (if_neg (by decide)).trans (if_neg (by simp [hact, hstandby, hlive]))
  · rw [(hlan (!b)).1, hother]
  · rw [(hlan (!b)).2, hother]
    exact hlive
  · rw [Bool.not_not]
    exact hroleb

end

/-- Settles O53: the role passes with its record where a live standby stands by, and only then. -/
theorem lanternsTakeOver : Obligations.LanternsTakeOver := by
  unfold Obligations.LanternsTakeOver
  intro s d taken
  refine ⟨fun b => does_heartbeatSend, fun b hstand => ⟨fun hfew => ?_, fun hten hrole hlive => ?_⟩,
    fun b core => ⟨does_watchdogFirst b core, fun hnew => ?_, fun hold => ?_, fun hold hrole hlive hstand => ?_⟩,
    fun b hact => ⟨does_lostLanternReturn hact, yields_lostLanternReturn hact, ?_⟩, does_lanternRecoveryTimeout,
    fun w u b hw => ⟨fun hopen => ?_, does_handover hw⟩⟩
  · have h := yields_heartbeatLoss hstand
    rwa [if_neg (Nat.not_le.mpr hfew)] at h
  · have h := yields_heartbeatLoss hstand
    rw [if_pos hten] at h
    exact ⟨_, h, Dev.loseLantern_active hrole hlive (by rwa [Bool.not_not])⟩
  · have h := yields_watchdogSecond (s := s) b core
    rwa [if_neg (by simpa using hnew)] at h
  · have h := yields_watchdogSecond (s := s) b core
    rwa [if_pos (by simpa using hold)] at h
  · have h := yields_watchdogSecond (s := s) b core
    rw [if_pos (by simpa using hold)] at h
    exact ⟨_, h, Dev.loseLantern_active hrole hlive hstand⟩
  · exact yields_lift (fun d => if d.active.isSome then d else d.lanErr clsDevice 0x07 {}) rfl
      (if_pos (by rw [hact]; rfl))
  · have hexec : exec (.handover w b) s =
        lift (fun d => if !u.secure then d.lanRefused 0x104 else d.handover b) s := asWriter_next w u _ s hw
    exact yields_lift _ hexec (if_pos (by rw [hopen]; rfl))

end Sys2Proof.Machine

/-! What the resets of the module leave of memory and power (R404, R424 to R426), for O54. -/

namespace Sys2Proof.Machine

/-! ### What a kit's application leaves alone -/

/-- What neither a kit's application nor the training of links and modules touches: memory, power and pins, the
Lanterns, the responder. -/
def Dev.standing (d : Dev) : List (Nat × Byte) × Power × Bool × Bool × Bool × Responder × Lantern × Lantern :=
  (d.mem, d.power, d.selfRefresh, d.rstN, d.pwrGood, d.resp, d.lanA, d.lanB)

theorem Dev.standing_spec {d e : Dev} (h : e.standing = d.standing) : e.mem = d.mem ∧ e.power = d.power ∧
    e.selfRefresh = d.selfRefresh ∧ e.rstN = d.rstN ∧ e.pwrGood = d.pwrGood ∧ e.resp = d.resp ∧
    ∀ b, e.lan b = d.lan b := by
  simp only [Dev.standing, Prod.mk.injEq] at h
  obtain ⟨hmem, hpower, hself, hrst, hgood, hresp, hA, hB⟩ := h
  exact ⟨hmem, hpower, hself, hrst, hgood, hresp, fun b => by cases b <;> simp only [Dev.lan, hA, hB]⟩

theorem Dev.standing_setReg (d : Dev) (a v : Nat) : (d.setReg a v).standing = d.standing := rfl

theorem Dev.standing_setRegF (d : Dev) (a l w v : Nat) : (d.setRegF a l w v).standing = d.standing :=
  d.standing_setReg _ _

theorem Dev.standing_modTent (d : Dev) (t : Nat) (f : Tent → Tent) : (d.modTent t f).standing = d.standing := rfl

theorem Dev.standing_modLink (d : Dev) (l : Nat) (f : Link → Link) : (d.modLink l f).standing = d.standing := rfl

theorem Dev.standing_logErr (d : Dev) (src unit blk cls cause : Nat) (i : ErrInfo) :
    (d.logErr src unit blk cls cause i).standing = d.standing := by
  simp [Dev.logErr, Dev.standing]

theorem Dev.standing_lanErr (d : Dev) (cls cause : Nat) (i : ErrInfo) : (d.lanErr cls cause i).standing = d.standing :=
  d.standing_logErr _ _ _ _ _ _

theorem Dev.standing_foldl {α : Type} {f : Dev → α → Dev} (h : ∀ (d : Dev) x, (f d x).standing = d.standing)
    (xs : List α) (d : Dev) : (xs.foldl f d).standing = d.standing :=
  foldl_related (R := fun d e : Dev => e.standing = d.standing) (fun _ => rfl) (fun h h' => h'.trans h) h xs d

theorem Dev.standing_arrangeWrite (d : Dev) (t v : Nat) : (d.arrangeWrite t v).standing = d.standing := by
  unfold Dev.arrangeWrite
  extract_lets d0 a
  have h0 : d0.standing = d.standing := by
    unfold d0
    split
    · exact d.standing_setRegF _ _ _ _
    · rfl
  have hpend (p : Option Nat) : (d0.setPending t p).standing = d.standing :=
    (Dev.standing_setRegF _ _ _ _ _).trans ((d0.standing_modTent _ _).trans h0)
  split
  · exact (Dev.standing_logErr _ _ _ _ _ _ _).trans ((d0.standing_setRegF _ _ _ _).trans h0)
  · split
    · exact hpend _
    · exact hpend _

theorem Dev.standing_gbankWrite (d : Dev) (t v : Nat) : (d.gbankWrite t v).standing = d.standing := by
  unfold Dev.gbankWrite
  extract_lets a n
  clear_value a n
  split
  · exact (Dev.standing_setRegF _ _ _ _ _).trans (Dev.standing_setRegF _ _ _ _ _)
  · exact Dev.standing_setRegF _ _ _ _ _

theorem Dev.standing_applySetting (d : Dev) (x : Setting) : (d.applySetting x).standing = d.standing := by
  unfold Dev.applySetting
  cases regionOf x.addr with
  | tentR t o =>
    dsimp only
    split
    · exact d.standing_arrangeWrite _ _
    · split
      · exact d.standing_gbankWrite _ _
      · exact d.standing_setRegF _ _ _ _
  | dieR die o =>
    dsimp only
    cases credRegOf die o with
    | some l => exact d.standing_modLink _ _
    | none => exact d.standing_setRegF _ _ _ _
  | _ => rfl

theorem Dev.standing_applyPreset (d : Dev) (ws : List Setting) : (d.applyPreset ws).standing = d.standing :=
  Dev.standing_foldl (f := fun (d : Dev) s => (d.applySetting s).keepSetting s) (fun d x => d.standing_applySetting x) ws d

theorem Dev.standing_writeAll (d : Dev) (mine : Nat → Bool) (ws : List (Nat × Word)) :
    (d.writeAll mine ws).standing = d.standing := by
  refine Dev.standing_foldl (fun d w => ?_) ws d
  dsimp only
  split
  · split
    · exact d.standing_setReg _ _
    · rfl
  · rfl

/-- What a kit's application sets beside registers. -/
theorem Dev.standing_applyKit (d : Dev) (flash : Flash) : (d.applyKit flash).standing = d.standing := by
  unfold Dev.applyKit
  extract_lets k topo d0 d1 d2 dev base
  have h1 : d1.standing = d.standing :=
    (Dev.standing_writeAll _ _ _).trans ((Dev.standing_writeAll _ _ _).trans (d.standing_applyPreset _))
  have h2 : d2.standing = d1.standing := by
    refine Dev.standing_foldl (fun d r => ?_) flash.repairs d1
    cases r with
    | tent row col => exact d.standing_setReg _ _
    | _ => rfl
  exact h2.trans h1

theorem Dev.standing_lockPlls (d : Dev) : d.lockPlls.standing = d.standing :=
  Dev.standing_foldl (fun d _ => d.standing_setRegF _ _ _ _) _ d

theorem Dev.standing_trainLink (d : Dev) (l : Nat) : (d.trainLink l).standing = d.standing := by
  unfold Dev.trainLink
  split
  · exact d.standing_setRegF _ _ _ _
  · exact d.standing_logErr _ _ _ _ _ _

theorem Dev.standing_bringUpLinks (d : Dev) : d.bringUpLinks.standing = d.standing := by
  refine Dev.standing_foldl (fun d p => ?_) _ d
  split
  · rfl
  · exact (Dev.standing_foldl (f := Dev.trainLink) Dev.standing_trainLink _ _).trans (d.standing_setRegF _ _ _ _)

/-- A kit brought into force: clocks, registers, presets, links. -/
def Dev.kitted (d : Dev) (flash : Flash) : Dev := ((d.lockPlls.applyKit flash).applyKitPresets).bringUpLinks

theorem Dev.standing_kitted (d : Dev) (flash : Flash) : (d.kitted flash).standing = d.standing :=
  (Dev.standing_bringUpLinks _).trans ((Dev.standing_applyPreset _ _).trans
    ((Dev.standing_applyKit _ _).trans d.standing_lockPlls))

/-! ### A boot -/

/-- What a boot keeps beside the Lanterns: memory, pins, the responder. -/
def Dev.grounds (d : Dev) : List (Nat × Byte) × Bool × Bool × Responder := (d.mem, d.rstN, d.pwrGood, d.resp)

theorem Dev.grounds_of_standing {d e : Dev} (h : e.standing = d.standing) : e.grounds = d.grounds := by
  obtain ⟨hmem, -, -, hrst, hgood, hresp, -⟩ := Dev.standing_spec h
  simp only [Dev.grounds, hmem, hrst, hgood, hresp]

theorem Dev.assignRoles_leaves (d : Dev) : d.assignRoles.grounds = d.grounds ∧ d.assignRoles.power = d.power := by
  have herr (e : Dev) (cls cause : Nat) : (e.lanErr cls cause).grounds = e.grounds ∧ (e.lanErr cls cause).power = e.power :=
    ⟨Dev.grounds_of_standing (e.standing_lanErr _ _ _), (e.lanErr_frame _ _ _).2.2.1⟩
  unfold Dev.assignRoles
  extract_lets a b d1
  split
  · split
    · exact ⟨rfl, rfl⟩
    · exact herr d1 _ _
  · split
    · exact herr _ _ _
    · exact herr _ _ _

/-- The device of a boot before the roles are given. -/
def Dev.powered (p : Perm) (d : Dev) : Dev :=
  let d0 : Dev := { (if d.host.perst then d else d.pcieUp) with power := .on, selfRefresh := false }.trainModules
  { d0 with lanA := lanBoot p false d.lanA, lanB := lanBoot p true d.lanB }

theorem Dev.powered_leaves (p : Perm) (d : Dev) : (d.powered p).grounds = d.grounds ∧ (d.powered p).power = .on := by
  unfold Dev.powered
  split
  · exact ⟨rfl, rfl⟩
  · have hup : d.pcieUp.grounds = d.grounds := Dev.grounds_of_standing (d.standing_setRegF _ _ _ _)
    exact ⟨(show _ = d.pcieUp.grounds from rfl).trans hup, rfl⟩

theorem boot_leaves (p : Perm) (d : Dev) : (boot p d).1.fuses = p.fuses ∧ (boot p d).2.grounds = d.grounds ∧
    (boot p d).2.power = .on := by
  obtain ⟨hg, hp⟩ := d.powered_leaves p
  obtain ⟨hga, hpa⟩ := (d.powered p).assignRoles_leaves
  unfold boot
  extract_lets dp d0 d1 failed log _ p1 d2 n d3
  have hd1 : d1 = d.powered p := rfl
  have h3 : d3.standing = d2.standing := n.2.standing_kitted p1.flash
  have hd2 : d2 = d1.assignRoles := rfl
  have hp1 : p1.fuses = p.fuses := rfl
  clear_value d1 d2 d3 p1
  subst hd1 hd2
  split
  · exact ⟨hp1, hg, hp⟩
  · split
    · exact ⟨hp1, hga.trans hg, hpa.trans hp⟩
    · exact ⟨hp1, (Dev.grounds_of_standing h3).trans (hga.trans hg),
        (Dev.standing_spec h3).2.1.trans (hpa.trans hp)⟩

/-! ### A boot without a kit -/

theorem chooseSlot_empty (f : Fuses) (badA badB : Bool) : chooseSlot f ([], []) badA badB = none := by
  have hform : kitForm [] = false := by
    unfold kitForm
    simp only [show (leAt [] 0 4 == 0x5449_4B4E) = false by decide, Bool.false_and]
  unfold chooseSlot kitStep2
  simp only [hform, Bool.false_and]

/-- A Lantern with no kit that boots. -/
def Lantern.kitless (x : Lantern) : Prop := x.kitOk = false ∧ x.role = .booting

theorem lanTry_round_kitless {f : Fuses} {slots : List Byte × List Byte} (h : ∀ a b, chooseSlot f slots a b = none)
    (n : Nat) (x : Lantern) (below : Nat.below (motive := fun _ => Lantern → Lantern) (n + 1)) :
    (lanTry._f f slots (n + 1) below x).kitless := by
  simp only [lanTry._f, h]
  exact ⟨rfl, rfl⟩

theorem lanTry_kitless {f : Fuses} {slots : List Byte × List Byte} (h : ∀ a b, chooseSlot f slots a b = none)
    (n : Nat) (x : Lantern) (hx : x.kitless) : (lanTry f slots n x).kitless := by
  delta lanTry
  exact brecOn_related (lanTry._f f slots) (fun _ g => ∀ x, x.kitless → (g x).kitless) (fun _ hx => hx)
    (fun n below _ x _ => lanTry_round_kitless h n x below) n x hx

theorem lanBoot_kitless {p : Perm} (hslots : p.flash.slots = [[], [], [], []]) (b : Bool) (x : Lantern) :
    (lanBoot p b x).kitless := by
  unfold lanBoot
  dsimp only
  split
  · exact ⟨rfl, rfl⟩
  · have hpair : p.flash.pair b = ([], []) := by
      unfold Flash.pair
      rw [hslots]
      cases b <;> rfl
    rw [hpair]
    exact lanTry_kitless (chooseSlot_empty p.fuses) _ _ ⟨rfl, rfl⟩

theorem boot_kitless {p : Perm} (d : Dev) (hslots : p.flash.slots = [[], [], [], []]) (hend : p.fuses.lifecycle ≠ 4) :
    (boot p d).2.active = none ∧ (boot p d).2.halted = true ∧ (boot p d).2.alertN = false := by
  obtain ⟨hkitA, hroleA⟩ := lanBoot_kitless hslots false d.lanA
  obtain ⟨hkitB, hroleB⟩ := lanBoot_kitless hslots true d.lanB
  have hassign : (d.powered p).assignRoles = (d.powered p).lanErr clsDevice 0x02 {} := by
    unfold Dev.assignRoles
    exact (if_neg (by rw [show (d.powered p).lanA.kitOk = false from hkitA]; decide)).trans
      (if_neg (by rw [show (d.powered p).lanB.kitOk = false from hkitB]; decide))
  have hroleA' : (d.powered p).lanA.role = .booting := hroleA
  have hroleB' : (d.powered p).lanB.role = .booting := hroleB
  have hnone : (d.powered p).active = none := by simp [Dev.active, hroleA', hroleB']
  obtain ⟨-, hlan, -⟩ := (d.powered p).lanErr_frame clsDevice 0x02 {}
  obtain ⟨hhalted, halert⟩ := (d.powered p).lanErr_device 0x02 {}
  have hact : (d.powered p).assignRoles.active = none := by rw [hassign, Dev.active_congr hlan, hnone]
  have hboot : (boot p d).2 = (d.powered p).assignRoles := by
    unfold boot
    extract_lets dp d0 d1 failed log _ p1 d2 n d3
    have hd2 : d2 = (d.powered p).assignRoles := rfl
    clear_value d2
    subst hd2
    rw [if_neg hend]
    simp only [hact]
  rw [hboot]
  exact ⟨hact, by rw [hassign]; exact hhalted, by rw [hassign]; exact halert⟩

/-! ### The resets -/

/-- A command that boots the module, with what it leaves. -/
theorem boots {i : Instr} {s : State} {d : Dev} (f : Perm → Dev → Perm × Dev) (hexec : exec i s = liftAll f s)
    (hf : f s.perm s.dev = boot s.perm d) {P : Dev → Prop} (hP : ∀ e : Dev, e.grounds = d.grounds → P e) :
    ∃ q e, exec i s = .next { s with perm := q, dev := e } ∧ q.fuses = s.perm.fuses ∧ e.power = .on ∧ P e ∧
      (s.perm.flash.slots = [[], [], [], []] → s.perm.fuses.lifecycle ≠ 4 → e.active = none ∧ e.halted = true ∧
        e.alertN = false) := by
  obtain ⟨hfuses, hgrounds, hpower⟩ := boot_leaves s.perm d
  exact ⟨_, _, hexec.trans (liftAll_eq f s hf), hfuses, hpower, hP _ hgrounds, boot_kitless d⟩

theorem Dev.grounds_spec {d e : Dev} (h : e.grounds = d.grounds) :
    e.mem = d.mem ∧ e.rstN = d.rstN ∧ e.pwrGood = d.pwrGood ∧ e.resp = d.resp := by
  simpa only [Dev.grounds, Prod.mk.injEq] using h

theorem Dev.look_warmCleared (d : Dev) (a : Nat) : look byte0 d.warmCleared.mem a =
    if regionOf a = .hbm ∨ regionOf a = .lpddr then look byte0 d.mem a else 0 := by
  refine (look_filter byte0 (fun a => regionOf a == .hbm || regionOf a == .lpddr) d.mem a).trans ?_
  simp only [Bool.or_eq_true, beq_iff_eq]
  rfl

theorem Dev.standing_compassTotals (d : Dev) : d.compassTotals.standing = d.standing := by
  refine Dev.standing_foldl (fun d x => ?_) _ d
  obtain ⟨a, t, o, v⟩ := x
  exact Dev.standing_setReg d (d.totalAddr t o)
    (d.reg (d.totalAddr t o) + (v - look (fun _ => 0) d.compassRead a).toNat)

section
variable {s : State} {w u : Writer} (hw : s.acting w = some u)
include hw

theorem exec_lanResetWarm : exec (.lanResetWarm w) s =
    liftAll (fun p d => if !u.secure then (p, d.lanRefused 0x100) else warmReset p d.compassTotals) s :=
  asWriter_next w u _ s hw

theorem yields_lanResetWarm_refused (hopen : u.secure = false) :
    Yields (.lanResetWarm w) s (s.dev.lanRefused 0x100) :=
  (exec_lanResetWarm hw).trans (liftAll_eq _ s (if_pos (by rw [hopen]; rfl)))

end

/-- A WARM reset of a module with power and RST_N high is a boot of what the reset leaves. -/
theorem warmReset_boots (p : Perm) {d : Dev} (hdark : d.dark = false) (hrst : d.rstN = true) :
    warmReset p d = boot p d.warmCleared :=
  (if_neg (by rw [hdark]; decide)).trans (if_pos hrst)

theorem Dev.dark_of_standing {d e : Dev} (h : e.standing = d.standing) : e.dark = d.dark := by
  obtain ⟨-, hpower, -, -, hgood, -⟩ := Dev.standing_spec h
  rw [Dev.dark, Dev.dark, hpower, hgood]

/-- Settles O54: each reset by what it clears; a boot keeps memory and pins, and without a kit it halts. -/
theorem resetsOfTheModule : Obligations.ResetsOfTheModule := by
  unfold Obligations.ResetsOfTheModule
  intro s d tiers booted
  let cold (p : Perm) (d : Dev) : Perm × Dev :=
    if d.pwrGood then (p, d)
    else
      let d1 := { d.coldCleared with pwrGood := true }
      if d.rstN then boot p d1 else (p, { d1 with power := .held })
  let release (p : Perm) (d : Dev) : Perm × Dev :=
    let d1 := { d with rstN := true }
    if d.power = .held then boot p d1 else (p, d1)
  have hcold : exec .coldReset s = liftAll cold s := rfl
  have hassert : exec .rstNAssert s = execRstNAssert s := rfl
  have hrelease : exec .rstNRelease s = liftAll release s := rfl
  have hlow {b : Bool} (h : b = false) : ¬ b = true := by rw [h]; decide
  refine ⟨fun hgood => hcold.trans (liftAll_eq cold s (if_pos hgood)), fun hgood hrst => ?_, fun hgood hrst => ?_,
    fun hdark => ?_, fun hdark => yields_lift _ hassert (if_pos hdark), fun hheld => ?_,
    fun hheld => hrelease.trans (liftAll_eq release s (if_neg hheld)), fun w u => yields_lanResetWarm_refused,
    fun w u hw hsecure hdark hrst => ?_, ?_, ?_, fun part => ?_⟩
  · refine boots cold hcold ((if_neg (hlow hgood)).trans (if_pos hrst)) fun e he => ?_
    obtain ⟨hmem, -, hgood', -⟩ := Dev.grounds_spec he
    exact ⟨hmem, hgood'⟩
  · exact ⟨_, hcold.trans (liftAll_eq cold s ((if_neg (hlow hgood)).trans (if_neg (hlow hrst)))), rfl, rfl, rfl, rfl⟩
  · exact ⟨_, yields_lift _ hassert (if_neg (hlow hdark)), rfl, rfl, rfl,
      fun a => ({ d with rstN := false } : Dev).look_warmCleared a⟩
  · refine boots release hrelease (if_pos hheld) fun e he => ?_
    obtain ⟨hmem, hrst, -⟩ := Dev.grounds_spec he
    exact ⟨hmem, hrst⟩
  · have hstand := d.standing_compassTotals
    have hwarm := warmReset_boots s.perm ((Dev.dark_of_standing hstand).trans hdark)
      ((Dev.standing_spec hstand).2.2.2.1.trans hrst)
    refine boots _ (exec_lanResetWarm hw) ((if_neg (by rw [hsecure]; decide)).trans hwarm) fun e he a => ?_
    obtain ⟨hmem, -⟩ := Dev.grounds_spec he
    rw [hmem, Dev.look_warmCleared, (Dev.standing_spec hstand).1]
  · exact ⟨_, yields_lift (·.powerOff) rfl rfl, rfl, rfl, rfl, rfl⟩
  · exact ⟨_, yields_lift (·.powerOff) rfl rfl, rfl, rfl, rfl, rfl⟩
  · have hexec : exec (.shutdownTemperature part) s = execShutdownTemperature part s := rfl
    exact ⟨_, yields_lift _ hexec rfl, rfl, rfl, rfl⟩

end Sys2Proof.Machine

/-! What SOFT, TENT and PORT resets clear (R6, R176, R424, R428), for O55. -/

namespace Sys2Proof.Machine

/-! ### What stays below the dies' registers -/

/-- Memory, tents and the registers below those of the dies stay. -/
def Dev.belowDies (d e : Dev) : Prop :=
  e.mem = d.mem ∧ e.tents = d.tents ∧ ∀ a < dieBase, e.reg a = d.reg a

theorem Dev.belowDies_refl (d : Dev) : d.belowDies d := ⟨rfl, rfl, fun _ _ => rfl⟩

theorem Dev.belowDies.trans {d e f : Dev} (h : d.belowDies e) (h' : e.belowDies f) : d.belowDies f :=
  ⟨h'.1.trans h.1, h'.2.1.trans h.2.1, fun a ha => (h'.2.2 a ha).trans (h.2.2 a ha)⟩

theorem dieBase_le_dieReg (die o : Nat) : dieBase ≤ dieReg die o := by
  unfold dieReg
  omega

/-- Only memory, tents and registers tell. -/
theorem Dev.belowDies.congr {d e f : Dev} (h : d.belowDies e) (hmem : f.mem = e.mem) (htents : f.tents = e.tents)
    (hregs : f.regs = e.regs) : d.belowDies f :=
  h.trans ⟨hmem, htents, fun a _ => congrArg (fun m => (look regReset m a).toNat) hregs⟩

theorem Dev.belowDies_setReg (d : Dev) {a : Nat} (h : dieBase ≤ a) (v : Nat) : d.belowDies (d.setReg a v) :=
  ⟨rfl, rfl, fun _ hb => d.reg_setReg_ne v (Nat.ne_of_lt (Nat.lt_of_lt_of_le hb h))⟩

theorem Dev.belowDies_setRegF (d : Dev) {a : Nat} (h : dieBase ≤ a) (l w v : Nat) : d.belowDies (d.setRegF a l w v) :=
  d.belowDies_setReg h _

theorem Dev.belowDies_wipeRegs (d : Dev) {a : Nat} (h : dieBase ≤ a) (hi : Nat) : d.belowDies (d.wipeRegs a hi) :=
  ⟨rfl, rfl, fun b hb => by
    unfold Dev.reg Dev.wipeRegs
    rw [look_wipe, if_neg fun hab => absurd (Nat.le_trans h hab.1) (Nat.not_le.mpr hb)]⟩

theorem Dev.belowDies_foldl {α : Type} {f : Dev → α → Dev} (h : ∀ (d : Dev) x, d.belowDies (f d x)) (xs : List α)
    (d : Dev) : d.belowDies (xs.foldl f d) :=
  foldl_related Dev.belowDies_refl Dev.belowDies.trans h xs d

theorem Dev.belowDies_wipeDies (d : Dev) (dies : List Nat) (lo hi : Nat) : d.belowDies (d.wipeDies dies lo hi) :=
  Dev.belowDies_foldl (fun d x => d.belowDies_wipeRegs (dieBase_le_dieReg x lo) _) dies d

theorem Dev.belowDies_lanErr (d : Dev) (cls cause : Nat) (i : ErrInfo) : d.belowDies (d.lanErr cls cause i) := by
  obtain ⟨hmem, htents, -⟩ := d.dieErr_frame (lanDie (d.active == some true)) 0 0x13 cls cause i
  exact ⟨hmem, htents, fun a ha => d.reg_dieErr_ne _ _ _ _ _ i fun die =>
    Nat.ne_of_lt (Nat.lt_of_lt_of_le ha (dieBase_le_dieReg die _))⟩

theorem Dev.belowDies_wipeRings (d : Dev) : d.belowDies d.wipeRings := by
  unfold Dev.wipeRings
  extract_lets d1
  have h1 : d.belowDies d1 := (d.belowDies_wipeDies _ _ _).trans (Dev.belowDies_wipeDies _ _ _ _)
  exact h1.congr rfl rfl rfl

theorem Dev.belowDies_wipeSync (d : Dev) : d.belowDies (d.wipeSync true) := by
  unfold Dev.wipeSync
  extract_lets d1 d2
  have h1 : d.belowDies d1 := (d.belowDies_wipeDies _ _ _).trans (Dev.belowDies_wipeDies _ _ _ _)
  have h2 : d1.belowDies d2 := d1.belowDies_wipeDies _ _ _
  exact (h1.trans h2).congr rfl rfl rfl

theorem dieBase_le_ctxReg (c o : Nat) : dieBase ≤ ctxReg c o := dieBase_le_dieReg _ _

theorem Dev.belowDies_wipeCtxs (d : Dev) (which : Nat → Bool) : d.belowDies (d.wipeCtxs which) := by
  unfold Dev.wipeCtxs
  extract_lets cs d1
  have h1 : d.belowDies d1 := Dev.belowDies_foldl (fun d c => d.belowDies_wipeRegs (dieBase_le_ctxReg c 0) _) cs d
  exact h1.congr rfl rfl rfl

theorem dieBase_le_totalAddr (d : Dev) (t o : Nat) : dieBase ≤ d.totalAddr t o := by
  have hbase := dieBase_le_dieReg 6 (0x1810_0000 + 32 * d.physical t)
  unfold Dev.totalAddr
  dsimp only
  split
  · exact hbase
  · split
    · exact Nat.le_add_right_of_le hbase
    · split
      · exact Nat.le_add_right_of_le hbase
      · exact dieBase_le_dieReg _ _

/-- The Compass's copy of a counter once it has read it. -/
def Dev.withRead (d : Dev) (m : List (Nat × Word)) : Dev := { d with compassRead := m }

theorem Dev.belowDies_withRead {d e : Dev} (h : d.belowDies e) (m : List (Nat × Word)) : d.belowDies (e.withRead m) := h

theorem Dev.belowDies_compassTotals (d : Dev) : d.belowDies d.compassTotals := by
  refine Dev.belowDies_foldl (fun d x => ?_) _ d
  obtain ⟨a, t, o, v⟩ := x
  exact Dev.belowDies_withRead (d.belowDies_setReg (dieBase_le_totalAddr d t o)
    (d.reg (d.totalAddr t o) + (v - look (fun _ => 0) d.compassRead a).toNat)) _

/-! ### What a clear of tents leaves -/

theorem lt_dieBase_of_tentOff {a t o : Nat} (h : tentOffOf a = some (t, o)) : a < dieBase := by
  unfold tentOffOf at h
  split at h
  · next hrange =>
    have : spareRegBase + 0x1_0000_0000 ≤ dieBase := by decide
    omega
  · cases h

theorem Dev.reg_wipeTents {d : Dev} {which : Nat → Bool} {why : TentClear} {a t o : Nat}
    (h : tentOffOf a = some (t, o)) : (d.wipeTents which why).reg a =
      if which t && !keptTentReg why o then (regReset a).toNat else d.reg a := by
  have hlook := look_filter regReset (fun a => !(match tentOffOf a with
    | some (t, o) => which t && !keptTentReg why o
    | none => false)) d.regs a
  simp only [h] at hlook
  refine (congrArg BitVec.toNat hlook).trans ?_
  cases which t && !keptTentReg why o <;> rfl

theorem Dev.look_wipeTents (d : Dev) (which : Nat → Bool) (why : TentClear) (a : Nat) :
    look byte0 (d.wipeTents which why).mem a =
      if (match regionOf a with
        | .scratch t _ => which t
        | .vreg t _ => which t
        | .istore t _ _ => which t
        | _ => false) then 0 else look byte0 d.mem a := by
  refine (look_filter byte0 (fun a => !(match regionOf a with
    | .scratch t _ => which t
    | .vreg t _ => which t
    | .istore t _ _ => which t
    | _ => false)) d.mem a).trans ?_
  cases (match regionOf a with
    | .scratch t _ => which t
    | .vreg t _ => which t
    | .istore t _ _ => which t
    | _ => false) <;> rfl

/-- Tents changed one by one, those left as new dropped from the list. -/
theorem look_filterMap_tents {f : Nat → Tent → Tent} (hf : ∀ t, f t {} = {}) (m : List (Nat × Tent))
    (hnodup : (m.map Prod.fst).Nodup) (t : Nat) :
    look (fun _ => ({} : Tent)) (m.filterMap fun p => if f p.1 p.2 = {} then none else some (p.1, f p.1 p.2)) t =
      f t (look (fun _ => {}) m t) := by
  induction m with
  | nil => exact (hf t).symm
  | cons p m ih =>
    obtain ⟨i, v⟩ := p
    obtain ⟨hnew, hnodup⟩ := List.nodup_cons.mp hnodup
    specialize ih hnodup
    by_cases hit : i = t
    · subst hit
      rw [look_of_not_mem _ m hnew, hf] at ih
      by_cases hv : f i v = {} <;> simp [hv, look, ih]
    · by_cases hv : f i v = {} <;> simp [hv, look, hit, ih]

theorem Dev.tent_wipeTents {d : Dev} (which : Nat → Bool) (why : TentClear) (h : (d.tents.map Prod.fst).Nodup) (t : Nat) :
    (d.wipeTents which why).tent t = if which t then (d.tent t).cleared why else d.tent t := by
  have hnew (t : Nat) : (if which t then ({} : Tent).cleared why else {}) = {} := by
    split
    · cases why <;> rfl
    · rfl
  exact look_filterMap_tents (f := fun t x => if which t then x.cleared why else x) hnew d.tents h t

/-! ### The resets -/

section
variable (d : Dev)

/-- A SOFT reset is a clear of all tents, then of registers of dies. -/
theorem Dev.belowDies_softReset : (d.compassTotals.wipeTents (fun _ => true) .soft).belowDies d.softReset := by
  unfold Dev.softReset
  generalize d.compassTotals.wipeTents (fun _ => true) .soft = e
  extract_lets d1 d2
  have h1 : e.belowDies d1 :=
    (((Dev.belowDies_wipeRings _).trans (Dev.belowDies_wipeDies _ _ _ _)).trans (Dev.belowDies_wipeSync _)).trans
      (Dev.belowDies_wipeCtxs _ _)
  have h2 : d1.belowDies d2 := (d1.belowDies_wipeDies [6, 7] 0xE00_0010 0xE00_0020).trans
    (Dev.belowDies_wipeDies _ [6, 7] 0xE00_0100 0xE00_0140)
  clear_value d2
  exact (h1.trans h2).congr rfl rfl rfl

theorem Dev.belowDies_softResetLogged :
    (d.compassTotals.wipeTents (fun _ => true) .soft).belowDies d.softResetLogged := by
  unfold Dev.softResetLogged
  dsimp only
  split
  · exact d.belowDies_softReset.trans (Dev.belowDies_lanErr _ _ _ _)
  · exact d.belowDies_softReset

theorem Dev.softResetLogged_clears : (∀ a, look byte0 d.softResetLogged.mem a =
      match regionOf a with
      | .scratch _ _ => 0
      | .vreg _ _ => 0
      | .istore _ _ _ => 0
      | _ => look byte0 d.mem a) ∧
    ∀ a t o, tentOffOf a = some (t, o) → keptTentReg .soft o = false →
      d.softResetLogged.reg a = (regReset a).toNat := by
  obtain ⟨hmem, -, hregs⟩ := d.belowDies_softResetLogged
  refine ⟨fun a => ?_, fun a t o ha hkept => ?_⟩
  · rw [hmem, Dev.look_wipeTents, (d.belowDies_compassTotals).1]
    cases regionOf a <;> rfl
  · rw [hregs a (lt_dieBase_of_tentOff ha), Dev.reg_wipeTents ha, hkept]
    rfl

/-- The device as a TENT reset finds it: RESET written, the Compass's totals read. -/
theorem Dev.belowDies_tentFound (a l w v : Nat) (h : dieBase ≤ a) :
    d.belowDies (d.setRegF a l w v).compassTotals :=
  (d.belowDies_setRegF h l w v).trans (Dev.belowDies_compassTotals _)

theorem Dev.tentReset_clears {e : Dev} (h : d.belowDies e.compassTotals) (n : Nat) :
    (∀ a, look byte0 (e.tentReset n).mem a =
      match regionOf a with
      | .scratch t _ => if t == n then 0 else look byte0 d.mem a
      | .vreg t _ => if t == n then 0 else look byte0 d.mem a
      | .istore t _ _ => if t == n then 0 else look byte0 d.mem a
      | _ => look byte0 d.mem a) ∧
    (∀ a o, tentOffOf a = some (n, o) → keptTentReg .tent o = false → (e.tentReset n).reg a = (regReset a).toNat) ∧
    (∀ a u o, tentOffOf a = some (u, o) → u ≠ n → (e.tentReset n).reg a = d.reg a) ∧
    ((d.tents.map Prod.fst).Nodup → ((e.tentReset n).tent n).stack = (d.tent n).stack) := by
  obtain ⟨hmem, htents, hregs⟩ := h
  unfold Dev.tentReset
  refine ⟨fun a => ?_, fun a o ha hkept => ?_, fun a u o ha hne => ?_, fun hnodup => ?_⟩
  · rw [Dev.look_wipeTents, hmem]
    cases regionOf a <;> rfl
  · rw [Dev.reg_wipeTents ha, hkept, beq_self_eq_true]
    rfl
  · rw [Dev.reg_wipeTents ha, beq_eq_false_iff_ne.mpr hne]
    exact hregs a (lt_dieBase_of_tentOff ha)
  · rw [Dev.tent_wipeTents _ _ (by rwa [htents]), beq_self_eq_true]
    exact congrArg (fun m => (look (fun _ => ({} : Tent)) m n).stack) htents

end

/-- Settles O55: a SOFT or TENT reset is a clear of tents, and what follows it lies at the registers of dies. -/
theorem resetsOfBlocks : Obligations.ResetsOfBlocks := by
  unfold Obligations.ResetsOfBlocks
  intro s w v hw d cleared
  have hsoft : exec (.softReset w) s = lift (fun d => if !v.secure then d.lanRefused 0x100 else d.softResetLogged) s :=
    asWriter_next w v _ s hw
  have htent (t : TentId) : exec (.tentReset w t) s = lift (fun d => if !v.secure then d.lanRefused 0x100
      else (d.setRegF (dieReg 6 0x1600_0100) 5 14 t.toNat).tentReset t.toNat) s := asWriter_next w v _ s hw
  have hport (p : BitVec 5) : exec (.portReset p w) s = lift (fun d => if !v.secure then d.lanRefused 0x100
      else
        let d1 := d.setRegF (dieReg 6 0x1600_0100) 19 5 p.toNat
        if 24 ≤ p.toNat then d1 else d1.portReset p.toNat) s := asWriter_next w v _ s hw
  refine ⟨fun hopen => ?_, fun hsecure => ?_⟩
  · have hrefused : (!v.secure) = true := by rw [hopen]; rfl
    exact ⟨yields_lift _ hsoft (if_pos hrefused), fun t => yields_lift _ (htent t) (if_pos hrefused),
      fun p => yields_lift _ (hport p) (if_pos hrefused)⟩
  · have htaken : ¬ (!v.secure) = true := by rw [hsecure]; decide
    refine ⟨⟨_, yields_lift _ hsoft (if_neg htaken), d.softResetLogged_clears⟩,
      fun t => ⟨_, yields_lift _ (htent t) (if_neg htaken), ?_⟩,
      fun p hp => yields_lift _ (hport p) ((if_neg htaken).trans (if_neg (Nat.not_le.mpr hp)))⟩
    exact d.tentReset_clears (d.belowDies_tentFound _ 5 14 t.toNat (dieBase_le_dieReg 6 0x1600_0100)) t.toNat

end Sys2Proof.Machine

/-! The bivouac, evacuation and recalibration (R31, R47, R429 to R431, R434, R435), for O56. -/

namespace Sys2Proof.Machine

/-! ### Links that stop -/

theorem Dev.onlySends_foldl {α : Type} {f : Dev → α → Dev} (h : ∀ (d : Dev) x, d.onlySends (f d x)) (xs : List α)
    (d : Dev) : d.onlySends (xs.foldl f d) :=
  foldl_related Dev.onlySends_refl Dev.onlySends.trans h xs d

theorem Dev.onlySends_moveQueue (d : Dev) (l : Nat) (ps : List (Nat × List Byte)) : d.onlySends (d.moveQueue l ps) := by
  induction ps with
  | nil => rfl
  | cons p ps ih =>
    rw [Dev.moveQueue]
    split
    · exact ih.trans (Dev.onlySends_modLink _ _ _)
    · exact ih.trans (Dev.onlySends_sendNak _ _ _ _)

theorem Dev.onlySends_stopLink (d : Dev) (l s : Nat) : d.onlySends (d.stopLink l s) := by
  unfold Dev.stopLink
  extract_lets x cut d1
  have h1 : d.onlySends d1 := (d.onlySends_setReg _ _).trans (Dev.onlySends_modLink _ l fun _ => _)
  exact (h1.trans (Dev.onlySends_moveQueue _ _ _)).trans (Dev.onlySends_foldl (fun d _ => d.onlySends_sendNak _ _ _) _ _)

theorem Dev.onlySends_linksDown (d : Dev) : d.onlySends d.linksDown := by
  refine Dev.onlySends_foldl (fun d l => ?_) _ d
  split
  · rfl
  · exact d.onlySends_stopLink _ _

/-! ### Entry to the bivouac -/

/-- A SOFT reset without its record. -/
theorem Dev.softReset_look (d : Dev) {a : Nat} (ha : regionOf a = .hbm ∨ regionOf a = .lpddr) :
    look byte0 d.softReset.mem a = look byte0 d.mem a := by
  rw [(d.belowDies_softReset).1, Dev.look_wipeTents, (d.belowDies_compassTotals).1]
  rcases ha with ha | ha <;> rw [ha] <;> rfl

theorem Dev.bivEnter_refused {d : Dev} (hon : d.power = .on)
    (hbusy : d.jobPlaced = true ∨ d.role = 1 ∨ d.role = 2 ∨ Config.soleRoute d.fresh = true) :
    d.bivEnter.regF svcAddr 3 1 = 1 ∧ d.bivEnter.power = .on ∧ d.bivEnter.mem = d.mem := by
  have heq : d.bivEnter = ({ d with fresh := d.fresh + 1 } : Dev).setRegF svcAddr 3 1 1 := by
    unfold Dev.bivEnter
    exact (if_neg (not_not.mpr hon)).trans (if_pos (by simpa [or_assoc] using hbusy))
  rw [heq]
  exact ⟨Dev.regF_setRegF_self _ _ _ (by decide), hon, rfl⟩

/-- Every port sends a frame that may depend on the device. -/
def Dev.announced (d : Dev) (g : Dev → Nat → List Byte) (ps : List Nat) : Dev :=
  ps.foldl (fun (d : Dev) p => d.sendSb p 0x01 (g d p)) d

theorem Dev.announced_leaves (d : Dev) (g : Dev → Nat → List Byte) (ps : List Nat) : (d.announced g ps).mem = d.mem ∧
    (d.announced g ps).power = d.power ∧ (d.announced g ps).selfRefresh = d.selfRefresh := by
  induction ps generalizing d with
  | nil => exact ⟨rfl, rfl, rfl⟩
  | cons p ps ih => exact ih (d.sendSb p 0x01 (g d p))

/-- The device in the bivouac before it tells its neighbours. -/
def Dev.camped (d : Dev) : Dev :=
  { d with regs := d.regs.filter fun x => bivKept x.1, power := .bivouac, selfRefresh := true }

theorem Dev.camped_leaves (d : Dev) : d.camped.mem = d.mem ∧ d.camped.power = .bivouac ∧ d.camped.selfRefresh = true :=
  ⟨rfl, rfl, rfl⟩

/-- What each neighbour is told of a device that sleeps. -/
def Dev.sleepNotice (d : Dev) (p : Nat) : List Byte :=
  leBytes 2 d.devId ++ [BitVec.ofNat 8 p, 0, BitVec.ofNat 8 d.role, BitVec.ofNat 8 (lanCode d.lanA + 4 * lanCode d.lanB)]

theorem Dev.bivEnter_taken {d : Dev} (hon : d.power = .on)
    (hfree : ¬ (d.jobPlaced = true ∨ d.role = 1 ∨ d.role = 2 ∨ Config.soleRoute d.fresh = true)) :
    d.bivEnter.power = .bivouac ∧ d.bivEnter.selfRefresh = true ∧
      ∀ a, regionOf a = .hbm ∨ regionOf a = .lpddr → look byte0 d.bivEnter.mem a = look byte0 d.mem a := by
  let d0 : Dev := { d with fresh := d.fresh + 1 }
  let d1 := d0.softReset.linksDown
  have heq : d.bivEnter = d1.camped.announced Dev.sleepNotice (List.range 24) := by
    unfold Dev.bivEnter
    exact (if_neg (not_not.mpr hon)).trans (if_neg (by simpa [or_assoc] using hfree))
  obtain ⟨hmem, hpower, hself⟩ := d1.camped.announced_leaves Dev.sleepNotice (List.range 24)
  have h1 : d0.softReset.onlySends d1 := d0.softReset.onlySends_linksDown
  have hmem1 : d1.mem = d0.softReset.mem := by rw [h1]
  rw [heq]
  refine ⟨hpower, hself, fun a ha => ?_⟩
  rw [hmem, d1.camped_leaves.1, hmem1, d0.softReset_look ha]

/-! ### Wakes -/

section
variable (s : State)

theorem exec_bivEnter {w u : Writer} (hw : s.acting w = some u) : exec (.bivEnter w) s =
    lift (fun d => if !u.secure then d.lanRefused 0x104 else d.bivEnter) s := asWriter_next w u _ s hw

theorem exec_bivWake {w u : Writer} (hw : s.acting w = some u) : exec (.bivWake w) s =
    lift (fun d => if !u.secure then d.lanRefused 0x104 else d.wakeEvent) s := asWriter_next w u _ s hw

theorem Dev.wakeEvent_leaves (d : Dev) : d.wakeEvent.mem = d.mem ∧ d.wakeEvent.regs = d.regs ∧
    d.wakeEvent.power = if d.power = .bivouac then .waking else d.power := by
  unfold Dev.wakeEvent
  split
  · exact ⟨rfl, rfl, rfl⟩
  · exact ⟨rfl, rfl, rfl⟩

theorem does_wake (p : BitVec 5) (f : SbFrame) (hp : p.toNat < 24) (hgood : sbBad f = false) (htyp : f.typ = 0x02) :
    Does (.wake p f) s fun e => e.power = s.dev.wakeEvent.power ∧ e.mem = s.dev.mem ∧ e.regs = s.dev.regs := by
  have hexec : exec (.wake p f) s = execWake p f s := rfl
  obtain ⟨hmem, hregs, hpower⟩ := (s.dev.passFrame p.toNat f).wakeEvent_leaves
  refine ⟨_, yields_lift _ hexec (Dev.sbTake_good _ _ hp hgood (by rw [htyp]; rfl)), ?_, hmem, hregs⟩
  exact hpower.trans (s.dev.wakeEvent_leaves).2.2.symm

/-- The device as the power comes back, before its kit is applied again. -/
def Dev.repowered (d : Dev) : Dev := { d with power := .on, selfRefresh := false }.trainModules

theorem does_bivouacWakeDone (h : s.dev.power = .waking) : Does .bivouacWakeDone s fun e =>
    e.power = .on ∧ e.selfRefresh = false ∧ e.mem = s.dev.mem := by
  obtain ⟨hmem, hpower, hself, -⟩ := Dev.standing_spec (s.dev.repowered.standing_kitted s.perm.flash)
  have hexec : exec .bivouacWakeDone s = execBivouacWakeDone s := rfl
  exact ⟨s.dev.repowered.kitted s.perm.flash, yields_liftP _ hexec (if_neg (not_not.mpr h)), hpower, hself, hmem⟩

theorem yields_bivouacWakeDone (h : s.dev.power ≠ .waking) : Yields .bivouacWakeDone s s.dev := by
  have hexec : exec .bivouacWakeDone s = execBivouacWakeDone s := rfl
  exact yields_liftP _ hexec (if_pos h)

end

/-! ### Evacuation -/

/-- A DEVICE error abandons every evacuation. -/
theorem Dev.tentErr_device (d : Dev) (t blk cause : Nat) (i : ErrInfo) :
    (d.tentErr t blk clsDevice cause i).evacWait = [] ∧ (d.tentErr t blk clsDevice cause i).halted = true := by
  constructor <;> simp [Dev.tentErr, Dev.logErr, Dev.raise]

theorem Dev.rowMapped_tentErr (d : Dev) (t blk cls cause : Nat) (i : ErrInfo) (u : Nat) :
    (d.tentErr t blk cls cause i).rowMapped u = d.rowMapped u := by
  have hne : ∀ die, rowMapAddr u ≠ dieReg die 0x1500_0008 := fun die => by
    unfold rowMapAddr dieReg
    omega
  unfold Dev.rowMapped Dev.regF
  rw [show (d.tentErr t blk cls cause i).reg (rowMapAddr u) = d.reg (rowMapAddr u) from
    Dev.reg_raise_ne { d with errCounts := _ } _ _ _ _ _ hne]

theorem Dev.bad_compassTotals (d : Dev) : d.compassTotals.bad = d.bad := by
  refine foldl_related (R := fun d e : Dev => e.bad = d.bad) (fun _ => rfl) (fun h h' => h'.trans h) (fun d x => ?_) _ d
  rfl

/-- The device once a tent's row map names its spare, whose own rows and counters start afresh. -/
def Dev.rowSet (d : Dev) (a v t : Nat) : Dev :=
  ((d.setReg a v).wipeRegs (tentReg t 0x100) (tentReg t 0x110)).wipeRegs (tentReg t 0x80_0000) (tentReg t 0x80_0020)

theorem Dev.reg_rowSet (d : Dev) {a : Nat} (v : Nat) {t : Nat} (ht : t < 16384) (ha : dieBase ≤ a) :
    (d.rowSet a v t).reg a = v % 2 ^ 64 := by
  have h1 := tentReg_lt_dieBase ht (o := 0x110) (by decide)
  have h2 := tentReg_lt_dieBase ht (o := 0x80_0020) (by decide)
  refine Eq.trans ?_ (d.reg_setReg_self a v)
  unfold Dev.rowSet Dev.reg Dev.wipeRegs
  dsimp only
  rw [look_wipe, if_neg (by omega), look_wipe, if_neg (by omega)]

theorem Dev.mem_rowSet (d : Dev) (a v t : Nat) : (d.rowSet a v t).mem = d.mem := rfl

/-- The tent on its spare: with rows of its own, no counter read, and the evacuations that still wait. -/
def Dev.spared (d : Dev) (t : Nat) (wait : List Nat) : Dev :=
  let gone : Nat → Bool := fun a => compassOffsets.any fun o => a == tentReg t o
  { d.modTent t fun x => { x with remaps := [], shadowRow := none, stretch := 0 } with
    evacWait := wait
    compassRead := d.compassRead.filter fun x => !gone x.1 }

theorem Dev.spared_leaves (d : Dev) (t : Nat) (wait : List Nat) : (d.spared t wait).regs = d.regs ∧
    (d.spared t wait).mem = d.mem ∧ (d.spared t wait).evacWait = wait := ⟨rfl, rfl, rfl⟩

section
variable {s : State} {t : TentId}

theorem does_tentEvacuation_second (hwait : t.toNat ∈ s.dev.evacWait) (hmapped : s.dev.rowMapped t.toNat = true) :
    Does (.tentEvacuation t) s fun e => t.toNat ∉ e.evacWait ∧ e.halted = true ∧ e.mem = s.dev.mem ∧
      ∀ u, e.rowMapped u = s.dev.rowMapped u := by
  have hexec : exec (.tentEvacuation t) s = execTentEvacuation t s := rfl
  let d1 : Dev := { s.dev with evacWait := s.dev.evacWait.filter (· != t.toNat) }
  obtain ⟨hnone, hhalted⟩ := d1.tentErr_device t.toNat 1 0x19 {}
  refine ⟨d1.tentErr t.toNat 1 clsDevice 0x19 {}, hexec.trans (liftAll_eq _ s ?_), by simp [hnone], hhalted,
    (d1.tentErr_frame _ _ _ _ _).2, fun u => d1.rowMapped_tentErr _ _ _ _ _ u⟩
  exact (if_neg (by simp [hwait])).trans (if_pos hmapped)

theorem tentEvacuation_first (hwait : t.toNat ∈ s.dev.evacWait) (hmapped : s.dev.rowMapped t.toNat = false)
    (hclean : s.dev.badOf t.toNat = []) : ∃ e : Dev, exec (.tentEvacuation t) s =
        .next { s with
          perm := { s.perm with flash :=
            { s.perm.flash with repairs := s.perm.flash.repairs ++ [.tent (t.toNat / 64) (t.toNat % 64)] } }, dev := e } ∧
      e.rowMapped t.toNat = true ∧ e.regF (rowMapAddr t.toNat) 0 6 = t.toNat % 64 ∧ t.toNat ∉ e.evacWait ∧
      e.mem = s.dev.mem := by
  have hexec : exec (.tentEvacuation t) s = execTentEvacuation t s := rfl
  let n := t.toNat
  let d2 := s.dev.compassTotals.rowSet (rowMapAddr n) (n % 64 + 2 ^ 6) n
  let e := d2.spared n (s.dev.evacWait.filter (· != n))
  obtain ⟨hregs, hmem, hwaits⟩ := d2.spared_leaves n (s.dev.evacWait.filter (· != n))
  have hreg : d2.reg (rowMapAddr n) = (n % 64 + 2 ^ 6) % 2 ^ 64 :=
    s.dev.compassTotals.reg_rowSet _ t.isLt (dieBase_le_dieReg _ _)
  have hclean' : s.dev.compassTotals.badOf n = [] := by
    rw [← hclean, Dev.badOf, Dev.badOf, Dev.bad_compassTotals]
  refine ⟨e, hexec.trans (liftAll_eq _ s ?_), ?_, ?_, ?_, ?_⟩
  · refine (if_neg (by simp [hwait])).trans ((if_neg (by rw [hmapped]; decide)).trans ?_)
    extract_lets d0 lost d1 d2' gone _ d3 d4
    have hlost : lost = [] := hclean'
    have hd1 : d1 = d0 := by
      unfold d1
      rw [hlost]
      rfl
    have hd4 : d4 = d3 := if_pos (by rw [hlost]; rfl)
    rw [hd4]
    clear_value d4 d1
    subst hd1
    rfl
  · rw [Dev.rowMapped, Dev.regF_of_regs hregs, Dev.regF, hreg, field]
    simp only [beq_iff_eq]
    omega
  · rw [Dev.regF_of_regs hregs, Dev.regF, hreg, field]
    omega
  · rw [hwaits]
    exact fun h => by simp [n] at h
  · exact hmem.trans ((Dev.mem_rowSet _ _ _ _).trans (s.dev.belowDies_compassTotals).1)

theorem does_evacQuiesceTimeout {n : Nat} {rest : List Nat} (h : s.dev.evacWait = n :: rest) :
    Does .evacQuiesceTimeout s fun e => e.evacWait = rest ∧ e.evacLater = s.dev.evacLater ++ [n] ∧
      e.mem = s.dev.mem ∧ ∃ y : Event, e.events = s.dev.events ++ [y] ∧ y.cls = 2 := by
  have hexec : exec .evacQuiesceTimeout s = execEvacQuiesceTimeout s := rfl
  let d1 : Dev := { s.dev with evacWait := rest, evacLater := s.dev.evacLater ++ [n] }
  obtain ⟨y, hev, hcls, -⟩ := d1.tentErr_events n 1 clsContained 0x18 {} (by decide)
  refine ⟨d1.tentErr n 1 clsContained 0x18 {}, yields_lift _ hexec (by simp only [h]; rfl), ?_, ?_,
    (d1.tentErr_frame _ _ _ _ _).2, y, hev, hcls⟩
  · simp [Dev.tentErr, Dev.logErr, Dev.raise, d1, clsContained, clsDevice]
  · simp [Dev.tentErr, Dev.logErr, d1]

end

/-- Settles O56: the entry to the bivouac by its refusals, a wake by the power it finds, an evacuation by the row map. -/
theorem liveService : Obligations.LiveService := by
  unfold Obligations.LiveService
  refine ⟨fun s => ?_, fun s t => ?_, fun s t rest => does_evacQuiesceTimeout, fun s part => ?_⟩
  · intro d woken
    refine ⟨fun w u hw => ⟨fun hopen => ?_, fun hsecure => ⟨?_, fun hoff => ?_⟩, fun hsecure hon => ?_⟩,
      yields_lift (·.wakeEvent) rfl rfl, fun p f => does_wake s p f, does_bivouacWakeDone s, yields_bivouacWakeDone s⟩
    · have hrefused : (!u.secure) = true := by rw [hopen]; rfl
      exact ⟨yields_lift _ (exec_bivEnter s hw) (if_pos hrefused), yields_lift _ (exec_bivWake s hw) (if_pos hrefused)⟩
    · exact yields_lift _ (exec_bivWake s hw) (if_neg (by rw [hsecure]; decide))
    · exact yields_lift _ (exec_bivEnter s hw) ((if_neg (by rw [hsecure]; decide)).trans (if_pos hoff))
    · refine ⟨d.bivEnter, yields_lift _ (exec_bivEnter s hw) (if_neg (by rw [hsecure]; decide)), ?_⟩
      split
      · next hbusy => exact Dev.bivEnter_refused hon hbusy
      · next hfree => exact Dev.bivEnter_taken hon hfree
  · intro d n
    refine ⟨fun hnew => ?_, does_tentEvacuation_second, tentEvacuation_first⟩
    have hexec : exec (.tentEvacuation t) s = execTentEvacuation t s := rfl
    exact hexec.trans (liftAll_eq _ s (if_pos (by simpa using hnew)))
  · have hexec : exec (.recalibration part) s = execRecalibration part s := rfl
    exact yields_lift _ hexec rfl

end Sys2Proof.Machine

/-! The recovery responder's commands (R438, R439), for O57. -/

namespace Sys2Proof.Machine

/-! ### A Lantern that restarts -/

theorem Dev.loseLantern_leaves (d : Dev) (b : Bool) :
    (d.loseLantern b).mem = d.mem ∧ (d.loseLantern b).resp = d.resp := by
  have hlost (x : Lantern) (i : ErrInfo) : ((d.setLan b x).lanErr clsCorrected 0x03 i).mem = d.mem ∧
      ((d.setLan b x).lanErr clsCorrected 0x03 i).resp = d.resp := by
    obtain ⟨hmem, -, -, -, -, hresp⟩ := (d.setLan b x).lanErr_frame clsCorrected 0x03 i
    obtain ⟨hmem', -, -, -, -, hresp'⟩ := d.setLan_frame b x
    exact ⟨hmem.trans hmem', hresp.trans hresp'⟩
  unfold Dev.loseLantern
  extract_lets x y
  split
  · exact ⟨rfl, rfl⟩
  · split
    · split
      · obtain ⟨hmem, -, -, -, -, hresp⟩ := (d.passedOn b).lanErr_frame clsCorrected 0x03 { tag := b2n b }
        have hpassed : (d.passedOn b).mem = d.mem ∧ (d.passedOn b).resp = d.resp := by cases b <;> exact ⟨rfl, rfl⟩
        exact ⟨hmem.trans hpassed.1, hresp.trans hpassed.2⟩
      · exact hlost _ _
    · exact hlost _ _

/-- A Lantern that restarts is not lost, whatever role it takes. -/
theorem lanternReturn_leaves (p : Perm) (d : Dev) (b : Bool) : ∃ e, lanternReturn p d b = (p, e) ∧
    e.mem = d.mem ∧ e.resp = d.resp ∧ (e.lan b).lost = false := by
  unfold lanternReturn
  extract_lets x n _ y z d1 o d2
  have hy : y.lost = false := lanBoot_lost p b (d.lan b)
  have hset (w : Lantern) (hw : w.lost = false) : (n.2.setLan b w).mem = d.mem ∧ (n.2.setLan b w).resp = d.resp ∧
      ((n.2.setLan b w).lan b).lost = false := by
    obtain ⟨hmem, -, -, -, -, hresp⟩ := n.2.setLan_frame b w
    exact ⟨hmem, hresp, (congrArg Lantern.lost (Dev.lan_setLan_self _ _ _)).trans hw⟩
  split
  · have h1 := hset z ((secondRole_leaves _ _).2.trans hy)
    refine ⟨_, rfl, ?_⟩
    split
    · exact h1
    · obtain ⟨hmem, hlan, -, -, -, hresp⟩ := d1.lanErr_frame clsCorrected 0x01 {}
      exact ⟨hmem.trans h1.1, hresp.trans h1.2.1, (congrArg Lantern.lost (hlan b)).trans h1.2.2⟩
  · split
    · exact ⟨_, rfl, hset y hy⟩
    · have h2 : d2.mem = d.mem ∧ d2.resp = d.resp ∧ (d2.lan b).lost = false := by
        obtain ⟨hmem, hresp, hlan⟩ := hset { y with role := .active } hy
        obtain ⟨hmem', -, -, -, -, hresp'⟩ := (n.2.setLan b { y with role := .active }).setLan_frame (!b)
          { o with role := if o.lost then .booting else o.role }
        exact ⟨hmem'.trans hmem, hresp'.trans hresp, (congrArg Lantern.lost (Dev.lan_setLan_not _ _ _)).trans hlan⟩
      split
      · exact ⟨_, rfl, h2⟩
      · obtain ⟨hmem, -, -, -, -, hresp, hlan⟩ := Dev.standing_spec (d2.standing_kitted p.flash)
        exact ⟨d2.kitted p.flash, rfl, hmem.trans h2.1, hresp.trans h2.2.1,
          (congrArg Lantern.lost (hlan b)).trans h2.2.2⟩

/-! ### Fragments -/

section
variable {s : State} {port : BitVec 5} {f : SbFrame} (hp : port.toNat < 24) (hoff : s.dev.power ≠ .off)
  (hlogic : s.dev.power ≠ .logicOff) (hload : s.dev.resp.load.map (·.port) ≠ some port.toNat) (hgood : sbBad f = false)
  (htyp : f.typ = 0x10)
include hp hoff hlogic hload hgood htyp

/-- The responder takes a good fragment of a port that loads no kit. -/
theorem recover_eq : recover s.perm s.dev port.toNat f =
    let bs := look (fun _ => []) s.dev.resp.frags port.toNat ++ f.payload
    if bs.length < recoverLen bs then
      { s.dev with resp := { s.dev.resp with frags := put (fun _ => []) s.dev.resp.frags port.toNat bs } }
    else
      let c := bs.take (recoverLen bs)
      ({ s.dev with resp := { s.dev.resp with
        frags := put (fun _ => []) s.dev.resp.frags port.toNat []
        ready := if s.dev.recoverOk s.perm c then some (port.toNat, c) else none } }).respNonce :=
  (if_neg (by simp [hoff, hlogic, hload])).trans (Dev.sbTake_good s.dev _ hp hgood (by rw [htyp]; rfl))

theorem does_recover_part (hshort : (look (fun _ => []) s.dev.resp.frags port.toNat ++ f.payload).length <
      recoverLen (look (fun _ => []) s.dev.resp.frags port.toNat ++ f.payload)) :
    Does (.recover port f) s fun e =>
      look (fun _ => []) e.resp.frags port.toNat = look (fun _ => []) s.dev.resp.frags port.toNat ++ f.payload ∧
        e.resp.ready = s.dev.resp.ready ∧ e.mem = s.dev.mem := by
  have hexec : exec (.recover port f) s = execRecover port f s := rfl
  refine ⟨_, yields_liftP _ hexec ((recover_eq hp hoff hlogic hload hgood htyp).trans (if_pos hshort)), ?_, rfl, rfl⟩
  exact look_put_self (α := List Byte) (fun _ => []) _ _ _

theorem does_recover_whole (hlong : recoverLen (look (fun _ => []) s.dev.resp.frags port.toNat ++ f.payload) ≤
      (look (fun _ => []) s.dev.resp.frags port.toNat ++ f.payload).length) :
    Does (.recover port f) s fun e =>
      let bs := look (fun _ => []) s.dev.resp.frags port.toNat ++ f.payload
      look (fun _ => []) e.resp.frags port.toNat = [] ∧ e.mem = s.dev.mem ∧
        e.resp.ready = if s.dev.recoverOk s.perm (bs.take (recoverLen bs)) then
          some (port.toNat, bs.take (recoverLen bs)) else none := by
  have hexec : exec (.recover port f) s = execRecover port f s := rfl
  refine ⟨_, yields_liftP _ hexec
    ((recover_eq hp hoff hlogic hload hgood htyp).trans (if_neg (Nat.not_lt.mpr hlong))), ?_, rfl, rfl⟩
  exact look_put_self (α := List Byte) (fun _ => []) s.dev.resp.frags port.toNat []

end

/-! ### Ready commands -/

section
variable {s : State} {port : BitVec 5} {action : Nat} {act : Perm → Dev → List Byte → Perm × Dev} {i : Instr}

/-- A row of the responder without a command ready for it. -/
theorem yields_recoverAct_idle (hexec : exec i s = liftAll (recoverAct action port.toNat act) s) :
    (s.dev.resp.ready = none → Yields i s s.dev) ∧
      ∀ q c, s.dev.resp.ready = some (q, c) → q ≠ port.toNat ∨ leAt c 0 1 ≠ action → Yields i s s.dev := by
  refine ⟨fun hnone => hexec.trans (liftAll_eq _ s ?_), fun q c hready hno => hexec.trans (liftAll_eq _ s ?_)⟩
  · unfold recoverAct
    simp only [hnone]
  · unfold recoverAct
    simp only [hready]
    exact if_pos hno

/-- The device of a ready command, which it takes. -/
def Dev.readyTaken (d : Dev) : Dev := { d with resp := { d.resp with ready := none } }

theorem exec_recoverAct (hexec : exec i s = liftAll (recoverAct action port.toNat act) s) {c : List Byte}
    (hready : s.dev.resp.ready = some (port.toNat, c)) (haction : leAt c 0 1 = action) {p : Perm} {e : Dev}
    (hact : act s.perm s.dev.readyTaken c = (p, e)) : exec i s = .next { s with perm := p, dev := e } := by
  refine hexec.trans (liftAll_eq _ s ?_)
  unfold recoverAct
  simp only [hready]
  exact (if_neg (by simp [haction])).trans hact

end

/-- Frames sent change neither memory nor the responder. -/
theorem Dev.sendFragments_leaves (d : Dev) (port typ : Nat) (bs : List Byte) :
    (d.sendFragments port typ bs).mem = d.mem ∧ (d.sendFragments port typ bs).resp = d.resp := by
  refine foldl_related (R := fun d e : Dev => e.mem = d.mem ∧ e.resp = d.resp) (fun _ => ⟨rfl, rfl⟩)
    (fun h h' => ⟨h'.1.trans h.1, h'.2.trans h.2⟩) (fun d i => ?_) _ d
  exact ⟨rfl, rfl⟩

/-- Reset by name, a Lantern comes back. -/
theorem resetLantern_leaves (b : Bool) (p : Perm) (d : Dev) (c : List Byte) : ∃ e, resetLantern b p d c = (p, e) ∧
    e.mem = d.mem ∧ e.resp = d.resp ∧ (e.lan b).lost = false := by
  obtain ⟨e, heq, hmem, hresp, hlost⟩ := lanternReturn_leaves p (d.loseLantern b) b
  exact ⟨e, heq, hmem.trans (d.loseLantern_leaves b).1, hresp.trans (d.loseLantern_leaves b).2, hlost⟩

/-- Settles O57: a fragment by whether its command is whole, a ready command by its action. -/
theorem recoveryCommands : Obligations.RecoveryCommands := by
  unfold Obligations.RecoveryCommands
  refine ⟨fun s port f => ?_, ?_, fun s port c hready => ?_⟩
  · intro d p bs hp hoff hlogic hload hgood htyp
    exact ⟨does_recover_part hp hoff hlogic hload hgood htyp, does_recover_whole hp hoff hlogic hload hgood htyp⟩
  · intro rows r hr s port
    simp only [rows, List.mem_cons, List.not_mem_nil, or_false] at hr
    rcases hr with rfl | rfl | rfl | rfl | rfl | rfl | rfl <;> exact yields_recoverAct_idle (port := port) rfl
  · intro d once
    have hstatus : exec (.recoverStatus port) s = execRecoverStatus port s := rfl
    have hkit : exec (.recoverKit port) s = execRecoverKit port s := rfl
    have hlost : exec (.recoverLost port) s = execRecoverLost port s := rfl
    have hwake : exec (.recoverWake port) s = execRecoverWake port s := rfl
    have hwarm : exec (.recoverWarm port) s = execRecoverWarm port s := rfl
    have hresetA : exec (.resetLanternA port) s = execResetLanternA port s := rfl
    have hresetB : exec (.resetLanternB port) s = execResetLanternB port s := rfl
    refine ⟨fun h => ?_, fun h => ?_, fun h => ?_, fun h hdark hrst => ?_, fun h => exec_recoverAct hwake hready h rfl,
      fun h => ?_, fun h => ?_⟩
    · obtain ⟨hmem, hresp⟩ := s.dev.readyTaken.sendFragments_leaves port.toNat 0x11 _
      exact ⟨_, exec_recoverAct hstatus hready h rfl, by rw [hresp]; rfl, hmem⟩
    · obtain ⟨e, heq, hmem, hresp, hlan⟩ := resetLantern_leaves false s.perm s.dev.readyTaken c
      exact ⟨e, exec_recoverAct hresetA hready h heq, ⟨by rw [hresp]; rfl, hmem⟩, hlan⟩
    · obtain ⟨e, heq, hmem, hresp, hlan⟩ := resetLantern_leaves true s.perm s.dev.readyTaken c
      exact ⟨e, exec_recoverAct hresetB hready h heq, ⟨by rw [hresp]; rfl, hmem⟩, hlan⟩
    · obtain ⟨hfuses, hgrounds, hpower⟩ := boot_leaves s.perm d.warmCleared
      have hboot : warmReset s.perm s.dev.readyTaken = ((boot s.perm d.warmCleared).1, (boot s.perm d.warmCleared).2) :=
        warmReset_boots s.perm hdark hrst
      refine ⟨_, _, exec_recoverAct hwarm hready h hboot, hfuses, hpower, fun a ha => ?_⟩
      rw [(Dev.grounds_spec hgrounds).1, Dev.look_warmCleared, if_pos ha]
    · obtain ⟨hmem, -, -, -, -, hresp⟩ := d.lanErr_frame clsDevice 0x07 {}
      obtain ⟨hhalted, halert⟩ := d.lanErr_device 0x07 {}
      exact ⟨_, exec_recoverAct hlost hready h rfl, ⟨congrArg Responder.ready hresp, hmem⟩, hhalted, halert⟩
    · exact ⟨_, exec_recoverAct hkit hready h rfl, ⟨rfl, rfl⟩, _, rfl, rfl, rfl, rfl⟩

end Sys2Proof.Machine

/-! Kit loads through the responder, and the takeover of the basecamp's standby (R439, R440), for O58. -/

namespace Sys2Proof.Machine

/-! ### Kit loads -/

/-- The device whose kit load has ended, the slot judged. -/
def Dev.loadEnded (d : Dev) (k : KitLoad) (bad : Bool) : Dev :=
  let d1 := { d with resp := { d.resp with load := none } }
  d1.setLan k.lanB ((d1.lan k.lanB).mark k.slotB bad)

theorem Dev.loadEnded_leaves (d : Dev) (k : KitLoad) (bad : Bool) : (d.loadEnded k bad).resp.load = none ∧
    (d.loadEnded k bad).mem = d.mem ∧
    (if k.slotB then ((d.loadEnded k bad).lan k.lanB).badB else ((d.loadEnded k bad).lan k.lanB).badA) = bad := by
  unfold Dev.loadEnded
  extract_lets _ d1
  obtain ⟨hmem, -, -, -, -, hresp⟩ := d1.setLan_frame k.lanB ((d1.lan k.lanB).mark k.slotB bad)
  refine ⟨by rw [hresp], hmem, ?_⟩
  rw [Dev.lan_setLan_self]
  unfold Lantern.mark
  cases k.slotB <;> rfl

theorem kitLoadEnd_leaves (p : Perm) (d : Dev) (k : KitLoad) : ∃ e, kitLoadEnd p d k =
    ({ p with flash := p.flash.setSlot k.lanB k.slotB k.got }, e) ∧ e.resp.load = none ∧ e.mem = d.mem := by
  unfold kitLoadEnd
  extract_lets p1 ok _ d1 d2
  obtain ⟨hload, hmem, -⟩ : d2.resp.load = none ∧ d2.mem = d.mem ∧ _ := d.loadEnded_leaves k (!ok)
  split
  · obtain ⟨e, heq, hmem', hresp, -⟩ := lanternReturn_leaves p1 d2 k.lanB
    exact ⟨e, heq, by rw [hresp]; exact hload, hmem'.trans hmem⟩
  · exact ⟨_, rfl, hload, hmem⟩

section
variable {s : State} {k : KitLoad} (h : s.dev.resp.load = some k) (port : BitVec 5) (f : SbFrame)
include h

theorem yields_kitLoadFrame_other (hport : port.toNat ≠ k.port) : Yields (.kitLoadFrame port f) s s.dev := by
  have hexec : exec (.kitLoadFrame port f) s = execKitLoadFrame port f s := rfl
  refine hexec.trans (liftAll_eq _ s ?_)
  unfold kitLoadFrame
  simp only [h]
  exact if_pos (Ne.symm hport)

/-- A good frame of the load's port. -/
theorem kitLoadFrame_eq (hport : port.toNat = k.port) (hgood : sbBad f = false) (htyp : f.typ = 0x10) :
    kitLoadFrame s.perm s.dev port.toNat f =
      if ((k.got ++ f.payload).take k.length).length < k.length then
        (s.perm, { s.dev with resp :=
          { s.dev.resp with load := some { k with got := (k.got ++ f.payload).take k.length } } })
      else kitLoadEnd s.perm s.dev { k with got := (k.got ++ f.payload).take k.length } := by
  unfold kitLoadFrame
  simp only [h]
  exact (if_neg (not_not.mpr hport.symm)).trans ((if_neg (by rw [hgood]; decide)).trans
    (if_neg (by rw [htyp]; decide)))

theorem yields_kitLoadFrame_more (hport : port.toNat = k.port) (hgood : sbBad f = false) (htyp : f.typ = 0x10)
    (hmore : ((k.got ++ f.payload).take k.length).length < k.length) : Yields (.kitLoadFrame port f) s
      { s.dev with resp := { s.dev.resp with load := some { k with got := (k.got ++ f.payload).take k.length } } } := by
  have hexec : exec (.kitLoadFrame port f) s = execKitLoadFrame port f s := rfl
  exact hexec.trans (liftAll_eq _ s ((kitLoadFrame_eq h port f hport hgood htyp).trans (if_pos hmore)))

theorem kitLoadFrame_last (hport : port.toNat = k.port) (hgood : sbBad f = false) (htyp : f.typ = 0x10)
    (hlast : k.length ≤ ((k.got ++ f.payload).take k.length).length) :
    ∃ e : Dev, exec (.kitLoadFrame port f) s = .next { s with
      perm := { s.perm with flash := s.perm.flash.setSlot k.lanB k.slotB ((k.got ++ f.payload).take k.length) },
      dev := e } ∧ e.resp.load = none ∧ e.mem = s.dev.mem := by
  have hexec : exec (.kitLoadFrame port f) s = execKitLoadFrame port f s := rfl
  obtain ⟨e, heq, hleaves⟩ := kitLoadEnd_leaves s.perm s.dev { k with got := (k.got ++ f.payload).take k.length }
  exact ⟨e, hexec.trans (liftAll_eq _ s
    ((kitLoadFrame_eq h port f hport hgood htyp).trans ((if_neg (Nat.not_lt.mpr hlast)).trans heq))), hleaves⟩

theorem kitLoadTimeout_leaves : ∃ e : Dev, exec .kitLoadTimeout s = .next { s with
      perm := { s.perm with flash := s.perm.flash.setSlot k.lanB k.slotB k.got }, dev := e } ∧ e.resp.load = none ∧
      e.mem = s.dev.mem ∧ (if k.slotB then (e.lan k.lanB).badB else (e.lan k.lanB).badA) = true := by
  have hexec : exec .kitLoadTimeout s = execKitLoadTimeout s := rfl
  refine ⟨s.dev.loadEnded k true, hexec.trans (liftAll_eq _ s ?_), s.dev.loadEnded_leaves k true⟩
  simp only [h]
  rfl

end

/-! ### The takeover of the basecamp's standby -/

/-- The device's place in the camp. -/
def Dev.rank (d : Dev) : Nat × Nat × Nat := (d.role, d.baseId, d.standbyId)

theorem Dev.onlySends.rank {d e : Dev} (h : d.onlySends e) : e.rank = d.rank := by
  rw [h]
  rfl

/-- The acts of a job leave the device's place in the camp. -/
theorem jobKept_rank : JobKept fun d e => e.rank = d.rank where
  refl _ := rfl
  trans h h' := h'.trans h
  onlySends h := h.rank
  wrB _ _ _ := rfl
  pull _ _ := rfl
  owedRestore _ _ := rfl
  jobHere _ _ := rfl

theorem Dev.rank_cancel (d : Dev) : d.cancel.rank = d.rank :=
  (show d.cancel.rank = (d.setRegF identAddr 16 8 (d.gen + 1)).rank from rfl).trans (jobKept_rank.setReg d _ _)

theorem Dev.rank_cancelJob (d : Dev) (j : Job) : (d.cancelJob j).rank = d.rank :=
  jobKept_rank.foldl (fun d x => jobKept_rank.actOn d x .cancel Dev.rank_cancel) j.devices d

theorem Dev.rank_sendVector (d : Dev) (v : Nat) : (d.sendVector v).rank = d.rank := by
  unfold Dev.sendVector
  split
  · rfl
  · rfl

theorem Dev.rank_mailSend (d : Dev) (m : Nat) (msg : List Byte) : (d.mailSend m msg).rank = d.rank :=
  Dev.rank_sendVector _ _

theorem Dev.rank_modQm (d : Dev) (f : Quarter → Quarter) : (d.modQm f).rank = d.rank := rfl

theorem Dev.rank_post (d : Dev) (m : Nat) (msg : List Byte) : (d.post m msg).rank = d.rank := by
  unfold Dev.post
  split
  · exact d.rank_mailSend m msg
  · exact d.rank_modQm _

theorem rank_writeReports (p : Perm) (d : Dev) (j : Job) : (writeReports p d j).1.rank = d.rank := by
  unfold writeReports
  extract_lets reps bytes e a
  exact jobKept_rank.foldl (f := fun (d : Dev) x => d.sendCmd x (.report j))
    (fun d x => (d.onlySends_sendCmd x (.report j)).rank) (j.devices.filter (· != d.devId)) d

theorem rank_jobDone (p : Perm) (d : Dev) (j : Job) (status : Nat) : (jobDone p d j status).rank = d.rank := by
  unfold jobDone
  extract_lets r d1 att
  have hr : r.1.rank = d.rank := by
    unfold r
    split
    · rfl
    · exact rank_writeReports p d j
  exact (Dev.rank_modQm _ _).trans ((Dev.rank_post _ _ _).trans hr)

theorem rank_containedReplay (p : Perm) (d : Dev) (job : Nat) : (containedReplay p d job).rank = d.rank := by
  unfold containedReplay
  split
  · rfl
  · next j _ =>
    extract_lets d1 swept d2 step j1 _ d3
    have h1 : d1.rank = d.rank := d.rank_cancelJob j
    have h3 : d3.rank = d.rank := h1
    split
    · exact (rank_jobDone p d1 j 3).trans h1
    · split
      · exact (jobKept_rank.foldl (fun d x => jobKept_rank.actOn d x _ fun d => jobKept_rank.restoreHere d j1 none)
          j.devices d3).trans h3
      · exact (jobKept_rank.foldl (fun d x => jobKept_rank.actOn d x _ fun d => jobKept_rank.raiseMarked d j1)
          j.devices d3).trans h3

theorem Dev.rank_sendStatus (d : Dev) (m seq : Nat) (j : Job) (state pos : Nat) :
    (d.sendStatus m seq j state pos).rank = d.rank := (Dev.rank_post _ _ _).trans (d.rank_modQm _)

theorem Dev.rank_lanErr (d : Dev) (cls cause : Nat) (i : ErrInfo) : (d.lanErr cls cause i).rank = d.rank := by
  simp [Dev.lanErr, Dev.dieErr, Dev.logErr, Dev.rank]

/-- The standby takes the role with its own ID, and the basecamp becomes its standby. -/
theorem standbyTakeover_taken (p : Perm) {d : Dev} (hrole : d.role = 2) {b : Bool} (hact : d.active = some b) :
    ∃ e, standbyTakeover p d = ({ p with flash := { p.flash with roleChanged := true } }, e) ∧ e.role = 1 ∧
      e.baseId = d.devId ∧ e.standbyId = d.baseId := by
  unfold standbyTakeover
  rw [if_neg (by simp [hrole, hact])]
  extract_lets d1 d2 d3 d4
  have h2 : d2.rank = d1.rank := jobKept_rank.foldl (fun d (j : Job) => rank_containedReplay p d j.num) _ d1
  have h3 : d3.rank = d2.rank := jobKept_rank.foldl (fun d j => d.rank_sendStatus _ _ _ _ _) _ d2
  have h4 : d4.rank = d3.rank := jobKept_rank.foldl (fun d x => d.rank_sendStatus _ _ _ _ _) _ d3
  have h : (d4.lanErr clsCorrected 0x08 {}).rank = (1, d.devId, d.baseId) :=
    (d4.rank_lanErr _ _ _).trans (h4.trans (h3.trans h2))
  simp only [Dev.rank, Prod.mk.injEq] at h
  exact ⟨_, rfl, h⟩

/-- Settles O58: a frame by whether it fills the slot; the takeover by what replays and messages leave of the rank. -/
theorem kitLoadsAndTakeover : Obligations.KitLoadsAndTakeover := by
  unfold Obligations.KitLoadsAndTakeover
  have htakeover (s : State) : exec .standbyBasecampTakeover s = execStandbyBasecampTakeover s := rfl
  refine ⟨fun s k hload => ?_, fun s => ⟨fun hrole => ?_, fun hrole b hact => ?_⟩⟩
  · intro p
    refine ⟨fun port f => ?_, kitLoadTimeout_leaves hload⟩
    intro got
    exact ⟨yields_kitLoadFrame_other hload port f, fun hport hgood htyp =>
      ⟨yields_kitLoadFrame_more hload port f hport hgood htyp, kitLoadFrame_last hload port f hport hgood htyp⟩⟩
  · exact (htakeover s).trans (liftAll_eq _ s (if_pos (.inl hrole)))
  · obtain ⟨e, heq, hranks⟩ := standbyTakeover_taken s.perm hrole hact
    exact ⟨e, (htakeover s).trans (liftAll_eq _ s heq), hranks⟩

end Sys2Proof.Machine

/-! The Compass's reports, warnings, power gating and SMBus reads (R433, R443, R445, R456, R457), for O59. -/

namespace Sys2Proof.Machine

/-! ### What the totals leave of time and job -/

theorem dieReg_le_totalAddr (d : Dev) (t o : Nat) : dieReg 6 0x1800_0000 ≤ d.totalAddr t o := by
  unfold Dev.totalAddr dieReg
  dsimp only
  split
  · omega
  · split
    · omega
    · split
      · omega
      · omega

theorem identAddr_ne_totalAddr (d : Dev) (t o : Nat) : identAddr ≠ d.totalAddr t o := by
  have htotal := dieReg_le_totalAddr d t o
  have hident : identAddr < dieReg 6 0x1800_0000 := by
    unfold identAddr dieReg
    omega
  exact Nat.ne_of_lt (Nat.lt_of_lt_of_le hident htotal)

theorem Dev.job_setReg (d : Dev) {a : Nat} (v : Nat) (h : identAddr ≠ a) : (d.setReg a v).job = d.job :=
  congrArg (fun n => field n 0 12) (d.reg_setReg_ne v h)

theorem Dev.job_withRead (d : Dev) (m : List (Nat × Word)) : (d.withRead m).job = d.job := rfl

/-- The Compass's totals change neither time nor job. -/
theorem Dev.compassTotals_leaves (d : Dev) : d.compassTotals.time = d.time ∧ d.compassTotals.job = d.job := by
  refine foldl_related (R := fun d e : Dev => e.time = d.time ∧ e.job = d.job) (fun _ => ⟨rfl, rfl⟩)
    (fun h h' => ⟨h'.1.trans h.1, h'.2.trans h.2⟩) (fun d x => ?_) _ d
  obtain ⟨a, t, o, v⟩ := x
  exact ⟨rfl, (Dev.job_withRead _ _).trans (Dev.job_setReg d (a := d.totalAddr t o)
    (d.reg (d.totalAddr t o) + (v - look (fun _ => 0) d.compassRead a).toNat) (identAddr_ne_totalAddr d t o))⟩

/-! ### Reports -/

/-- A report with no place to be written is kept and nothing else. -/
theorem Dev.putReport_kept (d : Dev) (rep : List Byte) (h : d.reg (dieReg 6 0x1800_0010) = 0) :
    d.putReport rep = { d with report := rep } := if_pos h

/-- A report is written where memory of this device takes it. -/
theorem Dev.putReport_written (d : Dev) (rep : List Byte) {a : Nat} (h : d.reg (dieReg 6 0x1800_0010) ≠ 0)
    (hhere : d.memHere (d.reg (dieReg 6 0x1800_0010)) rep.length = some a) (hopen : d.memSecure a rep.length = false)
    (hquiet : d.quiet a rep.length = true) (hgood : d.blockedBy a rep.length = []) :
    (d.putReport rep).report = rep ∧ (d.putReport rep).mem = (d.wrB a rep).mem ∧ (d.putReport rep).regs = d.regs := by
  let d2 : Dev := { d with report := rep }
  have hopen' : d2.memSecure a rep.length = false := hopen
  have heq : d.putReport rep = (d2.memWake a rep.length).wrB a rep := by
    unfold Dev.putReport
    refine (if_neg h).trans ?_
    have hhere' : d2.memHere (d2.reg (dieReg 6 0x1800_0010)) rep.length = some a := hhere
    simp only [show ({ d with report := rep } : Dev) = d2 from rfl, hhere']
    have hwrite := Dev.memWrite_good d2 ⟨.io, d2.job, false⟩ a rep (by simpa using hopen') hquiet hgood
    exact congrArg Prod.snd hwrite
  obtain ⟨down, hwake⟩ := d2.memWake_eq a rep.length
  rw [heq, hwake]
  exact ⟨rfl, Dev.mem_wrB_of rfl rfl a rep, rfl⟩

section
variable (s : State) (x : Sensed)

/-- The report: its header, what the sensors give, and the counters with their totals. -/
theorem compassReport_runs : Yields (.compassReport x) s (s.dev.compassTotals.putReport
    (leBytes 4 0x5053_4D43 ++ leBytes 4 0 ++ leBytes 8 s.dev.time.toNat ++ leBytes 4 s.dev.job ++
      leBytes 4 (64 + (s.dev.compassTotals.sections x).length) ++ leBytes 40 0 ++ s.dev.compassTotals.sections x)) := by
  have hexec : exec (.compassReport x) s = execCompassReport x s := rfl
  obtain ⟨htime, hjob⟩ := s.dev.compassTotals_leaves
  refine yields_lift _ hexec ?_
  dsimp only
  rw [Dev.reportHead, htime, hjob]

end

/-! ### Power and SMBus -/

section
variable (s : State)

theorem does_tempWarn (part : BitVec 6) (hnew : part.toNat ∉ s.dev.warm) : Does (.tempWarn part true) s fun e =>
    e.warm = s.dev.warm ++ [part.toNat] ∧ e.alertN = false ∧ e.mem = s.dev.mem ∧
      ∃ y : Event, e.events = s.dev.events ++ [y] ∧ y.cls = 1 := by
  have hexec : exec (.tempWarn part true) s = execTempWarn part true s := rfl
  obtain ⟨y, hev, hcls, -⟩ := s.dev.dieErr_events 6 0 0x14 clsCorrected 0x01 { tag := part.toNat } (by decide)
  obtain ⟨hmem, -⟩ := s.dev.dieErr_frame 6 0 0x14 clsCorrected 0x01 { tag := part.toNat }
  refine ⟨_, yields_lift _ hexec ((if_neg (by decide)).trans (if_neg (by simpa using hnew))), rfl, rfl, hmem, y, hev, hcls⟩

theorem does_clockGate (t : TentId) (blk : BitVec 4) (hblk : blk.toNat < 14)
    (hrun : blk.toNat ∉ (s.dev.tent t.toNat).gated) (hidle : s.dev.blockIdle t.toNat blk.toNat = true)
    (hset : s.dev.regF (dieReg (t.toNat / 8192) 0x1800_0000) 0 8 ≠ 0) : Does (.clockGate t blk) s fun e =>
      (e.tent t.toNat).gated = (s.dev.tent t.toNat).gated ++ [blk.toNat] ∧ e.mem = s.dev.mem ∧ e.regs = s.dev.regs := by
  have hexec : exec (.clockGate t blk) s = execClockGate t blk s := rfl
  have hno : ¬ (14 ≤ blk.toNat ∨ (s.dev.tent t.toNat).gated.contains blk.toNat ∨
      !s.dev.blockIdle t.toNat blk.toNat ∨ s.dev.regF (dieReg (t.toNat / 8192) 0x1800_0000) 0 8 = 0) := by
    simp only [List.contains_iff_mem, hidle]
    simp [hblk, hrun, hset]
  refine ⟨_, yields_lift _ hexec (if_neg hno), ?_, rfl, rfl⟩
  rw [Dev.tent_modTent_self]

theorem yields_clockGate_busy (t : TentId) (blk : BitVec 4) (hbusy : s.dev.blockIdle t.toNat blk.toNat = false) :
    Yields (.clockGate t blk) s s.dev := by
  have hexec : exec (.clockGate t blk) s = execClockGate t blk s := rfl
  exact yields_lift _ hexec (if_pos (.inr (.inr (.inl (by rw [hbusy]; rfl)))))

theorem yields_memoryPowerDown (ch : BitVec 9) :
    let die := if ch.toNat < 384 then 2 + ch.toNat / 96 else 2 + (ch.toNat - 384) / 24
    ch.toNat < 480 → ch.toNat ∉ s.dev.memDown → s.dev.regF (dieReg die 0x1800_0000) 8 10 ≠ 0 →
      Yields (.memoryPowerDown ch) s { s.dev with memDown := s.dev.memDown ++ [ch.toNat] } := by
  intro die hch hup hset
  have hexec : exec (.memoryPowerDown ch) s = execMemoryPowerDown ch s := rfl
  have hno : ¬ (480 ≤ ch.toNat ∨ s.dev.memDown.contains ch.toNat ∨
      s.dev.regF (dieReg die 0x1800_0000) 8 10 = 0) := by
    simp only [List.contains_iff_mem]
    simp [hch, hup, hset]
  exact yields_lift _ hexec (if_neg hno)

end

/-- Settles O59: totals change neither time, job nor memory; the other rows by the branch they take. -/
theorem compassAndPower : Obligations.CompassAndPower := by
  unfold Obligations.CompassAndPower
  refine ⟨fun s x => ?_, fun s part => ?_, fun s t blk => ?_, fun s ch => yields_memoryPowerDown s ch, fun s => ⟨?_, ?_⟩⟩
  · intro d base body report
    have hmem : d.mem = s.dev.mem := (Dev.standing_spec s.dev.standing_compassTotals).1
    refine ⟨fun hbase => ?_, fun a hbase hhere hopen hquiet hgood => ?_⟩
    · have hkept := d.putReport_kept report hbase
      exact ⟨_, compassReport_runs s x, by rw [hkept], by rw [hkept]; exact hmem, by rw [hkept]⟩
    · exact ⟨_, compassReport_runs s x, d.putReport_written report hbase hhere hopen hquiet hgood⟩
  · have hexec (above : Bool) : exec (.tempWarn part above) s = execTempWarn part above s := rfl
    exact ⟨yields_lift _ (hexec false) (if_pos rfl),
      fun hold => yields_lift _ (hexec true) ((if_neg (by decide)).trans (if_pos (by simpa using hold))),
      does_tempWarn s part⟩
  · exact ⟨does_clockGate s t blk, yields_clockGate_busy s t blk⟩
  · intro n hon
    have hexec : exec (.smbusBlockRead n) s = execSmbusBlockRead n s := rfl
    exact yields_lift _ hexec (if_neg hon)
  · exact yields_lift (fun d => { d with alertN := true }) rfl rfl

end Sys2Proof.Machine
